-- ==== Sys2Proof/Word.lean ====
section
/-! DEFINITION. Words, bytes and the sparse table type. No arithmetic of the part stands here: fields, sign
extension and byte order are in Machine/Ops.lean. -/

namespace Sys2Proof

/-- A byte of an SRAM, of a stack or of a cell payload (R126, R157). -/
abbrev Byte := BitVec 8

/-- A register word of the management window (R31), a tile's scalar register (R95) or one FP32 lane (R117). -/
abbrev Word := BitVec 32

/-- A 64-bit register or an FT value held in two words (R37). -/
abbrev DWord := BitVec 64

/-- A sparse table: keys strictly rising, no entry equal to what an unlisted key reads as. -/
structure Tbl (α : Type) where
  cells : List (Nat × α)
deriving DecidableEq, Repr

/-- The table that lists nothing. -/
def Tbl.empty {α : Type} : Tbl α := ⟨[]⟩

end Sys2Proof
end

