-- ==== Sys2Proof/Syntax.lean ====
section
/-! DEFINITION. The commands of the block: one constructor of `Instr` for each row of spec/opcode_table.json, in the
table's order, and the operand types they carry. -/

namespace Sys2Proof

/-- A half of the block, and the management port of that half (R6, R31). -/
inductive Half where
  | a
  | b
deriving DecidableEq, Repr

/-- The identity of a DATA or RESULT cell: what its tag is computed over (R159) and what a credit names (R163). -/
structure CellId where
  sid : Nat
  epoch : Nat
  cidx : Nat
  part : Nat
  seg : Nat
deriving DecidableEq, Repr

/-- A DATA or RESULT cell as a port receives it (R157): the fields of its header, and its payload as it came (`body`). `auth` is the
identity under whose edge key and vector the tag verifies, none for a forged cell, and `payload` what the body opens to (R159). -/
structure CellIn where
  port : Nat
  tag : Nat
  crc : Nat
  format : Nat
  handle : Nat
  stamp : Nat
  body : List Byte
  auth : Option CellId
  payload : List Byte
deriving DecidableEq, Repr

/-- A control message as a port receives it (R157, R160): the fields of its cell and message headers that are not the message's own,
and its body as it came, bytes 32 to 255 of the payload. `authOk` says whether its tag verifies under the edge it names (R159). -/
structure CtrlIn where
  port : Nat
  tag : Nat
  crc : Nat
  authOk : Bool
  stamp : Nat
  sid : Nat
  epoch : Nat
  cidx : Nat
  seq : Nat
  srcSid : Nat
  body : List Byte
deriving DecidableEq, Repr

/-- The far end of an edge of a session at this block: a contributor, the parent or the relay (R151, R156). -/
inductive Edge where
  | contrib (cidx : Nat)
  | parent
  | relay
deriving DecidableEq, Repr

/-- An excluded rank range of a DONE or OUTCOME (R161). -/
structure RankRange where
  first : Nat
  count : Nat
deriving DecidableEq, Repr

/-- One credit entry of a GRANT (R163). -/
structure Credit where
  part : Nat
  seg : Nat
  handle : Nat
deriving DecidableEq, Repr

/-- Where a storage error is found: under a contribution (R186), in a word of a tile's SRAM (R74), in a shadow reducer (R225), in the
frame bank of a trace channel (R436). -/
inductive UePlace where
  | ingress (port : Nat) (kind : Nat) (handle : Nat)
  | slot (lt : Nat) (slot : Nat)
  | accumulators (sid : Nat) (parity : Nat) (part : Nat) (seg : Nat)
  | sram (t : Nat) (addr : Nat) (uncorrectable : Bool)
  | reducer (sr : Nat)
  | frame (ch : Nat)
deriving DecidableEq, Repr

/-- What the check of a line read finds (R287): `corrected` names the symbol of the outer code that was wrong, 0 to 37 (R284). -/
inductive LineFinding where
  | clean
  | corrected (symbol : Nat)
  | uncorrectable
  | macFail
deriving DecidableEq, Repr

/-- A firmware image message (R322): its fields and the results of the checks of R321 step 4 that need a key. -/
structure FwImage where
  magicOk : Bool
  svn : Nat
  keyIndex : Nat
  bytes : Nat
  sigOk : Bool
  digest : Nat
deriving DecidableEq, Repr

/-- A Glove header (R340): its fields and the results of the checks that need a key. -/
structure GloveHdr where
  version : Nat
  gloveId : Nat
  ownerKey : Nat
  spareAdmit : Bool
  quorum : Nat
  requireLock : Bool
  minSvn : Nat
  chunks : Nat
  payloadBytes : Nat
  highRegion : Nat
  digest : Nat
  members : Nat
  isMember : Bool
  sigOk : Bool
  keyCheckOk : Bool
deriving DecidableEq, Repr

/-- A Glove chunk message (R341): its plaintext, and whether its tag verifies under the content key. -/
structure GloveChunk where
  gloveId : Nat
  index : Nat
  dest : Nat
  bytes : List Byte
  tagOk : Bool
deriving DecidableEq, Repr

/-- A member's endorsement in GLOVE_OPEN (R343): its index, whether its signature and its share hold, and whether the spare can vouch for
the member's FT. -/
structure Endorsement where
  index : Nat
  valid : Bool
  ftVouched : Bool
deriving DecidableEq, Repr

/-- A spare's ADMIT_REQ (R343): the fields of its report that a member checks. -/
structure AdmitReq where
  gloveId : Nat
  sigOk : Bool
  reportOk : Bool
  stateNormal : Bool
  prodLock : Bool
  debugRestricted : Bool
  svn : Nat
  reportFt : Nat
  spareIsMember : Bool
  isMember : Bool
deriving DecidableEq, Repr

/-- A step of a key exchange that the host relays (R329). -/
inductive KexStep where
  | init
  | resp
deriving DecidableEq, Repr

/-- The instruments of the IEEE 1687 network (R465). -/
inductive Instrument where
  | boundaryScan
  | bistStatus
  | bistRun
  | scanChains
  | laneLoopback (port : Nat)
  | hbmTest
  | rtpDebug
  | fuseProgram
  | readKeys
deriving DecidableEq, Repr

/-- The rails whose power-good inputs can fall (R360, R453). -/
inductive Rail where
  | aon
  | sram
  | core
  | hbm (stack : Nat)
  | sideband
deriving DecidableEq, Repr

/-- A direction out of a router (R240): to a neighbour, to the port of its edge, to a stack by one of two links (R26), to its tile, over
the bridge. -/
inductive Dir where
  | north
  | south
  | east
  | west
  | attach
  | link0
  | link1
  | tile
  | bridge
deriving DecidableEq, Repr

/-- What a NACK names (R161, R185): the handle, and whether the message came up or down its edge, by the DIR of its cell (R160). -/
structure NackRef where
  fromParent : Bool
  handle : Nat
deriving DecidableEq, Repr

/-- What a line's read reports (R287): the check by the outer code and the MAC, and whether the stack's on-die ECC corrected it. -/
structure LineSeen where
  finding : LineFinding
  inner : Bool
deriving DecidableEq, Repr

/-- A reading of the sensors (R357): the index of the hottest, and the physical tiles that stand above THROTTLE. -/
structure HotSpot where
  sensor : Nat
  tiles : List Nat
deriving DecidableEq, Repr

/-- A cell as it stands on a link (R157): its 128-bit header and its 256 bytes of payload. -/
structure RawCell where
  head : Nat
  body : List Byte
deriving DecidableEq, Repr

/-- The commands. A tile instruction's command names the physical tile that issues it; the instruction's operands are
fields of the 128-bit word that the tile's instruction buffer holds at its program counter (R91, R96). -/
inductive Instr where
  -- management port and register pages
  | registerWrite (port : Half) (addr : Nat) (data : Word)
  | word64LowerRead (port : Half) (addr : Nat)
  | word64UpperRead (port : Half) (addr : Nat)
  | enableSet (port : Half) (page : Nat) (freeze : Bool)
  | enableClear (port : Half) (page : Nat) (freeze : Bool)
  | freezeWrite (port : Half) (page : Nat) (freeze : Bool)
  | startComplete (page : Nat)
  | startFail (page : Nat)
  | stopComplete (page : Nat)
  | pageErrClear (port : Half) (page : Nat) (bits : Word) (hwSet : Word)
  | take (port : Half) (page : Nat) (view : Bool)
  | winOpen (port : Half) (mgmt : Half) (w : Nat) (dir : Bool)
  | winClose (port : Half) (mgmt : Half) (w : Nat) (dir : Bool)
  | abort (port : Half) (mgmt : Half) (w : Nat)
  | winDataWrite (port : Half) (mgmt : Half) (w : Nat) (data : Word)
  | winDataRead (port : Half) (mgmt : Half) (w : Nat)
  | descriptorCommit (mgmt : Half) (w : Nat)
  | contributorTableCommit (mgmt : Half) (w : Nat)
  | slotTableCommit (mgmt : Half) (w : Nat)
  | scheduleCommit (mgmt : Half) (w : Nat)
  | tileSramFillDone (t : Nat)
  -- fabric time and the schedule engine
  | ftBeat (word : Nat) (valid : Bool) (lowNs : Nat)
  | beatStuck
  | acquireGap (h : Half)
  | coasting (h : Half)
  | timeLost (h : Half)
  | calmAction (h : Half) (entry : Nat)
  | snapshotAction (h : Half) (entry : Nat)
  | intervalAction (h : Half) (entry : Nat)
  | slotSwitchAction (h : Half) (entry : Nat)
  | epochStartAction (h : Half) (entry : Nat)
  | pageCtrlAction (h : Half) (entry : Nat)
  | lullGateAction (h : Half) (entry : Nat)
  | bypassAction (h : Half) (entry : Nat)
  | reportWvAction (h : Half) (entry : Nat)
  | reportDrainAction (h : Half) (entry : Nat)
  | gustFire (h : Half) (entry : Nat)
  | scheduleMissed (h : Half) (entry : Nat)
  | trigInEdge (line : Nat)
  | trigStuck (line : Nat)
  | trigStuckClear (line : Nat)
  | bypStatChange (lines : Nat)
  -- the tile
  | rxSlotFill (t : Nat) (slot : Nat)
  | lullDecision (t : Nat)
  | lullEntryDone (t : Nat)
  | lullDeepen (t : Nat)
  | plannedWake (t : Nat)
  | wake (port : Half) (t : Nat)
  | lullWakeDone (t : Nat)
  | programLoad (t : Nat)
  -- tile instructions
  | nop (t : Nat)
  | seti (t : Nat)
  | add (t : Nat)
  | sub (t : Nat)
  | and (t : Nat)
  | or (t : Nat)
  | xor (t : Nat)
  | shl (t : Nat)
  | shr (t : Nat)
  | cmp (t : Nat)
  | jmp (t : Nat)
  | loop (t : Nat)
  | lds (t : Nat)
  | sts (t : Nat)
  | epinfo (t : Nat)
  | rdft (t : Nat)
  | halt (t : Nat)
  | swait (t : Nat)
  | swaitDone (t : Nat)
  | ssig (t : Nat)
  | ssend (t : Nat)
  | ssendDeliver (i : Nat)
  | ftwait (t : Nat)
  | ftwaitRel (t : Nat)
  | ftWaitDone (t : Nat)
  | fence (t : Nat)
  | fenceDone (t : Nat)
  | epdone (t : Nat)
  | epfail (t : Nat)
  | racc (t : Nat)
  | rcopy (t : Nat)
  | rrd (t : Nat)
  | rclr (t : Nat)
  | memrd (t : Nat)
  | memwr (t : Nat)
  | tilecp (t : Nat)
  | send (t : Nat)
  | moveComplete (t : Nat) (m : Nat)
  | vld (t : Nat)
  | vst (t : Nat)
  | vadd (t : Nat)
  | vsub (t : Nat)
  | vmul (t : Nat)
  | vfma (t : Nat)
  | vmax (t : Nat)
  | vmin (t : Nat)
  | vabs (t : Nat)
  | vrsqrt (t : Nat)
  | vrcp (t : Nat)
  | vsqrt (t : Nat)
  | vdiv (t : Nat)
  | vsel (t : Nat)
  | vcmplt (t : Nat)
  | vsplat (t : Nat)
  | vcvt (t : Nat)
  | vsum (t : Nat)
  | vmaxr (t : Nat)
  | tmma (t : Nat)
  | tmmaComplete (t : Nat)
  | tclr (t : Nat)
  | trd (t : Nat)
  | twr (t : Nat)
  -- sessions
  | sesStart (port : Half) (h : Half) (sid : Nat)
  | sesStop (port : Half) (h : Half) (sid : Nat)
  | edgeKeyReport (sid : Nat) (edge : Edge)
  | sesArmGo (port : Half) (h : Half) (sid : Nat)
  | armReq (m : CtrlIn) (ft : Nat)
  | arm (m : CtrlIn) (ft : Nat)
  | armAck (m : CtrlIn) (status : Nat)
  | commit (m : CtrlIn) (ft : Nat) (viaRelay : Bool)
  | disarm (m : CtrlIn) (ft : Nat) (status : Nat) (viaRelay : Bool)
  | grant (m : CtrlIn) (fromParent : Bool) (credits : List Credit)
  | nack (m : CtrlIn) (handle : NackRef) (cause : Nat)
  | done (m : CtrlIn) (ft : Nat) (status : Nat) (reason : Nat) (ranges : List RankRange) (more : Bool)
      (total : Nat) (narrow : Nat) (lag : Nat)
  | outcome (m : CtrlIn) (ft : Nat) (code : Nat) (reason : Nat) (format : Nat) (advice : Nat)
      (ranges : List RankRange) (more : Bool)
  | dataCell (c : CellIn)
  | resultCell (c : CellIn)
  | accClearDone (sid : Nat) (parity : Nat) (part : Nat)
  | grantBatchFlush (sid : Nat) (parity : Nat) (edge : Edge)
  | commitDeadline (sid : Nat) (parity : Nat)
  | guardTime (sid : Nat) (parity : Nat)
  | expectedArrival (sid : Nat) (parity : Nat) (cidx : Nat)
  | deadline (sid : Nat) (parity : Nat) (cidx : Nat)
  | waitExpired (sid : Nat) (parity : Nat) (cidx : Nat)
  | epochRetire (sid : Nat) (parity : Nat)
  | ctrlSecondCopy (i : Nat)
  | doneRepeat (sid : Nat) (parity : Nat)
  | orphanTimeout (sid : Nat) (parity : Nat)
  | sesMark (port : Half) (h : Half) (sid : Nat) (cidx : Nat)
  | contribUe (place : UePlace)
  -- Weathervane
  | shadowCopy (sr : Nat)
  | groupTimeout (sr : Nat) (group : Nat)
  | wvMeasure (sid : Nat) (epoch : Nat)
  | denseAudit (i : Nat)
  -- mesh, arbiters and ports
  | arbGrant (page : Nat) (target : Nat)
  | flitRoute (router : Nat) (out : Dir)
  | starve (page : Nat) (target : Nat)
  | arbFreeze (port : Half) (page : Nat) (bits : Word)
  | xtCred (p : Nat) (classes : Nat)
  | slotTableSwitch (p : Nat)
  | flush (port : Half) (p : Nat)
  | laneError (p : Nat) (lane : Nat) (correctable : Bool)
  -- memory
  | lineRead (prn : Nat) (line : Nat) (src : Nat) (seen : LineSeen)
  | zero (h : Half) (prn : Nat) (newOwner : Bool) (pid : Nat)
  | reepoch (h : Half) (prn : Nat)
  | migrate (h : Half) (src : Nat) (dst : Nat) (carry : Bool)
  | rowRepair (h : Half) (prn : Nat) (span : Nat) (pseudo : Nat)
  | laneErase (h : Half) (prn : Nat) (pin : Nat) (pseudo : Nat)
  | chRetire (h : Half) (prn : Nat)
  | patrol (h : Half) (hours : Nat)
  | patrolLine (h : Half) (line : Nat) (finding : LineFinding) (inner : Bool)
  | feCommandDone (h : Half) (ueLine : Option Nat)
  -- partitions
  | create (port : Half) (pid : Nat)
  | partCreateDone (pid : Nat)
  | grow (port : Half) (pid : Nat)
  | shrink (port : Half) (pid : Nat)
  | assignTiles (port : Half) (pid : Nat)
  | releaseTiles (port : Half) (pid : Nat)
  | teardown (port : Half) (pid : Nat)
  | scrubStepDone (pid : Nat)
  | scrubCertificate (pid : Nat)
  | serviceEvent (pid : Nat)
  -- security
  | rtpBoot (h : Half)
  | firmwareImage (h : Half) (img : FwImage)
  | gloveHeader (h : Half) (g : GloveHdr)
  | gloveChunk (h : Half) (c : GloveChunk)
  | attest (h : Half) (tag : Nat) (scope : Nat) (nonce : Nat) (sigOk : Bool)
  | attestAnswer (i : Nat)
  | attestTimeout (i : Nat)
  | fwActivate (h : Half) (tag : Nat)
  | fwSwitchRestart (h : Half)
  | trialConfirm (h : Half)
  | trialTimeout (h : Half)
  | fwCommit (h : Half) (tag : Nat) (svnBurn : Bool) (sigOk : Bool)
  | fwDiscard (h : Half) (tag : Nat)
  | kex (h : Half) (tag : Nat) (sid : Nat) (edge : Edge) (kstep : KexStep) (sigOk : Bool) (chainOk : Bool)
  | kexTimeout (i : Nat)
  | gloveOpen (h : Half) (tag : Nat) (pid : Nat) (gloveId : Nat) (endorsements : List Endorsement) (digestOk : Bool)
  | admitPrep (h : Half) (tag : Nat) (pid : Nat) (g : GloveHdr)
  | admitReq (h : Half) (tag : Nat) (r : AdmitReq)
  | logRead (h : Half) (tag : Nat) (log : Half) (first : Nat)
  | secDebugLock (port : Half) (data : Word)
  | testAccess (i : Instrument)
  -- power
  | alwStb (code : Nat) (lowNs : Nat) (highNs : Nat)
  | alwAck
  | alwLost
  | budgetRecompute
  | thermalReading (hottest : Nat) (spot : HotSpot)
  | powerReading (tenthWatts : Nat)
  | railFall (rail : Rail) (h : Half)
  | pgSbRise (trigHigh : Nat)
  | rstBlkN
  | rstHalfN (h : Half)
  | ready (h : Half)
  -- trace
  | traceDrainRequest (stream : Nat)
  | drainFlit (stream : Nat)
  | frameSeal (ch : Nat)
  | frameRingWrite (ch : Nat)
  | frameCollectorSend (ch : Nat)
  | traceKeyReport (ch : Nat)
  | discard (port : Half) (ch : Nat)
  | gustFreeze (ch : Nat)
  | gustDrainEnd (stream : Nat)
  -- profiling
  | counterDrainDone (bank : Nat)
  | pcSample (h : Half)
  | mittenCopy (h : Half)
  -- Calm and hang analysis
  | captureEnd (h : Half)
  | memQuiet (h : Half)
  | dumpSeal (h : Half)
  | calmResumeCmd (port : Half) (h : Half)
  | calmAbandonCmd (port : Half) (h : Half)
  | calmResume (h : Half)
  | calmAbandon (h : Half)
  | wfTake (port : Half) (h : Half)
  | wfAssemble (port : Half) (h : Half)
  | hangReport (h : Half)
  -- spares, wear and charge
  | wearDayReset (h : Half)
  | sramRowRepair (t : Nat) (bank : Nat) (row : Nat)
  | tileSwap (port : Half) (h : Half) (discardOld : Bool)
  | srSwap (port : Half) (h : Half)
  | frameSwap (port : Half) (h : Half)
  | swapWindow (h : Half)
  | noWindow (h : Half)
  | swapCommit (h : Half)
  | srSwapCommit (sr : Nat)
  | frameBankSwap (ch : Nat)
  | repairFuseWrite (h : Half)
  | heartbeatSend (h : Half)
  | heartbeatReceive (h : Half) (primary : Bool) (split : Bool) (rxOk : Bool)
  | heartbeatLost (h : Half)
  | mgmtCharge (port : Half) (h : Half) (data : Word)
  | chargeDecision (h : Half) (sigOk : Bool)
  | chargeDecisionReceive (h : Half)
  | joinTimeout (h : Half)
  | joiningDone (h : Half)
  | chargeStatusRead (port : Half) (h : Half)
  | rtpLoad (h : Half) (load : Nat)
  | clkFail (ppm : Nat)
  | blkPfa (port : Half) (data : Word)
  | malformedCell (p : Nat) (cell : RawCell)
  | alwStbHeld
  | entropyFail
deriving DecidableEq, Repr

end Sys2Proof
end

