-- ==== Sys2Proof/Config.lean ====
section
/-! DEFINITION. What the spec leaves open, as constants without a body: nothing in Lean can evaluate one. Each is
applied to the model's counter of free values, or to the operands it depends on. -/

namespace Sys2Proof.Config

/-- VERSION of PAGE_ID (chapter 2), by TYPE. -/
opaque layoutVersion : Nat → Nat

/-- Bits 28 to 16 of PAGE_CAP of a session engine (chapter 7): the spec gives them as 8,192, which 13 bits do not hold. -/
opaque sesContributors : Nat

/-- The rate value of an FTU after a good beat, in 1/2304 ns a cycle (before R52). -/
opaque ftuRate : Nat → Nat

/-- FTU_PHASE after a good beat whose error does not fit the register (chapter 3). -/
opaque ftuPhase : Nat → Word

/-- Bits 31 and 22 to 0 of an FP32 NaN result whose payload the spec does not state (chapter 6): of what produced it, since a result
depends on nothing else (R117, R146). -/
opaque nanBits : List Nat → Word

/-- A lane that RRD reads beyond the last accumulator (R113), which the spec does not state. -/
opaque beyondAcc : Nat → Word

/-- A byte that a MOVE reads from a receive slot which holds no payload (R75, R80), which the spec does not state. -/
opaque rxByte : Nat → Byte

/-- L after an FTWAIT.REL whose binding has no live epoch (R105), which the spec does not state. -/
opaque relFlag : Nat → Bool

/-- The lane order of VSUM's pairwise tree (R117). -/
opaque vsumOrder : Nat → Nat

/-- A draw of the block's entropy source (R318). -/
opaque entropy : Nat → Nat

/-- Spare rows of a stack channel before any repair, by 32 × stack + channel (R295, R300). -/
opaque spareRows : Nat → Nat

/-- Input buffers that a router has for its bridge link beside the first (R242). -/
opaque inputBuffers : Nat

/-- SHA-384 of the DeviceID public key, of the boot ROM, and the fused operator key digest (R334). -/
opaque deviceDigest : Nat
opaque romDigest : Nat
opaque operatorDigest : Nat

/-- SHA-384 of a list of bytes. -/
opaque sha384 : List Byte → Nat

/-- SHA-384 of a Glove's header, which its GLOVE_ID names (R340, R343). -/
opaque headerDigest : Nat → Nat

/-- The head of an attestation log after an entry: the head before, and the entry's kind, FT and body (R335). -/
opaque chainHead : Nat → Nat → Nat → List Nat → Nat

/-- The alias certificate (0) and the DeviceID certificate (1) of a half, in DER (R334). -/
opaque certificate : Nat → Nat → List Byte

/-- An ML-DSA-87 signature over bytes by the key of an RTP (R326): the half, and whether the DeviceID key signs. -/
opaque signature : Nat → Bool → List Byte → List Byte

/-- The words of a response whose contents the spec names without an encoding: of LOG_READ (R335), ADMIT_PREP, ADMIT_REQ
(R343) and KEX (R329), by the request's code and what the response is about. -/
opaque responseWords : Nat → List Nat → List Word

/-- How many entries the log region of an image store holds (R318, R335). -/
opaque logCapacity : Nat

/-- The router that a shadow reducer joins, as a physical tile number, by page index (R221, R237). -/
opaque srRouter : Nat → Nat

/-- START and ARRIVE semaphores of a session's binding, by 2 × binding and 2 × binding + 1 (R109, R122). -/
opaque bindSem : Nat → Nat

/-- The measured error codes of Weathervane (chapter 10). -/
opaque wvCode : Nat → Nat

/-- AES-256-GCM under an edge key (R159): what names the key (R330) and the fields of the vector, and the plaintext; the ciphertext,
and the leftmost 64 bits of the tag over the additional data as well. -/
opaque edgeCipher : List Nat → List Byte → List Byte
opaque edgeTag : List Nat → List Byte → List Byte → Nat

/-- Bits 63 to 0 but for STAMP, and 127 to 64, of the header of an OBS cell, which R157 does not lay out, by what the cell carries. -/
opaque obsHead : List Nat → Nat

/-- AES-256-GCM under a channel's trace key (R376): what names the key and the vector (PID, incarnation, channel, key epoch,
frame number), and the plaintext; the ciphertext, and the leftmost 64 bits of the tag over bytes 0 to 15 as well. -/
opaque traceCipher : List Nat → List Byte → List Byte
opaque traceTag : List Nat → List Byte → List Byte → Nat

end Sys2Proof.Config
end

