-- ==== Sys2Proof/Machine/State.lean ====
section
/-! DEFINITION. The state of the block as plain data: every register, table, buffer, counter, mode and pin the spec gives
it, the queue of waiting commands, and the state after reset. Faults and refusals. -/

namespace Sys2Proof.Machine

/-- The reasons a command stops the model with a fault. -/
inductive Fault where
  /-- Raised by a command that names a unit this block does not fit. R7: the outcome of an operation on an absent unit
  is a fault condition, and the spec gives no other effect. Safe: the model stops. -/
  | absentUnit
  /-- Raised by a command whose unit number lies beyond every numbering of the spec, such as a tile above 1,087 (R24) or a page
  that is no arbiter's (R242). Safe: the spec has no such command. -/
  | noSuchUnit
deriving DecidableEq, Repr

/-- The reasons a command is refused. -/
inductive Refusal where
  /-- Raised by the arm of a command that has no meaning yet. Safe: the model stops. -/
  | notModelled (mnemonic : String)
deriving DecidableEq, Repr

/-- One value for each half (R6). -/
structure Two (α : Type) where
  a : α
  b : α
deriving DecidableEq, Repr

/-- The fuses, straps and tie-offs of the block: fixed, and the same in every state of a run (R5, R7, R8, R27). -/
structure BlockCfg where
  /-- VARIANT of BLK_CAP (R7): 1 FHL-8, 2 FHL-4, 3 FHL-4V. -/
  variant : Nat
  /-- True for the full complement of shadow reducers, 16 per fitted half; false for 8 (R5). -/
  fullShadow : Bool
  /-- The charge fuse (R27): blown makes half A primary. -/
  chargeFuse : Bool
  /-- SERIAL, the PROD_LOCK fuse and FWKEY_REVOKE (R345). -/
  serial : Nat
  prodLock : Bool
  revoke : Nat
  /-- The TAP_MFR tie-off (R464). -/
  tapMfr : Nat
  /-- ALW_FLOOR (R350). -/
  floor : Nat
deriving DecidableEq, Repr

/-- The states of a page (R45). -/
inductive PageSt where
  | off
  | starting
  | on
  | stopping
deriving DecidableEq, Repr

/-- The header of one register page (R40 to R45). -/
structure Page where
  /-- STATE of PAGE_STATE. -/
  st : PageSt
  /-- RESTART_PENDING of PAGE_STATE. -/
  restart : Bool
  /-- ENABLE of PAGE_CTRL, the last value written. -/
  enable : Bool
  /-- FREEZE of PAGE_CTRL. -/
  freeze : Bool
  /-- PAGE_ERR. -/
  err : Word
  /-- PAGE_ERRCNT. -/
  errCnt : Nat
  /-- PAGE_FTLAST. -/
  ftLast : Nat
  /-- VIEW of PAGE_SNAP. -/
  view : Bool
  /-- PAGE_SNAPSEQ. -/
  snapSeq : Nat
  /-- The snapshot: the value of each RO register by its offset; an offset that is not listed holds its reset value. -/
  snap : Tbl Word
  /-- OWNER_PID of PAGE_OWNER. -/
  owner : Nat
  /-- GENERATION of PAGE_OWNER. -/
  gen : Nat
  /-- When Squall last let a PAGE_ERR event of this page out, in 1/2304 ns of its half's count (R370). -/
  evtAt : Option Nat
deriving DecidableEq, Repr

/-- The states of a window (R48 to R50). A closed write window waits for its target's decision. -/
inductive WinSt where
  | closed
  | opened
  | deciding
deriving DecidableEq, Repr

/-- One window of an MGMT page (R48 to R50, R473, R474). -/
structure Window where
  sel : Word
  /-- WIN_SEL as the last OPEN took it: what the window moves words to or from, and what decides its commit. -/
  held : Word
  st : WinSt
  dir : Bool
  addr : Word
  count : Word
  crc : Word
  committed : Bool
  rejected : Bool
  port : Half
  /-- The words a write window has taken since OPEN, with their word offsets, newest first. -/
  staged : List (Nat × Word)
deriving DecidableEq, Repr

/-- One management port (R31 to R33, R37): what its last transaction answered, and the upper words it has latched, by
address. -/
structure MgmtPort where
  resp : Nat
  rdata : Word
  latch : Tbl Word
deriving DecidableEq, Repr

/-- The lock states of an FTU (R52). -/
inductive LockSt where
  | acquiring
  | locked
  | coasting
  | timeLost
deriving DecidableEq, Repr

/-- An FTU as it stood at the edge of a beat (R51): the cycle of the edge, the lock state, the count and the rate, the run, the last
good beat, whether it had reached LOCKED, and FTU_PHASE. -/
structure FtuUndo where
  cyc : Nat
  lock : LockSt
  count : Nat
  rate : Nat
  run : Nat
  goodCyc : Option Nat
  goodWord : Nat
  goodCount : Nat
  everLocked : Bool
  phase : Word
deriving DecidableEq, Repr

/-- The fabric time unit of one half (R51 to R57). Counts are in 1/2304 ns. -/
structure Ftu where
  lock : LockSt
  /-- The interpolating count. -/
  count : Nat
  /-- What one CLK_CORE cycle adds to the count. -/
  rate : Nat
  /-- Good beats in the present run of ACQUIRING. -/
  run : Nat
  /-- The cycle and the word of the last good beat, and the count at its edge. -/
  goodCyc : Option Nat
  goodWord : Nat
  goodCount : Nat
  /-- The cycle of the last rising edge of FT_BEAT. -/
  edgeCyc : Option Nat
  /-- Whether the FTU has reached LOCKED since reset (R62). -/
  everLocked : Bool
  /-- FT[27:4] of the last valid FT, for the send stamp while without time (R54). -/
  lastValid : Nat
  /-- What the edge of the last good beat replaced, should the beat be ignored after all (R51). -/
  undo : Option FtuUndo
deriving DecidableEq, Repr

/-- The states of a schedule entry (R58). -/
inductive EntrySt where
  | empty
  | armed
  | fired
  | missed
  | cancelled
  | held
deriving DecidableEq, Repr

/-- One schedule entry (R58): its six words as written, its state and fire count, and where its next firing lies. -/
structure Entry where
  st : EntrySt
  fires : Nat
  ft : Nat
  action : Nat
  pid : Nat
  trig : Bool
  line : Nat
  rearm : Bool
  target : Nat
  arg : Nat
  period : Nat
  /-- The FT of the next firing in ns; none for a trigger entry whose edge has not come. -/
  due : Option Nat
deriving DecidableEq, Repr

/-- PROG of TILE_STATUS, the codes 0 to 6; CALM is read while a Calm stops the tile (R121). -/
inductive ProgSt where
  | none
  | loaded
  | running
  | waitSem
  | waitFt
  | halted
  | faulted
deriving DecidableEq, Repr

/-- LULL of TILE_STATUS, with the level that is being entered or left (R81). -/
inductive LullSt where
  | awake
  | asleep (level : Nat)
  | entering (level : Nat)
  | waking (level : Nat)
deriving DecidableEq, Repr

/-- What a program waits for (R105 to R107). -/
inductive WaitSt where
  | none
  | sem (n : Nat) (count : Nat) (limit : Option Nat)
  | ft (target : Nat)
  | fence (mask : Nat)
deriving DecidableEq, Repr

/-- A wide-window accumulator: W × 2^E, its flags and its operator (R137, R139, R140). -/
structure Acc where
  empty : Bool
  nan : Bool
  infPos : Bool
  infNeg : Bool
  op : Nat
  w : Int
  e : Int
deriving DecidableEq, Repr

/-- The states of a receive slot (R80). -/
inductive SlotSt where
  | free
  | reserved
  | filled
deriving DecidableEq, Repr

/-- One receive slot: the credit it is reserved for, and the payload once it arrives (R80, R163). `flight` holds a payload
that a port has accepted and the mesh has not yet delivered. -/
structure RxSlot where
  st : SlotSt
  sid : Nat
  parity : Nat
  cidx : Nat
  part : Nat
  seg : Nat
  fmt : Nat
  /-- 1 for a DATA credit, 2 for a RESULT credit. -/
  kind : Nat
  epoch : Nat
  /-- Issue FT of the credit, and the identity of the credit before (P of R165): kind, session, epoch, CIDX, part, segment. -/
  issued : Nat
  prior : Option (Nat × Nat × Nat × Nat × Nat × Nat)
  /-- When the last CRC NACK for the handle went out (R183), in ns. -/
  nackAt : Option Nat
  flight : Bool
  payload : List Byte
deriving DecidableEq, Repr

/-- One entry of a binding's arrival queue (R109, R111). -/
structure QEntry where
  mark : Bool
  abort : Bool
  excluded : Bool
  retired : Bool
  parity : Nat
  seg : Nat
  slot : Nat
  /-- A marker that carries the epoch's outcome, with the ranks and excluded ranks of R204. -/
  outcome : Bool
  ranks : Nat
  exRanks : Nat
deriving DecidableEq, Repr

/-- One epoch of a binding (R103, R109). -/
structure BindEp where
  live : Bool
  reported : Bool
  epoch : Nat
  start : Nat
deriving DecidableEq, Repr

/-- One binding of a tile (R109, R122). -/
structure Binding where
  valid : Bool
  sid : Nat
  semStart : Nat
  semArrive : Nat
  accBase : Nat
  accCount : Nat
  /-- The epochs of parity 0 and of parity 1. -/
  eps : Two BindEp
  queue : List QEntry
  /-- RANKS and EXCLUDED_RANKS of the identity area (R204). -/
  ranks : Nat
  exRanks : Nat
deriving DecidableEq, Repr

/-- One incomplete MOVE (R114, R115). -/
structure Move where
  op : Nat
  src : Nat
  dst : Nat
  len : Nat
  /-- The target tile of a TILECP, by physical number, or the binding of a SEND. -/
  arg : Nat
  down : Bool
  sem : Option Nat
  rsem : Option Nat
  lst : Nat
  order : Nat
  /-- The index of the instruction that issued it. -/
  index : Nat
  /-- Its flits still to be granted or to arrive, bytes it holds by their place, and whether a line of it came back uncorrectable. -/
  left : Nat
  got : List (Nat × List Byte)
  ue : Bool
deriving DecidableEq, Repr

/-- An incomplete TMMA (R118): its operands' addresses, K and the format. -/
structure Tmma where
  a : Nat
  b : Nat
  k : Nat
  fmt : Nat
  sem : Option Nat
  /-- The index of the instruction that issued it. -/
  index : Nat
deriving DecidableEq, Repr

/-- TILE_MAP of a physical tile (R77, R78): its logical number when VALID, and its role (0 ACTIVE, 1 SPARE, 2 RETIRED). -/
structure TileMap where
  logical : Option Nat
  role : Nat
deriving DecidableEq, Repr

/-- Everything one physical tile holds (R71, R75, R87, R95). -/
structure Tile where
  sram : Tbl Byte
  /-- SRAM is powered (R89), and the cycle its zero-fill ends, if it has not. -/
  sramOn : Bool
  fillEnd : Option Nat
  prog : ProgSt
  wait : WaitSt
  /-- FT and cycle at which the present wait began (R425). -/
  waitFt : Nat
  pc : Nat
  codeWords : Nat
  ibuf : Tbl (BitVec 128)
  sregs : Tbl Word
  fz : Bool
  fn : Bool
  fc : Bool
  ft : Bool
  fl : Bool
  fm : Bool
  /-- Vector registers, lane i of register v at 64 × v + i. -/
  vregs : Tbl Word
  /-- Tensor accumulators, row r column c at 64 × r + c. -/
  tacc : Tbl Word
  /-- Reduce accumulators. -/
  racc : Tbl Acc
  /-- The stochastic-rounding generator (R135). -/
  sr : Nat
  slots : Tbl RxSlot
  sems : Tbl Nat
  /-- Counters of the open parity (R395). -/
  ctrs : Tbl Nat
  /-- The latches of R104: the upper bits of each counter whose low word was read last. -/
  ctrLatch : Tbl Nat
  /-- The cycle in which a counter last advanced (R399). -/
  ctrCyc : Nat
  /-- The counts as they stood at the start of that cycle, which a read in it gives (R399). -/
  ctrWas : Tbl Nat
  binds : Tbl Binding
  moves : Tbl Move
  tmma : Option Tmma
  /-- MOVEs issued so far, which orders them (R108). -/
  moveSeq : Nat
  lull : LullSt
  /-- A wake event came while the tile was entering Lull (R84). -/
  wakeReq : Bool
  /-- Cycle of the Lull decision, of the arrival at the level, of the wake decision, and of the last issue (R83). -/
  lullDecCyc : Nat
  lullAtCyc : Nat
  wakeCyc : Nat
  idleCyc : Nat
  /-- An abandoned Calm keeps the program stopped until the page is stopped (R121, R423). -/
  stopped : Bool
  /-- The planned wake (R83), in ns. -/
  wakeFt : Option Nat
  /-- The power gate's bucket in 1/64 A times cycles (R355). -/
  bucket : Int
  bucketCyc : Nat
  /-- SRAM words, by byte address / 8, that hold an error: 1 one that the code corrects, 2 one that it does not (R74). -/
  flaws : Tbl Nat
deriving DecidableEq, Repr

/-- Session states (R156). -/
inductive SesSt where
  | empty
  | defined
  | ready
  | active
  | draining
  | frozen
deriving DecidableEq, Repr

/-- Epoch states at one block (R173). -/
inductive EpSt where
  | idle
  | armed
  | committed
  | uncommitted
  | opened
  | settled
  | waitOutcome
  | closing
deriving DecidableEq, Repr

/-- Contributor states (R177). -/
inductive CtSt where
  | disabled
  | keying
  | active
  | suspect
  | failed
  | remapped
deriving DecidableEq, Repr

/-- A contributor entry as its table bank holds it (R153). -/
structure Contrib where
  first : Nat
  type : Nat
  enabled : Bool
  count : Nat
  peerSid : Nat
  pfa : Nat
  window : Nat
  expectAdd : Nat
deriving DecidableEq, Repr

/-- An epoch's decision: outcome code, reason, advised format, advice, excluded ranges (R161, R175). -/
structure Decision where
  code : Nat
  /-- The FT of the root's decision. -/
  ft : Nat
  reason : Nat
  fmt : Nat
  advice : Nat
  ranges : List RankRange
deriving DecidableEq, Repr

/-- A DONE that a child has sent: its index, status, reason, the ranges so far, and whether the set is complete (R190). -/
structure ChildDone where
  cidx : Nat
  status : Nat
  reason : Nat
  ranges : List RankRange
  complete : Bool
  total : Nat
  narrow : Nat
  lag : Nat
deriving DecidableEq, Repr

/-- A DATA segment that this block has sent to its parent and keeps until the epoch's OUTCOME (R185). -/
structure SentSeg where
  part : Nat
  seg : Nat
  handle : Nat
  grant : Nat
  payload : List Byte
  /-- Its tile and its LST (R115, R267). -/
  tile : Nat
  lst : Nat
  /-- A reminder has had it sent again, and the entry of the same credit that follows the reminder has not come (R174, R185). -/
  reminded : Bool
deriving DecidableEq, Repr

/-- One parity's epoch of a session at this block (R168 to R175, R181). -/
structure Epoch where
  st : EpSt
  num : Nat
  start : Nat
  /-- The expected format (R181) and the table bank (R150). -/
  fmt : Nat
  bank : Nat
  gotCommit : Bool
  gotDisarm : Bool
  /-- Contributors that answered OK, and those awaited (R169, R188). -/
  acked : List Nat
  awaited : List Nat
  ackSent : Bool
  /-- Contributors missing from the start (R188), missing at a deadline, and those whose deadline WAIT has moved (R187). -/
  fromStart : List Nat
  missing : List Nat
  waiting : List Nat
  excluded : List Nat
  reminded : List Nat
  /-- No further credits are issued for the epoch. -/
  stopCredit : Bool
  /-- Fates that are not UNCREDITED, at (cidx × 1024 + part) × 4096 + segment: 1 credited, 2 accepted, 3 REDUCED,
  4 DISC_FAILED, 5 DISC_TILE, 6 DISC_SETTLED, 7 RECLAIMED (R181). -/
  fates : Tbl Nat
  /-- Parts whose settle marker has been pushed, and whose outcome marker has (R109, R203). -/
  settledParts : List Nat
  outParts : List Nat
  /-- The next contributor that a freed slot of a part is granted to (R164), by part. -/
  turn : Tbl Nat
  /-- Parts whose START increment has been given (R110). -/
  started : List Nat
  retiredUe : Nat
  resultLost : Nat
  failed : Option Nat
  childDone : List ChildDone
  sent : Bool
  /-- When the timers of R193 began, and the DONEs they have brought, the first one included. -/
  doneAt : Nat
  doneCount : Nat
  /-- The FT in ns at which the epoch settled, or became UNCOMMITTED (R161). -/
  settledAt : Nat
  dec : Option Decision
  /-- Ranges of an OUTCOME whose set is not complete (R190). -/
  rangesIn : List RankRange
  outcomeSent : Bool
  /-- RESULT credits taken from the parent and cells accepted against them: part × 4096 + segment. -/
  resultsIn : List Nat
  /-- What the timers of R414 have been moved by. -/
  shift : Nat
  /-- Index of the EPOCH_START entry in its half's schedule. -/
  entry : Option Nat
  /-- Credits issued and returned for the epoch (R166). -/
  issued : Nat
  returned : Nat
  /-- DATA segments sent to the parent, and RESULT segments of which every copy has been queued (part × 4096 + segment). -/
  kept : List SentSeg
  downSent : List Nat
  /-- The epoch has been OPEN at this block (R203). -/
  opened : Bool
  /-- The status of the first refusal of its ARM from below (R170), and Weathervane's rung as it was armed (R233). -/
  refusal : Nat
  rung : Nat
  /-- The FT in ns at which the epoch entered its present state: when what it waits for began (R426). -/
  since : Nat
deriving DecidableEq, Repr

/-- A record of a retired epoch (R182). -/
structure EpRecord where
  num : Nat
  outcome : Nat
  reason : Nat
  expected : Nat
  reduced : Nat
  discFailed : Nat
  discTile : Nat
  discSettled : Nat
  reclaimed : Nat
  uncredited : Nat
  retiredUe : Nat
  resultLost : Nat
  lateAfter : Nat
  excluded : List (Nat × Nat)
  dec : Decision
deriving DecidableEq, Repr

/-- A credit that a peer granted this block, to send a cell by: the edge it was granted on, and the GRANT it came in. -/
structure SendCredit where
  edge : Edge
  epoch : Nat
  part : Nat
  seg : Nat
  handle : Nat
  grant : Nat
deriving DecidableEq, Repr

/-- A payload taken from SRAM by a SEND that waits for credits or for the outcome (R206). -/
structure OutSeg where
  epoch : Nat
  down : Bool
  part : Nat
  seg : Nat
  payload : List Byte
  lst : Nat
  /-- Contributors still to be served; the parent when not down. -/
  dests : List Nat
  held : Bool
  /-- The tile that sends it. -/
  tile : Nat
deriving DecidableEq, Repr

/-- A complete and valid measure of an epoch: its TOTAL, NARROW and OUT_MAX codes, and whether an OUTCOME has judged it (R231,
R232). -/
structure WvMeas where
  epoch : Nat
  total : Nat
  narrow : Nat
  outMax : Nat
  judged : Bool
deriving DecidableEq, Repr

/-- One session at this block (R147, R151, R156, R180). -/
structure Session where
  st : SesSt
  /-- The sixteen descriptor words, none accepted when empty. -/
  desc : List Word
  banks : Two (List Contrib)
  newest : Nat
  tableOk : Bool
  /-- Contributor states with their runs of consecutive misses, by CIDX. -/
  cst : Tbl (CtSt × Nat)
  parentKey : Bool
  relayKey : Bool
  restart : Bool
  frozenFrom : SesSt
  /-- Newest epoch accepted by ARM, and the number the next ARM must name (none before the first). -/
  epoch : Nat
  next : Option Nat
  eps : Two Epoch
  lastOutcome : Nat
  lastReason : Nat
  issued : Nat
  returned : Nat
  late : Nat
  dup : Nat
  authBad : Nat
  crcBad : Nat
  reduced : Nat
  discarded : Nat
  records : List EpRecord
  /-- OUTCOMEs sent or forwarded: epoch and the format each named, newest first (R181). -/
  advised : List (Nat × Nat)
  /-- Control messages received: edge code, epoch and SEQ (R162); the next SEQ to send by edge code and epoch. -/
  seen : List (Nat × Nat × Nat)
  outSeq : List (Nat × Nat × Nat)
  /-- Epochs of which COMMIT (true) or DISARM has been forwarded (R170). -/
  orders : List (Nat × Bool)
  /-- NACKs that named a RESULT handle (R194). -/
  resultNacks : Nat
  sendCredits : List SendCredit
  outSegs : List OutSeg
  /-- Credits granted and not yet sent in a GRANT: edge, epoch, and the credits, with the cycle of the first (R164). -/
  batches : List (Edge × Nat × List Credit × Nat)
  /-- Contributors' answers so far this session: when the last AUTH_BAD event of an edge code went out, in ns (R184). -/
  authAt : Tbl Nat
  /-- Port on which an edge's most recent cell was accepted, by edge code (R259). -/
  lastPort : Tbl Nat
  /-- Consecutive qualifying epochs for NARROW, the rung in force, whether the last OUTCOME changed it, and the first epoch
  sent in the rung's format (R231). -/
  wvRun : Nat
  wvRung : Nat
  wvLock : Bool
  wvFrom : Nat
  /-- The complete and valid measures, the newest epoch first (R230, R232). -/
  wvMeas : List WvMeas
deriving DecidableEq, Repr

/-- A cell on its way out (R157, R160, R256, R260). A CTRL or OBS cell heads a message; a DATA or RESULT cell names the GRANT that it
is sent against (R261). `dst` is the session ID at the receiver, `toChild` the direction (R159, R160), and `key` names the key that
protects it (R330). -/
structure Cell where
  kind : Nat
  cls : Nat
  pid : Nat
  sid : Nat
  edge : Edge
  dst : Nat
  toChild : Bool
  key : List Nat
  pfa : Nat
  epoch : Nat
  cidx : Nat
  part : Nat
  seg : Nat
  fmt : Nat
  msg : Nat
  ft : Nat
  arg : Nat
  ranges : List RankRange
  more : Bool
  credits : List Credit
  handle : Nat
  payload : List Byte
  lst : Nat
  queued : Nat
  heads : Bool
  grant : Nat
  /-- The tile whose SEND it carries (R206); none of a cell that the session engine or a channel makes. -/
  tile : Option Nat
deriving DecidableEq, Repr

/-- One element of a sample group (R221): the exact sum S and the probe sum P in units of 2^-160, none before their first
addend, the wire variance sum U in units of 2^-320, and the accumulator's state once its state flit has come (R224). -/
structure WvElem where
  s : Option Int
  p : Option Int
  u : Nat
  acc : Acc
  /-- A re-rounded addend was infinite (1) or a NaN (2), so that P is. -/
  pOdd : Nat
deriving DecidableEq, Repr

/-- A sample group that holds a slot of a shadow reducer (R223 to R225): its session, epoch, part and place within the part in
groups of 32 elements; the format its probe sum narrows to; copies the tile has sent, copies taken, copies announced; state
flits taken, with the cycle of the last; and whether it is complete. -/
structure WvGroup where
  sid : Nat
  parity : Nat
  epoch : Nat
  part : Nat
  group : Nat
  probe : Option Nat
  sent : Nat
  got : Nat
  announced : Option Nat
  states : Nat
  stateCyc : Nat
  complete : Bool
  elems : List WvElem
deriving DecidableEq, Repr

/-- What a copy flit carries (R224): 32 received elements with format, scale byte and RACC's operator, or eight accumulator
states with their place among the four state flits and the number of copies sent. -/
inductive WvWhat where
  | copy (fmt scale op : Nat) (raws : List Nat)
  | state (i : Nat) (accs : List Acc) (sent : Nat)
  | audit
deriving DecidableEq, Repr

/-- A copy or state flit on its way to a slot of a shadow reducer, with its latest-service time (R224, R238). -/
structure WvFlit where
  sr : Nat
  slot : Nat
  lst : Nat
  what : WvWhat
deriving DecidableEq, Repr

/-- The error codes of one epoch (R226, R228). -/
structure WvCodes where
  acc : Nat
  out : Nat
  outMax : Nat
  wire : Nat
  total : Nat
  narrow : Nat
deriving DecidableEq, Repr

/-- What Weathervane keeps of one epoch of an audited session (R223 to R226, R233, R235). -/
structure WvEpoch where
  sid : Nat
  epoch : Nat
  fmt : Nat
  chosen : Nat
  completed : Nat
  voided : Nat
  skipped : Nat
  nonfinite : Nat
  codes : Option WvCodes
  ft : Nat
  dense : Option Nat
  denseN : Nat
  denseBad : Nat
  /-- PATIENCE and BREACH as the root's decision left them. -/
  run : Nat
  breach : Bool
  /-- The smallest usable child codes as the OUTCOME left, TOTAL and NARROW (R233). -/
  kids : Option (Nat × Nat)
deriving DecidableEq, Repr

/-- A report record that waits in a half's buffer (R233, R234): its partition, its channel and its words. -/
structure WvRec where
  pid : Nat
  chan : Nat
  words : List Word
deriving DecidableEq, Repr

/-- A dense audit that waits at a shadow reducer (R235): the physical tile, the format, row i of A and column j of B as element
codes with their scale bytes, the accumulator before and after, and the epochs it is reported in. -/
structure DenseAudit where
  tile : Nat
  sr : Nat
  fmt : Nat
  row : List Nat
  col : List Nat
  rowScales : List Nat
  colScales : List Nat
  before : Word
  after : Word
  epochs : List (Nat × Nat)
  /-- The slot it holds, and its copy flits that have not come yet. -/
  slot : Nat
  left : Nat
deriving DecidableEq, Repr

/-- Who asks a stack channel: MOVE number o of tile t, with the place of the bytes in what it moves; the foreground command or the
patrol of an engine (R292); a frame of a RING channel (R378); a counter record (R400); a chunk of an opening Glove (R339). -/
inductive MemUse where
  | move (t o at_ : Nat)
  | engine (h : Half)
  | patrol (h : Half)
  | ring (ch : Nat)
  | drain (bank : Nat)
  | chunk (gloveId index : Nat)
deriving DecidableEq, Repr

/-- What one flit asks of a stack channel (R290): a read of 128 B, or a write of them; 64 B where a range ends within the flit. -/
structure MemAsk where
  use : MemUse
  write : Bool
  prn : Nat
  off : Nat
  len : Nat
deriving DecidableEq, Repr

/-- What a flit inside the mesh is: of a cell on its way to a receive slot; of a TILECP, for bytes of the target's SRAM; for a stack
channel, in a burst of n; data read for a MOVE, by their place; of a cell on its way to its port; for a shadow reducer. -/
inductive FlitWhat where
  | rx (t : Nat) (slot : Nat)
  | copy (t o addr : Nat)
  | mem (a : MemAsk) (n : Nat)
  | back (t o at_ : Nat)
  | cell (p : Nat) (c : Cell)
  | wv (f : WvFlit)
  | swap (h : Half) (lt : Nat)
deriving DecidableEq, Repr

/-- A flit inside the mesh of a half (R240): the router it waits at, the router it goes to and the way it leaves there, its
source column, the input it waits in (0 local, 1 row-wise, 2 column-wise, 3 bridge), its sideband (R238), with the header of a
cell in the cell's first flit, and its data. Elements and accumulators for a shadow reducer, and a cell's payload on its way to a
port, stand in `what`. -/
structure Flit where
  router : Nat
  dest : Nat
  exit : Dir
  col : Nat
  input : Nat
  src : Nat
  lst : Nat
  pid : Nat
  lock : Bool
  last : Bool
  head : List Byte
  data : List Byte
  what : FlitWhat
deriving DecidableEq, Repr

/-- What a waiting request moves. -/
inductive ReqWhat where
  | cell (c : Cell)
  | mem (l : List (MemAsk × List Byte))
  | drain (stream : Nat)
  | hop (f : Flit)
deriving DecidableEq, Repr

/-- A request at an arbiter (R238, R243 to R246): its source, its LST in 16 ns units, its partition, its flits, how many of them
have come and how many have been granted, whether it is a locked burst, begun or suspended, and the cycle it was raised in. -/
structure Req where
  src : Nat
  lst : Nat
  pid : Nat
  lock : Bool
  len : Nat
  come : Nat
  done : Nat
  susp : Bool
  since : Nat
  starved : Bool
  what : ReqWhat
deriving DecidableEq, Repr

/-- One arbitrated target (R242): its waiting requests, the cycle of its last arbitration phase, and that of its last grant. -/
structure Arb where
  reqs : List Req
  phaseCyc : Option Nat
  grantCyc : Option Nat
deriving DecidableEq, Repr

/-- A slot table (R269): windows as offset, length and classes. -/
structure SlotTab where
  cycle : Nat
  base : Nat
  always : Nat
  wins : List (Nat × Nat × Nat)
deriving DecidableEq, Repr

/-- A cell as a port hands it to the host (R256): its destination PFA, its class, and its 272 bytes. -/
structure WireCell where
  pfa : Nat
  cls : Nat
  bytes : List Byte
deriving DecidableEq, Repr

/-- One collective port (R257, R258, R272). -/
structure Port where
  active : Option SlotTab
  ready : Option SlotTab
  /-- The FT in ns from which the READY table may switch; none until time has been had since the commit. -/
  after : Option Nat
  /-- A SLOT_SWITCH action has fired for the READY table, at this FT (R272). -/
  fired : Option Nat
  bank : Bool
  /-- Ingress slots held, and credits outstanding at the host (R257). -/
  held : Nat
  out : Nat
  /-- Egress credits held for each class (R258). -/
  txcr : List Nat
  /-- The GRANTs, by session, edge and epoch, that the port has sent a cell against (R261). -/
  headed : List (Nat × Edge × Nat × Nat)
  /-- CTRL cells that wait in the ingress buffer for the control store (R416). -/
  ctrlWait : List Instr
  /-- The cell whose header has left the shaper last (R68, R256). -/
  wire : Option WireCell
deriving DecidableEq, Repr

/-- A token bucket: its level in 1/18 B and the cycle it was last brought up to date (R262). -/
structure Bucket where
  lvl : Int
  cyc : Nat
deriving DecidableEq, Repr

/-- The buckets of one meter (R274), committed and peak, in 1/18 B. -/
structure Meter where
  c : Nat
  p : Nat
  cyc : Nat
deriving DecidableEq, Repr

/-- The states of a region (R300, MEM_RQ_INFO). -/
inductive RegSt where
  | free
  | allocating
  | owned
  | migrating
  | teardown
  | retired
deriving DecidableEq, Repr

/-- One 2 MiB region (R286, R300): its state, its owner and the owner's GENERATION, its epoch, and
the era (see `era`) whose keys its lines were last written under as a whole. -/
structure Region where
  st : RegSt
  pid : Nat
  gen : Nat
  epoch : Nat
  era : Nat
deriving DecidableEq, Repr

/-- The states of a channel (R300, MEM_CH_INFO). -/
inductive ChSt where
  | inService
  | draining
  | retired
deriving DecidableEq, Repr

/-- One channel of a stack (R295 to R298, R300): its state, the erased pin of each pseudo-channel, spare rows used, and its
error counts. -/
structure StackCh where
  st : ChSt
  pin0 : Option Nat
  pin1 : Option Nat
  rows : Nat
  ce : Nat
  ue : Nat
deriving DecidableEq, Repr

/-- An entry of a stack's error log (R298). -/
structure MemLog where
  ft : Nat
  prn : Nat
  line : Nat
  pseudo : Nat
  kind : Nat
  src : Nat
deriving DecidableEq, Repr

/-- What an engine does with the span at its cursor (R293): nothing yet, reading it, or writing it. -/
inductive SpanSt where
  | rest
  | reading
  | writing
deriving DecidableEq, Repr

/-- A fill and patrol engine (R292 to R295): the code of the foreground command in progress, its regions, key and carry bits, its span
cursor and what it does there, and the uncorrectable line that a MIGRATE has read; `mig` while a MIGRATE of those regions is not
complete, in progress or not; moved regions whose late writes are still mirrored; and the background pass. -/
structure Fill where
  op : Option Nat
  src : Nat
  dst : Nat
  pid : Nat
  carry : Bool
  pseudo : Nat
  cursor : Nat
  span : SpanSt
  bad : Option Nat
  mig : Bool
  late : List (Nat × Nat)
  /-- When the present patrol pass began, and when the patrol last asked for a line, in cycles; the next line of the region. -/
  passCyc : Nat
  patCyc : Nat
  patLine : Nat
deriving DecidableEq, Repr

/-- A request entry of a channel controller (R290): a granted flit, and of a read the bytes it takes, the lines still to return with
the mark each had (0 none, 1 UE, 2 MAC_FAIL), and whether a line came back uncorrectable or has since been written. -/
structure ChEntry where
  ask : MemAsk
  src : Nat
  lst : Nat
  pid : Nat
  data : List Byte
  left : List (Nat × Nat)
  bad : Bool
  newer : Bool
deriving DecidableEq, Repr

/-- The states of a partition (R302). -/
inductive PartSt where
  | free
  | creating
  | live
  | scrubbing
  | unavailable
deriving DecidableEq, Repr

/-- A scrub in progress (R310 to R312): the step being done, 1 to 4, and what its certificate will say. -/
structure Scrub where
  step : Nat
  eraseFt : Nat
  doneFt : Nat
  regions : Nat
  tiles : List (Nat × Nat)
  lost : Nat
  cause : Nat
  restarts : Nat
deriving DecidableEq, Repr

/-- One partition (R302, R307): what its entry does not hold as register words. -/
structure Part where
  st : PartSt
  gen : Nat
  cert : Bool
  /-- The region list, by PRN (R281, R304). -/
  regions : List Nat
  scrub : Option Scrub
  /-- Regions an accepted CREATE, GROW or SHRINK still has to take or return. -/
  work : List Nat
  /-- Service event flags set since the last event (R315). -/
  flags : Nat
  /-- FT in ns of the last service event. -/
  served : Nat
  /-- The key manager holds the partition's memory keys for half A and for half B (R286). -/
  keys : Two Bool
deriving DecidableEq, Repr

/-- A firmware image in a slot of the image store (R318, R322). -/
structure FwSlot where
  svn : Nat
  key : Nat
  digest : Nat
deriving DecidableEq, Repr

/-- The firmware states of an RTP (R323). -/
inductive FwSt where
  | normal
  | staged
  | switching
  | trial
deriving DecidableEq, Repr

/-- An entry of an attestation log (R335): its kind, its FT and its body. -/
structure LogEnt where
  kind : Nat
  ft : Nat
  body : List Nat
deriving DecidableEq, Repr

/-- One root-of-trust processor (R318 to R325, R335). -/
structure Rtp where
  booted : Bool
  recovery : Bool
  slots : Two (Option FwSlot)
  /-- The slot marked ACTIVE, and the slot that runs. -/
  active : Nat
  running : Nat
  fw : FwSt
  confirmed : Bool
  /-- A switch back to the earlier image. -/
  back : Bool
  /-- The cycle the trial image started. -/
  trialCyc : Nat
  /-- Words waiting in the outbound mailbox (R320). -/
  out : List Word
  /-- The attestation log, oldest entry first, how many it has taken, how many were pruned, and its chain head. -/
  log : List LogEnt
  logCount : Nat
  logPruned : Nat
  logHead : Nat
  attBusy : Nat
  /-- Load in tenths of a per cent, and whether classes 5 to 8 are deferred (R452). -/
  load : Nat
  deferring : Bool
deriving DecidableEq, Repr

/-- A queued attestation request (R332). -/
structure AttReq where
  half : Half
  tag : Nat
  scope : Nat
  nonce : Nat
  cyc : Nat
deriving DecidableEq, Repr

/-- A key exchange that is open toward a peer (R329). -/
structure Kex where
  sid : Nat
  edge : Edge
  cyc : Nat
deriving DecidableEq, Repr

/-- A Glove that is being opened (R339 to R342): where its answer goes, its partition, its header, the chunks taken, and
what the digest check and the endorsements say. -/
structure Opening where
  half : Half
  tag : Nat
  pid : Nat
  hdr : GloveHdr
  got : List Nat
  /-- Chunks whose writes have not all been granted (R339). -/
  writes : List Nat
  digestOk : Bool
  admitted : Bool
deriving DecidableEq, Repr

/-- An entry of the security event log (R338). -/
structure SecEnt where
  ft : Nat
  kind : Nat
  page : Nat
  detail : Nat
deriving DecidableEq, Repr

/-- The power allowance manager (R348 to R358). -/
structure Power where
  /-- The code in force, and where it came from: 0 a strobe, 2 the floor. -/
  code : Nat
  src : Nat
  /-- The code whose acknowledgement is owed, and the cycle it came into force. -/
  owed : Option (Nat × Nat)
  /-- The code last acknowledged on ALW_ACK. -/
  acked : Option Nat
  /-- The cycles of the last good strobe, of the last recompute and of the last power reading without time. -/
  goodCyc : Option Nat
  splitCyc : Nat
  readCyc : Nat
  /-- PWR_THERM_TRIP is asserted (R357). -/
  trip : Bool
deriving DecidableEq, Repr

/-- One packet held for a stream (R366): its bytes, whether it is a record, and its stamp in 1/16 ns (R367). -/
structure TPkt where
  bytes : List Byte
  isRec : Bool
  stamp : Nat
deriving DecidableEq, Repr

/-- What a stream does with its records (R372, R382 to R384). -/
inductive CapSt where
  | streaming
  | capturing
  | frozen
deriving DecidableEq, Repr

/-- One trace stream (R362, R367, R372, R384). -/
structure Stream where
  /-- True once the stream has generated a packet. -/
  started : Bool
  /-- The stream's time, in 1/16 ns. -/
  time : Nat
  /-- Bytes of packets since the last time-base packet, and that packet's stamp in 1/16 ns. -/
  sinceBase : Nat
  baseAt : Nat
  /-- A SYNC reason of R368 that waits for the stream's next record. -/
  sync : Option Nat
  /-- The packets held, oldest first. -/
  pkts : List TPkt
  /-- Records generated, and records counted lost. -/
  gen : Nat
  lost : Nat
  /-- While records are dropped for want of room: how many, and the RECSEQ of the first (R371, R372). -/
  drop : Option (Nat × Nat)
  cap : CapSt
  /-- Records displaced from a capture window, and the RECSEQ of the first (R382). -/
  displaced : Nat
  dispFirst : Nat
  /-- True while the stream asks to be drained (R372). -/
  ask : Bool
  /-- Its funnel input has granted it a flit that has not yet moved (R373). -/
  granted : Bool
deriving DecidableEq, Repr

/-- A sealed frame that a channel holds (R375, R376). -/
structure Frame where
  seq : Nat
  /-- Bytes 24 to 255. -/
  body : List Byte
  used : Nat
  lostBefore : Nat
  records : Nat
  /-- The seal FT in ns. -/
  sealFt : Nat
deriving DecidableEq, Repr

/-- The frame a channel is filling: its packets, its records, the cycle its first packet was put at, the stream last
tagged. -/
structure OpenFrame where
  body : List Byte
  records : Nat
  firstAt : Nat
  lastStream : Nat
deriving DecidableEq, Repr

/-- A Gust fire that waits for its freeze FT (R383): cause, fire FT, freeze FT in ns; `held` while a fire decided in a Calm
waits for the resume, which fixes its freeze FT. -/
structure GustFire where
  cause : Nat
  fire : Nat
  freeze : Nat
  held : Bool
deriving DecidableEq, Repr

/-- One trace channel (R375 to R384): what its page does not hold as a register word. -/
structure Channel where
  keyEpoch : Nat
  keyed : Bool
  frames : List Frame
  cur : Option OpenFrame
  seq : Nat
  /-- Records discarded since the previous frame: LOST of the next one. -/
  lostSince : Nat
  routeDown : Bool
  gust : Option GustFire
  frozen : Bool
  /-- Words of the oldest frame read through the window route (R378). -/
  winRead : Nat
  /-- The oldest frame's two write flits have asked a stack channel (R378). -/
  asked : Bool
deriving DecidableEq, Repr

/-- A closed interval that waits for its drain (R395, R397, R400). -/
structure ClosedInt where
  iseq : Nat
  ftOpen : Nat
  ftClose : Nat
  timeless : Bool
  refused : Nat
  /-- The cycle it closed in, and the 64 B lines of its record that have asked a stack channel (R400). -/
  cyc : Nat
  written : Nat
  /-- Governed tiles as logical number, physical number and whether in Lull, with their counters. -/
  tiles : List (Nat × Nat × Bool × List Nat)
  ctrs : List Nat
  final : Bool
deriving DecidableEq, Repr

/-- One counter bank (R390, R395). -/
structure Bank where
  /-- Open counts; `closed` holds the closed parity while its drain has not retired it, `kept` the last closed interval. -/
  ctrs : Tbl Nat
  par : Nat
  closed : Option ClosedInt
  /-- The last closed interval, which stays readable (R400). -/
  kept : Option ClosedInt
  timeless : Bool
  refusedHere : Nat
  /-- Tiles that the bank governed earlier in the interval and governs no longer (R29, R439): logical and physical number, whether
  in Lull, and the counts that the interval had of them. -/
  former : List (Nat × Nat × Bool × List Nat)
  /-- Mitten copies of counters 0 to 15 (R405). -/
  mitten : Tbl Nat
  /-- The final boundary of a stop has been made (R406). -/
  stopping : Bool
deriving DecidableEq, Repr

/-- CALM_STATUS of a half (R430). -/
inductive CalmSt where
  | idle
  | capture
  | stopped
deriving DecidableEq, Repr

/-- A channel record or an UNSENT record of the dump (R420). -/
structure CalmRec where
  ft : Nat
  send : Nat
  port : Nat
  kind : Nat
  cls : Nat
  handle : Nat
  sid : Nat
  cidx : Nat
  epoch : Nat
  part : Nat
  seg : Nat
deriving DecidableEq, Repr

/-- A node of the wait-for graph (R427, R428): a logical tile, an epoch by session and parity, a contributor, an arbitrated target
by KIND, number of the page and target, time, the tiles of a partition, and an epoch of a session at another block. -/
inductive WfNode where
  | tile (lt : Nat)
  | epoch (sid par : Nat)
  | contrib (sid cidx : Nat)
  | target (kind inst tgt : Nat)
  | time
  | group (pid : Nat)
  | remote (pfa sid epoch : Nat)
deriving DecidableEq, Repr

/-- A wait-for record (R426): the fields of its 48 B, with the nodes of its waiter and of what it awaits, the TYPE of the
contributor it names, and where the wait goes on at another block. -/
structure WfRec where
  kind : Nat
  pid : Nat
  waiter : Nat
  epoch : Nat
  since : Nat
  awaited : List Byte
  src : WfNode
  dst : WfNode
  type : Nat
  far : Option (Nat × Nat × Nat)
deriving DecidableEq, Repr

/-- What a Calm keeps in one half (R409 to R426). -/
structure Calm where
  st : CalmSt
  t : Nat
  e : Nat
  plan : Nat
  block : Bool
  quiet : Option Nat
  dumped : Bool
  ctrlFull : Bool
  openCredits : Nat
  inCut : List CalmRec
  outside : List CalmRec
  unsent : List CalmRec
  /-- The control store: messages held in order of receipt (R416). -/
  store : List Instr
  /-- GOs held until the resume (R414). -/
  gos : List Instr
  /-- The accepted command: 1 RESUME, 2 ABANDON, and its FT; the plan's resume stands here too. -/
  cmd : Option (Nat × Nat)
  lastRefusal : Nat
  /-- Stall code, TILE_WAIT and TILE_WAIT_SINCE of each awake tile at c (R420). -/
  cutWaits : Tbl (Nat × Nat × Nat)
  /-- Tile, session and arbiter records as they stand at E. -/
  tileRecs : List (List Byte)
  sesRecs : List (List Byte)
  arbRecs : List (List Byte)
  /-- The wait-for store: CUT, the capture FT, and the records (R426). -/
  wfCut : Bool
  wfFt : Nat
  wf : List WfRec
  /-- A hang report that waits for the RTP (R427), that its load has delayed, and reports sent. -/
  assemble : Bool
  deferred : Bool
  reports : Nat
  /-- The FT of the accepted command has come while the half was without time (R421). -/
  late : Bool
deriving DecidableEq, Repr

/-- STATE of the charge status block (R451). -/
inductive ChargeSt where
  | normal
  | split
  | joining
deriving DecidableEq, Repr

/-- What one half's charge logic holds (R442 to R448, R451). -/
structure Charge where
  st : ChargeSt
  primary : Bool
  /-- CAUSE: 0 LOST, 1 HALF_RESET, 2 CONFLICT. -/
  cause : Nat
  pending : Bool
  result : Nat
  splits : Nat
  /-- RECEIVED, and the words of the message in progress, newest first; `inMsg` once a MAGIC has come. -/
  received : Nat
  inMsg : Bool
  words : List Word
  nonce : Nat
  splitFt : Nat
  /-- The word of the status block that the next read returns, for each port's page read (R451). -/
  readIdx : Nat
  /-- The cycle the last heartbeat arrived, whether one has since the last sent, and heartbeats sent. -/
  hbCyc : Nat
  rxOk : Bool
  hbSent : Nat
  /-- The cycle of the last heartbeat sent. -/
  sentCyc : Option Nat
  /-- The half has been reset on its own and has not rejoined yet (R445). -/
  returned : Bool
  /-- A decision this half has made or obeyed (R447): half A primary, and RESET_OTHER. -/
  decision : Option (Bool × Bool)
  /-- A decision on its way to this half, with its nonce field. -/
  inbox : Option (Bool × Bool × Nat)
  /-- The cycle from which the 10,000,000 ns of R447 run. -/
  joinCyc : Option Nat
deriving DecidableEq, Repr

/-- A tile swap that waits for its window or copies (R438, R439). -/
structure Swap where
  lt : Nat
  old : Nat
  new : Nat
  discard : Bool
  copying : Bool
  /-- The FT in ns of the first held start. -/
  heldAt : Option Nat
  /-- Flits of the copy that the old tile has sent, and that the new tile has received (R439). -/
  sent : Nat
  came : Nat
deriving DecidableEq, Repr

/-- The instructions of the TAP (R464). -/
inductive TapInstr where
  | bypass
  | idcode
  | samplePreload
  | extest
deriving DecidableEq, Repr

/-- What a half reports of the accounts that its last reset broke (R30, R336): the cause (0 RST_BLK_N, 1 RST_HALF_N, 2 a
rail, 3 a failed join), the FT of the last committed record, the sessions with their live epochs, and the counts then still held of
each identity of R29: credits outstanding, buffer slots of tiles and ports, contributions accepted and not yet settled, trace
records, and events of counter intervals. -/
structure Broken where
  cause : Nat
  ft : Nat
  live : List (Nat × Nat)
  credits : Nat
  slots : Nat
  contribs : Nat
  records : Nat
  events : Nat
deriving DecidableEq, Repr


/-- The whole state of one Farhel block. -/
structure State where
  /-- Fuses and tie-offs. -/
  cfg : BlockCfg
  /-- The commands that wait, first in, first out. -/
  pending : List Instr
  /-- The model's own clock: CLK_CORE cycles since reset. -/
  cyc : Nat
  /-- The model's own counter of free values drawn so far. -/
  fresh : Nat
  /-- Staged registers as the page's last STARTING took them (R46), by byte address; reset values where not listed. -/
  inForce : Tbl Word
  /-- Register words at 0x040 and above of every page, by byte address; one that is not listed holds its reset value. -/
  regs : Tbl Word
  /-- Page headers by page number (address / 4096). -/
  pages : Tbl Page
  /-- The eight windows: window w of half A's MGMT page at w, of half B's at 4 + w. -/
  wins : Tbl Window
  /-- The two management ports. -/
  mports : Two MgmtPort
  /-- BLK_SUMSEQ, and the cycle it last counted (R47). -/
  sumSeq : Word
  sumCyc : Option Nat
  ftu : Two Ftu
  /-- Schedule entries: entry n of half A at n, of half B at 1024 + n. -/
  sched : Tbl Entry
  /-- What the end of the present cycle still does (R43, R69, R395): the page, and whether its interval closes (true) or its snapshot
  is taken (false), in firing order. -/
  ends : List (Nat × Bool)
  /-- For each TRIG_IN line and half (2 × line + half): the cycle of the last acted edge, none before the first; and at 8 more,
  1 while the line is high since an acted edge. -/
  trigCyc : Tbl Nat
  /-- Lines of TRIG_IN that are high, as the last edge command left them. -/
  trigHigh : Nat
  /-- BYP_WIN outputs as each half drives them, and BYP_STAT as last sampled (R67). -/
  bypWin : Two Nat
  bypStat : Nat
  tiles : Tbl Tile
  /-- TILE_MAP entries that a repair changed, by physical tile (R77, R78). -/
  tmap : Tbl TileMap
  /-- The last access that each SRAM bank served, by 16 × tile + bank: 8 × its last cycle + the requester's place in the order of R73. -/
  bankUse : Tbl Nat
  /-- The last cycle in which a requester of a tile lost a bank, by 8 × tile + its place in that order (R73, R394). -/
  bankLost : Tbl Nat
  /-- SSENDs on their way: target logical tile, semaphore, count, sending tile and its place in the MOVE order (R108). -/
  ssends : List (Nat × Nat × Nat × Nat × Nat)
  /-- Lull gates that forbid entry, by 64 × half + PID (R85). -/
  gates : Tbl Bool
  sessions : Tbl Session
  /-- Second copies of control messages (R193): the FT in ns each is due at, and the cell. -/
  copies : List (Nat × Cell)
  /-- Sample groups by 128 × shadow reducer + slot (R221). -/
  wvGroups : Tbl WvGroup
  /-- Copy and state flits on their way, oldest first. -/
  wvFlits : List WvFlit
  /-- Epochs of audited sessions that are live, or whose measure is still to come. -/
  wvEpochs : List WvEpoch
  /-- The shadow reducer of each half from which the next slot is sought (R223). -/
  wvTurn : Two Nat
  /-- Roles of shadow reducers that a repair changed, by page index: 0 ACTIVE, 1 SPARE, 2 RETIRED (R237). -/
  srRole : Tbl Nat
  /-- Dense audits waiting, and TMMAs issued by each physical tile since reset (R235). -/
  audits : List DenseAudit
  denseSeq : Tbl Nat
  /-- Report records waiting in each half, in retirement order, and records of a PID dropped since the last delivered (R234). -/
  reports : Two (List WvRec)
  repLost : Tbl Nat
  /-- Arbitrated targets, at 32 × page number + target. -/
  arbs : Tbl Arb
  /-- The cycle an ARB page reached ON (R252), by page number. -/
  arbOn : Tbl Nat
  /-- Flits waiting at routers, oldest first. -/
  flits : List Flit
  /-- Cells that wait for a port because no port of their allowed set is ON (R259). -/
  stranded : List Cell
  ports : Tbl Port
  /-- Egress buckets: leaf at 256 × port + 4 × PID + class, partition rate at 100000 + PID, ceiling at 101000 + PID, class node
  at 102000 + 4 × PID + class, lend pool at 110000, a port's observation ceiling at 120000 + port. -/
  buckets : Tbl Bucket
  /-- Meters at 64 × port + PID; one that is not listed is full. -/
  meters : Tbl Meter
  /-- The plaintext that the stacks hold, by PRN × 2^21 + offset (R282, R283); a byte nothing has written reads zero. -/
  mem : Tbl Byte
  /-- Lines that read as uncorrectable, by PRN × 32,768 + line: 1 UE, 2 MAC_FAIL (R288, R295). -/
  badLines : Tbl Nat
  regions : Tbl Region
  /-- The region table's mirror in the stacks' reserve (R284, R286, R299). -/
  reserve : Tbl Region
  /-- Resets of the block so far: at each the key manager makes a new pool key, and the partitions' memory keys are lost (R285, R286). -/
  era : Nat
  /-- The request entries of a channel, oldest first, by 32 × stack + channel (R290). -/
  entries : Tbl (List ChEntry)
  /-- Channels by 32 × stack + channel. -/
  chans : Tbl StackCh
  /-- Error logs by 64 × stack + entry. -/
  memLog : Tbl MemLog
  /-- The cycle of the last MAC failure that each stack sent to the security log (R298). -/
  macAt : Tbl Nat
  fill : Two Fill
  /-- Partitions 1 to 63 by PID; PID 0 always is (R302). -/
  parts : Tbl Part
  /-- The partition command in progress (R308): command code, PID, PART_ARG. -/
  partCmd : Option (Nat × Nat × Nat)
  /-- Scrub certificates written (R311), newest first: PID, GENERATION, the number of its log entry, and the
  fields. -/
  certLog : List (Nat × Nat × Nat × Scrub)
  rtp : Two Rtp
  attQueue : List AttReq
  attSeq : Nat
  kexs : List Kex
  /-- Peers with which a partition holds a secret Z (R329): PID and PFA. -/
  peers : List (Nat × Nat)
  /-- The owner key of a partition, and the GLOVE_ID of the last Glove opened (R342), by PID. -/
  ownerKeys : Tbl Nat
  gloveIds : Tbl Nat
  gloveHdrs : List GloveHdr
  openings : List Opening
  /-- The security event log, by entry (R338), and the cycle of the last entry of a kind and source. -/
  secLog : Tbl SecEnt
  secAt : Tbl Nat
  /-- MIN_SVN of the fuses (R324). -/
  minSvn : Nat
  entropyOk : Bool
  power : Power
  /-- A partition's budget in a half, in 1/64 A, at 64 × half + PID (R353). -/
  budgets : Tbl Nat
  /-- The allotment that the last recompute gave a tile, in 1/64 A per cycle, at the tile's number (R353, R355). -/
  allots : Tbl Nat
  /-- Tile cycles a partition's gated issue waited on its gate (PWR_PART_HELD), at 64 × half + PID. -/
  gateHeld : Tbl Nat
  /-- Trace streams. A tile's operator stream is at 2 × tile, its owner stream at 2 × tile + 1; a unit's operator stream
  is at 4096 + 128 × unit number, its owner stream for PID q at 4096 + 128 × unit number + 1 + q (R362, R371). Report records
of Weathervane that go to channel c for PID q are at 65,536 + 4,096 × half + 64 × q + c (R234). -/
  streams : Tbl Stream
  channels : Tbl Channel
  /-- What the stack share's bucket holds, in 1/75 B, and the cycle it was last filled at (R380). -/
  obsBucket : Nat
  obsCyc : Nat
  banks : Tbl Bank
  /-- Mitten copies of tile counters at 16 × tile + k, and of other Mittened registers by byte address (R405). -/
  mitTile : Tbl Nat
  mitRegs : Tbl Nat
  /-- FT in ns of the last sample instant and of the last Mitten copy of a half (R402, R405). -/
  pcLast : Two Nat
  mitLast : Two Nat
  calm : Two Calm
  charge : Two Charge
  swaps : Two (Option Swap)
  /-- EPOCH_START increments held for a swap: logical tile, binding, parity (R438). -/
  heldStarts : List (Nat × Nat × Nat)
  /-- Shadow reducers and channels whose swap waits (R435, R436), by page index. -/
  srSwap : List Nat
  frameSwaps : List Nat
  /-- Spare frame banks left in each half (R431). -/
  frameSpares : Two Nat
  /-- Wear counts, lifetime and per day, at 2^40 × kind + unit (R432); they survive every reset (R433). -/
  wearLife : Tbl Nat
  wearDay : Tbl Nat
  /-- The day of FT whose per-day counts a half holds. -/
  wearDayNo : Two Nat
  /-- Actions that AUTO starts, waiting for the RTP (R432): wear kind and unit. -/
  autoQueue : List (Nat × Nat)
  /-- The last cycle in which an epoch of a session of each partition retired, by PID (R441). -/
  retireCyc : Tbl Nat
  /-- Repair fuse entries used, and committed repairs that wait to be written to the fuses (R433). -/
  fuseUsed : Two Nat
  fuseQueue : Two Nat
  fuseFull : Two Bool
  /-- Spare rows used, at 16 × tile + bank (R434). -/
  rowsUsed : Tbl Nat
  /-- Lanes in use as spares at each port, as the last STARTING took them from SPR_LANE (R437). -/
  laneMap : Tbl Word
  /-- READY of each half (R463). -/
  ready : Two Bool
  /-- A rail of the half fell while the block ran: RAIL is set when the half restarts (R360). -/
  railFell : Two Bool
  /-- The sideband power-good (R461). -/
  pgSb : Bool
  /-- The report of the last reset of each half. -/
  broken : Two (Option Broken)
deriving DecidableEq, Repr

/-- The block right after reset (RST_BLK_N released, nothing started): R40, R45 and the register tables. -/
def State.reset : State :=
  { cfg := ⟨1, true, true, 0, false, 0, 0, 0x68⟩
    pending := []
    cyc := 0
    fresh := 0
    inForce := .empty
    regs := .empty
    pages := .empty
    wins := .empty
    mports := ⟨⟨0, 0, .empty⟩, ⟨0, 0, .empty⟩⟩
    sumSeq := 0
    sumCyc := none
    ftu := ⟨⟨.acquiring, 0, 1280, 0, none, 0, 0, none, false, 0, none⟩,
      ⟨.acquiring, 0, 1280, 0, none, 0, 0, none, false, 0, none⟩⟩
    sched := .empty
    ends := []
    trigCyc := .empty
    trigHigh := 0
    bypWin := ⟨0, 0⟩
    bypStat := 0
    tiles := .empty
    tmap := .empty
    bankUse := .empty
    bankLost := .empty
    ssends := []
    gates := .empty
    sessions := .empty
    copies := []
    wvGroups := .empty
    wvFlits := []
    wvEpochs := []
    wvTurn := ⟨0, 0⟩
    srRole := .empty
    audits := []
    denseSeq := .empty
    reports := ⟨[], []⟩
    repLost := .empty
    arbs := .empty
    arbOn := .empty
    flits := []
    stranded := []
    ports := .empty
    buckets := .empty
    meters := .empty
    mem := .empty
    badLines := .empty
    regions := .empty
    reserve := .empty
    era := 0
    entries := .empty
    chans := .empty
    memLog := .empty
    macAt := .empty
    fill := ⟨⟨none, 0, 0, 0, false, 0, 0, .rest, none, false, [], 0, 0, 0⟩, ⟨none, 0, 0, 0, false, 0, 0, .rest, none, false, [], 0, 0, 0⟩⟩
    parts := .empty
    partCmd := none
    certLog := []
    rtp := ⟨⟨false, false, ⟨none, none⟩, 0, 0, .normal, false, false, 0, [], [], 0, 0, 0, 0, 0, false⟩,
      ⟨false, false, ⟨none, none⟩, 0, 0, .normal, false, false, 0, [], [], 0, 0, 0, 0, 0, false⟩⟩
    attQueue := []
    attSeq := 0
    kexs := []
    peers := []
    ownerKeys := .empty
    gloveIds := .empty
    gloveHdrs := []
    openings := []
    secLog := .empty
    secAt := .empty
    minSvn := 0
    entropyOk := false
    power := ⟨0x68, 2, none, none, none, 0, 0, false⟩
    budgets := .empty
    allots := .empty
    gateHeld := .empty
    streams := .empty
    channels := .empty
    obsBucket := 0
    obsCyc := 0
    banks := .empty
    mitTile := .empty
    mitRegs := .empty
    pcLast := ⟨0, 0⟩
    mitLast := ⟨0, 0⟩
    calm := ⟨⟨.idle, (2 ^ 64 - 1), (2 ^ 64 - 1), 0, false, none, false, false, 0, [], [], [], [], [], none, 0, .empty, [], [], [], false, 0,
        [], false, false, 0, false⟩,
      ⟨.idle, (2 ^ 64 - 1), (2 ^ 64 - 1), 0, false, none, false, false, 0, [], [], [], [], [], none, 0, .empty, [], [], [], false, 0,
        [], false, false, 0, false⟩⟩
    charge := ⟨⟨.normal, true, 0, false, 0, 0, 0, false, [], 0, 0, 0, 0, false, 0, none, false, none, none, none⟩,
      ⟨.normal, false, 0, false, 0, 0, 0, false, [], 0, 0, 0, 0, false, 0, none, false, none, none, none⟩⟩
    swaps := ⟨none, none⟩
    heldStarts := []
    srSwap := []
    frameSwaps := []
    frameSpares := ⟨2, 2⟩
    wearLife := .empty
    wearDay := .empty
    wearDayNo := ⟨0, 0⟩
    autoQueue := []
    retireCyc := .empty
    fuseUsed := ⟨0, 0⟩
    fuseQueue := ⟨0, 0⟩
    fuseFull := ⟨false, false⟩
    rowsUsed := .empty
    laneMap := .empty
    ready := ⟨false, false⟩
    railFell := ⟨false, false⟩
    pgSb := true
    broken := ⟨none, none⟩ }

end Sys2Proof.Machine
end

