-- ==== Sys2Proof/Machine/Table.lean ====
section
/-! DEFINITION. Sparse tables in canonical form, values for two halves, and the bit-field and byte-order helpers that
every other file uses. -/

namespace Sys2Proof

/-- The value a list of cells gives for a key. -/
def cellFind {α : Type} : List (Nat × α) → Nat → Option α
  | [], _ => none
  | (j, v) :: r, k => if j = k then some v else cellFind r k

/-- A sorted list of cells with one key set. -/
def cellPut {α : Type} : List (Nat × α) → Nat → α → List (Nat × α)
  | [], k, v => [(k, v)]
  | (j, w) :: r, k, v =>
    if j = k then (k, v) :: r
    else if k < j then (k, v) :: (j, w) :: r
    else (j, w) :: cellPut r k v

/-- A list of cells with one key left out. -/
def cellDrop {α : Type} : List (Nat × α) → Nat → List (Nat × α)
  | [], _ => []
  | (j, w) :: r, k => if j = k then cellDrop r k else (j, w) :: cellDrop r k

/-- Read a table whose unlisted keys read as `d`. -/
def Tbl.get {α : Type} (d : α) (t : Tbl α) (k : Nat) : α := (cellFind t.cells k).getD d

/-- Write a table whose unlisted keys read as `d`: writing `d` takes the entry away. -/
def Tbl.put {α : Type} [DecidableEq α] (d : α) (t : Tbl α) (k : Nat) (v : α) : Tbl α :=
  if v = d then ⟨cellDrop t.cells k⟩ else ⟨cellPut t.cells k v⟩

/-- The listed entry of a key, if it has one. -/
def Tbl.find {α : Type} (t : Tbl α) (k : Nat) : Option α := cellFind t.cells k

/-- List a key with a value, whatever the value. -/
def Tbl.set {α : Type} (t : Tbl α) (k : Nat) (v : α) : Tbl α := ⟨cellPut t.cells k v⟩

/-- Take a key's entry away. -/
def Tbl.drop {α : Type} (t : Tbl α) (k : Nat) : Tbl α := ⟨cellDrop t.cells k⟩

/-- Change every listed entry. -/
def Tbl.mapVals {α : Type} (t : Tbl α) (f : Nat → α → α) : Tbl α := ⟨t.cells.map fun c => (c.1, f c.1 c.2)⟩

/-- Keep the listed entries that satisfy a test. -/
def Tbl.keep {α : Type} (t : Tbl α) (p : Nat → α → Bool) : Tbl α := ⟨t.cells.filter fun c => p c.1 c.2⟩

/-- Keys strictly rising. -/
def keysRise {α : Type} : List (Nat × α) → Bool
  | [] => true
  | [_] => true
  | (j, _) :: (k, w) :: r => decide (j < k) && keysRise ((k, w) :: r)

/-- The canonical form: keys strictly rising, and no entry equal to what an unlisted key reads as. -/
def Tbl.wf {α : Type} [DecidableEq α] (d : α) (t : Tbl α) : Bool :=
  keysRise t.cells && t.cells.all fun c => decide (c.2 ≠ d)

namespace Machine

/-- The value of one half. -/
def Two.get {α : Type} (t : Two α) : Half → α
  | .a => t.a
  | .b => t.b

/-- Set the value of one half. -/
def Two.put {α : Type} (t : Two α) (h : Half) (v : α) : Two α :=
  match h with
  | .a => { t with a := v }
  | .b => { t with b := v }

/-- The other half. -/
def otherHalf : Half → Half
  | .a => .b
  | .b => .a

/-- 0 for half A, 1 for half B (R24). -/
def halfIdx : Half → Nat
  | .a => 0
  | .b => 1

/-- The half of an index. -/
def halfOf (n : Nat) : Half := if n = 0 then .a else .b

/-- Bits [hi:lo] of a number, high bit first and inclusive (chapter 0, Conventions). -/
def bitsOf (n hi lo : Nat) : Nat := n / 2 ^ lo % 2 ^ (hi + 1 - lo)

/-- Bits [hi:lo] of a register word. -/
def fieldOf (w : Word) (hi lo : Nat) : Nat := bitsOf w.toNat hi lo

/-- Bit i of a register word. -/
def bitOf (w : Word) (i : Nat) : Bool := w.toNat.testBit i

/-- A register word with bit i set. -/
def setBit (w : Word) (i : Nat) : Word := w ||| BitVec.ofNat 32 (2 ^ i)

/-- A register word with bit i cleared. -/
def clearBit (w : Word) (i : Nat) : Word := w &&& ~~~ (BitVec.ofNat 32 (2 ^ i))

/-- A register word with bit i set to a value. -/
def putBit (w : Word) (i : Nat) (b : Bool) : Word := if b then setBit w i else clearBit w i

/-- A register word with bits [hi:lo] replaced. -/
def putField (w : Word) (hi lo v : Nat) : Word :=
  BitVec.ofNat 32 (w.toNat - bitsOf w.toNat hi lo * 2 ^ lo + v % 2 ^ (hi + 1 - lo) * 2 ^ lo)

/-- One for true, zero for false. -/
def b2n (b : Bool) : Nat := if b then 1 else 0

/-- The little-endian bytes of a number. -/
def leBytes : Nat → Nat → List Byte
  | 0, _ => []
  | k + 1, n => BitVec.ofNat 8 n :: leBytes k (n / 256)

/-- The number of a little-endian list of bytes. -/
def leNat : List Byte → Nat
  | [] => 0
  | b :: r => b.toNat + 256 * leNat r

/-- A sum that saturates. -/
def satAdd (cap a b : Nat) : Nat := min cap (a + b)

/-- Do something for every element of a list. -/
def forEach {α σ : Type} (l : List α) (s : σ) (f : σ → α → σ) : σ := l.foldl f s

end Machine
end Sys2Proof
end

