-- ==== Sys2Proof/Machine/Numerics.lean ====
section
/-! DEFINITION. Number formats and accumulation (chapter 6): exact values, widening, the rounding modes, block formats,
FP32 arithmetic, the stochastic-rounding generator, the wide-window accumulator and the tensor array's sum. -/

namespace Sys2Proof.Machine

/-- An exact value: NaN, an infinity, a signed zero, or m × 2^e with m not zero. -/
inductive Val where
  | nan
  | inf (neg : Bool)
  | zero (neg : Bool)
  | fin (m : Int) (e : Int)
deriving DecidableEq, Repr

/-- The value m × 2^e, a zero of the given sign when m is 0. -/
def mkVal (negZero : Bool) (m e : Int) : Val := if m = 0 then .zero negZero else .fin m e

/-- The special codes of a scalar format (R124): IEEE infinities and NaN, E4M3's single NaN, or none. -/
inductive Specials where
  | ieee
  | e4m3
  | none
deriving DecidableEq, Repr

/-- A scalar format (R124). -/
structure Fmt where
  exp : Nat
  man : Nat
  bias : Nat
  sp : Specials
deriving DecidableEq, Repr

/-- The table of R124, by format code. -/
def scalarFmt : Nat → Option Fmt
  | 0 => some ⟨8, 23, 127, .ieee⟩
  | 1 => some ⟨8, 7, 127, .ieee⟩
  | 2 => some ⟨5, 10, 15, .ieee⟩
  | 3 => some ⟨4, 3, 7, .e4m3⟩
  | 4 => some ⟨5, 2, 15, .ieee⟩
  | 5 => some ⟨2, 3, 1, .none⟩
  | 6 => some ⟨3, 2, 3, .none⟩
  | 7 => some ⟨2, 1, 1, .none⟩
  | _ => none

/-- FP32. -/
def fp32 : Fmt := ⟨8, 23, 127, .ieee⟩

/-- The element format of a block format; none for MXINT8 (R123, R125). -/
def blockElem : Nat → Option Fmt
  | 8 => scalarFmt 3
  | 9 => scalarFmt 4
  | 10 => scalarFmt 5
  | 11 => scalarFmt 6
  | 12 => scalarFmt 7
  | _ => none

/-- The code is a block format (R123). -/
def isBlock (c : Nat) : Bool := decide (8 ≤ c) && decide (c ≤ 13)

/-- The code is a format of VLD, VST and VCVT, or of a cell on the wire (R123). -/
def isElemFmt (c : Nat) : Bool := decide (c ≤ 13)

/-- Element bits (R123). -/
def elemWidth : Nat → Nat
  | 0 => 32
  | 1 => 16
  | 2 => 16
  | 3 => 8
  | 4 => 8
  | 5 => 6
  | 6 => 6
  | 7 => 4
  | 8 => 8
  | 9 => 8
  | 10 => 6
  | 11 => 6
  | 12 => 4
  | 13 => 8
  | _ => 0

/-- Elements in one contribution cell (R127). -/
def cellElems : Nat → Nat
  | 0 => 64
  | 1 => 128
  | 2 => 128
  | 3 => 256
  | 4 => 256
  | 5 => 320
  | 6 => 320
  | 7 => 512
  | 8 => 224
  | 9 => 224
  | 10 => 320
  | 11 => 320
  | 12 => 480
  | 13 => 224
  | _ => 0

/-- First element byte of a contribution cell (R127). -/
def cellElemByte (c : Nat) : Nat := if isBlock c then 16 else 0

/-- Decode one scalar element (R124). -/
def decodeElem (f : Fmt) (n : Nat) : Val :=
  let man := n % 2 ^ f.man
  let ex := n / 2 ^ f.man % 2 ^ f.exp
  let neg := (n / 2 ^ (f.man + f.exp)) % 2 == 1
  let top := 2 ^ f.exp - 1
  let sgn : Int := if neg then -1 else 1
  if f.sp = .ieee ∧ ex = top then
    if man = 0 then .inf neg else .nan
  else if f.sp = .e4m3 ∧ ex = top ∧ man = 2 ^ f.man - 1 then .nan
  else if ex = 0 then mkVal neg (sgn * man) (1 - (f.bias : Int) - f.man)
  else .fin (sgn * (2 ^ f.man + man : Nat)) ((ex : Int) - f.bias - f.man)

/-- Multiply a value by 2^k. -/
def Val.scale (v : Val) (k : Int) : Val :=
  match v with
  | .fin m e => .fin m (e + k)
  | w => w

/-- The value of an element of any format with its scale byte (R125): scale 0xFF is NaN. -/
def elemVal (c raw x : Nat) : Val :=
  if isBlock c then
    if x = 255 then .nan
    else
      match blockElem c with
      | some f => (decodeElem f raw).scale ((x : Int) - 127)
      | none =>
        let n : Int := if raw < 128 then raw else (raw : Int) - 256
        mkVal false n ((x : Int) - 127 - 6)
  else
    match scalarFmt c with
    | some f => decodeElem f raw
    | none => .zero false

/-- Magnitude of an integer. -/
def mag (m : Int) : Nat := m.natAbs

/-- The exponent of the leading bit of m × 2^e. -/
def leadExp (m e : Int) : Int := (Nat.log2 (mag m) : Int) + e

/-- The largest finite magnitude of a format as an integer significand, and its exponent. -/
def maxFinite (f : Fmt) : Nat × Int :=
  match f.sp with
  | .ieee => (2 ^ (f.man + 1) - 1, (2 ^ f.exp - 2 : Int) - f.bias - f.man)
  | .e4m3 => (2 ^ (f.man + 1) - 2, (2 ^ f.exp - 1 : Int) - f.bias - f.man)
  | .none => (2 ^ (f.man + 1) - 1, (2 ^ f.exp - 1 : Int) - f.bias - f.man)

/-- Compare magnitudes a × 2^e and b × 2^g: true when the first is larger. -/
def magGt (a : Nat) (e : Int) (b : Nat) (g : Int) : Bool :=
  if e ≤ g then decide (b * 2 ^ (g - e).toNat < a) else decide (b < a * 2 ^ (e - g).toNat)

/-- The rounding modes (R132). -/
inductive Mode where
  | rne
  | rtz
  | sr
deriving DecidableEq, Repr

/-- The mode of MOD[3:2] (R132). -/
def modeOf : Nat → Option Mode
  | 0 => some .rne
  | 1 => some .rtz
  | 2 => some .sr
  | _ => none

/-- Round a × 2^-k to an integer magnitude; `neg` is the value's sign and r the draw of R134. -/
def roundMag (mode : Mode) (neg : Bool) (r a k : Nat) : Nat :=
  let lo := a / 2 ^ k
  let rem := a % 2 ^ k
  if rem = 0 then lo
  else
    match mode with
    | .rtz => lo
    | .rne => if 2 * rem > 2 ^ k ∨ (2 * rem = 2 ^ k ∧ lo % 2 = 1) then lo + 1 else lo
    | .sr =>
      if neg then
        if (2 ^ k - rem) * 65536 / 2 ^ k + r ≥ 65536 then lo else lo + 1
      else
        if rem * 65536 / 2 ^ k + r ≥ 65536 then lo + 1 else lo

/-- What a narrowing gives: the encoding, and whether it saturated, lost a NaN, or made an infinity of a finite value. -/
structure Narrowed where
  code : Nat
  sat : Bool
  nanLost : Bool
  ovf : Bool
deriving DecidableEq, Repr

/-- A sign bit at its place. -/
def signCode (f : Fmt) (neg : Bool) : Nat := if neg then 2 ^ (f.man + f.exp) else 0

/-- The encoding of an infinity. -/
def infCode (f : Fmt) (neg : Bool) : Nat := signCode f neg + (2 ^ f.exp - 1) * 2 ^ f.man

/-- The encoding of the largest finite value with a sign. -/
def maxCode (f : Fmt) (neg : Bool) : Nat :=
  signCode f neg +
    match f.sp with
    | .ieee => (2 ^ f.exp - 1) * 2 ^ f.man - 1
    | .e4m3 => 2 ^ (f.exp + f.man) - 2
    | .none => 2 ^ (f.exp + f.man) - 1

/-- The canonical NaN of R133. -/
def nanCode (f : Fmt) : Nat :=
  match f.sp with
  | .ieee => (2 ^ f.exp - 1) * 2 ^ f.man + 2 ^ (f.man - 1)
  | .e4m3 => 2 ^ (f.exp + f.man) - 1
  | .none => maxCode f false

/-- Encode the magnitude n × 2^q, q the quantum of its binade, which is not beyond the largest finite value. -/
def packMag (f : Fmt) (neg : Bool) (n : Nat) (q : Int) : Nat :=
  let qmin : Int := 1 - (f.bias : Int) - f.man
  signCode f neg + n + ((q - qmin).toNat) * 2 ^ f.man

/-- Narrow a value to a scalar format (R133, R134). -/
def narrow (f : Fmt) (mode : Mode) (r : Nat) (v : Val) : Narrowed :=
  match v with
  | .nan => ⟨nanCode f, false, decide (f.sp = .none), false⟩
  | .inf neg => if f.sp = .ieee then ⟨infCode f neg, false, false, false⟩ else ⟨maxCode f neg, true, false, false⟩
  | .zero neg => ⟨signCode f neg, false, false, false⟩
  | .fin m e =>
    let neg := decide (m < 0)
    let a := mag m
    let mx := maxFinite f
    if f.sp ≠ .ieee ∧ magGt a e mx.1 mx.2 then ⟨maxCode f neg, true, false, false⟩
    else
      let qmin : Int := 1 - (f.bias : Int) - f.man
      let q : Int := max qmin (leadExp m e - f.man)
      let n := if e ≥ q then a * 2 ^ (e - q).toNat else roundMag mode neg r a (q - e).toNat
      if magGt n q mx.1 mx.2 then
        if mode = .rtz then ⟨maxCode f neg, false, false, false⟩ else ⟨infCode f neg, false, false, true⟩
      else ⟨packMag f neg n q, false, false, false⟩

/-- The exact value of an FP32 lane. -/
def laneVal (w : Word) : Val := decodeElem fp32 w.toNat

/-- A NaN lane is a NaN. -/
def isNanW (w : Word) : Bool := decide (laneVal w = .nan)

/-- An FP32 result: a NaN's payload is the free value given; everything else is rounded to nearest even (R117). -/
def laneOf (nan : Word) (v : Val) : Word :=
  match v with
  | .nan => 0x7FC00000#32 ||| (nan &&& 0x803FFFFF#32)
  | w => BitVec.ofNat 32 (narrow fp32 .rne 0 w).code

/-- Exact product. -/
def Val.mul (x y : Val) : Val :=
  match x, y with
  | .nan, _ => .nan
  | _, .nan => .nan
  | .inf _, .zero _ => .nan
  | .zero _, .inf _ => .nan
  | .inf a, .inf b => .inf (a != b)
  | .inf a, .fin m _ => .inf (a != decide (m < 0))
  | .fin m _, .inf b => .inf (decide (m < 0) != b)
  | .zero a, .zero b => .zero (a != b)
  | .zero a, .fin m _ => .zero (a != decide (m < 0))
  | .fin m _, .zero b => .zero (decide (m < 0) != b)
  | .fin m e, .fin n g => .fin (m * n) (e + g)

/-- m × 2^e + n × 2^g with one exponent. -/
def addFin (m e n g : Int) : Int × Int :=
  if e ≤ g then (m + n * 2 ^ (g - e).toNat, e) else (m * 2 ^ (e - g).toNat + n, g)

/-- Exact sum; an exact zero of unlike addends is +0 under round to nearest even (IEEE 754). -/
def Val.add (x y : Val) : Val :=
  match x, y with
  | .nan, _ => .nan
  | _, .nan => .nan
  | .inf a, .inf b => if a = b then .inf a else .nan
  | .inf a, _ => .inf a
  | _, .inf b => .inf b
  | .zero a, .zero b => .zero (a && b)
  | .zero _, w => w
  | w, .zero _ => w
  | .fin m e, .fin n g => let p := addFin m e n g; mkVal false p.1 p.2

/-- Negation. -/
def Val.neg : Val → Val
  | .nan => .nan
  | .inf a => .inf (!a)
  | .zero a => .zero (!a)
  | .fin m e => .fin (-m) e

/-- Sign of a value; a NaN counts as not negative. -/
def Val.isNeg : Val → Bool
  | .nan => false
  | .inf a => a
  | .zero a => a
  | .fin m _ => decide (m < 0)

/-- Strictly less, false when either is NaN; zeros of either sign are equal (R117, R141). -/
def Val.lt (x y : Val) : Bool :=
  match x, y with
  | .nan, _ => false
  | _, .nan => false
  | .inf a, .inf b => a && !b
  | .inf a, _ => a
  | _, .inf b => !b
  | .zero _, .zero _ => false
  | .zero _, .fin n _ => decide (0 < n)
  | .fin m _, .zero _ => decide (m < 0)
  | .fin m e, .fin n g => decide ((addFin m e (-n) g).1 < 0)

/-- Integer square root by bits: k steps of two bits each. -/
def isqrtBits : Nat → Nat → Nat
  | 0, _ => 0
  | k + 1, n =>
    let r := 2 * isqrtBits k (n / 4)
    if (r + 1) * (r + 1) ≤ n then r + 1 else r

/-- Integer square root. -/
def isqrt (n : Nat) : Nat := isqrtBits (Nat.log2 n / 2 + 1) n

/-- A quotient with a sticky bit below it: exact enough for one rounding to FP32. -/
def stickyDiv (a b : Nat) : Nat × Int :=
  let q := a * 2 ^ 64 / b
  (2 * q + (if a * 2 ^ 64 % b = 0 then 0 else 1), -65)

/-- Exact or sticky quotient (R117: correctly rounded). -/
def Val.div (x y : Val) : Val :=
  let s := x.isNeg != y.isNeg
  match x, y with
  | .nan, _ => .nan
  | _, .nan => .nan
  | .inf _, .inf _ => .nan
  | .zero _, .zero _ => .nan
  | .inf _, _ => .inf s
  | _, .inf _ => .zero s
  | .zero _, _ => .zero s
  | _, .zero _ => .inf s
  | .fin m e, .fin n g =>
    let q := stickyDiv (mag m) (mag n)
    .fin (if s then -(q.1 : Int) else q.1) (q.2 + e - g)

/-- Square root (R117: correctly rounded). -/
def Val.sqrt (x : Val) : Val :=
  match x with
  | .nan => .nan
  | .zero a => .zero a
  | .inf a => if a then .nan else .inf false
  | .fin m e =>
    if m < 0 then .nan
    else
      let odd := decide (e % 2 ≠ 0)
      let a := mag m * 2 ^ (64 + (if odd then 1 else 0))
      let e' : Int := (if odd then e - 1 else e) - 64
      let r := isqrt a
      .fin (2 * r + (if r * r = a then 0 else 1) : Nat) (e' / 2 - 1)

/-- Reciprocal square root (R117: correctly rounded). -/
def Val.rsqrt (x : Val) : Val :=
  match x with
  | .nan => .nan
  | .zero a => .inf a
  | .inf a => if a then .nan else .zero false
  | .fin m e =>
    if m < 0 then .nan
    else
      let odd := decide (e % 2 ≠ 0)
      let a := mag m * 2 ^ (if odd then 1 else 0)
      let e' : Int := if odd then e - 1 else e
      let r := isqrt (2 ^ 160 / a)
      .fin (2 * r + (if r * r * a = 2 ^ 160 then 0 else 1) : Nat) (-81 - e' / 2)

/-- The larger of two lanes, or the smaller, as R475 gives: NaN is canonical, and -0 counts as less than +0. -/
def maxLane (big : Bool) (x y : Word) : Word :=
  let a := laneVal x
  let b := laneVal y
  if a = .nan ∨ b = .nan then 0x7FC00000#32
  else
    match a, b with
    | .zero p, .zero q => if big then (if p then y else x) else (if p then x else if q then y else x)
    | _, _ => if big then (if a.lt b then y else x) else (if b.lt a then y else x)

/-- One step of the generator (R135). -/
def srStep (g : Nat) : Nat := if g % 2 = 1 then (g / 2) ^^^ 0xB400 else g / 2

/-- A draw: sixteen steps, and the new state (R135). -/
def srDraw (g : Nat) : Nat := (List.range 16).foldl (fun x _ => srStep x) g

/-- The next k draws of the generator, first draw first. -/
def srDraws : Nat → Nat → List Nat
  | 0, _ => []
  | k + 1, g => srDraw g :: srDraws k (srDraw g)

/-- The generator after k draws. -/
def srAfter : Nat → Nat → Nat
  | 0, g => g
  | k + 1, g => srAfter k (srDraw g)

/-- The scale byte of a block of values (R136): none when a value is NaN or infinite. -/
def blockScale (c : Nat) (vs : List Val) : Option Nat :=
  if vs.any (fun v => match v with | .nan => true | .inf _ => true | _ => false) then none
  else
    let lead := vs.foldl (fun (acc : Option Int) v =>
      match v with
      | .fin m e => some (match acc with | none => leadExp m e | some l => max l (leadExp m e))
      | _ => acc) none
    let emax : Int := match c with
      | 12 => 2
      | 10 => 2
      | 11 => 4
      | 8 => 8
      | 9 => 15
      | _ => 0
    match lead with
    | none => some 0
    | some l => some (max 0 (min 254 (127 + l - emax))).toNat

/-- Narrow one element of a block with scale x (R136). -/
def narrowElem (c : Nat) (mode : Mode) (r x : Nat) (v : Val) : Narrowed :=
  let u := v.scale (127 - (x : Int))
  match blockElem c with
  | some f => narrow f mode r u
  | none =>
    match u with
    | .fin m e =>
      let neg := decide (m < 0)
      let k : Int := e + 6
      let n := if k ≥ 0 then mag m * 2 ^ k.toNat else roundMag mode neg r (mag m) (-k).toNat
      if neg then
        if n > 128 then ⟨128, true, false, false⟩ else ⟨(256 - n) % 256, false, false, false⟩
      else if n > 127 then ⟨127, true, false, false⟩ else ⟨n, false, false, false⟩
    | _ => ⟨0, false, false, false⟩

/-- What a narrowing of many lanes gives: the element codes, the scale bytes, and the flags of TILE_NUM_STATUS. -/
structure NarrowedLanes where
  codes : List Nat
  scales : List Nat
  sat : Nat
  nanLost : Bool
  mxNan : Bool
deriving DecidableEq, Repr

/-- Count and gather the results of single narrowings. -/
def gatherNarrowed (l : List Narrowed) (scales : List Nat) (mxNan : Bool) : NarrowedLanes :=
  ⟨l.map (·.code), scales, (l.filter (·.sat)).length, l.any (·.nanLost), mxNan⟩

/-- Narrow one block of 32 values with their draws (R136). -/
def narrowBlock (c : Nat) (mode : Mode) (vs : List Val) (rs : List Nat) : NarrowedLanes :=
  match blockScale c vs with
  | none => ⟨vs.map fun _ => 0, [255], 0, false, true⟩
  | some x => gatherNarrowed (List.zipWith (fun v r => narrowElem c mode r x v) vs rs) [x] false

/-- Narrow the 64 lanes of a vector to a format (R133, R136). The draws are used under SR only. -/
def narrowLanes (c : Nat) (mode : Mode) (vs : List Val) (rs : List Nat) : NarrowedLanes :=
  if isBlock c then
    let p := narrowBlock c mode (vs.take 32) (rs.take 32)
    let q := narrowBlock c mode (vs.drop 32) (rs.drop 32)
    ⟨p.codes ++ q.codes, p.scales ++ q.scales, p.sat + q.sat, p.nanLost || q.nanLost, p.mxNan || q.mxNan⟩
  else
    match scalarFmt c with
    | some f => gatherNarrowed (List.zipWith (fun v r => narrow f mode r v) vs rs) [] false
    | none => ⟨[], [], 0, false, false⟩

/-- Elements packed little-endian (R126): the area as one number. -/
def packElems (w : Nat) : List Nat → Nat
  | [] => 0
  | x :: r => x % 2 ^ w + 2 ^ w * packElems w r

/-- Element i of an area read as one little-endian number (R126). -/
def elemAt (w area i : Nat) : Nat := area / 2 ^ (w * i) % 2 ^ w

/-- The widening of a format code to FP32 by VLD (R131): the lane, and whether a finite value became an infinity. The bits
of FP32 and BF16 stand as they are; a NaN of a narrower format has a free payload. -/
def widenLane (nan : Word) (c raw x : Nat) : Word × Bool :=
  if c = 0 then (BitVec.ofNat 32 raw, false)
  else if c = 1 then (BitVec.ofNat 32 (raw * 65536), false)
  else
    let v := elemVal c raw x
    let n := narrow fp32 .rne 0 v
    match v with
    | .nan => (laneOf nan .nan, false)
    | .fin _ _ => (BitVec.ofNat 32 n.code, n.ovf)
    | _ => (BitVec.ofNat 32 n.code, false)

/-- The cleared accumulator (R110, R137). -/
def Acc.clear : Acc := ⟨true, false, false, false, 0, 0, 0⟩

/-- m × 2^e rounded to nearest even at weight 2^q, as an integer of that weight (R137). -/
def roundAt (m e q : Int) : Int :=
  if e ≥ q then m * 2 ^ (e - q).toNat
  else
    let n : Int := roundMag .rne (decide (m < 0)) 0 (mag m) (q - e).toNat
    if m < 0 then -n else n

/-- The first addend of R137: the leading bit stands at bit 80. -/
def Acc.place (a : Acc) (op : Nat) (m e : Int) : Acc :=
  let q := leadExp m e - 80
  { a with empty := false, op := op, w := roundAt m e q, e := q }

/-- Compare the held value with m × 2^e: negative, zero or positive difference held - addend. -/
def Acc.minus (a : Acc) (m e : Int) : Int := (addFin a.w a.e (-m) e).1

/-- Add one finite non-zero addend under SUM (R137). -/
def Acc.addFinite (a : Acc) (m e : Int) : Acc :=
  if a.empty then a.place 0 m e
  else
    let l := leadExp m e
    let b := if l - a.e > 80 then { a with w := roundAt a.w a.e (l - 80), e := l - 80 } else a
    { b with w := b.w + roundAt m e b.e }

/-- One addend of RACC under an operator: 0 SUM, 1 MAX, 2 MIN (R137, R139, R141). -/
def Acc.addend (a : Acc) (op : Nat) (v : Val) : Acc :=
  match v with
  | .nan => { a with nan := true, op := if a.empty then op else a.op }
  | .inf neg =>
    if neg then { a with infNeg := true, op := if a.empty then op else a.op }
    else { a with infPos := true, op := if a.empty then op else a.op }
  | .zero _ =>
    if op = 0 then a
    else if a.empty then { a with empty := false, op := op, w := 0, e := 0 }
    else if (op = 1 ∧ a.w < 0) ∨ (op = 2 ∧ a.w > 0) then { a with w := 0, e := 0 }
    else a
  | .fin m e =>
    if op = 0 then a.addFinite m e
    else if a.empty then a.place op m e
    else if (op = 1 ∧ a.minus m e < 0) ∨ (op = 2 ∧ a.minus m e > 0) then a.place op m e
    else a

/-- An addend moves the window of a non-empty accumulator (R137). -/
def Acc.shifts (a : Acc) (op : Nat) (v : Val) : Bool :=
  match v with
  | .fin m e => decide (op = 0) && !a.empty && decide (leadExp m e - a.e > 80)
  | _ => false

/-- An addend loses bits below the window (R137): a rounded addend of the counter banks. -/
def Acc.rounds (a : Acc) (op : Nat) (v : Val) : Bool :=
  match v with
  | .fin m e =>
    let b := a.addend op v
    decide (op = 0) && !a.empty && decide (e < b.e) && decide (mag m % 2 ^ (b.e - e).toNat ≠ 0)
  | _ => false

/-- What RRD reads from an accumulator (R142): the lane, and whether a finite value became an infinity. -/
def Acc.read (a : Acc) (mode : Mode) (r : Nat) : Word × Bool :=
  let inf (neg : Bool) : Word := BitVec.ofNat 32 (infCode fp32 neg)
  if a.nan then (0x7FC00000, false)
  else if a.op = 0 ∧ a.infPos ∧ a.infNeg then (0x7FC00000, false)
  else if a.op = 0 ∧ a.infPos then (inf false, false)
  else if a.op = 0 ∧ a.infNeg then (inf true, false)
  else if a.op = 1 ∧ a.infPos then (inf false, false)
  else if a.op = 2 ∧ a.infNeg then (inf true, false)
  else if a.op = 1 ∧ a.empty ∧ a.infNeg then (inf true, false)
  else if a.op = 2 ∧ a.empty ∧ a.infPos then (inf false, false)
  else if a.empty ∨ a.w = 0 then (0, false)
  else
    let n := narrow fp32 mode r (.fin a.w a.e)
    (BitVec.ofNat 32 n.code, n.ovf)

/-- The 64-lane sum in a pairwise tree over the lanes in the order given (R117): each level halves the list. -/
def sumTree : Nat → Word → List Word → Word
  | 0, _, l => l.headD 0
  | k + 1, nan, l =>
    let h := l.length / 2
    laneOf nan ((laneVal (sumTree k nan (l.take h))).add (laneVal (sumTree k nan (l.drop h))))

/-- One chunk of 32 products added into an FP32 tensor accumulator with one rounding (R146). -/
def tmmaChunk (nan : Word) (acc : Word) (xs ys : List Val) : Word :=
  let s := (List.zipWith Val.mul xs ys).foldl Val.add (.zero false)
  laneOf nan ((laneVal acc).add s)

end Sys2Proof.Machine
end

