-- ==== Sys2Proof/Machine/PageMap.lean ====
section
/-! DEFINITION. The page map (R38), which pages a block fits (R5, R6, R9), and the half of a page. -/

namespace Sys2Proof.Machine

/-- The rows of the page map (R38). -/
inductive PageKind where
  | blk
  | mgmt
  | ftu
  | pwr
  | partCtrl
  | partMap
  | sec
  | rtp
  | ses
  | sesStat
  | port
  | mem
  | memFill
  | wv
  | wvSr
  | funnel
  | egress
  | chan
  | prf
  | bank
  | calm
  | spr
  | arbStack
  | arbPort
  | arbBridge
  | arbFunnel
  | tile
deriving DecidableEq, Repr

/-- Every row, in the order of the map. -/
def pageKinds : List PageKind :=
  [.blk, .mgmt, .ftu, .pwr, .partCtrl, .partMap, .sec, .rtp, .ses, .sesStat, .port, .mem, .memFill, .wv, .wvSr, .funnel,
   .egress, .chan, .prf, .bank, .calm, .spr, .arbStack, .arbPort, .arbBridge, .arbFunnel, .tile]

/-- The page number (address / 4096) of the first page of a row. -/
def kindBase : PageKind → Nat
  | .blk => 0x0
  | .mgmt => 0x10
  | .ftu => 0x20
  | .pwr => 0x30
  | .partCtrl => 0x40
  | .partMap => 0x41
  | .sec => 0x50
  | .rtp => 0x51
  | .ses => 0x80
  | .sesStat => 0x90
  | .port => 0x100
  | .mem => 0x200
  | .memFill => 0x208
  | .wv => 0x400
  | .wvSr => 0x410
  | .funnel => 0x500
  | .egress => 0x502
  | .chan => 0x510
  | .prf => 0x580
  | .bank => 0x590
  | .calm => 0x600
  | .spr => 0x700
  | .arbStack => 0x710
  | .arbPort => 0x720
  | .arbBridge => 0x760
  | .arbFunnel => 0x770
  | .tile => 0x1000

/-- How many pages a row has. -/
def kindCount : PageKind → Nat
  | .blk => 1
  | .mgmt => 2
  | .ftu => 2
  | .pwr => 2
  | .partCtrl => 1
  | .partMap => 8
  | .sec => 1
  | .rtp => 2
  | .ses => 2
  | .sesStat => 64
  | .port => 64
  | .mem => 8
  | .memFill => 2
  | .wv => 2
  | .wvSr => 64
  | .funnel => 2
  | .egress => 1
  | .chan => 64
  | .prf => 2
  | .bank => 64
  | .calm => 2
  | .spr => 2
  | .arbStack => 8
  | .arbPort => 64
  | .arbBridge => 16
  | .arbFunnel => 2
  | .tile => 1088

/-- TYPE of PAGE_ID. -/
def kindType : PageKind → Nat
  | .blk => 0x01
  | .mgmt => 0x02
  | .ftu => 0x03
  | .pwr => 0x04
  | .partCtrl => 0x05
  | .partMap => 0x05
  | .sec => 0x06
  | .rtp => 0x07
  | .ses => 0x08
  | .sesStat => 0x08
  | .port => 0x09
  | .mem => 0x0A
  | .memFill => 0x0A
  | .wv => 0x0B
  | .wvSr => 0x0B
  | .funnel => 0x0C
  | .egress => 0x0C
  | .chan => 0x0C
  | .prf => 0x0D
  | .bank => 0x0D
  | .calm => 0x0E
  | .spr => 0x0F
  | .arbStack => 0x10
  | .arbPort => 0x10
  | .arbBridge => 0x10
  | .arbFunnel => 0x10
  | .tile => 0x11

/-- The page number of an instance of a row. -/
def pageNo (k : PageKind) (i : Nat) : Nat := kindBase k + i

/-- The byte address of a register. -/
def regAddr (k : PageKind) (i off : Nat) : Nat := pageNo k i * 4096 + off

/-- The row and the instance of a page number, if a row covers it (R38). -/
def pageOf (pg : Nat) : Option (PageKind × Nat) :=
  match pageKinds.find? (fun k => decide (kindBase k ≤ pg) && decide (pg < kindBase k + kindCount k)) with
  | some k => some (k, pg - kindBase k)
  | none => none

/-- Half B and the bridge are fitted (R5, R8). -/
def BlockCfg.halfB (c : BlockCfg) : Bool := decide (c.variant = 1)

/-- Tensor arrays are fitted (R5, R8). -/
def BlockCfg.tensor (c : BlockCfg) : Bool := decide (c.variant ≠ 3)

/-- Fitted halves. -/
def BlockCfg.halves (c : BlockCfg) : Nat := if c.halfB then 2 else 1

/-- Shadow reducers of one half, spares excluded (R5). -/
def BlockCfg.srPerHalf (c : BlockCfg) : Nat := if c.fullShadow then 16 else 8

/-- A half is fitted. -/
def BlockCfg.hasHalf (c : BlockCfg) (h : Half) : Bool :=
  match h with
  | .a => true
  | .b => c.halfB

/-- The combinations R8 allows. -/
def BlockCfg.legal (c : BlockCfg) : Bool := decide (1 ≤ c.variant) && decide (c.variant ≤ 3)

/-- Spare shadow reducers of one half (R435). -/
def sparesPerHalf : Nat := 2

/-- Physical shadow reducers of the block, spares included: the shadow-reducer pages present (R38). -/
def BlockCfg.srPages (c : BlockCfg) : Nat := c.halves * (c.srPerHalf + sparesPerHalf)

/-- Counter banks of the block: the bank pages present (R38). -/
def BlockCfg.bankPages (c : BlockCfg) : Nat := c.halves * 32

/-- The half of an instance of a row; none for a block page (R6, R39). -/
def kindHalf (c : BlockCfg) (k : PageKind) (i : Nat) : Option Half :=
  match k with
  | .blk => none
  | .partCtrl => none
  | .partMap => none
  | .sec => none
  | .egress => none
  | .sesStat => some .a
  | .port => some (if i < 32 then .a else .b)
  | .mem => some (if i < 4 then .a else .b)
  | .chan => some (if i < 32 then .a else .b)
  | .wvSr => some (if i < c.srPerHalf + sparesPerHalf then .a else .b)
  | .bank => some (if i < 32 then .a else .b)
  | .arbStack => some (if i < 4 then .a else .b)
  | .arbPort => some (if i < 32 then .a else .b)
  | .arbBridge => some .a
  | .tile => some (if i < 544 then .a else .b)
  | _ => some (halfOf i)

/-- A page's unit is fitted (R5, R6). -/
def kindFitted (c : BlockCfg) (k : PageKind) (i : Nat) : Bool :=
  match k with
  | .arbBridge => c.halfB
  | _ =>
    match kindHalf c k i with
    | some h => c.hasHalf h
    | none => true

/-- A page that a row covers is missing from the map: shadow reducers and banks beyond the count fitted (R38). -/
def kindBeyond (c : BlockCfg) (k : PageKind) (i : Nat) : Bool :=
  match k with
  | .wvSr => decide (c.srPages ≤ i)
  | .bank => decide (c.bankPages ≤ i)
  | _ => false

/-- The pages that R40 keeps ON. -/
def keptOn : PageKind → Bool
  | .blk => true
  | .mgmt => true
  | .sec => true
  | .rtp => true
  | .partCtrl => true
  | .partMap => true
  | _ => false

/-- SHARED of PAGE_OWNER: the page serves several partitions through shares. -/
def kindShared : PageKind → Bool
  | .port => true
  | .arbStack => true
  | .arbPort => true
  | .arbBridge => true
  | .arbFunnel => true
  | _ => false

/-- The header of a page after reset (R40 to R44). -/
def pageReset (pg : Nat) : Page :=
  let up := match pageOf pg with
    | some (k, _) => keptOn k
    | none => false
  { st := if up then .on else .off, restart := false, enable := up, freeze := false, err := 0, errCnt := 0,
    ftLast := 2 ^ 64 - 1, view := false, snapSeq := 0, snap := .empty, owner := 0, gen := 0, evtAt := none }

end Sys2Proof.Machine
end

