-- ==== Sys2Proof/Machine/Regs.lean ====
section
/-! DEFINITION. The registers of every page at 0x040 and above: their access codes (R14), the bits that are not reserved,
whether they are staged or live (R46), and their reset values; the words that read as one 64-bit register (R37). -/

namespace Sys2Proof.Machine

/-- How the management port may write a register (R14, R46). -/
inductive RegAcc where
  | live
  | staged
  | ro
  | wo
  | w1s
  | w1c
  /-- Written only while the partition of the entry is FREE (R307). -/
  | whileFree
  /-- Written under R94: only for a tile of PID 0. -/
  | program
deriving DecidableEq, Repr

/-- One row of a register table: the words at lo, lo + step, … up to hi. -/
structure RegRow where
  lo : Nat
  hi : Nat
  step : Nat
  acc : RegAcc
  mask : Nat
  reset : Nat
deriving DecidableEq, Repr

/-- A row of one word. -/
def reg1 (off : Nat) (acc : RegAcc) (mask reset : Nat) : RegRow := ⟨off, off, 4, acc, mask, reset⟩

/-- A row of read-only words that reset to zero. -/
def regRo (lo hi : Nat) : RegRow := ⟨lo, hi, 4, .ro, 0xFFFFFFFF, 0⟩

/-- A row of read-only words that reset to all ones. -/
def regOnes (lo hi : Nat) : RegRow := ⟨lo, hi, 4, .ro, 0xFFFFFFFF, 0xFFFFFFFF⟩

/-- Tables of R7, R47 and R456. -/
def blkRegs : List RegRow :=
  [regRo 0x040 0x058, reg1 0x060 .live 0xFFFFFFFF 0xFFFFFFFF, regRo 0x080 0x104]

/-- Table of the windows (R48) and R451. -/
def mgmtRegs : List RegRow :=
  [reg1 0x040 .live 0xFFFFFFFF 0,
   ⟨0x100, 0x160, 0x20, .live, 0x00FFFFFF, 0⟩, ⟨0x104, 0x164, 0x20, .live, 0x3, 0⟩,
   ⟨0x108, 0x168, 0x20, .live, 0xFFFFFFFF, 0⟩, ⟨0x10C, 0x16C, 0x20, .live, 0xFFFFFFFF, 0⟩,
   ⟨0x110, 0x170, 0x20, .ro, 0xFFFFFFFF, 0⟩, ⟨0x114, 0x174, 0x20, .ro, 0xFFFFFFFF, 0⟩,
   ⟨0x118, 0x178, 0x20, .ro, 0x7, 0⟩]

/-- FTU registers (chapter 3). -/
def ftuRegs : List RegRow :=
  [regRo 0x040 0x040, regOnes 0x048 0x04C, regRo 0x050 0x05C, reg1 0x060 .staged 0xFFFFFFFF 2000,
   reg1 0x064 .staged 0xFFFFFFFF 512, regRo 0x068 0x09C]

/-- PWR registers (R359). -/
def pwrRegs : List RegRow :=
  [regRo 0x040 0x058, reg1 0x05C .staged 0xFFFF 0x0569, reg1 0x060 .ro 0x1FFF0F 0x8, regRo 0x064 0x064,
   regOnes 0x068 0x06C, reg1 0x070 .live 0x3F 0, regRo 0x074 0x078]

/-- PART control registers (R308). -/
def partCtrlRegs : List RegRow :=
  [reg1 0x040 .live 0x3F0F 0, reg1 0x044 .live 0x7FFFFF 0, regRo 0x048 0x048, reg1 0x04C .live 0xFFF 0x40,
   regRo 0x050 0x05C]

/-- One partition entry, by offset from its base (R307). -/
def partEntryRegs : List RegRow :=
  [reg1 0x000 .ro 0xFFFF0307 0x100, reg1 0x004 .whileFree 0x1FFF0FFF 0, reg1 0x008 .whileFree 0x7FF 0,
   regRo 0x00C 0x00C, reg1 0x010 .live 0x7FFFF 0, regRo 0x014 0x014, ⟨0x018, 0x0A4, 4, .whileFree, 0xFFFFFFFF, 0⟩,
   reg1 0x0A8 .live 0xFFFFFFFF 0, reg1 0x0AC .live 0xCFFF0FFF 0x00400040,
   ⟨0x0B0, 0x0B8, 4, .live, 0x8FFFFFFF, 0x80400000⟩, regRo 0x0BC 0x0BC]

/-- SEC registers (R345). -/
def secRegs : List RegRow :=
  [regRo 0x040 0x040, reg1 0x044 .w1s 0x1 0, regRo 0x048 0x054, reg1 0x058 .live 0xFF 0, regRo 0x05C 0x06C]

/-- RTP mailbox registers (R347, R452). -/
def rtpRegs : List RegRow :=
  [regRo 0x040 0x054, reg1 0x058 .live 0xFFFF 850, regRo 0x05C 0x06C]

/-- SES engine registers (R179). -/
def sesRegs : List RegRow :=
  [reg1 0x040 .live 0xFFF 0, reg1 0x044 .live 0xFFFFFFFF 0, reg1 0x048 .live 0xFFFFFFFF 0,
   reg1 0x04C .live 0xFFFFFFFF 0, regRo 0x050 0x050, reg1 0x054 .live 0x30FFF 0, regRo 0x058 0x07C, reg1 0x080 .live 0x1FFF 0,
   regOnes 0x084 0x084, regRo 0x088 0x0B4, reg1 0x0B8 .live 0x3FFF 0, regRo 0x0BC 0x0BC, reg1 0x0C0 .live 0x01FFFFFF 0,
   reg1 0x0C4 .live 0xFFFFFFFF 20000000, regRo 0x0C8 0x0C8]

/-- SES status words (R180). -/
def sesStatRegs : List RegRow := [regRo 0x040 0xE3C]

/-- PORT registers (R277 to R279). -/
def portRegs : List RegRow :=
  [regRo 0x040 0x040, reg1 0x044 .staged 0xFFFF 0x2010, reg1 0x048 .staged 0x1F 20, reg1 0x04C .live 0x1 0,
   regOnes 0x050 0x054, regRo 0x058 0x058, reg1 0x05C .wo 0x1 0, regRo 0x060 0x088, reg1 0x08C .live 0xFF 0,
   regRo 0x090 0x098, ⟨0x400, 0x7FC, 4, .live, 0x8FFFFFFF, 0x80400000⟩, ⟨0x800, 0x9FC, 4, .live, 0xFFFFFFFF, 0xFFFFFFFF⟩,
   regRo 0xA00 0xCFC]

/-- MEM stack registers (R300). -/
def memRegs : List RegRow :=
  [regRo 0x040 0x040, reg1 0x044 .live 0x1F 0, regRo 0x048 0x064, reg1 0x068 .live 0x3F01 0, regRo 0x06C 0x07C,
   reg1 0x080 .live 0x7FFFF 0, regRo 0x084 0x08C]

/-- MEM fill and patrol engine registers (R301): the RTP writes the command words, the port reads them. -/
def memFillRegs : List RegRow :=
  [regRo 0x040 0x050, reg1 0x054 .ro 0xFFFFFFFF 200000, reg1 0x058 .ro 0xFFFFFFFF 24, regRo 0x05C 0x064]

/-- WV control registers (R229, R236). -/
def wvRegs : List RegRow :=
  [regRo 0x040 0x040, reg1 0x044 .staged 0xFFFFFFFF 1000000, reg1 0x048 .staged 0xFFFFFFFF 2000000,
   regRo 0x04C 0x060,
   ⟨0x120, 0x8E0, 0x20, .live, 0x00073F01, 0⟩, ⟨0x124, 0x8E4, 0x20, .live, 0xFFFFFFFF, 0⟩,
   ⟨0x128, 0x8E8, 0x20, .live, 0xFFFFFFFF, 0⟩, ⟨0x12C, 0x8EC, 0x20, .live, 0xFFFFFFFF, 0⟩,
   ⟨0x130, 0x8F0, 0x20, .live, 0x3F0F, 0⟩,
   ⟨0x134, 0x8F4, 0x20, .live, 0, 0⟩, ⟨0x138, 0x8F8, 0x20, .live, 0, 0⟩, ⟨0x13C, 0x8FC, 0x20, .live, 0, 0⟩]

/-- WV shadow-reducer registers (R237). -/
def wvSrRegs : List RegRow := [regRo 0x040 0x04C]

/-- TRC funnel registers (R386). -/
def funnelRegs : List RegRow :=
  [reg1 0x040 .staged 0xFFFFFFFF 5000, reg1 0x044 .staged 0xFFFFFFFF 50000, reg1 0x048 .staged 0xBF 0, regRo 0x04C 0x060]

/-- TRC egress registers (R387). -/
def egressRegs : List RegRow :=
  [reg1 0x040 .staged 0x1F 20, reg1 0x044 .staged 0xFFF 256, regRo 0x048 0x050]

/-- TRC channel registers (R388). -/
def chanRegs : List RegRow :=
  [reg1 0x040 .staged 0xFF 0, reg1 0x044 .staged 0xF 1, reg1 0x048 .staged 0x1FFFFF 0, ⟨0x04C, 0x058, 4, .staged, 0xFFFFFFFF, 0⟩,
   regRo 0x05C 0x05C, reg1 0x060 .staged 0xFF03 0, reg1 0x064 .staged 0xFFFFFFFF 2000, regRo 0x068 0x068,
   reg1 0x06C .wo 0x1 0, regRo 0x070 0x098,
   ⟨0x100, 0x130, 0x10, .staged, 0x7FFFF, 0⟩, ⟨0x104, 0x134, 0x10, .staged, 0xFFFFF, 0⟩,
   ⟨0x108, 0x138, 0x10, .staged, 0x8000001F, 0⟩]

/-- PRF control registers (R407). -/
def prfRegs : List RegRow :=
  [⟨0x040, 0x048, 4, .staged, 0xFFFFFFFF, 0⟩, reg1 0x04C .staged 0xFFFFFFFF 1000000, regRo 0x050 0x058]

/-- PRF counter-bank registers (R408). -/
def bankRegs : List RegRow :=
  [reg1 0x040 .staged 0x1FFFFF 0, reg1 0x044 .staged 0x3 0, ⟨0x048, 0x050, 4, .staged, 0xFFFFFFFF, 0⟩, regRo 0x054 0x054,
   regOnes 0x058 0x05C, regRo 0x060 0x06C, reg1 0x070 .live 0x03FF0001 0,
   ⟨0x100, 0x17C, 4, .staged, 0x807FFFFF, 0⟩, regRo 0x180 0x27C]

/-- CALM registers (R430). -/
def calmRegs : List RegRow :=
  [regRo 0x040 0x040, reg1 0x044 .live 0x3 0, reg1 0x048 .live 0xFFFFFFFF 0, reg1 0x04C .live 0xFFFFFFFF 0,
   regOnes 0x050 0x064, regRo 0x068 0x080, reg1 0x084 .wo 0x3 0, regRo 0x088 0x08C]

/-- SPR registers (R450). -/
def sprRegs : List RegRow :=
  [reg1 0x040 .live 0x1F 0, reg1 0x044 .live 0x0FFF03FF 0, regRo 0x048 0x048, reg1 0x04C .live 0xFFFFFFFF 0,
   reg1 0x050 .staged 0xFFFFFFFF 1000000, reg1 0x054 .staged 0xFFFFFFFF 5000, regRo 0x058 0x05C,
   reg1 0x060 .live 0xFFFFF 0, regRo 0x064 0x06C, reg1 0x070 .live 0xFFFFFFFF 4096,
   reg1 0x074 .live 0xFFFFFFFF 0x40000000, reg1 0x078 .live 0xFFFFFFFF 1024, reg1 0x07C .live 0xFFFFFFFF 16,
   reg1 0x080 .live 0xFFFFFFFF 256, ⟨0x100, 0x17C, 4, .staged, 0x7F7F7F7F, 0⟩]

/-- ARB registers (R255). -/
def arbRegs : List RegRow :=
  [reg1 0x040 .staged 0x1 0, reg1 0x044 .live 0xFFFFFFFF 0, regRo 0x048 0x048, reg1 0x04C .live 0xFFFFFFFF 1800000,
   regRo 0x050 0x054, ⟨0x080, 0x0BC, 4, .staged, 0xBFBFBFBF, 0⟩,
   ⟨0x100, 0x4E0, 0x20, .ro, 0xFFFFFFFF, 0⟩, ⟨0x104, 0x4E4, 0x20, .ro, 0xFFFFFFFF, 0⟩,
   ⟨0x108, 0x4E8, 0x20, .live, 0xFFFFFFFF, 0⟩, ⟨0x10C, 0x4EC, 0x20, .ro, 0xFFFFFFFF, 0⟩,
   ⟨0x110, 0x4F0, 0x20, .ro, 0xFFFFFFFF, 0⟩, ⟨0x114, 0x4F4, 0x20, .ro, 0xFFFFFFFF, 0⟩,
   ⟨0x118, 0x4F8, 0x20, .ro, 0xFFFFFFFF, 0⟩]

/-- TILE registers (chapters 4, 5, R389, R425). -/
def tileRegs : List RegRow :=
  [regRo 0x040 0x044, reg1 0x048 .live 0xFFFF0047 0x01000002, regRo 0x050 0x064, regOnes 0x068 0x06C, regRo 0x070 0x078,
   ⟨0x07C, 0x084, 4, .program, 0xFFFFFFFF, 0⟩, reg1 0x088 .live 0xFFFFFFFF 20000, regRo 0x100 0x17C,
   reg1 0x180 .w1c 0xF 0, regRo 0x184 0x184, reg1 0x188 .program 0xFFFF 0, regRo 0x200 0x220,
   regOnes 0x224 0x228]

/-- The register table of a page's row. -/
def kindRegs : PageKind → List RegRow
  | .blk => blkRegs
  | .mgmt => mgmtRegs
  | .ftu => ftuRegs
  | .pwr => pwrRegs
  | .partCtrl => partCtrlRegs
  | .partMap => partEntryRegs
  | .sec => secRegs
  | .rtp => rtpRegs
  | .ses => sesRegs
  | .sesStat => sesStatRegs
  | .port => portRegs
  | .mem => memRegs
  | .memFill => memFillRegs
  | .wv => wvRegs
  | .wvSr => wvSrRegs
  | .funnel => funnelRegs
  | .egress => egressRegs
  | .chan => chanRegs
  | .prf => prfRegs
  | .bank => bankRegs
  | .calm => calmRegs
  | .spr => sprRegs
  | .arbStack => arbRegs
  | .arbPort => arbRegs
  | .arbBridge => arbRegs
  | .arbFunnel => arbRegs
  | .tile => tileRegs

/-- The offset a register's row is looked up at: within its entry for a partition map, where it stands elsewhere. -/
def rowOff (k : PageKind) (off : Nat) : Nat :=
  match k with
  | .partMap => if off < 0x100 then 4096 else (off - 0x100) % 0x1E0
  | _ => off

/-- The partition entry an offset of PART map page i lies in (R307). -/
def partEntryPid (i off : Nat) : Nat := 8 * i + (off - 0x100) / 0x1E0

/-- The row of a register, if the page lays one out there. -/
def regRow (k : PageKind) (off : Nat) : Option RegRow :=
  let o := rowOff k off
  (kindRegs k).find? fun r => decide (r.lo ≤ o) && decide (o ≤ r.hi) && decide ((o - r.lo) % r.step = 0)

/-- The reset value of a stored register word. PID 0's partition node is the one word whose reset differs within its row;
the leaves and the map entries of the other words are one value each (R307). -/
def regResetAt (addr : Nat) : Word :=
  match pageOf (addr / 4096) with
  | none => 0
  | some (k, i) =>
    let off := addr % 4096
    match k with
    | .partMap => if i = 0 ∧ off = 0x1A8 then 0xFFFFFFFF else
        match regRow k off with
        | some r => BitVec.ofNat 32 r.reset
        | none => 0
    | _ =>
      match regRow k off with
      | some r => BitVec.ofNat 32 r.reset
      | none => 0

/-- IDCODE of the TAP (R464): the layout version of the BLK page, the part number of the variant, TAP_MFR, and 1. -/
def idcode (c : BlockCfg) : Word :=
  let part := if c.variant = 1 then 0x4808 else if c.variant = 2 then 0x4804 else 0x4856
  BitVec.ofNat 32 (Config.layoutVersion (kindType .blk) % 16 * 2 ^ 28 + part * 2 ^ 12 + c.tapMfr % 2048 * 2 + 1)

/-- The data register that an instruction of the TAP selects, as it is captured (R464): IDCODE; the bypass bit, captured as 0
(PRESUMED, the standard of the TAP); the boundary cells, which the spec does not list. No command of the table reaches the TAP. -/
def tapCapture (c : BlockCfg) : TapInstr → Option Word
  | .idcode => some (idcode c)
  | .bypass => some 0
  | .samplePreload => none
  | .extest => none

/-- The lower words of the 64-bit registers of each row (R37): the upper word follows at the next offset. -/
def pairsOf : PageKind → List Nat
  | .blk => [0x050]
  | .ftu => [0x048, 0x078, 0x080, 0x088, 0x090, 0x098]
  | .pwr => [0x054, 0x068]
  | .partCtrl => [0x058]
  | .sec => [0x048, 0x05C]
  | .ses => [0x044]
  | .port => [0x050, 0x060, 0x068, 0x070]
  | .mem => [0x070, 0x088]
  | .funnel => [0x050, 0x058]
  | .egress => [0x048]
  | .chan => [0x050, 0x070, 0x078, 0x080, 0x090]
  | .prf => [0x044, 0x050]
  | .bank => [0x048, 0x058] ++ (List.range 32).map fun i => 0x180 + 8 * i
  | .calm => [0x048, 0x050, 0x058, 0x060]
  | .spr => [0x064]
  | .sesStat => (List.range 128).map fun i => 0x050 + 0x38 * (i / 2) + 8 * (i % 2)
  | .tile => [0x050, 0x068, 0x080, 0x200, 0x208, 0x224]
  | _ => []

/-- An offset of a page is the lower word of a 64-bit register: PAGE_FTLAST on every page, and the page's own. -/
def isPairLow (k : PageKind) (off : Nat) : Bool :=
  decide (off = 0x018) || (pairsOf k).contains off ||
    (decide (k = .partMap) && ([0x018, 0x020].contains (rowOff k off)))

end Sys2Proof.Machine
end

