-- ==== Sys2Proof/Machine/Ops.lean ====
section
/-! DEFINITION. The named operations over registers, page headers and time that every family shares: reading and writing
a register word, a page's state, which FT a half has (R54, R56), drawing a free value, and tiles by number. -/

namespace Sys2Proof.Machine

/-- What a command answers with. -/
abbrev Out := Host.Outcome State Fault Refusal

/-- Draw a free value: apply a constant without a body to the model's counter, and advance the counter. -/
def State.draw {α : Type} (s : State) (f : Nat → α) : α × State := (f s.fresh, { s with fresh := s.fresh + 1 })

/-! ### Register words -/

/-- A stored register word by its byte address. -/
def getReg (s : State) (addr : Nat) : Word := (s.regs.find addr).getD (regResetAt addr)

/-- Store a register word; the reset value takes the entry away. -/
def putReg (s : State) (addr : Nat) (w : Word) : State :=
  { s with regs := if w = regResetAt addr then s.regs.drop addr else s.regs.set addr w }

/-- A stored word of a page. -/
def kreg (s : State) (k : PageKind) (i off : Nat) : Word := getReg s (regAddr k i off)

/-- Store a word of a page. -/
def setKreg (s : State) (k : PageKind) (i off : Nat) (w : Word) : State := putReg s (regAddr k i off) w

/-- A staged word of a page as the page's last STARTING took it (R46). -/
def kregF (s : State) (k : PageKind) (i off : Nat) : Word :=
  (s.inForce.find (regAddr k i off)).getD (regResetAt (regAddr k i off))

/-- A staged word in force, as a number. -/
def kregFN (s : State) (k : PageKind) (i off : Nat) : Nat := (kregF s k i off).toNat

/-- A stored word of a page as a number. -/
def kregN (s : State) (k : PageKind) (i off : Nat) : Nat := (kreg s k i off).toNat

/-- Add to a wrapping 32-bit count. -/
def incReg (s : State) (k : PageKind) (i off n : Nat) : State :=
  setKreg s k i off (kreg s k i off + BitVec.ofNat 32 n)

/-- Add to a count that saturates at all ones. -/
def satReg (s : State) (k : PageKind) (i off n : Nat) : State :=
  setKreg s k i off (BitVec.ofNat 32 (satAdd (2 ^ 32 - 1) (kregN s k i off) n))

/-- A 64-bit register's value: lower word first. -/
def kreg64 (s : State) (k : PageKind) (i off : Nat) : Nat := kregN s k i off + 2 ^ 32 * kregN s k i (off + 4)

/-- Store a 64-bit register. -/
def setKreg64 (s : State) (k : PageKind) (i off n : Nat) : State :=
  setKreg (setKreg s k i off (BitVec.ofNat 32 n)) k i (off + 4) (BitVec.ofNat 32 (n / 2 ^ 32))

/-- Add to a wrapping 64-bit count. -/
def incReg64 (s : State) (k : PageKind) (i off n : Nat) : State := setKreg64 s k i off (kreg64 s k i off + n)

/-! ### Who holds time -/

/-- The half in charge: it distributes FT and the power budgets (R56, chapter 20). -/
def mainHalf (s : State) : Half :=
  if s.charge.a.primary || !s.cfg.halfB then .a else .b

/-- The half whose FTU gives a half its time (R56): the primary's, and a half's own while it is not NORMAL (R448). -/
def timeHalf (s : State) (h : Half) : Half :=
  if (s.charge.get h).st = .normal then mainHalf s else h

/-- The header of a page. -/
def getPage (s : State) (pg : Nat) : Page := (s.pages.find pg).getD (pageReset pg)

/-- The state of an instance of a row. -/
def pageSt (s : State) (k : PageKind) (i : Nat) : PageSt := (getPage s (pageNo k i)).st

/-- A page is ON. -/
def pageIsOn (s : State) (k : PageKind) (i : Nat) : Bool := decide (pageSt s k i = .on)

/-- A page is ON and not frozen. -/
def pageRuns (s : State) (k : PageKind) (i : Nat) : Bool :=
  pageIsOn s k i && !(getPage s (pageNo k i)).freeze

/-- A lock state in which the FTU vouches for its FT. -/
def lockHasTime : LockSt → Bool
  | .locked => true
  | .coasting => true
  | .acquiring => false
  | .timeLost => false

/-- One FTU has time: its page is ON and it is LOCKED or COASTING (R54, R70). -/
def ftuHasTime (s : State) (h : Half) : Bool := pageIsOn s .ftu (halfIdx h) && lockHasTime (s.ftu.get h).lock

/-- A half has time (R54): its own FTU does, and so does the FTU that gives it its FT. -/
def hasTime (s : State) (h : Half) : Bool := ftuHasTime s h && ftuHasTime s (timeHalf s h)

/-- The count a half reads, in 1/2304 ns (R56, R241). -/
def countOf (s : State) (h : Half) : Nat := (s.ftu.get (timeHalf s h)).count

/-- A count's whole nanoseconds. -/
def nsOf (c : Nat) : Nat := c / 2304

/-- The first whole ns at or after a count. -/
def nsCeil (c : Nat) : Nat := (c + 2303) / 2304

/-- A count in 1/16 ns (R367). -/
def sixteenths (c : Nat) : Nat := c / 144

/-- A half's FT in whole ns: the count, which goes on advancing without time (R241). -/
def ftNs (s : State) (h : Half) : Nat := nsOf (countOf s h)

/-- All ones of 64 bits: what a reader of FT sees while its half is without time (R42, R54). -/
def allOnes64 : Nat := 2 ^ 64 - 1

/-- FT for a reader that R54 names. -/
def ftOrOnes (s : State) (h : Half) : Nat := if hasTime s h then ftNs s h else allOnes64

/-- FT[27:4] for a send stamp: of the last valid FT while the half is without time (R54, R68). -/
def sendStamp (s : State) (h : Half) : Nat :=
  if hasTime s h then bitsOf (ftNs s h) 27 4 else bitsOf (s.ftu.get (timeHalf s h)).lastValid 27 4

/-- Nanoseconds of a number of CLK_CORE cycles at the nominal rate (R13), in 1/2304 ns. -/
def cyc2304 (n : Nat) : Nat := 1280 * n

/-- At least so many ns have passed since a cycle. -/
def cycAgo (s : State) (c ns : Nat) : Bool := decide (ns * 2304 ≤ cyc2304 (s.cyc - c))

/-- The half a page keeps time with: its own, and the half in charge for a block page. -/
def pageHalf (s : State) (pg : Nat) : Half :=
  match pageOf pg with
  | some (k, i) => (kindHalf s.cfg k i).getD (mainHalf s)
  | none => mainHalf s

/-! ### Page headers and the summary -/

/-- PAGE_ERR of a header is not zero. -/
def Page.hasErr (p : Page) : Bool := p.err != 0#32

/-- The types of page that have an error, or are in STARTING or STOPPING: bits of BLK_SUMMARY and BLK_SUMBUSY (R47). -/
def summaryOf (busy : Bool) (pages : Tbl Page) : Nat :=
  pages.cells.foldl (fun acc c =>
    let hit := if busy then decide (c.2.st = .starting) || decide (c.2.st = .stopping) else c.2.hasErr
    match pageOf c.1 with
    | some (k, _) => if hit then acc ||| 2 ^ kindType k else acc
    | none => acc) 0

/-- The pages with a detail bit that have an error: ports, stacks and tiles (R47). -/
def detailOf (pages : Tbl Page) : List Nat :=
  (pages.cells.filter fun c =>
    c.2.hasErr &&
      match pageOf c.1 with
      | some (.port, _) => true
      | some (.mem, _) => true
      | some (.tile, _) => true
      | _ => false).map (·.1)

/-- BLK_SUMSEQ counts a cycle in which a summary or detail bit changes (R47). -/
def countSummary (s t : State) : State :=
  if summaryOf false s.pages = summaryOf false t.pages ∧ summaryOf true s.pages = summaryOf true t.pages ∧
      detailOf s.pages = detailOf t.pages then t
  else if t.sumCyc = some t.cyc then t
  else { t with sumSeq := t.sumSeq + 1, sumCyc := some t.cyc }

/-- Write a page header. -/
def putPage (s : State) (pg : Nat) (p : Page) : State :=
  countSummary s { s with pages := if p = pageReset pg then s.pages.drop pg else s.pages.set pg p }

/-- What PAGE_FTLAST records now (R42). -/
def ftLastNow (s : State) (pg : Nat) : Nat := ftOrOnes s (pageHalf s pg)

/-- Change a page's STATE (R42, R45). -/
def setPageSt (s : State) (pg : Nat) (st : PageSt) : State :=
  putPage s pg { getPage s pg with st := st, ftLast := ftLastNow s pg }

/-- The owner of a page. -/
def pageOwner (s : State) (pg : Nat) : Nat := (getPage s pg).owner

/-- The owner of a physical tile: the PID of its page. -/
def tileOwner (s : State) (t : Nat) : Nat := pageOwner s (pageNo .tile t)

/-! ### Tiles by number -/

/-- The half of a physical tile (R24). -/
def tileHalf (t : Nat) : Half := if t < 544 then .a else .b

/-- A physical tile of the block: the number exists and its half is fitted (R6). -/
def tileFitted (s : State) (t : Nat) : Bool := decide (t < 1088) && s.cfg.hasHalf (tileHalf t)

/-- TILE_MAP before any repair (R77). -/
def tileMapReset (t : Nat) : TileMap :=
  let h := t / 544
  let r := t % 544 / 32
  let c := t % 544 % 32
  if r < 16 then ⟨some (512 * h + 32 * r + c), 0⟩ else ⟨none, 1⟩

/-- TILE_MAP of a physical tile. -/
def tileMap (s : State) (t : Nat) : TileMap := (s.tmap.find t).getD (tileMapReset t)

/-- The logical number of a physical tile. -/
def logicalOf (s : State) (t : Nat) : Option Nat := (tileMap s t).logical

/-- The physical tile that carries a logical number (R78). -/
def physOf (s : State) (lt : Nat) : Option Nat :=
  let t := 544 * (lt / 512) + lt % 512
  if lt < 1024 ∧ s.cfg.hasHalf (tileHalf t) then
    if (tileMap s t).logical = some lt then some t
    else (s.tmap.cells.find? fun c => decide (c.2.logical = some lt)).map (·.1)
  else none

end Sys2Proof.Machine
end

