-- ==== Sys2Proof/Machine/CountOps.lean ====
section
/-! DEFINITION. A physical tile, a counter bank, and counting an event in the banks and tile counters that select it
(R389 to R398). -/

namespace Sys2Proof.Machine

/-- A binding that is not in use. -/
def Binding.unused : Binding :=
  ⟨false, 0, 0, 0, 0, 0, ⟨⟨false, false, 0, 0⟩, ⟨false, false, 0, 0⟩⟩, [], 0, 0⟩

/-- A receive slot that is FREE and has held nothing. -/
def RxSlot.unused : RxSlot := ⟨.free, 0, 0, 0, 0, 0, 0, 0, 0, 0, none, none, false, []⟩

/-- A tile that has never run: page OFF, everything zero or empty (R75, R87, R95). -/
def Tile.fresh : Tile :=
  { sram := .empty, sramOn := false, fillEnd := none, prog := .none, wait := .none, waitFt := allOnes64, pc := 0,
    codeWords := 0, ibuf := .empty, sregs := .empty, fz := false, fn := false, fc := false, ft := false, fl := false,
    fm := false, vregs := .empty, tacc := .empty, racc := .empty, sr := 0, slots := .empty, sems := .empty,
    ctrs := .empty, ctrLatch := .empty, ctrCyc := 0, ctrWas := .empty, binds := .empty, moves := .empty, tmma := none, moveSeq := 0, lull := .awake,
    wakeReq := false, lullDecCyc := 0, lullAtCyc := 0, wakeCyc := 0, idleCyc := 0, stopped := false, wakeFt := none, bucket := 0,
    bucketCyc := 0, flaws := .empty }

/-- A physical tile. -/
def getTile (s : State) (t : Nat) : Tile := s.tiles.get Tile.fresh t

/-- Write a physical tile. -/
def putTile (s : State) (t : Nat) (x : Tile) : State := { s with tiles := s.tiles.put Tile.fresh t x }

/-- Change a physical tile. -/
def onTile (s : State) (t : Nat) (f : Tile → Tile) : State := putTile s t (f (getTile s t))

/-! ### Setting a PAGE_ERR bit -/

/-- The counts of a tile as they stood at the start of a cycle (R399): of the present one. -/
def Tile.ctrsAtStart (x : Tile) (cyc : Nat) : Tbl Nat := if x.ctrCyc = cyc then x.ctrWas else x.ctrs

/-- Keep the counts with which a cycle began, at the first count of the cycle (R399). -/
def Tile.keepCtrs (x : Tile) (cyc : Nat) : Tile := if x.ctrCyc = cyc then x else { x with ctrCyc := cyc, ctrWas := x.ctrs }

/-- Set a service flag of every LIVE partition (R315). -/
def flagParts (s : State) (bit : Nat) : State :=
  { s with parts := s.parts.mapVals fun _ p => if p.st = .live then { p with flags := p.flags ||| 2 ^ bit } else p }

/-- Hardware sets a PAGE_ERR bit (R41, R42): the count advances and PAGE_FTLAST is recorded. The second part says whether the
event of R370 goes out now, or Squall holds it back. -/
def markErr (s : State) (pg bit : Nat) : State × Bool :=
  let p := getPage s pg
  let h := pageHalf s pg
  let now := countOf s h
  let cnt := satAdd (2 ^ 32 - 1) p.errCnt 1
  let out := match p.evtAt with
    | none => true
    | some t => decide (t + 1000000 * 2304 ≤ now) || decide (now < t)
  let err := setBit p.err bit
  let p' := { p with
    err := if out then err else setBit err 3, errCnt := cnt, ftLast := ftLastNow s pg,
    evtAt := if out then some now else p.evtAt }
  let s1 := putPage s pg p'
  (if p.owner = 0 then flagParts s1 0 else s1, out)

/-- A counter of a bank or of its tiles has saturated (R390, R408): SAT of the bank's page, which is no trace source. -/
def bankSat (s : State) (b : Nat) : State := (markErr s (pageNo .bank b) 17).1

/-! ### Counting events (R391 to R395) -/

/-- The largest count (R390). -/
def ctrMax : Nat := 2 ^ 48 - 1

/-- A counter bank that has counted nothing. -/
def Bank.fresh : Bank := ⟨.empty, 0, none, none, false, 0, [], .empty, false⟩

/-- A counter bank. -/
def getBank (s : State) (b : Nat) : Bank := s.banks.get Bank.fresh b

/-- Write a counter bank. -/
def putBank (s : State) (b : Nat) (x : Bank) : State := { s with banks := s.banks.put Bank.fresh b x }

/-- An interval of a bank is open, so that it counts and governs its tiles: its page is ON, or stopping with the final boundary still to
come (R406). -/
def bankOpen (s : State) (b : Nat) : Bool :=
  pageIsOn s .bank b || (decide (pageSt s .bank b = .stopping) && !(getBank s b).stopping)

/-- The bank that governs a tile (R391): the lowest-numbered ON bank of its owner that covers its logical number. -/
def bankOfTile (s : State) (t : Nat) : Option Nat :=
  match logicalOf s t with
  | none => none
  | some lt =>
    (List.range 64).find? fun b =>
      bankOpen s b && decide (pageOwner s (pageNo .bank b) = tileOwner s t) &&
        (let w := kregF s .bank b 0x040
         decide (fieldOf w 9 0 ≤ lt) && decide (lt < fieldOf w 9 0 + fieldOf w 20 10))

/-- Counters of a set of sixteen that have saturated. -/
def fullCtrs (m : Tbl Nat) : Nat := ((List.range 16).filter fun k => decide (m.get 0 k = ctrMax)).length

/-- A select word counts an event with one of some QUALs. -/
def selHits (w : Word) (ev : Nat) (quals : List Nat) : Bool :=
  bitOf w 31 && decide (fieldOf w 7 0 = ev) && quals.contains (fieldOf w 15 8)

/-- Add to a tile's counters under a bank's sixteen tile selects. -/
def addTileCtrs (s : State) (b ev : Nat) (quals : List Nat) (n : Nat) (x : Tile) : Tile :=
  (List.range 16).foldl (fun y k =>
    if selHits (kregF s .bank b (0x140 + 4 * k)) ev quals then
      { y with ctrs := y.ctrs.put 0 k (satAdd ctrMax (y.ctrs.get 0 k) n) }
    else y) x

/-- Count a tile event (R394). A tile in Lull counts nothing (R398). -/
def countTile (s : State) (t ev : Nat) (quals : List Nat) (n : Nat) : State :=
  match bankOfTile s t with
  | none => s
  | some b =>
    let x := getTile s t
    match x.lull with
    | .asleep _ => s
    | .waking _ => s
    | _ =>
      let y := addTileCtrs s b ev quals n (x.keepCtrs s.cyc)
      let u := putTile s t y
      if fullCtrs x.ctrs < fullCtrs y.ctrs then bankSat u b else u

/-- Count a unit event in one bank: an attributed event for its owner only, a block event for PID 0 only (R392). -/
def addBankCtrs (s : State) (ev : Nat) (quals : List Nat) (inst : Nat) (pid : Option Nat) (n b : Nat) (x : Bank) : Bank :=
  let owner := pageOwner s (pageNo .bank b)
  if bankOpen s b && decide (owner = pid.getD 0) then
    (List.range 16).foldl (fun y k =>
      let w := kregF s .bank b (0x100 + 4 * k)
      if selHits w ev quals && (bitOf w 22 || decide (fieldOf w 21 16 = inst)) then
        { y with ctrs := y.ctrs.put 0 k (satAdd ctrMax (y.ctrs.get 0 k) n) }
      else y) x
  else x

/-- Count a unit event in every bank of a half (R393). -/
def countBlk (s : State) (h : Half) (ev : Nat) (quals : List Nat) (inst : Nat) (pid : Option Nat) (n : Nat) : State :=
  (List.range 32).foldl (fun u i =>
    let b := 32 * halfIdx h + i
    if bankOpen u b then
      let x := getBank u b
      let y := addBankCtrs u ev quals inst pid n b x
      let v := putBank u b y
      if fullCtrs x.ctrs < fullCtrs y.ctrs then bankSat v b else v
    else u) s

end Sys2Proof.Machine
end

