-- ==== Sys2Proof/Machine/TraceOps.lean ====
section
/-! DEFINITION. Trace streams and setting PAGE_ERR bits: generating a record (R362 to R372), an event (R369), and a page's
error with its event (R41, R42, R370). -/

namespace Sys2Proof.Machine

/-! ### Trace streams -/

/-- A stream that has generated nothing. -/
def Stream.fresh : Stream := ⟨false, 0, 0, 0, none, [], 0, 0, none, .streaming, 0, 0, false, false⟩

/-- A channel that has held nothing. -/
def Channel.fresh : Channel := ⟨0, false, [], none, 0, 0, false, none, false, 0, false⟩

/-- The stream of a key. -/
def getStream (s : State) (key : Nat) : Stream := s.streams.get Stream.fresh key

/-- Write a stream. -/
def putStream (s : State) (key : Nat) (x : Stream) : State := { s with streams := s.streams.put Stream.fresh key x }

/-- The trace channel c. -/
def getChan (s : State) (c : Nat) : Channel := s.channels.get Channel.fresh c

/-- Write a trace channel. -/
def putChan (s : State) (c : Nat) (x : Channel) : State := { s with channels := s.channels.put Channel.fresh c x }

/-- The key of a tile's operator stream, or of its owner stream. -/
def tileKey (t : Nat) (owner : Bool) : Nat := 2 * t + b2n owner

/-- The key of a unit's operator stream, or of its owner stream for a PID. -/
def unitKey (u : Nat) (pid : Option Nat) : Nat :=
  4096 + 128 * u + match pid with | none => 0 | some q => 1 + q

/-- The lowest-numbered ON channel of an owner that passes a test. -/
def lowestChan (s : State) (pid : Nat) (p : Nat → Bool) : Option Nat :=
  (List.range 64).find? fun c => pageIsOn s .chan c && decide (pageOwner s (pageNo .chan c) = pid) && p c

/-- A channel's tile range covers a logical tile (R363). -/
def chanCovers (s : State) (lt c : Nat) : Bool :=
  let w := kregF s .chan c 0x048
  let lo := fieldOf w 9 0
  decide (lo ≤ lt) && decide (lt < lo + fieldOf w 20 10)

/-- The channel a tile's stream goes to (R363). -/
def tileChan (s : State) (t : Nat) (owner : Bool) : Option Nat :=
  match logicalOf s t with
  | none => none
  | some lt => lowestChan s (if owner then tileOwner s t else 0) (chanCovers s lt)

/-- The half of a unit source of R371. -/
def unitHalf (s : State) (u : Nat) : Half :=
  if u < 0xC then halfOf (u % 2) else if u < 0x10 then mainHalf s else if u < 0x14 then .a else .b

/-- The channel a unit's stream goes to (R363). -/
def unitChan (s : State) (u : Nat) (pid : Option Nat) : Option Nat :=
  match pid with
  | none =>
    let w := kregF s .funnel (halfIdx (unitHalf s u)) 0x048
    let c := fieldOf w 5 0
    if bitOf w 7 && pageIsOn s .chan c then some c else none
  | some q => lowestChan s q (fun _ => true)

/-- The key of the report records of a half's Weathervane control for a partition and a channel (R234). -/
def wvKey (h : Half) (pid chan : Nat) : Nat := 65536 + 4096 * halfIdx h + 64 * pid + chan

/-- The channel of a stream key. -/
def keyChan (s : State) (key : Nat) : Option Nat :=
  if 65536 ≤ key then
    let c := key % 64
    if pageIsOn s .chan c && decide (pageOwner s (pageNo .chan c) = key / 64 % 64) then some c else none
  else if key < 4096 then
    if key % 2 = 0 ∧ tileOwner s (key / 2) = 0 then none else tileChan s (key / 2) (key % 2 == 1)
  else
    let u := (key - 4096) / 128
    let p := (key - 4096) % 128
    unitChan s u (if p = 0 then none else some (p - 1))

/-- The half of a stream's source. -/
def keyHalf (s : State) (key : Nat) : Half :=
  if 65536 ≤ key then halfOf ((key - 65536) / 4096)
  else if key < 4096 then tileHalf (key / 2) else unitHalf s ((key - 4096) / 128)

/-- Bytes a list of packets takes. -/
def pktBytes (l : List TPkt) : Nat := l.foldl (fun n p => n + p.bytes.length) 0

/-- The bytes a stream may hold (R372): a tile's 4,096 B, or half of them where the tile has two streams; the unit queue's
8,192 B less what the other unit streams of the half hold. -/
def shareOf (s : State) (key : Nat) : Nat :=
  if key < 4096 then (if tileOwner s (key / 2) = 0 then 4096 else 2048)
  else
    let h := keyHalf s key
    8192 - (s.streams.cells.filter fun c => decide (4096 ≤ c.1) && decide (c.1 ≠ key) && decide (keyHalf s c.1 = h)).foldl
      (fun n c => n + pktBytes c.2.pkts) 0

/-- FRAC of R368: 1/256 ns with bits [3:0] zero but bit 0 while the half is without time. -/
def fracByte (timed : Bool) (at16 : Nat) : Byte := BitVec.ofNat 8 (at16 % 16 * 16 + b2n (!timed))

/-- A SYNC packet (R368). -/
def syncPkt (timed : Bool) (reason at16 recseq : Nat) : TPkt :=
  ⟨BitVec.ofNat 8 (0x10 + reason) :: fracByte timed at16 :: (leBytes 8 (at16 / 16) ++ leBytes 4 recseq), true, at16⟩

/-- An FTD packet (R368). -/
def ftdPkt (delta at16 : Nat) : TPkt :=
  let n := if delta < 256 then 1 else if delta < 65536 then 2 else 3
  ⟨BitVec.ofNat 8 (0x20 + 4 * (n - 1)) :: leBytes n delta, false, at16⟩

/-- A LOSS packet (R371). -/
def lossPkt (place count first at16 : Nat) : TPkt :=
  ⟨BitVec.ofNat 8 (0x80 + place) :: (leBytes 4 count ++ leBytes 4 first), true, at16⟩

/-- Records among packets. -/
def pktRecs (l : List TPkt) : Nat := (l.filter (·.isRec)).length

/-- Leave out packets from the front until the rest fits. -/
def displace (share : Nat) : List TPkt → List TPkt
  | [] => []
  | p :: r => if pktBytes (p :: r) ≤ share then p :: r else displace share r

/-- The packets a stream puts for one record: a SYNC or an FTD before it where R367 asks for one, and the record. `base`
marks a record that is a time base itself (LULL, CALM), whose stamp is its own. -/
def packetsFor (x : Stream) (timed : Bool) (at16 : Nat) (base : Bool) (bytes : List Byte) : List TPkt :=
  let reason : Option Nat :=
    match x.sync with
    | some r => some r
    | none =>
      if !x.started || decide (4096 ≤ x.sinceBase) || decide (x.baseAt + 160000 ≤ at16) || decide (at16 < x.time) then some 0
      else none
  let lead : List TPkt :=
    match reason with
    | some r => [syncPkt timed r at16 x.gen]
    | none => if base || decide (at16 = x.time) then [] else [ftdPkt (at16 - x.time) at16]
  lead ++ [⟨bytes, true, at16⟩]

/-- A stream after packets have been put: its time, its SYNC bookkeeping and its record sequence (R367). -/
def Stream.put (x : Stream) (l : List TPkt) (synced base : Bool) (at16 : Nat) : Stream :=
  { x with
    started := true, time := at16, sync := none,
    sinceBase := if base then 0 else if synced then pktBytes l - 14 else x.sinceBase + pktBytes l,
    baseAt := if base || synced then at16 else x.baseAt,
    pkts := x.pkts ++ l, gen := x.gen + pktRecs l }

/-- Put a record into a stream, dropping or displacing under R372, R382 and R384. -/
def Stream.record (x : Stream) (share : Nat) (timed : Bool) (at16 : Nat) (base : Bool) (bytes : List Byte) : Stream :=
  let l := packetsFor x timed at16 base bytes
  let synced := match l with | p :: _ :: _ => decide (p.isRec = true) | _ => false
  match x.cap with
  | .frozen =>
    match x.drop with
    | some (n, f) => { x with gen := x.gen + 1, lost := x.lost + 1, drop := some (n + 1, f) }
    | none => { x with gen := x.gen + 1, lost := x.lost + 1, drop := some (1, x.gen) }
  | .capturing =>
    let y := x.put l synced base at16
    let kept := displace share y.pkts
    let gone := pktRecs y.pkts - pktRecs kept
    { y with
      pkts := kept, lost := y.lost + gone, displaced := y.displaced + gone,
      dispFirst := if y.displaced = 0 then y.gen - pktRecs y.pkts else y.dispFirst }
  | .streaming =>
    match x.drop with
    | none =>
      if pktBytes x.pkts + pktBytes l ≤ share then x.put l synced base at16
      else { x with gen := x.gen + 1, lost := x.lost + 1, drop := some (1, x.gen) }
    | some (n, f) =>
      if pktBytes x.pkts + 9 + 14 + bytes.length ≤ share then
        let y := { x with gen := x.gen + 1, pkts := x.pkts ++ [lossPkt 0 n f at16], drop := none }
        y.put [syncPkt timed 4 at16 y.gen, ⟨bytes, true, at16⟩] true base at16
      else { x with gen := x.gen + 1, lost := x.lost + 1, drop := some (n + 1, f) }

/-- A stream asks to be drained when it holds half its share or its oldest record is TRC_DRAIN_NS old (R372). -/
def Stream.asks (x : Stream) (share drainNs now16 : Nat) : Bool :=
  decide (share ≤ 2 * pktBytes x.pkts) ||
    match x.pkts with
    | [] => false
    | p :: _ => decide (p.stamp + 16 * drainNs ≤ now16)

/-- A channel keeps the windows of its tile streams (R382). -/
def captures (s : State) (c : Nat) : Bool := pageIsOn s .chan c && bitOf (kregF s .chan c 0x060) 0

/-- The stream of a key as it meets its next record: a tile stream that has never held anything is in capture where its channel
captures (R382). -/
def nextStream (s : State) (key : Nat) : Stream :=
  let x := getStream s key
  match keyChan s key with
  | some c => if key < 4096 ∧ (s.streams.find key).isNone ∧ captures s c = true then { x with cap := .capturing } else x
  | none => x

/-- Generate a record in the stream of a key, if a channel covers it (R363). -/
def genRecord (s : State) (key : Nat) (base : Bool) (mk : Bool → Nat → List Byte) : State :=
  match keyChan s key with
  | none => s
  | some _ =>
    let h := keyHalf s key
    let at16 := sixteenths (countOf s h)
    let timed := hasTime s h
    let x := nextStream s key
    let share := shareOf s key
    let y := x.record share timed at16 base (mk timed at16)
    let z := { y with ask := y.ask || decide (share ≤ 2 * pktBytes y.pkts) }
    let u := putStream s key z
    if key < 4096 then countTile u (key / 2) 0x0E [0] (y.gen - x.gen) else u

/-- Ask that a SYNC with a reason stand before the stream's next record (R368), where the stream exists or has existed. -/
def askSync (s : State) (key reason : Nat) : State :=
  putStream s key { nextStream s key with sync := some reason }

/-- Emit a SYNC with a reason now, as a record of its own (R88); a stream that is dropping records puts it before its next one. -/
def syncNow (s : State) (key reason : Nat) : State :=
  let x := getStream s key
  if x.drop.isSome then askSync s key reason
  else genRecord s key true fun timed at16 => BitVec.ofNat 8 (0x10 + reason) :: fracByte timed at16 :: (leBytes 8 (at16 / 16) ++ leBytes 4 x.gen)

/-- A channel's KINDS mask admits a kind: 0 PC, 1 DATA, 2 EVENT, 3 REPORT (R364). -/
def kindAdmitted (s : State) (key kind : Nat) : Bool :=
  match keyChan s key with
  | none => false
  | some c => bitOf (kregF s .chan c 0x044) kind

/-- The bytes of an EVENT packet (R369). -/
def eventBytes (cls code pg arg : Nat) : List Byte :=
  BitVec.ofNat 8 (0x50 + cls) :: BitVec.ofNat 8 code :: (leBytes 2 (pg % 16384) ++ leBytes 8 arg)

/-- A Gust fire by an EVENT delivered to a channel whose GUST_ON names its class waits for its decision when the frame takes
it (R383); generating the EVENT itself is one record. -/
def genEvent (s : State) (key cls code pg arg : Nat) : State :=
  if kindAdmitted s key 2 then genRecord s key false (fun _ _ => eventBytes cls code pg arg) else s

/-- The unit source that reports a page's errors, where R371 numbers one. -/
def pageUnit (k : PageKind) (i : Nat) : Option Nat :=
  match k with
  | .ftu => some i
  | .ses => some (4 + i)
  | .sesStat => some 4
  | .calm => some (6 + i)
  | .pwr => some (8 + i)
  | .wv => some (0xA + i)
  | .sec => some 0xC
  | .rtp => some 0xC
  | .partCtrl => some 0xD
  | .partMap => some 0xD
  | .mem => some (0x10 + i)
  | _ => none

/-- Emit the PAGE_ERR event of a page (R369, R370): a tile's to its streams, a unit's to the unit's operator stream. -/
def pageErrEvent (s : State) (pg bit cnt : Nat) : State :=
  match pageOf pg with
  | some (.tile, t) =>
    let s1 := genEvent s (tileKey t true) 2 bit pg cnt
    if tileOwner s t = 0 then s1 else genEvent s1 (tileKey t false) 2 bit pg cnt
  | some (k, i) =>
    match pageUnit k i with
    | some u => genEvent s (unitKey u none) 2 bit pg cnt
    | none => s
  | none => s

/-- Hardware sets a PAGE_ERR bit: the count advances, PAGE_FTLAST is recorded, and the event goes out unless Squall holds
it back (R41, R42, R370). -/
def raiseErr (s : State) (pg bit : Nat) : State :=
  let m := markErr s pg bit
  if m.2 then pageErrEvent m.1 pg bit (getPage m.1 pg).errCnt else m.1

/-- Set a PAGE_ERR bit of an instance of a row. -/
def raiseK (s : State) (k : PageKind) (i bit : Nat) : State := raiseErr s (pageNo k i) bit

/-- ACCESS of a page (R34, R44). -/
def accessErr (s : State) (k : PageKind) (i : Nat) : State := raiseK s k i 2

/-- The records of a unit's streams that have been lost so far: what UNIT_LOSS watches (R386). -/
def unitLost (s : State) (h : Half) : Nat :=
  (s.streams.cells.filter fun c => decide (4096 ≤ c.1) && decide (keyHalf s c.1 = h)).foldl (fun n c => n + c.2.lost) 0

/-- Generate an event at a unit's operator stream (tenant none) or at its owner stream for a tenant (R362, R364). -/
def unitEvent (s : State) (u : Nat) (pid : Option Nat) (cls code pg arg : Nat) : State :=
  let h := unitHalf s u
  let t := genEvent s (unitKey u pid) cls code pg arg
  if unitLost s h < unitLost t h then raiseK t .funnel (halfIdx h) 16 else t

/-- Every trace source's next record is preceded by a SYNC with a reason (R55, R385), for the streams of one half. -/
def askSyncHalf (s : State) (h : Half) (reason : Nat) : State :=
  { s with streams := ⟨s.streams.cells.map fun c =>
      if keyHalf s c.1 = h then (c.1, { c.2 with sync := some reason }) else c⟩ }

/-- The oldest frame of a channel is delivered (R378, R381). -/
def deliverFrame (s : State) (c : Nat) : State :=
  let x := getChan s c
  match x.frames with
  | [] => s
  | f :: r => incReg64 (putChan s c { x with frames := r, winRead := 0, asked := false }) .chan c 0x078 f.records

/-- The kind of a COLLECTOR cell (R379). -/
def cellTrace : Nat := 4

end Sys2Proof.Machine
end

