-- ==== Sys2Proof/Machine/TileOps.lean ====
section
/-! DEFINITION. Operations on one tile that several families share: its parts, its SRAM, waking it
(R84), incrementing a semaphore (R76), and its receive slots (R80). -/

namespace Sys2Proof.Machine

/-- A Calm is in force in a half. -/
def calmOn (s : State) (h : Half) : Bool := decide ((s.calm.get h).st ≠ .idle)

/-- A Calm keeps a tile's program from issuing: one is in force in its half, or one was abandoned and the page has not been stopped
since (R121). -/
def tileCalm (s : State) (t : Nat) : Bool := calmOn s (tileHalf t) || (getTile s t).stopped

/-- Scalar register n; s0 reads zero (R95). -/
def Tile.sreg (x : Tile) (n : Nat) : Word := if n = 0 then 0 else x.sregs.get 0 n

/-- Write scalar register n; a write to s0 has no effect (R95). -/
def Tile.setSreg (x : Tile) (n : Nat) (w : Word) : Tile :=
  if n = 0 then x else { x with sregs := x.sregs.put 0 n w }

/-- A 64-bit pair: the low word in sN, the high word in sN+1 (R97). -/
def Tile.pair (x : Tile) (n : Nat) : Nat := (x.sreg n).toNat + 2 ^ 32 * (x.sreg (n + 1)).toNat

/-- Write a 64-bit pair (R97). -/
def Tile.setPair (x : Tile) (n v : Nat) : Tile :=
  (x.setSreg n (BitVec.ofNat 32 v)).setSreg (n + 1) (BitVec.ofNat 32 (v / 2 ^ 32))

/-- The 64 lanes of vector register v. -/
def Tile.vreg (x : Tile) (v : Nat) : List Word := (List.range 64).map fun i => x.vregs.get 0 (64 * v + i)

/-- Write keyed cells one after another from a key. -/
def putSeq {α : Type} [DecidableEq α] (d : α) : Tbl α → Nat → List α → Tbl α
  | m, _, [] => m
  | m, k, v :: r => putSeq d (m.put d k v) (k + 1) r

/-- Write the lanes of vector register v. -/
def Tile.setVreg (x : Tile) (v : Nat) (l : List Word) : Tile := { x with vregs := putSeq 0 x.vregs (64 * v) (l.take 64) }

/-- The canonical form of a byte memory (an SRAM or the stacks): addresses strictly rising, no zero byte listed. -/
def Memory.wf (m : Tbl Byte) : Bool := m.wf 0

/-- Read n bytes of a byte memory; a byte that nothing has written reads zero. -/
def readBytes (m : Tbl Byte) (a n : Nat) : List Byte := (List.range n).map fun i => m.get 0 (a + i)

/-- Write bytes to a byte memory from an address. -/
def writeBytes (m : Tbl Byte) (a : Nat) (l : List Byte) : Tbl Byte := putSeq 0 m a l

/-- Two ranges share a byte. -/
def overlaps (a n b m : Nat) : Bool := decide (a < b + m) && decide (b < a + n) && decide (0 < n) && decide (0 < m)

/-- Write bytes to a tile's SRAM. A 64-bit word that is written whole holds no error any more (R74). DESIGN CHOICE (log 133): an
error in a word that is written in part stays. -/
def Tile.writeSram (x : Tile) (a : Nat) (l : List Byte) : Tile :=
  { x with
    sram := writeBytes x.sram a l
    flaws := x.flaws.keep fun w _ => !(decide (a ≤ 8 * w) && decide (8 * w + 8 ≤ a + l.length)) }

/-- The words of some ranges that hold an error of a kind. -/
def Tile.flawed (x : Tile) (kind : Nat) (l : List (Nat × Nat)) : List Nat :=
  (x.flaws.cells.filter fun c => decide (c.2 = kind) && l.any fun r => overlaps r.1 r.2 (8 * c.1) 8).map (·.1)

/-- A semaphore's count. -/
def Tile.sem (x : Tile) (n : Nat) : Nat := x.sems.get 0 n

/-- A binding. -/
def Tile.bind (x : Tile) (b : Nat) : Binding := x.binds.get Binding.unused b

/-- Write a binding. -/
def Tile.setBind (x : Tile) (b : Nat) (v : Binding) : Tile := { x with binds := x.binds.put Binding.unused b v }

/-- A receive slot. -/
def Tile.slot (x : Tile) (n : Nat) : RxSlot := x.slots.get RxSlot.unused n

/-- Write a receive slot. -/
def Tile.setSlot (x : Tile) (n : Nat) (v : RxSlot) : Tile := { x with slots := x.slots.put RxSlot.unused n v }

/-- A parity's epoch of a binding. -/
def Binding.ep (b : Binding) (p : Nat) : BindEp := b.eps.get (halfOf p)

/-- Write a parity's epoch of a binding. -/
def Binding.setEp (b : Binding) (p : Nat) (e : BindEp) : Binding := { b with eps := b.eps.put (halfOf p) e }

/-- LIVE of TILE_BIND: the parity is live and not yet reported. -/
def BindEp.owed (e : BindEp) : Bool := e.live && !e.reported

/-- Some parity of the binding is live and not yet reported. -/
def Binding.owed (b : Binding) : Bool := b.valid && (b.eps.a.owed || b.eps.b.owed)

/-- Some parity of the binding is live. -/
def Binding.live (b : Binding) : Bool := b.valid && (b.eps.a.live || b.eps.b.live)

/-- A test over the sixteen bindings. -/
def Tile.anyBind (x : Tile) (p : Binding → Bool) : Bool := x.binds.cells.any fun c => p c.2

/-- Slots RESERVED or FILLED (R80). -/
def Tile.rxHeld (x : Tile) : Nat := (x.slots.cells.filter fun c => decide (c.2.st ≠ .free)).length

/-- Some slot is FILLED: its payload has been written. -/
def Tile.anyFilled (x : Tile) : Bool := x.slots.cells.any fun c => decide (c.2.st = .filled) && !c.2.flight

/-! ### SRAM banks (R73) -/

/-- The requesters of a bank in the order it serves them (R73): writes from the mesh, the reduce unit, the tensor array, the vector
unit. Instruction fetch makes no access after a program's start (R91). A row repair holds its bank before all of them (R434). -/
def bankRepair : Nat := 0
def bankMesh : Nat := 1
def bankReduce : Nat := 2
def bankTensor : Nat := 3
def bankVector : Nat := 4

/-- The bank of a local SRAM address: A[9:6] (R73). -/
def bankOf (a : Nat) : Nat := a / 64 % 16

/-- The banks that a range of n bytes touches. -/
def banksOf (a n : Nat) : List Nat :=
  if n = 0 then [] else (List.range (min 16 ((a + n - 1) / 64 + 1 - a / 64))).map fun j => bankOf (a + 64 * j)

/-- The banks of several ranges. -/
def banksOfAll (l : List (Nat × Nat)) : List Nat := l.flatMap fun r => banksOf r.1 r.2

/-- Who a bank of a tile serves in this cycle, by its place in the order. -/
def bankHolder (s : State) (t b : Nat) : Option Nat :=
  match s.bankUse.find (16 * t + b) with
  | some v => if s.cyc ≤ v / 8 then some (v % 8) else none
  | none => none

/-- Some bank of a list is taken in this cycle. -/
def banksTaken (s : State) (t : Nat) (l : List Nat) : Bool := l.any fun b => (bankHolder s t b).isSome

/-- The banks of a list serve a requester in this cycle. -/
def serveBanks (s : State) (t order : Nat) (l : List Nat) : State :=
  { s with bankUse := l.foldl (fun m b => m.set (16 * t + b) (8 * s.cyc + order)) s.bankUse }

/-- A requester finds a bank taken: it retries in the next cycle, and where the bank serves one of no later place it has lost the
cycle, which BANK_LOST counts once (R73, R394). -/
def loseBanks (s : State) (t order : Nat) (l : List Nat) : State :=
  let lost := l.any fun b => match bankHolder s t b with
    | some o => decide (o ≤ order)
    | none => false
  if !lost || decide (s.bankLost.find (8 * t + order) = some s.cyc) then s
  else countTile { s with bankLost := s.bankLost.set (8 * t + order) s.cyc } t 0x09 [0] 1

/-- The program of a tile lost a bank in this cycle (R403). -/
def bankStalls (s : State) (t : Nat) : Bool :=
  [bankReduce, bankTensor, bankVector].any fun o => decide (s.bankLost.find (8 * t + o) = some s.cyc)

/-! ### Waking and semaphores -/

/-- A tile begins to wake (R84): from a level it has reached, unless a Calm holds it there (R86); a tile that is still
entering remembers the event. -/
def Tile.wakeUp (x : Tile) (cyc : Nat) (calm : Bool) : Tile :=
  match x.lull with
  | .asleep l => if calm then { x with wakeReq := true } else { x with lull := .waking l, wakeCyc := cyc, wakeFt := none }
  | .entering _ => { x with wakeReq := true }
  | _ => x

/-- Wake a tile. -/
def wakeTile (s : State) (t : Nat) : State := onTile s t fun x => x.wakeUp s.cyc (calmOn s (tileHalf t))

/-- Increment a semaphore of a physical tile (R76): a count that would pass 0xFFFF saturates and sets SEM_OVERFLOW. The
increment wakes the tile (R84). -/
def semInc (s : State) (t n k : Nat) : State :=
  let c := (getTile s t).sem n + k
  let s1 := onTile s t fun x => { x with sems := x.sems.put 0 n (min c 0xFFFF) }
  let s2 := if c > 0xFFFF then raiseK s1 .tile t 19 else s1
  wakeTile (countTile s2 t 0x0B [0] 1) t

/-- Increment an optional semaphore by one. -/
def semIncOpt (s : State) (t : Nat) : Option Nat → State
  | some n => semInc s t n 1
  | none => s

/-- Push an entry onto a binding's arrival queue and give its ARRIVE increment (R109). -/
def pushEntry (s : State) (t b : Nat) (e : QEntry) : State :=
  let v := (getTile s t).bind b
  let s1 := onTile s t fun x => x.setBind b { v with queue := v.queue ++ [e] }
  semInc s1 t v.semArrive 1

/-- The newest live epoch of a binding (R103): the live parity with the larger epoch number. -/
def Binding.newest (b : Binding) : Option (Nat × BindEp) :=
  if !b.valid then none
  else
    match b.eps.a.live, b.eps.b.live with
    | false, false => none
    | true, false => some (0, b.eps.a)
    | false, true => some (1, b.eps.b)
    | true, true => if b.eps.a.epoch < b.eps.b.epoch then some (1, b.eps.b) else some (0, b.eps.a)

/-- First accumulator of a binding's parity (R109). -/
def Binding.accOf (b : Binding) (p : Nat) : Nat := b.accBase + p * b.accCount

/-- Clear accumulators of a tile (R110, R137). -/
def Tile.clearAcc (x : Tile) (first n : Nat) : Tile :=
  { x with racc := x.racc.keep fun k _ => !(decide (first ≤ k) && decide (k < first + n)) }

end Sys2Proof.Machine
end

