-- ==== Sys2Proof/Machine/EventOps.lean ====
section
/-! DEFINITION. Operations that report: the security event log (R338), the wear counts (R432), and events that a unit sends
to a tenant (R362, R364). -/

namespace Sys2Proof.Machine

/-! ### The security event log -/

/-- An entry goes into the ring of 256 (R338): an overwrite is counted in SEC_EVT_LOST. -/
def secAppend (s : State) (kind pg detail : Nat) : State :=
  let w := kreg s .sec 0 0x050
  let i := fieldOf w 7 0
  let lost := fieldOf w 31 8 + b2n (s.secLog.find i).isSome
  let s1 := { s with secLog := s.secLog.set i ⟨ftOrOnes s (mainHalf s), kind, pg, detail⟩ }
  let s2 := setKreg s1 .sec 0 0x050 (BitVec.ofNat 32 ((i + 1) % 256 + min lost (2 ^ 24 - 1) * 256))
  raiseK s2 .sec 0 16

/-- The key of a kind and a source in the table of last entries. -/
def secKey (kind source : Nat) : Nat := kind * 2 ^ 40 + source

/-- A kind and source may write an entry now: none within 1,000,000 ns (R184, R298, R338). -/
def secOpen (s : State) (kind source : Nat) : Bool :=
  match s.secAt.find (secKey kind source) with
  | none => true
  | some c => cycAgo s c 1000000

/-- A security event (R338): Squall lets one of a kind and a source into the log in 1,000,000 ns; a further one is counted
in SEC_EVT_SUPPRESSED, except of kinds 1 and 2, whose own chapters count them and set SQUALL. -/
def secEvent (s : State) (kind source pg detail : Nat) : State :=
  if secOpen s kind source then
    secAppend { s with secAt := s.secAt.set (secKey kind source) s.cyc } kind pg detail
  else if kind = 1 ∨ kind = 2 then
    let p := getPage s pg
    putPage s pg { p with err := setBit p.err 3 }
  else satReg s .sec 0 0x054 1

/-! ### Wear -/

/-- The key of a wear count. -/
def wearKey (kind unit : Nat) : Nat := kind * 2 ^ 40 + unit

/-- The kinds counted per day (R432). -/
def wearDaily (kind : Nat) : Bool := decide (kind = 1) || decide (kind = 7) || decide (kind = 8) || decide (kind = 9)

/-- The threshold of a kind (R432, R450), on the SPR page of a half. -/
def wearLimit (s : State) (h : Half) (kind : Nat) : Nat :=
  let r (off : Nat) := kregN s .spr (halfIdx h) off
  match kind with
  | 1 => r 0x070
  | 4 => r 0x074 * 2 ^ 20
  | 7 => r 0x078
  | 8 => r 0x07C
  | 9 => r 0x080
  | _ => 1

/-- Stacks fitted. -/
def BlockCfg.stackCount (c : BlockCfg) : Nat := 4 * c.halves

/-- The half of a worn unit. Units are tiles, shadow reducers, frame banks by channel, 32 × port + lane, PRN × 1,024 + span,
and ((32 × stack + channel) × 2 + pseudo-channel) × 32 + pin. -/
def wearHalf (s : State) (kind unit : Nat) : Half :=
  match kind with
  | 5 => (kindHalf s.cfg .wvSr unit).getD .a
  | 6 => if unit < 32 then .a else .b
  | 7 => if unit / 32 < 32 then .a else .b
  | 8 => if unit / 1024 % s.cfg.stackCount < 4 then .a else .b
  | 9 => if unit / 2048 < 4 then .a else .b
  | _ => tileHalf unit

/-- The actions that the RTP starts under AUTO when a unit's count of a kind reaches its threshold (R432): those of kinds 2, 3 and 5 to 9.
A span has a row in each of its two pseudo-channels, and both are repaired: DESIGN CHOICE (log 163); the second is marked with bit 40.
Kind 4 is only reported, and of kind 1 the rim repairs the row by itself: a swap is queued where its bank has no spare row (R434). -/
def wearActions (kind unit : Nat) : List (Nat × Nat) :=
  if kind = 8 then [(8, unit), (8, unit + 2 ^ 40)]
  else if kind = 2 ∨ kind = 3 ∨ (5 ≤ kind ∧ kind ≤ 9) then [(kind, unit)]
  else []

/-- AUTO is set for a kind in a half (R450). -/
def autoOn (s : State) (h : Half) (kind : Nat) : Bool := bitOf (kreg s .spr (halfIdx h) 0x04C) (kind - 1)

/-- A wear count advances; WEAR is set when it reaches its threshold, and under AUTO the action is queued (R432). -/
def wearAdd (s : State) (kind unit n : Nat) : State :=
  let k := wearKey kind unit
  let life := s.wearLife.get 0 k + n
  let day := s.wearDay.get 0 k + n
  let h := wearHalf s kind unit
  let old := if wearDaily kind then day - n else life - n
  let new := if wearDaily kind then day else life
  let lim := wearLimit s h kind
  let s1 := { s with
    wearLife := s.wearLife.put 0 k life
    wearDay := if wearDaily kind then s.wearDay.put 0 k day else s.wearDay }
  if old < lim ∧ lim ≤ new then
    let s2 := raiseK s1 .spr (halfIdx h) 16
    if autoOn s h kind then { s2 with autoQueue := s2.autoQueue ++ wearActions kind unit } else s2
  else s1

/-! ### Events about a tenant's resource -/

/-- An event of a unit for the partition it concerns: a tenant's goes to the unit's owner stream for it (R362). The table
of R364 gives these classes no stream for PID 0. -/
def tenantEvent (s : State) (u pid cls code pg arg : Nat) : State :=
  if pid = 0 then s else unitEvent s u (some pid) cls code pg arg

end Sys2Proof.Machine
end

