-- ==== Sys2Proof/Machine/Wire.lean ====
section
/-! DEFINITION. A cell as its 272 bytes (R157 to R161): header and message header, body, CRC, and the vector and additional data of
its protection. -/

namespace Sys2Proof.Machine

/-! ### CRC-16 (R158) -/

/-- One bit of the CRC with polynomial 0x8BB7, most significant bit first. -/
def crc16Bit (c : Nat) : Nat := (2 * c % 65536) ^^^ (c / 32768 * 0x8BB7)

/-- One byte. -/
def crc16Byte (c : Nat) (b : Byte) : Nat :=
  crc16Bit (crc16Bit (crc16Bit (crc16Bit (crc16Bit (crc16Bit (crc16Bit (crc16Bit (c ^^^ (256 * b.toNat)))))))))

/-- The CRC of more bytes, given the CRC of those before. The match keeps its value at hand. -/
def crc16From : Nat → List Byte → Nat
  | c, [] => c
  | c, b :: l =>
    match crc16Byte c b with
    | 0 => crc16From 0 l
    | n + 1 => crc16From (n + 1) l

/-- The CRC of a list of bytes, from 0x0000, neither reflected nor inverted. -/
def crc16 (l : List Byte) : Nat := crc16From 0 l

/-! ### Headers (R157, R160) -/

/-- Put fields together, each with its lowest bit. -/
def packed (l : List (Nat × Nat)) : Nat := (l.map fun f => f.1 * 2 ^ f.2).foldl (· + ·) 0

/-- Header bits [47:0] of a cell (R157). -/
def headLow (stamp kind fmt handle : Nat) : Nat :=
  packed [(handle % 65536, 0), (fmt % 16, 16), (kind % 16, 20), (stamp % 2 ^ 24, 24)]

/-- The 16 bytes of a cell header. -/
def headBytes (tag crc low : Nat) : List Byte := leBytes 6 low ++ leBytes 2 crc ++ leBytes 8 tag

/-- The CRC of a cell: over its header with the CRC field taken as zero, and its payload (R158). -/
def cellCrc (tag low : Nat) (body : List Byte) : Nat := crc16 (headBytes tag 0 low ++ body)

/-- What a message header says (R160). -/
structure MsgHead where
  msg : Nat
  dstSid : Nat
  epoch : Nat
  cidx : Nat
  toChild : Bool
  seq : Nat
  srcSid : Nat
  ft : Nat
  arg : Nat
deriving DecidableEq, Repr

/-- The 32 bytes of a message header of VERSION 1 (R160). -/
def MsgHead.bytes (h : MsgHead) : List Byte :=
  leBytes 4 (packed [(h.msg % 256, 0), (1, 8), (h.dstSid % 4096, 12)]) ++ leBytes 4 h.epoch ++
    leBytes 4 (packed [(h.cidx % 8192, 0), (b2n h.toChild, 13), (h.seq % 4096, 14)]) ++ leBytes 4 (h.srcSid % 4096) ++
    leBytes 8 h.ft ++ leBytes 8 h.arg

/-- A cell is malformed (R157, R161): its KIND is reserved, or it is a CTRL cell whose type is not listed or whose VERSION is not 1. -/
def malformed (head : Nat) (body : List Byte) : Bool :=
  let kind := bitsOf head 23 20
  let w := leNat (body.take 4)
  decide (kind = 0) || decide (3 < kind) ||
    (decide (kind = 3) && (decide (bitsOf w 7 0 = 0) || decide (9 < bitsOf w 7 0) || decide (bitsOf w 11 8 ≠ 1)))

/-! ### Cells on their way in -/

/-- Header bits [47:0] of an arriving DATA or RESULT cell. -/
def cellInLow (kind : Nat) (c : CellIn) : Nat := headLow c.stamp kind c.format c.handle

/-- The CRC of an arriving DATA or RESULT cell is good (R158). -/
def cellCrcOk (kind : Nat) (c : CellIn) : Bool := decide (c.crc = cellCrc c.tag (cellInLow kind c) c.body)

/-- The message header of an arriving message. -/
def ctrlHead (m : CtrlIn) (msg ft arg : Nat) (toChild : Bool) : MsgHead :=
  ⟨msg, m.sid, m.epoch, m.cidx, toChild, m.seq, m.srcSid, ft, arg⟩

/-- The CRC of an arriving control message is good. -/
def ctrlCrcOk (m : CtrlIn) (h : MsgHead) : Bool :=
  decide (m.crc = cellCrc m.tag (headLow m.stamp 3 0 0) (h.bytes ++ m.body))

/-! ### Cells on their way out (R159 to R163) -/

/-- An excluded rank range as 8 bytes (R161). -/
def RankRange.bytes (r : RankRange) : List Byte := leBytes 8 (packed [(r.first % 2 ^ 17, 0), (r.count % 2 ^ 18, 17)])

/-- A GRANT's entry as 8 bytes (R163). -/
def Credit.bytes (c : Credit) : List Byte := leBytes 8 (packed [(c.part % 1024, 0), (c.seg % 4096, 10), (c.handle % 65536, 22)])

/-- Exactly n bytes of a list. -/
def takeBytes (n : Nat) (l : List Byte) : List Byte := l.take n ++ List.replicate (n - l.length) 0

/-- Bytes 32 to 255 of a CTRL cell before encryption: GRANT entries, or 27 rank ranges and the word of MORE; zero otherwise. -/
def Cell.msgBody (c : Cell) : List Byte :=
  takeBytes 224 (if c.msg = 6 then c.credits.flatMap Credit.bytes
    else takeBytes 216 (c.ranges.flatMap RankRange.bytes) ++ leBytes 8 (b2n c.more))

/-- The message header of a CTRL cell. Its SEQ stands in `seg`. -/
def Cell.head (c : Cell) : MsgHead := ⟨c.msg, c.dst, c.epoch, c.cidx, c.toChild, c.seg, c.sid, c.ft, c.arg⟩

/-- The GCM vector of a cell (R159), as one number of 96 bits. -/
def Cell.vector (c : Cell) (stamp : Nat) : Nat :=
  packed [(c.kind % 16, 0), (b2n c.toChild, 4), (stamp % 2 ^ 24, 5), (c.seg % 4096, 29), (c.part % 1024, 41), (c.cidx % 8192, 51),
    (c.epoch % 2 ^ 32, 64)]

/-- The 272 bytes of a DATA, RESULT or CTRL cell with a send stamp (R157 to R160). -/
def Cell.sealed (c : Cell) (stamp : Nat) : List Byte :=
  let ctrl := decide (c.kind = 3)
  let low := headLow stamp c.kind c.fmt (if ctrl then 0 else c.handle)
  let clear := if ctrl then c.head.bytes else []
  let plain := if ctrl then c.msgBody else takeBytes 256 c.payload
  let key := c.vector stamp :: c.key
  let tag := Config.edgeTag key (leBytes 6 low ++ clear) plain % 2 ^ 64
  let body := clear ++ takeBytes plain.length (Config.edgeCipher key plain)
  headBytes tag (cellCrc tag low body) low ++ body

/-- The 272 bytes of an OBS cell: the payload is a sealed frame (R375). DESIGN CHOICE (log 142): its header carries STAMP and CRC as any
cell does, and free values beside. -/
def Cell.observed (c : Cell) (stamp : Nat) : List Byte :=
  let h := Config.obsHead [c.handle, c.arg]
  let low := h % 2 ^ 24 + stamp % 2 ^ 24 * 2 ^ 24
  let tag := h / 2 ^ 24 % 2 ^ 64
  let body := takeBytes 256 c.payload
  headBytes tag (cellCrc tag low body) low ++ body

/-- A cell as the port hands it to the host (R256), with the stamp of the moment its header leaves the shaper (R54, R68). -/
def wireOf (s : State) (h : Half) (c : Cell) : WireCell :=
  let st := sendStamp s h
  ⟨c.pfa, c.cls, if c.kind ≤ 3 then c.sealed st else c.observed st⟩

end Sys2Proof.Machine
end

