-- ==== Sys2Proof/Machine/ArbOps.lean ====
section
/-! DEFINITION. Arbitrated targets and their requests (R242 to R253), and routes through the mesh (R240). -/

namespace Sys2Proof.Machine

/-- Give each element its place. -/
def withIndex {α : Type} : Nat → List α → List (Nat × α)
  | _, [] => []
  | n, x :: l => (n, x) :: withIndex (n + 1) l

/-- The key of a target. -/
def arbKey (k : PageKind) (i t : Nat) : Nat := 32 * pageNo k i + t

/-- A target that nobody has asked for. -/
def Arb.idle : Arb := ⟨[], none, none⟩

/-- A target. -/
def getArb (s : State) (key : Nat) : Arb := s.arbs.get Arb.idle key

/-- Write a target. -/
def putArb (s : State) (key : Nat) (a : Arb) : State := { s with arbs := s.arbs.put Arb.idle key a }

/-- FT in 16 ns units, as LST counts it (R238): bits [35:4]. -/
def lstOf (ns : Nat) : Nat := ns / 16 % 2 ^ 32

/-- A signed 32-bit reading. -/
def signed32 (n : Nat) : Int := if n % 2 ^ 32 < 2 ^ 31 then (n % 2 ^ 32 : Nat) else ((n % 2 ^ 32 : Nat) : Int) - 2 ^ 32

/-- d of R243, before the clamp: LST less FT[35:4], as a signed 32-bit difference. -/
def slackOf (s : State) (h : Half) (lst : Nat) : Int :=
  signed32 (lst % 2 ^ 32 + 2 ^ 32 - lstOf (ftNs s h))

/-- d of R243. -/
def clampSlack (d : Int) : Int := max d (-(2 ^ 30))

/-- A request that has just been raised, with all its flits there. -/
def Req.fresh (src lst pid : Nat) (lock : Bool) (len cyc : Nat) (what : ReqWhat) : Req :=
  ⟨src, lst % 2 ^ 32, pid, lock, len, len, 0, false, cyc, false, what⟩

/-- Raise a request at a target. -/
def raiseReq (s : State) (key : Nat) (r : Req) : State :=
  let a := getArb s key
  putArb s key { a with reqs := a.reqs ++ [r] }

/-- A flit of a burst comes to a target: it joins the first request that waits for more flits and is of its burst, or raises a new
one. -/
def joinReqs (new : Req) (same : Req → Bool) (add : Req → Req) : List Req → List Req
  | [] => [new]
  | r :: l => if same r && decide (r.come < r.len) then add r :: l else r :: joinReqs new same add l

/-- A flit of a burst comes to a target. -/
def joinReq (s : State) (key : Nat) (new : Req) (same : Req → Bool) (add : Req → Req) : State :=
  let a := getArb s key
  putArb s key { a with reqs := joinReqs new same add a.reqs }

/-- Some waiting request at any target passes a test. -/
def anyReq (s : State) (p : Req → Bool) : Bool := s.arbs.cells.any fun c => c.2.reqs.any p

/-- Requests waiting at a target. -/
def waiting (s : State) (key : Nat) : Nat := (getArb s key).reqs.length

/-- Suspended bursts at a target. -/
def suspended (a : Arb) : Nat := (a.reqs.filter (·.susp)).length

/-- The request is a locked burst in progress: begun, and not suspended. -/
def Req.inBurst (r : Req) : Bool := r.lock && decide (0 < r.done) && !r.susp

/-- KIND of PAGE_CAP of an ARB page: 1 stack channels, 2 port egress, 3 bridge link, 4 funnel inputs. -/
def arbKind : PageKind → Nat
  | .arbStack => 1
  | .arbPort => 2
  | .arbBridge => 3
  | .arbFunnel => 4
  | _ => 0

/-- Targets of an ARB page (R242, R373). -/
def arbTargets : PageKind → Nat
  | .arbStack => 32
  | .arbPort => 1
  | .arbBridge => 1
  | .arbFunnel => 17
  | _ => 0

/-- A half is in SPLIT (R443, R444). -/
def inSplit (s : State) : Bool := decide (s.charge.a.st = .split) || decide (s.charge.b.st = .split)

/-- Target t of a page is frozen (R248): its bit of ARB_FREEZE or FREEZE of the page, while the page is ON (R253). -/
def arbFrozen (s : State) (k : PageKind) (i t : Nat) : Bool :=
  pageIsOn s k i && ((getPage s (pageNo k i)).freeze || bitOf (kreg s k i 0x044) t)

/-! ### The mesh -/

/-- The half, the row and the column of a router. -/
def routerHalf (r : Nat) : Nat := r / 544
def routerRow (r : Nat) : Nat := r % 544 / 32
def routerCol (r : Nat) : Nat := r % 32

/-- The router of a half, a row and a column. -/
def routerAt (h row col : Nat) : Nat := 544 * h + 32 * row + col

/-- The output a flit wants at its router (R240): along its row first, then along its column; a flit for the other half goes to
the bridge router of row 16 at column 2 × floor(c / 2) of its source column. -/
def wantsDir (f : Flit) : Dir :=
  let cross := routerHalf f.router ≠ routerHalf f.dest
  let row := if cross then 16 else routerRow f.dest
  let col := if cross then 2 * (f.col / 2) else routerCol f.dest
  if routerCol f.router < col then .east
  else if col < routerCol f.router then .west
  else if routerRow f.router < row then .south
  else if row < routerRow f.router then .north
  else if cross then .bridge
  else f.exit

/-- The router on the far side of an output. -/
def nextRouter (r : Nat) : Dir → Nat
  | .north => r - 32
  | .south => r + 32
  | .east => r + 1
  | .west => r - 1
  | _ => r

/-- The input a flit arrives at. -/
def arriveInput : Dir → Nat
  | .north => 2
  | .south => 2
  | .east => 1
  | .west => 1
  | _ => 0

/-- The edge router of a port: row 0, the port's column (R26). -/
def portRouter (p : Nat) : Nat := routerAt (p / 32) 0 (p % 32)

/-- The edge router of a channel of a stack (R26, R280): S0, S1, S4 and S5 at column 0, the others at column 31; the even stacks at
rows 0 to 7, the odd ones at rows 8 to 15. -/
def chanRouter (stack ch : Nat) : Nat :=
  routerAt (stack / 4) (8 * (stack % 2) + ch / 4) (if stack % 4 < 2 then 0 else 31)

/-- The stack link of its router that a channel is on (R280). -/
def chanLink (ch : Nat) : Dir := if ch / 2 % 2 = 0 then .link0 else .link1

/-- A flit of its own that starts at a router, as a local input. -/
def Flit.fresh (at_ dest : Nat) (exit : Dir) (src lst pid : Nat) (data : List Byte) (what : FlitWhat) : Flit :=
  ⟨at_, dest, exit, routerCol at_, 0, src, lst % 2 ^ 32, pid, false, true, [], data, what⟩

/-- A flit enters the mesh, at a router; one that stands at its bridge router asks the bridge link (R242). -/
def injectFlit (s : State) (f : Flit) : State :=
  if wantsDir f = .bridge then
    raiseReq s (arbKey .arbBridge (routerCol f.router / 2) 0) (Req.fresh f.src f.lst f.pid false 1 s.cyc (.hop f))
  else { s with flits := s.flits ++ [f] }

/-- A flit of some kind is still on its way: in the mesh or before a bridge link. -/
def flitLeft (s : State) (p : FlitWhat → Bool) : Bool :=
  s.flits.any (fun f => p f.what) ||
    anyReq s fun r => match r.what with
      | .hop f => p f.what
      | _ => false

/-- Take flits of some kind out of the mesh and from before the bridge links. -/
def dropFlits (s : State) (p : FlitWhat → Bool) : State :=
  { s with
    flits := s.flits.filter fun f => !p f.what
    arbs := s.arbs.mapVals fun _ a => { a with reqs := a.reqs.filter fun r => match r.what with
      | .hop f => !p f.what
      | _ => true } }

/-- The two flits of a cell (R157, R238): each with half of the payload, and the first with the cell's header. -/
def sendCellFlits (s : State) (f : Flit) (head payload : List Byte) : State :=
  injectFlit (injectFlit s { f with lock := true, last := false, head := head, data := payload.take 128 })
    { f with lock := true, data := payload.drop 128 }

/-- A SEND's cell enters the mesh at its tile's router, on its way to its port (R209, R240). -/
def cellToPort (s : State) (t p src : Nat) (c : Cell) : State :=
  sendCellFlits s (Flit.fresh t (portRouter p) .attach src c.lst c.pid [] (.cell p c)) [] []

/-- The router of a shadow reducer of a half (R221, R237): the spec names no place, so a constant does. -/
def srRouter (h : Half) (sr : Nat) : Nat := 544 * halfIdx h + Config.srRouter sr % 544

/-- A flit for a shadow reducer enters the mesh at a tile's router (R224). DESIGN CHOICE (log 150): it leaves the mesh at the shadow
reducer's router as a tile's flit does. -/
def flitToReducer (s : State) (t : Nat) (pid : Nat) (f : WvFlit) : State :=
  injectFlit s (Flit.fresh t (srRouter (tileHalf t) f.sr) .tile t f.lst pid [] (.wv f))

/-- A flit for a stack channel enters the mesh at a tile's router (R240, R242): number k of n. Writes are locked. -/
def flitToStack (s : State) (t stack ch lst pid : Nat) (a : MemAsk) (data : List Byte) (k n : Nat) : State :=
  injectFlit s { Flit.fresh t (chanRouter stack ch) (chanLink ch) t lst pid data (.mem a n) with
    lock := a.write, last := !a.write || decide (k + 1 = n) }

/-! ### Tiles' MOVEs -/

/-- Change MOVE number o of a tile. -/
def onMove (s : State) (t o : Nat) (f : Move → Move) : State :=
  onTile s t fun x => { x with moves := x.moves.mapVals fun _ v => if v.order = o then f v else v }

/-- One flit of a MOVE has done what it does: it was granted at a stack, it arrived, or nothing came back. -/
def moveFlitDone (s : State) (t o : Nat) : State := onMove s t o fun v => { v with left := v.left - 1 }

end Sys2Proof.Machine
end

