-- ==== Sys2Proof/Machine/PortOps.lean ====
section
/-! DEFINITION. Collective ports (chapter 12): slot tables and gates, the shaping hierarchy, host credits in both
directions, meters, the choice of an egress port, and queueing a cell. -/

namespace Sys2Proof.Machine

/-- A port that has never been started (R257, R258, R269). -/
def Port.fresh : Port := ⟨none, none, none, none, false, 0, 0, [0, 0, 0, 0], [], [], none⟩

/-- A port. -/
def getPort (s : State) (p : Nat) : Port := s.ports.get Port.fresh p

/-- Write a port. -/
def putPort (s : State) (p : Nat) (x : Port) : State := { s with ports := s.ports.put Port.fresh p x }

/-- The half of a port (R26). -/
def portHalf (p : Nat) : Half := if p < 32 then .a else .b

/-- The port exists and its half is fitted. -/
def portFitted (s : State) (p : Nat) : Bool := decide (p < 64) && s.cfg.hasHalf (portHalf p)

/-! ### Slot tables and gates -/

/-- An FT's offset into its table cycle (R269). -/
def SlotTab.offset (t : SlotTab) (ns : Nat) : Nat := ((ns : Int) - (t.base : Int)).emod (t.cycle : Int) |>.toNat

/-- Class k's gate is open at an FT under a table (R269). -/
def SlotTab.isOpen (t : SlotTab) (k ns : Nat) : Bool :=
  t.always.testBit k ||
    t.wins.any fun w => w.2.2.testBit k && decide (w.1 ≤ t.offset ns) && decide (t.offset ns < w.1 + w.2.1)

/-- The first boundary of a table's cycle at or after an FT. -/
def SlotTab.boundary (t : SlotTab) (ns : Nat) : Nat :=
  let o := t.offset ns
  if o = 0 then ns else ns + (t.cycle - o)

/-- Class k's gate at a port is open at a count (R269, R273). -/
def gateAt (s : State) (p k count : Nat) : Bool :=
  !hasTime s (portHalf p) ||
    match (getPort s p).active with
    | none => true
    | some t => t.isOpen k (nsOf count)

/-- Class k's gate is open and stays open for at least 3 cycles (R263, R271): 3 cycles are 3,840/2304 ns. -/
def gateStays (s : State) (p k : Nat) : Bool :=
  let c := countOf s (portHalf p)
  gateAt s p k c && gateAt s p k (c + 3839)

/-- The words of a slot table as they stand in window order (R269): 0 where nothing was written. -/
def tableWord (ws : List (Nat × Word)) (i : Nat) : Word :=
  match ws.find? fun x => decide (x.1 = i) with
  | some x => x.2
  | none => 0

/-- The table that a list of words spells (R269). -/
def slotTabOf (ws : List (Nat × Word)) : SlotTab :=
  let w := tableWord ws
  { cycle := (w 0).toNat
    base := (w 1).toNat + 2 ^ 32 * (w 2).toNat
    always := fieldOf (w 3) 11 8
    wins := (List.range (min 64 (fieldOf (w 3) 6 0))).map fun n =>
      ((w (4 + 2 * n)).toNat, fieldOf (w (5 + 2 * n)) 27 0, fieldOf (w (5 + 2 * n)) 31 28) }

/-- The first window of a table that fails a test, with its index. -/
def firstWin (t : SlotTab) (bad : Nat × Nat × Nat → Bool) : Option Nat :=
  (List.range t.wins.length).find? fun i => bad (t.wins.getD i (0, 0, 0))

/-- Why a table is rejected, and the window index (R270): the first cause of the list that applies. -/
def slotReject (x : Port) (ws : List (Nat × Word)) : Option (Nat × Nat) :=
  let t := slotTabOf ws
  let w3 := tableWord ws 3
  let headBad := decide (t.cycle % 16 ≠ 0) || decide (t.cycle < 1024) || decide (100000000 < t.cycle) ||
    decide (t.base % 16 ≠ 0) || decide (64 < fieldOf w3 6 0)
  let range := firstWin t fun w => decide (w.1 % 16 ≠ 0) || decide (w.2.1 % 16 ≠ 0) || decide (w.2.1 < 32)
  if headBad then some (1, 0)
  else
    match range with
    | some i => some (1, i)
    | none =>
      match firstWin t fun w => decide (t.cycle < w.1 + w.2.1) with
      | some i => some (2, i)
      | none =>
        match firstWin t fun w => decide (w.2.2 = 0) with
        | some i => some (3, i)
        | none =>
          if bitOf w3 7 || decide (fieldOf w3 31 12 ≠ 0) then some (3, 0)
          else if x.ready.isSome then some (4, 0) else none

/-- The words a read through window target 0x05 returns (R476). -/
def slotReadWord (x : Port) (i : Nat) : Word :=
  match (match x.ready with | some t => some t | none => x.active) with
  | none => if i = 3 then 0xF00 else 0
  | some t =>
    if i = 0 then BitVec.ofNat 32 t.cycle
    else if i = 1 then BitVec.ofNat 32 t.base
    else if i = 2 then BitVec.ofNat 32 (t.base / 2 ^ 32)
    else if i = 3 then BitVec.ofNat 32 (t.wins.length + t.always * 256)
    else
      match t.wins[(i - 4) / 2]? with
      | none => 0
      | some w => if i % 2 = 0 then BitVec.ofNat 32 w.1 else BitVec.ofNat 32 (w.2.1 + w.2.2 * 2 ^ 28)

/-! ### Buckets -/

/-- A bucket's level now, in 1/18 B: it fills at its rate (0.1 GB/s is 1/18 B a cycle) up to its depth (R262). -/
def Bucket.level (b : Bucket) (cyc rate depth : Nat) : Int := min (depth : Int) (b.lvl + ((rate * (cyc - b.cyc) : Nat) : Int))

/-- A bucket that has never been touched. -/
def Bucket.fresh : Bucket := ⟨0, 0⟩

/-- A bucket of the shaping hierarchy. -/
def getBucket (s : State) (key : Nat) : Bucket := s.buckets.get Bucket.fresh key

/-- Set a bucket's level now. -/
def putBucket (s : State) (key : Nat) (lvl : Int) : State := { s with buckets := s.buckets.put Bucket.fresh key ⟨lvl, s.cyc⟩ }

/-- The keys of the buckets. -/
def leafKey (p pid cls : Nat) : Nat := 256 * p + 4 * pid + cls
def rateKey (pid : Nat) : Nat := 100000 + pid
def ceilKey (pid : Nat) : Nat := 101000 + pid
def classKey (pid cls : Nat) : Nat := 102000 + 4 * pid + cls
def poolKey : Nat := 110000
def obsKey (p : Nat) : Nat := 120000 + p

/-- A word of a partition's entry (R307). -/
def partReg (s : State) (pid off : Nat) : Word := kreg s .partMap (pid / 8) (0x100 + 0x1E0 * (pid % 8) + off)

/-- Store a word of a partition's entry. -/
def setPartReg (s : State) (pid off : Nat) (w : Word) : State :=
  setKreg s .partMap (pid / 8) (0x100 + 0x1E0 * (pid % 8) + off) w

/-- A leaf's word (R278). -/
def leafReg (s : State) (p pid cls : Nat) : Word := kreg s .port p (0x400 + 4 * (4 * pid + cls))

/-- Units of 256 B in 1/18 B. -/
def burst18 (n : Nat) : Nat := n * 256 * 18

/-- The levels of a leaf, of a class node, of a partition's rate and ceiling, and of a port's observation ceiling. -/
def leafLevel (s : State) (p pid cls : Nat) : Int :=
  let w := leafReg s p pid cls
  (getBucket s (leafKey p pid cls)).level s.cyc (fieldOf w 15 0) (burst18 (fieldOf w 27 16))
def classLevel (s : State) (pid cls : Nat) : Int :=
  let w := partReg s pid (0x0B0 + 4 * cls)
  (getBucket s (classKey pid cls)).level s.cyc (fieldOf w 15 0) (burst18 (fieldOf w 27 16))
def rateLevel (s : State) (pid : Nat) : Int :=
  (getBucket s (rateKey pid)).level s.cyc (fieldOf (partReg s pid 0x0A8) 15 0) (burst18 (fieldOf (partReg s pid 0x0AC) 11 0))
def ceilLevel (s : State) (pid : Nat) : Int :=
  (getBucket s (ceilKey pid)).level s.cyc (fieldOf (partReg s pid 0x0A8) 31 16)
    (burst18 (fieldOf (partReg s pid 0x0AC) 27 16))
def obsLevel (s : State) (p : Nat) : Int :=
  (getBucket s (obsKey p)).level s.cyc (2 * fieldOf (kregF s .port p 0x048) 4 0) (766 * 18)

/-- What a LEND partition's rate bucket would have gained above its BURST (R262). -/
def overflowOf (s : State) (pid : Nat) : Int :=
  let b := getBucket s (rateKey pid)
  let raw := b.lvl + ((fieldOf (partReg s pid 0x0A8) 15 0 * (s.cyc - b.cyc) : Nat) : Int)
  max 0 (raw - (burst18 (fieldOf (partReg s pid 0x0AC) 11 0) : Nat))

/-- A partition lends its unused rate (R262). -/
def lends (s : State) (pid : Nat) : Bool := bitOf (partReg s pid 0x0AC) 31

/-- The depth of the lend pool. -/
def poolDepth (s : State) : Nat := burst18 (fieldOf (kreg s .partCtrl 0 0x04C) 11 0)

/-- The lend pool's level now. -/
def poolLevel (s : State) : Int :=
  (List.range 64).foldl (fun acc q => if lends s q then min (poolDepth s : Int) (acc + overflowOf s q) else acc)
    (min (poolDepth s : Int) (getBucket s poolKey).lvl)

/-- Bring the lend pool and the lenders' rate buckets up to date. -/
def settlePool (s : State) : State :=
  let l := poolLevel s
  let s1 := (List.range 64).foldl (fun u q => if lends u q then putBucket u (rateKey q) (rateLevel u q) else u) s
  putBucket s1 poolKey l

/-- How a cell passes the shaper (R263): held, held only by its partition's ceiling, on its own rate, on borrowed rate, or
through the lend pool. -/
inductive Passage where
  | held
  | ceiling
  | own
  | borrowed
  | pool
deriving DecidableEq, Repr

/-- The test below the gate and the credit of R263. -/
def passage (s : State) (p pid cls : Nat) : Passage :=
  if cls = 3 then
    if obsLevel s p ≥ 0 ∧ leafLevel s p pid 3 ≥ 0 then .own else .held
  else
    let body : Passage :=
      if leafLevel s p pid cls ≥ 0 then .own
      else if !bitOf (leafReg s p pid cls) 31 then .held
      else if classLevel s pid cls ≥ 0 then .borrowed
      else if !bitOf (partReg s pid (0x0B0 + 4 * cls)) 31 then .held
      else if rateLevel s pid ≥ 0 then .borrowed
      else if bitOf (partReg s pid 0x0AC) 30 ∧ poolLevel s ≥ 0 then .pool
      else .held
    if cls = 0 then
      if ceilLevel s pid ≥ -4096 * 18 then (if leafLevel s p pid 0 ≥ 0 then .own else .borrowed) else .ceiling
    else if ceilLevel s pid < 0 then (if body = .held then .held else .ceiling)
    else body

/-- A passage lets the cell go. -/
def Passage.lets : Passage → Bool
  | .held => false
  | .ceiling => false
  | .own => true
  | .borrowed => true
  | .pool => true

/-- Egress credits held for a class. -/
def txCredit (s : State) (p cls : Nat) : Nat := (getPort s p).txcr.getD cls 0

/-- A waiting cell is eligible (R263). -/
def cellEligible (s : State) (p : Nat) (c : Cell) : Bool :=
  gateStays s p c.cls && decide (0 < txCredit s p c.cls) && (passage s p c.pid c.cls).lets

/-- The GRANT that a cell is sent against. -/
def Cell.against (c : Cell) : Nat × Edge × Nat × Nat := (c.sid, c.edge, c.epoch, c.grant)

/-- A cell heads a message (R261): CTRL and OBS cells do, and the first cell the port sends against a GRANT. -/
def headsMessage (s : State) (p : Nat) (c : Cell) : Bool := c.heads || !(getPort s p).headed.contains c.against

/-- A cell's shaping length (R261). -/
def shapeLen (s : State) (p : Nat) (c : Cell) : Nat :=
  let oh := kregF s .port p 0x044
  256 + fieldOf oh 7 0 + (if headsMessage s p c then fieldOf oh 15 8 else 0)

/-- Take a length from a bucket, clamped at its floor. -/
def takeFrom (s : State) (key : Nat) (lvl : Int) (floor len : Nat) : State :=
  putBucket s key (max (-(floor : Int)) (lvl - (len * 18 : Nat)))

/-- Charge a granted cell (R264). -/
def chargeCell (s : State) (p : Nat) (c : Cell) : State :=
  let len := shapeLen s p c
  let way := passage s p c.pid c.cls
  let w := leafReg s p c.pid c.cls
  let leaf (u : State) := takeFrom u (leafKey p c.pid c.cls) (leafLevel u p c.pid c.cls) (burst18 (fieldOf w 27 16)) len
  if c.cls = 3 then
    let s1 := leaf s
    takeFrom s1 (obsKey p) (obsLevel s1 p) (766 * 18) len
  else
    let s0 := settlePool s
    let s1 := leaf s0
    let wc := partReg s c.pid (0x0B0 + 4 * c.cls)
    let s2 := takeFrom s1 (classKey c.pid c.cls) (classLevel s1 c.pid c.cls) (burst18 (fieldOf wc 27 16)) len
    let s3 := takeFrom s2 (rateKey c.pid) (rateLevel s2 c.pid) (burst18 (fieldOf (partReg s c.pid 0x0AC) 11 0)) len
    let s4 := takeFrom s3 (ceilKey c.pid) (ceilLevel s3 c.pid) (4862 * 18) len
    if way = .pool then takeFrom s4 poolKey (poolLevel s4) (poolDepth s4) len else s4

/-- Take one egress credit of a cell's class (R258), and note the GRANT that the cell is sent against: those of the session's
epochs long past are forgotten. -/
def spendCredit (s : State) (p : Nat) (c : Cell) : State :=
  let x := getPort s p
  let old := x.headed.filter fun g => !(decide (g = c.against) || (decide (g.1 = c.sid) && decide (g.2.2.1 + 2 ≤ c.epoch)))
  putPort s p { x with
    txcr := x.txcr.set c.cls (x.txcr.getD c.cls 0 - 1)
    headed := if c.heads then x.headed else c.against :: old }

/-- The first flit of a cell is granted: the cell is charged whole, its header leaves with its send stamp, and its bytes are counted
(R68, R244, R256, R277, R393). -/
def cellBegins (s : State) (p : Nat) (c : Cell) : State :=
  let len := shapeLen s p c
  let borrowed := decide (leafLevel s p c.pid c.cls < 0)
  let s0 := spendCredit (chargeCell s p c) p c
  let s1 := putPort s0 p { getPort s0 p with wire := some (wireOf s (portHalf p) c) }
  let s2 := countBlk s1 (portHalf p) 0x04 [c.cls, 4] p (some c.pid) len
  if fieldOf (kreg s .port p 0x08C) 7 0 = 4 * c.pid + c.cls then
    let s3 := incReg s2 .port p 0x090 len
    if borrowed then incReg s3 .port p 0x094 len else s3
  else s2

/-- The last flit of a cell is granted: the cell is sent (R256, R277). A COLLECTOR cell has delivered its frame (R378). -/
def cellSent (s : State) (p : Nat) (c : Cell) : State :=
  let s1 := countBlk (incReg64 s .port p 0x070 1) (portHalf p) 0x03 [c.cls, 4] p (some c.pid) 1
  if c.kind = cellTrace then deliverFrame s1 (c.handle % 64) else s1

/-! ### Ingress -/

/-- The port grants the host one credit for each slot that is free and not outstanding (R257): not while it is not ON (R276),
and not after the end of a capture until the Calm ends (R417). -/
def grantIngress (s : State) (p : Nat) : State :=
  let x := getPort s p
  let h := portHalf p
  let cm := s.calm.get h
  let closed := decide (cm.st = .stopped)
  let n := 128 - x.held - x.out
  if pageIsOn s .port p && !closed && decide (0 < n) then
    incReg64 (putPort s p { x with out := x.out + n }) .port p 0x060 n
  else s

/-- A cell arrives at a port (R257): none is taken without a credit. -/
def takeIngress (s : State) (p : Nat) : Option State :=
  let x := getPort s p
  if x.out = 0 then none
  else some (incReg64 (putPort s p { x with out := x.out - 1, held := x.held + 1 }) .port p 0x068 1)

/-- A cell that finds no credit is dropped (R257). -/
def dropNoCredit (s : State) (p : Nat) : State := raiseK (satReg s .port p 0x078 1) .port p 16

/-- A slot of the ingress buffer is freed (R257). -/
def freeIngress (s : State) (p : Nat) : State :=
  let x := getPort s p
  grantIngress (putPort s p { x with held := x.held - 1 }) p

/-! ### Meters -/

/-- A meter's parameters: CIR no more than PIR (R275), PIR, CBS and PBS. -/
def meterParams (s : State) (p pid : Nat) : Nat × Nat × Nat × Nat :=
  let a := kreg s .port p (0x800 + 8 * pid)
  let b := kreg s .port p (0x804 + 8 * pid)
  (min (fieldOf a 15 0) (fieldOf a 31 16), fieldOf a 31 16, burst18 (fieldOf b 15 0), burst18 (fieldOf b 31 16))

/-- A meter's buckets now, committed and peak (R274): one that is not listed is full. -/
def meterLevels (s : State) (p pid : Nat) : Nat × Nat :=
  let q := meterParams s p pid
  match s.meters.find (64 * p + pid) with
  | none => (q.2.2.1, q.2.2.2)
  | some m =>
    let d := s.cyc - m.cyc
    (min q.2.2.1 (m.c + q.1 * d), min q.2.2.2 (m.p + q.2.1 * d))

/-- The length a meter charges: the shaping length without OH_MSG (R274). -/
def meterLen (s : State) (p : Nat) : Nat := 256 + fieldOf (kregF s .port p 0x044) 7 0

/-- A cell would be red at a port's meter for a partition (R275). -/
def meterRed (s : State) (p pid : Nat) : Bool := decide ((meterLevels s p pid).2 < meterLen s p * 18)

/-- Meter a cell (RFC 2698, color-blind): 0 green, 1 yellow, 2 red, and count it (R274, R279). -/
def meterCell (s : State) (p pid : Nat) : State :=
  let lv := meterLevels s p pid
  let len := meterLen s p * 18
  let colour := if lv.2 < len then 2 else if lv.1 < len then 1 else 0
  let c := if colour = 0 then lv.1 - len else lv.1
  let pk := if colour = 2 then lv.2 else lv.2 - len
  let s1 := { s with meters := s.meters.set (64 * p + pid) ⟨c, pk, s.cyc⟩ }
  let s2 := incReg s1 .port p (0xA00 + 12 * pid + 4 * colour) 1
  countBlk s2 (portHalf p) 0x06 [colour] p (some pid) 1

/-! ### Egress -/

/-- Ports of a set that are ON, in ascending order (R259). -/
def onPorts (s : State) (localTo : Option Half) : List Nat :=
  (List.range 64).filter fun p =>
    pageIsOn s .port p &&
      match localTo with
      | none => true
      | some h => decide (portHalf p = h)

/-- The egress port of a cell (R259): the port of the destination's most recent accepted cell, or the k-th ON port of the
allowed set, k the destination PFA modulo their number; none while no port of the set is ON. -/
def choosePort (s : State) (last : Option Nat) (localTo : Option Half) (pfa : Nat) : Option Nat :=
  let l := onPorts s localTo
  match last with
  | some p => if l.contains p then some p else if l = [] then none else l[pfa % l.length]?
  | none => if l = [] then none else l[pfa % l.length]?

/-- A cell asks for its port's egress: a locked burst of 2 flits (R242). One that carries a SEND comes from its tile through the mesh; the
spec places the session engines and the funnels nowhere in it, so that their own cells ask at the port itself (log 149). -/
def queueCell (s : State) (p src : Nat) (c : Cell) : State :=
  match c.tile with
  | some t => cellToPort s t p src c
  | none => raiseReq s (arbKey .arbPort p 0) (Req.fresh src c.lst c.pid true 2 s.cyc (.cell c))

/-- Some cell that waits for a port, at it, on its way to it or without one, passes a test. -/
def anyCell (s : State) (t : Cell → Bool) : Bool :=
  s.stranded.any t || anyReq s (fun r => match r.what with
    | .cell c => t c
    | _ => false) || flitLeft s fun w => match w with
      | .cell _ c => t c
      | _ => false

/-- A cell is on its way to a port. -/
def cellComes (s : State) (p : Nat) : Bool :=
  flitLeft s fun w => match w with
    | .cell q _ => decide (q = p)
    | _ => false

/-! ### Held cells, once a cell time -/

/-- The cells that wait at a port. -/
def portCells (s : State) (p : Nat) : List Cell :=
  (getArb s (arbKey .arbPort p 0)).reqs.filterMap fun r =>
    match r.what with
    | .cell c => if r.done = 0 then some c else none
    | _ => none

/-- The cell waits only for its gate (R277). -/
def heldByGate (s : State) (p : Nat) (c : Cell) : Bool :=
  !gateStays s p c.cls && decide (0 < txCredit s p c.cls) && (passage s p c.pid c.cls).lets

/-- The cell holds a credit and an open gate and waits on the shaper. -/
def heldByShaper (s : State) (p : Nat) (c : Cell) : Bool :=
  decide (0 < txCredit s p c.cls) && gateStays s p c.cls && !(passage s p c.pid c.cls).lets

/-- One cell time of 1.28 ns ends in this cycle (R277): 125 cell times are 288 cycles. -/
def cellTimeEnds (cyc : Nat) : Bool := decide ((cyc + 1) * 125 / 288 ≠ cyc * 125 / 288)

/-- Count one cell time of a port's waiting cells (R277, R393). -/
def portHolds (s : State) (p : Nat) : State :=
  let l := portCells s p
  let shaped := l.filter (heldByShaper s p)
  let s1 := if l.any (heldByGate s p) then incReg s .port p 0x07C 1 else s
  let sent := match (getArb s (arbKey .arbPort p 0)).grantCyc with
    | some c => decide (s.cyc < c + 3)
    | none => false
  let s2 := if shaped ≠ [] ∧ sent = false then incReg s1 .port p 0x080 1 else s1
  let leaves := (shaped.map fun c => 4 * c.pid + c.cls).eraseDups
  let s3 := if leaves.contains (fieldOf (kreg s .port p 0x08C) 7 0) then incReg s2 .port p 0x098 1 else s2
  leaves.foldl (fun u l => countBlk u (portHalf p) 0x05 [l % 4, 4] p (some (l / 4)) 1) s3

/-- Partitions of which some cell waits only on the ceiling at some port (R307). -/
def ceilingHeld (s : State) : List Nat :=
  ((List.range 64).flatMap fun p =>
    ((portCells s p).filter fun c =>
      decide (0 < txCredit s p c.cls) && gateStays s p c.cls && decide (passage s p c.pid c.cls = .ceiling)).map (·.pid)).eraseDups

/-- What one cycle counts of cells held at the ports. -/
def portsTick (s : State) : State :=
  if cellTimeEnds s.cyc then
    let ports := (List.range 64).filter fun p => portFitted s p && decide (portCells s p ≠ [])
    let s1 := ports.foldl portHolds s
    (ceilingHeld s).foldl (fun u q => setPartReg u q 0x0BC (partReg u q 0x0BC + 1)) s1
  else s

end Sys2Proof.Machine
end

