-- ==== Sys2Proof/Machine/MgmtOps.lean ====
section
/-! DEFINITION. How a management access is answered (R31 to R39): the response of a port, and which pages it reaches. -/

namespace Sys2Proof.Machine

/-- The response codes of R33. -/
def respOkay : Nat := 0
def respWait : Nat := 1
def respAbsent : Nat := 2
def respDenied : Nat := 3
def respState : Nat := 4
def respDecode : Nat := 5
def respHalfDown : Nat := 6

/-- A transaction of a port ends (R33): read data is zero for any response other than OKAY. -/
def respond (s : State) (port : Half) (code : Nat) (data : Word) : State :=
  { s with mports := s.mports.put port { s.mports.get port with resp := code, rdata := data } }

/-- A write ends in OKAY. -/
def okay (s : State) (port : Half) : State := respond s port respOkay 0

/-- A write to a page ends in DENIED or STATE: ACCESS of the page is set (R41). -/
def turnAway (s : State) (port : Half) (pg code : Nat) : State := respond (raiseErr s pg 2) port code 0

/-- A half is in reset: READY is low (R463). -/
def halfDown (s : State) (h : Half) : Bool := !s.ready.get h

/-- The page cannot be reached from a port (R33, R35, R39, R463). A block page answers unless every fitted half is in reset. -/
def unreachable (s : State) (port : Half) (k : PageKind) (i : Nat) : Bool :=
  match kindHalf s.cfg k i with
  | none => halfDown s .a && (halfDown s .b || !s.cfg.halfB)
  | some h => halfDown s h || (decide (h ≠ port) && inSplit s)

/-- Why a write to a page is turned away before its register is looked at: DECODE, ABSENT or HALF_DOWN (R33, R38). -/
def pageRefuses (s : State) (port : Half) (pg : Nat) : Option Nat :=
  match pageOf pg with
  | none => some respDecode
  | some (k, i) =>
    if kindBeyond s.cfg k i then some respDecode
    else if !kindFitted s.cfg k i then some respAbsent
    else if unreachable s port k i then some respHalfDown
    else none

/-- A write by a management port to a page: the block must fit the port (R6), and the page must answer. -/
def mgmtWrite (s : State) (port : Half) (pg : Nat) (f : State → State) : Out :=
  if !s.cfg.hasHalf port then .fault .absentUnit
  else
    match pageRefuses s port pg with
    | some c => .next (respond s port c 0)
    | none => .next (f s)

/-- A write to an instance of a row. -/
def mgmtWriteK (s : State) (port : Half) (k : PageKind) (i : Nat) (f : State → State) : Out :=
  if kindCount k ≤ i then .fault .noSuchUnit else mgmtWrite s port (pageNo k i) f

/-- The state that a command leaves, or the state before it where it gives none. -/
def stateAfter (s : State) : Out → State
  | .next t => t
  | _ => s

/-- A command to a unit of a half that is not fitted is a fault condition (R7). -/
def needHalf (s : State) (h : Half) (r : Out) : Out := if s.cfg.hasHalf h then r else .fault .absentUnit

/-- A start faults (R45): the page returns to OFF, and a PAGE_ERR bit says why. START_FAIL is bit 0. -/
def failStart (s : State) (pg bit : Nat) : State := raiseErr (setPageSt s pg .off) pg bit

end Sys2Proof.Machine
end

