-- ==== Sys2Proof/Machine/SchedOps.lean ====
section
/-! DEFINITION. The schedule engine (R58 to R66): when an entry fires, what becomes of it, and the order within a cycle. -/

namespace Sys2Proof.Machine

/-- The action codes of R59. -/
def actCalm : Nat := 1
def actSnapshot : Nat := 2
def actInterval : Nat := 3
def actSlotSwitch : Nat := 4
def actEpochStart : Nat := 5
def actPageCtrl : Nat := 6
def actLullGate : Nat := 7
def actBypass : Nat := 8
def actReport : Nat := 9

/-- The key of an entry. -/
def schedKey (h : Half) (n : Nat) : Nat := 1024 * halfIdx h + n

/-- An entry that holds nothing. -/
def Entry.empty : Entry := ⟨.empty, 0, 0, 0, 0, false, 0, false, 0, 0, 0, none⟩

/-- An entry. -/
def getEntry (s : State) (h : Half) (n : Nat) : Entry := s.sched.get Entry.empty (schedKey h n)

/-- Write an entry. -/
def putEntry (s : State) (h : Half) (n : Nat) (e : Entry) : State :=
  { s with sched := s.sched.put Entry.empty (schedKey h n) e }

/-- The entry is armed and its FT has come (R57). -/
def Entry.ready (e : Entry) (count : Nat) : Bool :=
  decide (e.st = .armed) &&
    match e.due with
    | some d => decide (d * 2304 ≤ count)
    | none => false

/-- Entry (e, n) comes before (f, m): by FT, and in one FT in the order of R59. -/
def entryBefore (e : Entry) (n : Nat) (f : Entry) (m : Nat) : Bool :=
  let a := e.due.getD 0
  let b := f.due.getD 0
  decide (a < b) || (decide (a = b) && (decide (e.action < f.action) || (decide (e.action = f.action) && decide (n < m))))

/-- No other entry of the half that is ready comes before this one. -/
def firstReady (s : State) (h : Half) (n : Nat) (e : Entry) : Bool :=
  s.sched.cells.all fun c =>
    !(decide (c.1 / 1024 = halfIdx h) && decide (c.1 % 1024 ≠ n) && c.2.ready (countOf s h)) ||
      entryBefore e n c.2 (c.1 % 1024)

/-- The entry fires now (R54, R57, R59). -/
def fires (s : State) (h : Half) (n : Nat) : Bool :=
  let e := getEntry s h n
  hasTime s h && e.ready (countOf s h) && firstReady s h n e

/-- The next repetition after the one at FT d (R63): FT plus a multiple of the period, which is in microseconds. DESIGN CHOICE (log
130): after a firing that a Calm held this lies in the past, and the repetitions that passed meanwhile fire one after another. -/
def nextRep (e : Entry) (d : Nat) : Nat :=
  let p := e.period * 1000
  e.ft + ((d - e.ft) / p + 1) * p

/-- An entry after its firing (R58, R63, R66). -/
def Entry.fired (e : Entry) : Entry :=
  let e1 := { e with fires := satAdd (2 ^ 24 - 1) e.fires 1 }
  if e.trig then
    if e.rearm then { e1 with due := none } else { e1 with st := .fired, due := none }
  else if e.period = 0 then { e1 with st := .fired, due := none }
  else { e1 with due := some (nextRep e (e.due.getD e.ft)) }

/-- Actions held during a Calm (R59, R61). -/
def heldInCalm (code : Nat) : Bool :=
  decide (code = actEpochStart) || decide (code = actPageCtrl) || decide (code = actReport)

/-- A schedule action (R59): where the entry is the next to fire and its action and argument are the command's, it fires with
its effect, or is held by a Calm. In every other state nothing happens. -/
def schedAction (s : State) (h : Half) (n code : Nat) (is : Entry → Bool) (effect : State → Entry → State) : State :=
  let e := getEntry s h n
  if fires s h n && decide (e.action = code) && is e then
    if calmOn s h && heldInCalm code then putEntry s h n { e with st := .held }
    else effect (putEntry s h n e.fired) e
  else s

/-- A schedule action as a command's outcome. -/
def schedOut (s : State) (h : Half) (n code : Nat) (is : Entry → Bool) (effect : State → Entry → State) : Out :=
  needHalf s h (.next (schedAction s h n code is effect))

/-- The page number in TARGET (R60). -/
def Entry.page (e : Entry) : Nat := e.target % 16384

/-- Count missed firings (R63). -/
def countMissed (s : State) (h : Half) (n : Nat) : State :=
  if n = 0 then s
  else countBlk (raiseK (satReg s .ftu (halfIdx h) 0x06C n) .ftu (halfIdx h) 23) h 0x12 [2] (halfIdx h) none n

/-- The first entry of the session engine's reserve (R64). -/
def reserveFrom (s : State) (h : Half) : Nat := 1024 - kregFN s .ftu (halfIdx h) 0x064

/-- FTU_LEAD in force. -/
def ftuLead (s : State) (h : Half) : Nat := kregFN s .ftu (halfIdx h) 0x060

end Sys2Proof.Machine
end

