-- ==== Sys2Proof/Machine/MemOps.lean ====
section
/-! DEFINITION. Memory addresses and regions (R280 to R283), the stacks' bytes, partitions as owners of regions, and what a
channel will take (R290). -/

namespace Sys2Proof.Machine

/-- A partition that is FREE and was never created (R307). -/
def Part.fresh : Part := ⟨.free, 0, true, [], none, [], 0, 0, ⟨false, false⟩⟩

/-- A partition. -/
def getPart (s : State) (q : Nat) : Part := s.parts.get Part.fresh q

/-- Write a partition. -/
def putPart (s : State) (q : Nat) (p : Part) : State := { s with parts := s.parts.put Part.fresh q p }

/-- A region that is FREE in its first epoch. -/
def Region.fresh : Region := ⟨.free, 0, 0, 0, 0⟩

/-- A region by PRN. -/
def getRegion (s : State) (prn : Nat) : Region := s.regions.get Region.fresh prn

/-- Write a region, on chip and in its mirror in the reserve (R284, R286). -/
def putRegion (s : State) (prn : Nat) (r : Region) : State :=
  { s with regions := s.regions.put Region.fresh prn r, reserve := s.reserve.put Region.fresh prn r }

/-- Regions of the block (R282). -/
def BlockCfg.regions (c : BlockCfg) : Nat := 1440 * 32 * c.stackCount

/-- The stack and the channel of a region (R282). -/
def stackOf (c : BlockCfg) (prn : Nat) : Nat := prn % c.stackCount
def channelOf (c : BlockCfg) (prn : Nat) : Nat := prn / c.stackCount % 32

/-- The half of a stack. -/
def stackHalf (k : Nat) : Half := if k < 4 then .a else .b

/-- The half of a region. -/
def regionHalf (c : BlockCfg) (prn : Nat) : Half := stackHalf (stackOf c prn)

/-- A channel that is IN_SERVICE and has met no error. -/
def StackCh.fresh : StackCh := ⟨.inService, none, none, 0, 0, 0⟩

/-- A channel of a stack. -/
def getCh (s : State) (stack ch : Nat) : StackCh := s.chans.get StackCh.fresh (32 * stack + ch)

/-- Write a channel of a stack. -/
def putCh (s : State) (stack ch : Nat) (c : StackCh) : State :=
  { s with chans := s.chans.put StackCh.fresh (32 * stack + ch) c }

/-- Spare rows left in a channel (R295, R300): what it was made with, which the spec leaves open, less the rows used. -/
def spareLeft (s : State) (stack ch : Nat) : Nat := Config.spareRows (32 * stack + ch) % 4096 - (getCh s stack ch).rows

/-- Where a memory address of a partition lies (R281): the PRN and the offset; none where a MOVE faults with PART. -/
def translate (s : State) (pid addr : Nat) : Option (Nat × Nat) :=
  if addr / 2 ^ 40 ≠ 0 then none
  else
    match (getPart s pid).regions[addr / 2 ^ 21]? with
    | none => none
    | some prn =>
      let r := getRegion s prn
      if r.pid = pid ∧ (r.st = .owned ∨ r.st = .migrating) then some (prn, addr % 2 ^ 21) else none

/-- The bytes of a region are kept from this address on. -/
def memAddr (prn off : Nat) : Nat := prn * 2 ^ 21 + off

/-- The key of a line (R285). -/
def lineKey (prn line : Nat) : Nat := prn * 32768 + line

/-- Every address of a range, in steps of 64 B, translates. -/
def rangeMapped (s : State) (pid addr len : Nat) : Bool :=
  (List.range ((len + 63) / 64)).all fun i => (translate s pid (addr + 64 * i)).isSome

/-- Read bytes of a partition's memory, line by line. -/
def readPart (s : State) (pid addr : Nat) : Nat → List Byte
  | 0 => []
  | n + 1 =>
    match translate s pid addr with
    | some (prn, off) => readBytes s.mem (memAddr prn off) 64 ++ readPart s pid (addr + 64) n
    | none => List.replicate 64 0 ++ readPart s pid (addr + 64) n

/-- Write whole lines of a region: their bytes are replaced, and an uncorrectable line becomes readable (R288). -/
def writeLines (s : State) (prn off : Nat) (l : List Byte) : State :=
  { s with
    mem := writeBytes s.mem (memAddr prn off) l
    badLines := s.badLines.keep fun k _ => decide (k < lineKey prn (off / 64)) || decide (lineKey prn ((off + l.length) / 64) ≤ k) }

/-- How a line stands (R287, R288): 1 uncorrectable, 2 a line whose MAC fails, 0 neither. The lines of a region that nothing has zeroed
since the last reset of the block stand under keys that are gone (R285, R286), so their MACs fail. -/
def lineMark (s : State) (prn line : Nat) : Nat :=
  if (getRegion s prn).era ≠ s.era then 2 else (s.badLines.find (lineKey prn line)).getD 0

/-- Lines of a region are copied to another (R294, R295): what reads as uncorrectable there reads so here. -/
def copyLines (s : State) (src dst off len : Nat) : State :=
  let s1 := writeLines s dst off (readBytes s.mem (memAddr src off) len)
  { s1 with badLines := (List.range (len / 64)).foldl (fun m j =>
      if lineMark s src (off / 64 + j) = 0 then m else m.set (lineKey dst (off / 64 + j)) 1) s1.badLines }

/-- Drop the bytes and the marks of a region: every line reads zero (R292). -/
def clearRegion (s : State) (prn : Nat) : State :=
  { s with
    mem := s.mem.keep fun k _ => decide (k / 2 ^ 21 ≠ prn)
    badLines := s.badLines.keep fun k _ => decide (k / 32768 ≠ prn) }

/-- A ROW_REPAIR holds a channel (R295). -/
def repairHolds (s : State) (stack ch : Nat) : Bool :=
  let f := s.fill.get (stackHalf stack)
  decide (f.op = some 4) && decide (stackOf s.cfg f.src = stack) && decide (channelOf s.cfg f.src = ch)

/-- The request entries of a channel, oldest first (R290). -/
def entriesAt (s : State) (stack ch : Nat) : List ChEntry := s.entries.get [] (32 * stack + ch)

/-- Write the request entries of a channel. -/
def putEntries (s : State) (stack ch : Nat) (l : List ChEntry) : State :=
  { s with entries := s.entries.put [] (32 * stack + ch) l }

/-- Request entries of a channel controller (R290). -/
def entryCount : Nat := 64

/-- A channel serves requests: it is not RETIRED, and its stack has been trained (R290, R299): its page is ON or STOPPING. -/
def chanUp (s : State) (stack ch : Nat) : Bool :=
  (decide (pageSt s .mem stack = .on) || decide (pageSt s .mem stack = .stopping)) && decide ((getCh s stack ch).st ≠ .retired)

/-- A channel meets its arbiter's grant condition (R290): it is IN_SERVICE or DRAINING, no ROW_REPAIR holds it, and an entry is
free. -/
def chanReady (s : State) (stack ch : Nat) : Bool :=
  chanUp s stack ch && !repairHolds s stack ch && decide ((entriesAt s stack ch).length < entryCount)

/-- The span of an offset (R283). -/
def spanOf (off : Nat) : Nat := off / 2048

/-- An engine is reading or rewriting the span that an access falls in: other requests to it wait in their entries (R293). -/
def spanBusy (s : State) (prn off : Nat) : Bool :=
  let f := s.fill.get (regionHalf s.cfg prn)
  decide (f.span ≠ .rest) && (decide (f.op = some 1) || decide (f.op = some 2) || decide (f.op = some 3)) &&
    (decide (f.src = prn) || (decide (f.op = some 3) && decide (f.dst = prn))) && decide (f.cursor = spanOf off)

/-- Where a write to a region is mirrored (R294): to the destination of its MIGRATE where the span has been copied, and of a completed
MIGRATE while the source's entries are not empty. -/
def mirrorOf (s : State) (prn off : Nat) : Option Nat :=
  let f := s.fill.get (regionHalf s.cfg prn)
  if f.mig ∧ f.src = prn ∧ (spanOf off < f.cursor ∨ (spanOf off = f.cursor ∧ f.span = .writing)) then some f.dst
  else (f.late.find? fun q => decide (q.1 = prn)).map (·.2)

/-- The tenant a line's events are attributed to: the region's owner, and the block for FREE and RETIRED regions (R393). -/
def lineOwner (s : State) (prn : Nat) : Option Nat :=
  let r := getRegion s prn
  if r.st = .free ∨ r.st = .retired then none else some r.pid

/-- A read that patrol has made and not yet written back meets a newer write (R293). -/
def ChEntry.met (e : ChEntry) (a : MemAsk) : ChEntry :=
  match e.ask.use with
  | .patrol _ => { e with newer := e.newer || (decide (e.ask.prn = a.prn) && overlaps e.ask.off e.ask.len a.off a.len) }
  | _ => e

/-- What a granted write does to the lines it covers (R288, R291 to R294): a MIGRATE's flit copies them from its source, one of REEPOCH
rewrites them as they are, and any other replaces them, here and where they are mirrored. -/
def writeGranted (s : State) (a : MemAsk) (data : List Byte) : State :=
  let f := s.fill.get (regionHalf s.cfg a.prn)
  match a.use with
  | .engine _ =>
    if f.op = some 3 then copyLines s f.src a.prn a.off a.len
    else if f.op = some 1 then writeLines s a.prn a.off data
    else s
  | _ =>
    let s1 := writeLines s a.prn a.off data
    match mirrorOf s a.prn a.off with
    | some d => writeLines s1 d a.off data
    | none => s1

/-- A granted flit takes an entry of its channel, and its access takes effect, so that accesses to a line take effect in the order of
their grants (R290, R291): a read takes the bytes and the lines as they stand. -/
def accessGranted (s : State) (src lst pid : Nat) (a : MemAsk) (data : List Byte) : State :=
  let k := stackOf s.cfg a.prn
  let c := channelOf s.cfg a.prn
  let s1 := countBlk s (stackHalf k) 0x0D [b2n a.write] k (lineOwner s a.prn) (a.len / 64)
  if a.write then
    let s2 := writeGranted s1 a data
    let l := (entriesAt s2 k c).map fun e => e.met a
    let s3 := putEntries s2 k c (l ++ [⟨a, src, lst, pid, [], [], false, false⟩])
    match a.use with
    | .move t o _ => moveFlitDone s3 t o
    | _ => s3
  else
    let left := (List.range (a.len / 64)).map fun j => (a.off / 64 + j, lineMark s1 a.prn (a.off / 64 + j))
    putEntries s1 k c (entriesAt s1 k c ++ [⟨a, src, lst, pid, readBytes s1.mem (memAddr a.prn a.off) a.len, left, false, false⟩])

/-- Some request at a stack, or some entry of a channel, is of a use. -/
def useLeft (s : State) (u : MemUse) : Bool :=
  anyReq s (fun r => match r.what with
    | .mem l => l.any fun q => decide (q.1.use = u)
    | _ => false) || s.entries.cells.any fun c => c.2.any fun e => decide (e.ask.use = u)

/-- Some request at a stack is of a use, so that not all its flits have been accepted. -/
def useWaits (s : State) (u : MemUse) : Bool :=
  anyReq s fun r => match r.what with
    | .mem l => l.any fun q => decide (q.1.use = u)
    | _ => false

/-- A use is one of a Glove's chunks. -/
def MemUse.ofGlove (gloveId : Nat) : MemUse → Bool
  | .chunk g _ => decide (g = gloveId)
  | _ => false

/-- Take away the requests of some uses that no grant has begun. -/
def withdrawUse (s : State) (p : MemUse → Bool) : State :=
  { s with arbs := s.arbs.mapVals fun _ a => { a with reqs := a.reqs.filter fun r => match r.what with
      | .mem l => decide (0 < r.done) || !l.any fun q => p q.1.use
      | _ => true } }

/-- Take away what a use has at the stacks: its requests, and its entries. -/
def dropUse (s : State) (p : MemUse → Bool) : State :=
  { s with
    arbs := s.arbs.mapVals fun _ a => { a with reqs := a.reqs.filter fun r => match r.what with
      | .mem l => !l.any fun q => p q.1.use
      | _ => true }
    entries := s.entries.mapVals fun _ l => l.filter fun e => !p e.ask.use }

/-- A requester that the spec gives no place in the mesh asks a stack channel itself (log 149): the flits of one span. -/
def askStack (s : State) (src lst pid : Nat) (write : Bool) (l : List (MemAsk × List Byte)) : State :=
  match l with
  | [] => s
  | q :: _ =>
    raiseReq s (arbKey .arbStack (stackOf s.cfg q.1.prn) (channelOf s.cfg q.1.prn))
      (Req.fresh src lst pid write l.length s.cyc (.mem l))

/-- A range cut at the multiples of a step. -/
def cutAt (step : Nat) : Nat → Nat → Nat → List (Nat × Nat)
  | 0, _, _ => []
  | k + 1, a, n =>
    if n = 0 then []
    else
      let m := min n (step - a % step)
      (a, m) :: cutAt step k (a + m) (n - m)

/-- The flits of a write of bytes into a region, 128 B each (R242). -/
def writeAsks (use : MemUse) (prn : Nat) : Nat → Nat → List Byte → List (MemAsk × List Byte)
  | 0, _, _ => []
  | n + 1, off, l =>
    if l = [] then []
    else (⟨use, true, prn, off, min 128 l.length⟩, l.take 128) :: writeAsks use prn n (off + 128) (l.drop 128)

/-- The partition's space address of a line of one of its regions, for an event (R369). -/
def spaceAddr (s : State) (pid prn line : Nat) : Nat :=
  ((getPart s pid).regions.findIdx fun r => decide (r = prn)) * 2 ^ 21 + 64 * line

/-- Whether a trace channel takes a flit now (R373, R375 to R377, R384): it is ON, it has a route, a tenant's channel is keyed,
and it holds a free frame. -/
def chanTakes (s : State) (c : Nat) : Bool :=
  let x := getChan s c
  pageIsOn s .chan c && decide (fieldOf (kregF s .chan c 0x040) 1 0 ≠ 0) &&
    (decide (pageOwner s (pageNo .chan c) = 0) || x.keyed) && (x.cur.isSome || decide (x.frames.length < 64))

/-- A stream's flit may enter its funnel input: its channel takes it, and in SPLIT the channel is of the stream's own half
(R373, R374). -/
def drainGoes (s : State) (key : Nat) : Bool :=
  match keyChan s key with
  | none => false
  | some c => chanTakes s c && (!inSplit s || decide ((if c < 32 then Half.a else Half.b) = keyHalf s key))

end Sys2Proof.Machine
end

