-- ==== Sys2Proof/Machine/WinOps.lean ====
section
/-! DEFINITION. The windows of an MGMT page (R48 to R50): one window, and the decision of its target. -/

namespace Sys2Proof.Machine

/-- A window that was never opened. -/
def Window.fresh : Window := ⟨0, 0, .closed, false, 0, 0, 0, false, false, .a, []⟩

/-- The key of window w of a half's MGMT page. -/
def winKey (mgmt : Half) (w : Nat) : Nat := 4 * halfIdx mgmt + w

/-- A window. -/
def getWin (s : State) (mgmt : Half) (w : Nat) : Window := s.wins.get Window.fresh (winKey mgmt w)

/-- Write a window. -/
def putWin (s : State) (mgmt : Half) (w : Nat) (x : Window) : State :=
  { s with wins := s.wins.put Window.fresh (winKey mgmt w) x }

/-- The target code and the instance that WIN_SEL named at the last OPEN. -/
def Window.target (x : Window) : Nat := fieldOf x.held 7 0
def Window.inst (x : Window) : Nat := fieldOf x.held 23 8

/-- The window waits for the decision of a target of this code. -/
def Window.awaits (x : Window) (code : Nat) : Bool := decide (x.st = .deciding) && decide (x.target = code)

/-- The target has decided (R50). -/
def decideWin (s : State) (mgmt : Half) (w : Nat) (ok : Bool) : State :=
  putWin s mgmt w { getWin s mgmt w with st := .closed, committed := ok, rejected := !ok, staged := [] }

/-- The window that waits for an RTP's decision on a message (R320), if one does. -/
def rtpWindow (s : State) (h : Half) : Option (Half × Nat) :=
  [(Half.a, 0), (.a, 1), (.a, 2), (.a, 3), (.b, 0), (.b, 1), (.b, 2), (.b, 3)].find? fun x =>
    (getWin s x.1 x.2).awaits 1 && decide ((getWin s x.1 x.2).inst = halfIdx h)

/-- The RTP decides on the message that waits for it. -/
def decideRtp (s : State) (h : Half) (ok : Bool) : State :=
  match rtpWindow s h with
  | some (m, w) => decideWin s m w ok
  | none => s

/-! ### CRC-32 -/

/-- One bit of the IEEE 802.3 CRC-32, least significant bit first. -/
def crcBit (c : Nat) : Nat := if c % 2 = 1 then (c / 2) ^^^ 0xEDB88320 else c / 2

/-- One byte of it. -/
def crcByte (c : Nat) (b : Byte) : Nat := (List.range 8).foldl (fun x _ => crcBit x) (c ^^^ b.toNat)

/-- The CRC of more bytes, given the CRC of those before; the CRC of no bytes is 0 (R48). -/
def crcOn (c : Nat) (l : List Byte) : Nat := 0xFFFFFFFF ^^^ l.foldl crcByte (0xFFFFFFFF ^^^ c)

end Sys2Proof.Machine
end

