-- ==== Sys2Proof/Machine/Ports.lean ====
section
/-! DEFINITION. The commands of the collective ports (chapter 12): XT_CRED, SLOT_TABLE_COMMIT, SLOT_TABLE_SWITCH,
SLOT_SWITCH_ACTION. -/

namespace Sys2Proof.Machine

/-- One more egress credit of each class whose bit pulses (R258, R455). -/
def addCredits (l : List Nat) (classes : Nat) : List Nat :=
  (List.range 4).map fun k => l.getD k 0 + b2n (classes.testBit k)

/-- XT_CRED (R258, R455): one egress credit of each class whose bit pulses. -/
def execXtCred (p : Nat) (classes : Nat) (s : State) : Out :=
  if !portFitted s p then .fault .absentUnit
  else
    let x := getPort s p
    .next (putPort s p { x with txcr := addCredits x.txcr classes })

/-- SLOT_TABLE_COMMIT (R270, R272): the table that a closed write window holds goes into the shadow bank, or is rejected. -/
def execSlotTableCommit (mgmt : Half) (w : Nat) (s : State) : Out :=
  let x := getWin s mgmt w
  if !x.awaits 5 then .next s
  else
    let p := x.inst
    let y := getPort s p
    match slotReject y x.staged with
    | some (reason, i) =>
      .next (decideWin (raiseK (setKreg s .port p 0x088 (BitVec.ofNat 32 (reason + 256 * i))) .port p 18) mgmt w false)
    | none =>
      let h := portHalf p
      let after := if hasTime s h then some (nsCeil (countOf s h) + ftuLead s h) else none
      .next (decideWin (putPort s p { y with ready := some (slotTabOf x.staged), after := after, fired := none }) mgmt w true)

/-- The boundary at which a READY table switches (R272): of the active table's cycle, or of the committed table's own on a port
that has none; counted from the commit plus FTU_LEAD, or under HOLD from the SLOT_SWITCH. -/
def switchAt (s : State) (p : Nat) : Option Nat :=
  let y := getPort s p
  match y.ready with
  | none => none
  | some t =>
    let from_ := if bitOf (kreg s .port p 0x04C) 0 then y.fired else y.after
    match from_ with
    | none => none
    | some f => some ((y.active.getD t).boundary f)

/-- SLOT_TABLE_SWITCH (R272, R273): at its boundary, with time, the READY table becomes active. -/
def execSlotTableSwitch (p : Nat) (s : State) : Out :=
  if !portFitted s p then .fault .absentUnit
  else
    let h := portHalf p
    match switchAt s p with
    | none => .next s
    | some b =>
      if hasTime s h && decide (b * 2304 ≤ countOf s h) then
        let y := getPort s p
        .next (setKreg64 (putPort s p { y with
          active := y.ready, ready := none, after := none, fired := none, bank := !y.bank }) .port p 0x050 b)
      else .next s

/-- The port a SLOT_SWITCH entry names (R60). -/
def Entry.portNo (e : Entry) : Nat := e.page - kindBase .port

/-- SLOT_SWITCH_ACTION (R272): a READY table of the named port may switch from this FT on. -/
def execSlotSwitchAction (h : Half) (entry : Nat) (s : State) : Out :=
  schedOut s h entry actSlotSwitch (fun _ => true) fun s e =>
    let y := getPort s e.portNo
    if y.ready.isSome then putPort s e.portNo { y with fired := some (e.due.getD 0) } else s

end Sys2Proof.Machine
end

