-- ==== Sys2Proof/Machine/Arb.lean ====
section
/-! DEFINITION. The commands of the mesh and its arbiters (chapter 11) and one arbitration phase: FLIT_ROUTE, STARVE, ARB_FREEZE. -/

namespace Sys2Proof.Machine

/-- The phase of a static frame that an arbitration in this cycle is (R252). -/
def arbPhase (s : State) (pg : Nat) : Nat := (s.cyc - s.arbOn.get 0 pg) % 64

/-- The PID of a static slot, if it is VALID (R252, R255). -/
def slotPid (s : State) (k : PageKind) (i ph : Nat) : Option Nat :=
  let b := fieldOf (kregF s k i (0x080 + 4 * (ph / 4))) (8 * (ph % 4) + 7) (8 * (ph % 4))
  if b.testBit 7 then some (b % 64) else none

/-- Consecutive slots from a phase on that belong to a partition, counted up to a bound (R252). -/
def slotRun (s : State) (k : PageKind) (i pid : Nat) : Nat → Nat → Nat
  | 0, _ => 0
  | n + 1, ph => if slotPid s k i ph = some pid then 1 + slotRun s k i pid n ((ph + 1) % 64) else 0

/-- Static-slot mode is in force at a page (R252, R253). -/
def arbStatic (s : State) (k : PageKind) (i : Nat) : Bool := pageIsOn s k i && bitOf (kregF s k i 0x040) 0

/-- A request at a stack that reaches it without the mesh comes from the other half (R239, R444). -/
def Req.crosses (r : Req) (h : Half) : Bool := decide (0x4C0 ≤ r.src) && decide (r.src % 2 ≠ halfIdx h)

/-- Flits that wait in a router's input buffer of the bridge (R240, R242). -/
def bridgeInput (s : State) (router : Nat) : Nat :=
  (s.flits.filter fun f => decide (f.router = router) && decide (f.input = 3)).length

/-- The router on the far side of a bridge link (R26). -/
def acrossBridge (r : Nat) : Nat := if routerHalf r = 0 then r + 544 else r - 544

/-- The grant condition of the target, and the requester's own tests (R242, R244, R413). -/
def targetTakes (s : State) (k : PageKind) (i t : Nat) (r : Req) : Bool :=
  match k with
  | .arbStack => chanReady s i t && !(inSplit s && r.crosses (stackHalf i)) && (!calmOn s (stackHalf i) || decide (0 < r.done))
  | .arbPort =>
    match r.what with
    | .cell c => decide (0 < r.done) || (cellEligible s i c && (!calmOn s (portHalf i) || decide (c.cls = 3)))
    | _ => false
  | .arbBridge =>
    match r.what with
    | .hop f => !inSplit s && decide (bridgeInput s (acrossBridge f.router) < Config.inputBuffers + 1)
    | _ => false
  | .arbFunnel =>
    match r.what with
    | .drain key => drainGoes s key
    | _ => false
  | _ => false

/-- A locked burst may begin now (R246, R252): a target holds at most 9 suspended bursts, and under static slots a burst begins
only where it fits, on FHL-4 always and on FHL-8 while 8 or more are suspended. -/
def burstMayBegin (s : State) (k : PageKind) (i : Nat) (a : Arb) (static : Bool) (ph : Nat) (r : Req) : Bool :=
  if !r.lock || decide (0 < r.done) then true
  else
    let fits := decide (slotRun s k i r.pid r.len ph = r.len)
    if s.cfg.halfB then
      decide (suspended a < 9) && (!static || decide (suspended a < 8) || fits)
    else !static || fits

/-- The request of a list with the smallest d and then the lowest source ID, with its place (R243). -/
def nearest (s : State) (h : Half) : List (Nat × Req) → Option (Nat × Req)
  | [] => none
  | x :: l =>
    match nearest s h l with
    | none => some x
    | some y =>
      let a := clampSlack (slackOf s h x.2.lst)
      let b := clampSlack (slackOf s h y.2.lst)
      if b < a ∨ (a = b ∧ y.2.src < x.2.src) then some y else some x

/-- A burst in progress is suspended with its progress kept; its age counts from here (R246, R255). -/
def Req.suspend (r : Req) (cyc : Nat) : Req := { r with susp := true, since := cyc }

/-- Suspend the burst in progress at a target. -/
def suspendBurst (s : State) (key : Nat) : State :=
  let a := getArb s key
  putArb s key { a with reqs := a.reqs.map fun r => if r.inBurst then r.suspend s.cyc else r }

/-- What an arbitration phase grants: a request by its place, and whether it preempts the burst in progress. -/
structure Grant where
  n : Nat
  r : Req
  preempts : Bool
deriving DecidableEq, Repr

/-- The requests that are eligible in this phase, with their places (R243, R244, R248, R252): the head flit is there and waits since an
earlier cycle, the target meets its grant condition, and no freeze or static slot leaves the request out. A burst in progress passed
those when it began. -/
def eligible (s : State) (k : PageKind) (i t : Nat) : List (Nat × Req) :=
  let a := getArb s (arbKey k i t)
  let static := arbStatic s k i
  let ph := arbPhase s (pageNo k i)
  let slot := slotPid s k i ph
  (withIndex 0 a.reqs).filter fun x =>
    decide (x.2.since < s.cyc) && decide (x.2.done < x.2.come) && targetTakes s k i t x.2 &&
      (x.2.inBurst ||
        (!arbFrozen s k i t && burstMayBegin s k i a static ph x.2 && (!static || decide (slot = some x.2.pid))))

/-- The choice of one phase (R243 to R246, R252), on a target whose burst in progress has been suspended where a freeze or the
end of a partition's slots suspends it. -/
def choose (s : State) (k : PageKind) (i t : Nat) (h : Half) : Option Grant :=
  let a := getArb s (arbKey k i t)
  let l := eligible s k i t
  let best := nearest s h (l.filter fun x => !x.2.inBurst)
  match (withIndex 0 a.reqs).find? fun x => x.2.inBurst with
  | none => best.map fun y => ⟨y.1, y.2, false⟩
  | some b =>
    let go : Option Grant := if l.any (fun x => x.2.inBurst) then some ⟨b.1, b.2, false⟩ else none
    match best with
    | some y =>
      if s.cfg.halfB = true ∧ clampSlack (slackOf s h y.2.lst) < clampSlack (slackOf s h b.2.lst) ∧ suspended a < 8 then
        some ⟨y.1, y.2, true⟩
      else go
    | none => go

/-- A static phase that grants nothing while another partition's request waits (R252). -/
def phaseIdles (s : State) (k : PageKind) (i t : Nat) : Bool :=
  arbStatic s k i && (getArb s (arbKey k i t)).reqs.any fun r =>
    decide (slotPid s k i (arbPhase s (pageNo k i)) ≠ some r.pid)

/-- Replace one element of a list, or leave it out. -/
def replaceAt {α : Type} : List α → Nat → Option α → List α
  | [], _, _ => []
  | _ :: l, 0, some y => y :: l
  | _ :: l, 0, none => l
  | x :: l, n + 1, y => x :: replaceAt l n y

/-- The access that a request's next flit asks for, with its data. -/
def Req.access (r : Req) : Option (MemAsk × List Byte) :=
  match r.what with
  | .mem l => l[r.done]?
  | _ => none

/-- The registers and events of one grant (R243, R255, R393, R394): flits, lateness, age. -/
def countGrant (s : State) (k : PageKind) (i t : Nat) (h : Half) (r : Req) : State :=
  let blk := 0x100 + 0x20 * t
  let d := slackOf s h r.lst
  let age := s.cyc - max r.since (s.arbOn.get 0 (pageNo k i))
  let aged := pageIsOn s k i && (decide (r.done = 0) || r.susp)
  let s1 := incReg s k i (blk + 0x10) 1
  let s2 := if d < 0 then countBlk (incReg s1 k i (blk + 0x18) 1) h 0x0B [arbKind k] i (some r.pid) 1 else s1
  let s3 := if aged && decide (kregN s2 k i (blk + 0x08) < age) then
      setKreg (setKreg s2 k i (blk + 0x08) (BitVec.ofNat 32 age)) k i (blk + 0x0C) (BitVec.ofNat 32 r.src)
    else s2
  let s4 := countBlk s3 h 0x0A [arbKind k] i (some r.pid) 1
  if aged then
    countBlk s4 h 0x0C ((List.range 32).filter fun q => decide (2 ^ q < age)) (i % 16 + 16 * (arbKind k % 4)) (some r.pid) 1
  else s4

/-- The registers of a phase before its grant: CLAMP where the d of an eligible request is clamped (R243). -/
def clampSeen (s : State) (k : PageKind) (i t : Nat) (h : Half) : State :=
  if (eligible s k i t).any fun x => decide (slackOf s h x.2.lst < -(2 ^ 30)) then raiseK s k i 17 else s

/-- What the granted flit does (R244): the first and the last flit of a cell, an access at a stack channel, a drain's flit, a flit over
the bridge. -/
def flitMoves (s : State) (i : Nat) (r : Req) : State :=
  match r.what with
  | .cell c =>
    let s1 := if r.done = 0 then cellBegins s i c else s
    if r.done + 1 = r.len then cellSent s1 i c else s1
  | .mem _ =>
    match r.access with
    | some (a, d) =>
      let s1 := accessGranted s r.src r.lst r.pid a d
      if r.src < 1088 then countTile s1 r.src 0x08 [b2n a.write] 1 else s1
    | none => s
  | .drain key => putStream s key { getStream s key with granted := true }
  | .hop f => { s with flits := s.flits ++ [{ f with router := acrossBridge f.router, input := 3 }] }

/-- One flit of the chosen request is granted: its progress advances, and the request leaves with its last flit (R244). -/
def grantFlit (s : State) (k : PageKind) (i t : Nat) (h : Half) (n : Nat) (r : Req) : State :=
  let key := arbKey k i t
  let s1 := countGrant s k i t h r
  let a := getArb s1 key
  let r' := { r with done := r.done + 1, susp := false }
  let s2 := putArb s1 key
    { reqs := replaceAt a.reqs n (if r'.done < r.len then some r' else none), phaseCyc := some s.cyc, grantCyc := some s.cyc }
  flitMoves s2 i r

/-- One arbitration phase of a target (R243 to R253). A target has one phase in a cycle. -/
def arbitrate (s : State) (k : PageKind) (i t : Nat) : State :=
  let key := arbKey k i t
  let pg := pageNo k i
  let h := pageHalf s pg
  if (getArb s key).phaseCyc = some s.cyc then s
  else
    let a := getArb s key
    let ends := arbStatic s k i && a.reqs.any fun r => r.inBurst && decide (slotPid s k i (arbPhase s pg) ≠ some r.pid)
    let s1 := if s.cfg.halfB && (arbFrozen s k i t || ends) then suspendBurst s key else s
    let s2 := clampSeen s1 k i t h
    match choose s1 k i t h with
    | some g =>
      let s3 := if g.preempts then incReg (suspendBurst s2 key) k i 0x054 1 else s2
      grantFlit s3 k i t h g.n g.r
    | none =>
      let s3 := if phaseIdles s1 k i t then incReg s2 k i (0x100 + 0x20 * t + 0x14) 1 else s2
      putArb s3 key { getArb s3 key with phaseCyc := some s.cyc }

/-- The row and instance of an ARB page. -/
def arbPage (pg : Nat) : Option (PageKind × Nat) :=
  match pageOf pg with
  | some (k, i) => if arbKind k = 0 then none else some (k, i)
  | none => none

/-- The flit that leaves a router by an output (R240): the nearest LST, and in a tie the input order local, row-wise,
column-wise, bridge. -/
def nearestFlit (s : State) (h : Half) : List (Nat × Flit) → Option (Nat × Flit)
  | [] => none
  | x :: l =>
    match nearestFlit s h l with
    | none => some x
    | some y =>
      let a := slackOf s h x.2.lst
      let b := slackOf s h y.2.lst
      if b < a ∨ (a = b ∧ y.2.input < x.2.input) then some y else some x

/-- A flit asks a stack channel (R242): a write joins the flits of its burst that came before it. -/
def joinStack (s : State) (f : Flit) (a : MemAsk) (n : Nat) : State :=
  let same (r : Req) : Bool := decide (r.src = f.src) && match r.what with
    | .mem (q :: _) => decide (q.1.use = a.use) && decide (q.1.prn = a.prn) && decide (spanOf q.1.off = spanOf a.off)
    | _ => false
  joinReq s (arbKey .arbStack (stackOf s.cfg a.prn) (channelOf s.cfg a.prn))
    { Req.fresh f.src f.lst f.pid a.write n s.cyc (.mem [(a, f.data)]) with come := 1 } same fun r =>
    match r.what with
    | .mem l => { r with come := r.come + 1, what := .mem (l ++ [(a, f.data)]) }
    | _ => r

/-- A flit of a cell reaches its port's router, where the cell asks for egress (R242). -/
def joinPort (s : State) (f : Flit) (p : Nat) (c : Cell) : State :=
  joinReq s (arbKey .arbPort p 0) { Req.fresh f.src c.lst c.pid true 2 s.cyc (.cell c) with come := 1 }
    (fun r => decide (r.what = .cell c)) fun r => { r with come := r.come + 1 }

/-- A flit of a TILECP reaches its target (R73, R101): the bank serves it before the tile's own requesters; where the bank has served
another access in this cycle, the flit stays at its router. -/
def copyArrives (s0 rest : State) (f : Flit) (t o a : Nat) : State :=
  let banks := banksOf a f.data.length
  if banksTaken s0 f.dest banks then loseBanks s0 f.dest bankMesh banks
  else
    let s1 := onTile (serveBanks rest f.dest bankMesh banks) f.dest fun x => x.writeSram a f.data
    moveFlitDone (countTile s1 t 0x08 [2] 1) t o

/-- A flit of a SEND is granted (R394, MOVE_FLITS): DESIGN CHOICE (log 151), as a router hands it to its port. -/
def countSendFlit (s : State) (t : Option Nat) : State :=
  match t with
  | some n => countTile s n 0x08 [3] 1
  | none => s

/-- A flit leaves the mesh at its destination; `s0` is the state in which it still waits there. -/
def flitArrives (s0 rest : State) (f : Flit) : State :=
  match f.what with
  | .rx t slot =>
    let r := (getTile rest t).slot slot
    if r.st = .filled ∧ r.flight = true then onTile rest t fun x => x.setSlot slot { r with payload := r.payload ++ f.data } else rest
  | .copy t o a => copyArrives s0 rest f t o a
  | .mem a n => joinStack rest f a n
  | .back t o k => moveFlitDone (onMove rest t o fun v => { v with got := v.got ++ [(k, f.data)] }) t o
  | .cell p c => countSendFlit (joinPort rest f p c) c.tile
  | .wv w => { rest with wvFlits := rest.wvFlits ++ [w] }
  | .swap h lt =>
    match rest.swaps.get h with
    | some w => if w.lt = lt ∧ w.copying = true then { rest with swaps := rest.swaps.put h (some { w with came := w.came + 1 }) } else rest
    | none => rest

/-- FLIT_ROUTE (R240): at one output of a router, the flit with the nearest LST among those that want it is sent. A flit that
reaches its bridge router asks the bridge link; one that leaves the mesh has arrived. -/
def execFlitRoute (router : Nat) (out : Dir) (s : State) : Out :=
  if !tileFitted s router then .fault .absentUnit
  else
    let h := tileHalf router
    let l := (withIndex 0 s.flits).filter fun x => decide (x.2.router = router) && decide (wantsDir x.2 = out)
    match nearestFlit s h l with
    | none => .next s
    | some (n, f) =>
      let rest := { s with flits := replaceAt s.flits n none }
      if out = f.exit ∧ router = f.dest then .next (flitArrives s rest f)
      else .next (injectFlit rest { f with router := nextRouter router out, input := arriveInput out })

/-- Mark the requests of a target that have reached the age limit, and count them: an age ends at the grant, and starts again with a
suspension (R255). -/
def markStarved (cyc since limit : Nat) : List Req → List Req × Nat
  | [] => ([], 0)
  | r :: l =>
    let p := markStarved cyc since limit l
    if !r.starved && !r.inBurst && decide (max r.since since + limit ≤ cyc) then ({ r with starved := true } :: p.1, p.2 + 1)
    else (r :: p.1, p.2)

/-- STARVE (R255): requests of the target whose age has reached ARB_AGE_LIMIT are counted and set STARVE; age counting runs only
while the page is ON (R253), and a limit of 0 disables it. -/
def execStarve (page target : Nat) (s : State) : Out :=
  match arbPage page with
  | none => .fault .noSuchUnit
  | some (k, i) =>
    if !kindFitted s.cfg k i then .fault .absentUnit
    else
      let limit := kregN s k i 0x04C
      let key := arbKey k i target
      let a := getArb s key
      let m := markStarved s.cyc (s.arbOn.get 0 page) limit a.reqs
      if pageIsOn s k i && decide (limit ≠ 0) && decide (m.2 ≠ 0) then
        .next (raiseK (satReg (putArb s key { a with reqs := m.1 }) k i 0x050 m.2) k i 16)
      else .next s

/-- On FHL-8 a freeze suspends the bursts in progress at newly frozen targets (R248). -/
def freezeTargets (s : State) (k : PageKind) (i : Nat) : State :=
  if s.cfg.halfB then
    (List.range (arbTargets k)).foldl (fun u t => if arbFrozen u k i t then suspendBurst u (arbKey k i t) else u) s
  else s

/-- ARB_FREEZE (R248): a management write of ARB_FREEZE. DESIGN CHOICE (log 152): bits of targets that the page lacks, to which the spec
gives no meaning and which it does not call reserved, are held and read back as written. -/
def execArbFreeze (port : Half) (page : Nat) (bits : Word) (s : State) : Out :=
  match arbPage page with
  | none => .fault .noSuchUnit
  | some (k, i) =>
    mgmtWrite s port page fun s => okay (freezeTargets (setKreg s k i 0x044 bits) k i) port

end Sys2Proof.Machine
end

