-- ==== Sys2Proof/Machine/Memory.lean ====
section
/-! DEFINITION. The commands of the memory stacks (chapter 13): LINE_READ, ZERO, REEPOCH, MIGRATE, ROW_REPAIR, LANE_ERASE,
CH_RETIRE, PATROL, PATROL_LINE, FE_COMMAND_DONE. -/

namespace Sys2Proof.Machine

/-- The next entry of a stack's error log (R298): a ring of 64, overwritten oldest first. -/
def logError (s : State) (stack prn line kind src : Nat) : State :=
  let w := kreg s .mem stack 0x06C
  let i := fieldOf w 5 0
  let key := 64 * stack + i
  let lost := fieldOf w 31 8 + b2n (s.memLog.find key).isSome
  let e : MemLog := ⟨ftOrOnes s (stackHalf stack), prn, line, line % 2, kind, src⟩
  setKreg { s with memLog := s.memLog.set key e } .mem stack 0x06C
    (BitVec.ofNat 32 ((i + 1) % 64 + min lost (2 ^ 24 - 1) * 256))

/-- Count a MEM_ERRORS event. -/
def countMemErr (s : State) (prn qual : Nat) : State :=
  let k := stackOf s.cfg prn
  countBlk s (stackHalf k) 0x0E [qual] k (lineOwner s prn) 1

/-- Add to the counts of a line's channel (R298). -/
def addChErr (s : State) (prn ce ue : Nat) : State :=
  let k := stackOf s.cfg prn
  let c := channelOf s.cfg prn
  let x := getCh s k c
  putCh s k c { x with ce := satAdd (2 ^ 32 - 1) x.ce ce, ue := satAdd (2 ^ 32 - 1) x.ue ue }

/-- The pin that is erased on a line's pseudo-channel (R283, R296). -/
def erasedPin (s : State) (prn line : Nat) : Option Nat :=
  let c := getCh s (stackOf s.cfg prn) (channelOf s.cfg prn)
  if line % 2 = 0 then c.pin0 else c.pin1

/-- What a read finds (R284, R287, R288, R296), of a line that had a mark when it was read: a marked line reads as it did when it was
found bad, and beside an erased pin no other symbol is corrected. -/
def findingOf (s : State) (prn line mark : Nat) (f : LineFinding) : LineFinding :=
  match mark, f with
  | 0, .corrected n =>
    match erasedPin s prn line with
    | some p => if n = p then f else .uncorrectable
    | none => f
  | 0, _ => f
  | 2, _ => .macFail
  | _, _ => .uncorrectable

/-- A finding refuses the line to its reader (R288). -/
def findingRefuses : LineFinding → Bool
  | .clean => false
  | .corrected _ => false
  | _ => true

/-- An uncorrectable line (R287 rows 3 and 4, R288, R298): it is counted, logged and refused to its reader. -/
def lineBad (s : State) (prn line src kind : Nat) : State :=
  let k := stackOf s.cfg prn
  let pg := pageNo .mem k
  let s1 := { s with badLines := s.badLines.set (lineKey prn line) kind }
  let s2 := addChErr (satReg s1 .mem k (if kind = 1 then 0x05C else 0x060) 1) prn 0 1
  let s3 := countMemErr (logError s2 k prn line kind src) prn kind
  let s4 := raiseErr s3 pg (15 + kind)
  let s5 := match lineOwner s prn with
    | some q => tenantEvent s4 (0x10 + k) q 4 kind pg (spaceAddr s q prn line)
    | none => s4
  if kind = 2 then secEvent s5 2 k pg (lineKey prn line % 2 ^ 32) else s5

/-- A corrected line (R287 row 2, R298, R432 kinds 8 and 9): its span, and the pin whose symbol was wrong, where it is a data symbol
(R284). -/
def lineCorrected (s : State) (prn line src symbol : Nat) : State :=
  let k := stackOf s.cfg prn
  let c := channelOf s.cfg prn
  let s1 := addChErr (satReg s .mem k 0x058 1) prn 1 0
  let s2 := countMemErr (if bitOf (kreg s .mem k 0x068) 0 then logError s1 k prn line 3 src else s1) prn 0
  let s3 := wearAdd s2 8 (prn * 1024 + line / 32) 1
  if symbol < 32 then wearAdd s3 9 (((32 * k + c) * 2 + line % 2) * 32 + symbol) 1 else s3

/-- One read of a line, checked in the order of R287. -/
def readLine (s : State) (prn line src : Nat) : LineFinding → State
  | .clean => s
  | .corrected n => lineCorrected s prn line src n
  | .uncorrectable => lineBad s prn line src 1
  | .macFail => lineBad s prn line src 2

/-- A source ID is that of a fill and patrol engine (R239). -/
def fromEngine (src : Nat) : Bool := decide (src / 2 = 0x260)

/-- An entry awaits the return of a line for a reader. -/
def ChEntry.awaits (e : ChEntry) (prn line src : Nat) : Bool :=
  !e.ask.write && decide (e.ask.prn = prn) && decide (e.src = src) && e.left.any fun q => decide (q.1 = line)

/-- The entry of its channel that awaits a line for a reader: the oldest, with its place. -/
def awaiting (s : State) (prn line src : Nat) : Option (Nat × ChEntry) :=
  (withIndex 0 (entriesAt s (stackOf s.cfg prn) (channelOf s.cfg prn))).find? fun x => x.2.awaits prn line src

/-- The mark that a line had as an entry's read was granted. -/
def ChEntry.markOf (e : ChEntry) (line : Nat) : Nat := ((e.left.find? fun q => decide (q.1 = line)).map (·.2)).getD 0

/-- Take an entry of a channel away, or put another in its place. -/
def changeEntry (s : State) (prn n : Nat) (e : Option ChEntry) : State :=
  let k := stackOf s.cfg prn
  let c := channelOf s.cfg prn
  let l := entriesAt s k c
  putEntries s k c (l.take n ++ e.toList ++ l.drop (n + 1))

/-- The lines of an entry have all been checked: its data goes back through the channel's link with the request's LST, or nothing
does (R288, R290). -/
def entryReturns (s : State) (e : ChEntry) : State :=
  match e.ask.use with
  | .move t o k =>
    if e.bad then moveFlitDone (onMove s t o fun v => { v with ue := true }) t o
    else
      injectFlit s (Flit.fresh (chanRouter (stackOf s.cfg e.ask.prn) (channelOf s.cfg e.ask.prn)) t .tile e.src e.lst e.pid e.data
        (.back t o k))
  | _ => s

/-- MIGRATE reads an uncorrectable line, without CARRY (R295): it will halt there. -/
def engineMeets (s : State) (use : MemUse) (line : Nat) : State :=
  match use with
  | .engine h =>
    let f := s.fill.get h
    if f.op = some 3 ∧ f.carry = false ∧ f.bad = none then { s with fill := s.fill.put h { f with bad := some line } } else s
  | _ => s

/-- A line comes back to the entry that awaits it. -/
def lineReturns (s : State) (n : Nat) (e : ChEntry) (line : Nat) (f : LineFinding) : State :=
  let e1 := { e with left := e.left.filter fun q => decide (q.1 ≠ line), bad := e.bad || findingRefuses f }
  let s1 := readLine s e.ask.prn line e.src f
  let s2 := if findingRefuses f then engineMeets s1 e.ask.use line else s1
  if e1.left = [] then entryReturns (changeEntry s2 e.ask.prn n none) e1 else changeEntry s2 e.ask.prn n (some e1)

/-- The stack's on-die ECC has corrected a read of stack k (inner): MEM_CE_INNER counts it (R287). -/
def innerCount (s : State) (k : Nat) (inner : Bool) : State :=
  if inner then satReg s .mem k 0x054 1 else s

/-- LINE_READ (R287, R288, R290, R293): a line read returns from a stack channel and is checked. Where an entry of the channel awaits
it, it is one line of that entry, which waits while an engine holds its span; else it is a line that a loader reads. Where the stack's
on-die ECC has reported a correction, that counts in MEM_CE_INNER. -/
def execLineRead (prn : Nat) (line : Nat) (src : Nat) (seen : LineSeen) (s : State) : Out :=
  if s.cfg.regions ≤ prn ∨ 32768 ≤ line then .fault .noSuchUnit
  else
    let s1 := innerCount s (stackOf s.cfg prn) seen.inner
    match awaiting s1 prn line src with
    | none => .next (readLine s1 prn line src (findingOf s1 prn line (lineMark s1 prn line) seen.finding))
    | some (n, e) =>
      if spanBusy s prn (64 * line) && !fromEngine src then .next s
      else .next (lineReturns s1 n e line (findingOf s1 prn line (e.markOf line) seen.finding))

/-! ### The fill and patrol engine -/

/-- The engine of a half takes a foreground command now (R292, R293): its page is ON and not frozen, none is in progress, and no Calm is
in force. -/
def feFree (s : State) (h : Half) : Bool :=
  pageRuns s .memFill (halfIdx h) && (s.fill.get h).op.isNone && !calmOn s h

/-- The source ID of an engine (R239). -/
def engineSrc (h : Half) : Nat := 0x4C0 + halfIdx h

/-- The LST of an engine's flits (R301): their issue FT plus MEM_FE_SLACK. -/
def engineLst (s : State) (h : Half) : Nat := lstOf (ftNs s h + kregN s .memFill (halfIdx h) 0x054)

/-- The command registers as the RTP writes them (R301). -/
def feRegs (s : State) (h : Half) (cmd src dst : Nat) : State :=
  let i := halfIdx h
  setKreg (setKreg (setKreg s .memFill i 0x040 (BitVec.ofNat 32 (cmd + 2 ^ 31))) .memFill i 0x044 (BitVec.ofNat 32 src))
    .memFill i 0x048 (BitVec.ofNat 32 dst)

/-- A command ends REFUSED with a reason. -/
def feRefuse (s : State) (h : Half) (reason : Nat) : State :=
  raiseK (setKreg s .memFill (halfIdx h) 0x04C (BitVec.ofNat 32 (4 + 256 * reason))) .memFill (halfIdx h) 17

/-- MEM_FE_STATUS with its span cursor. -/
def feStatus (s : State) (h : Half) (code cursor : Nat) : State :=
  setKreg s .memFill (halfIdx h) 0x04C (BitVec.ofNat 32 (code + 2 ^ 16 * (cursor % 1024)))

/-- A command ends DONE. -/
def feDone (s : State) (h : Half) : State :=
  feStatus { s with fill := s.fill.put h { s.fill.get h with op := none, cursor := 0, span := .rest, bad := none } } h 2 0

/-- A command that a Calm has ended may be issued again, and goes on from its cursor (R293); any other starts at span 0. -/
def cursorFor (s : State) (h : Half) (op src : Nat) : Nat :=
  let i := halfIdx h
  if fieldOf (kreg s .memFill i 0x04C) 2 0 = 5 ∧ kregN s .memFill i 0x044 = src ∧ fieldOf (kreg s .memFill i 0x040) 3 0 = op then
    (s.fill.get h).cursor
  else 0

/-- A foreground command on a region, from a cursor. -/
def Fill.begin_ (f : Fill) (op src cursor : Nat) : Fill :=
  { f with op := some op, src := src, cursor := cursor, span := .rest, bad := none, carry := false, mig := false }

/-- Begin a foreground command, or refuse it. -/
def feBegin (s : State) (h : Half) (f : Fill) (reason : Option Nat) : State :=
  match reason with
  | some r => feRefuse s h r
  | none => feStatus { s with fill := s.fill.put h f } h 1 f.cursor

/-- A region number that the engine of a half serves. -/
def feServes (s : State) (h : Half) (prn : Nat) : Bool :=
  decide (prn < s.cfg.regions) && decide (regionHalf s.cfg prn = h)

/-- A foreground command of an engine: where the engine is free, the registers are written and the command begins. -/
def feCommand (s : State) (h : Half) (cmd src dst : Nat) (go : State → State) : Out :=
  needHalf s h (.next (if feFree s h then go (feRegs s h cmd src dst) else s))

/-- ZERO (R292). -/
def execZero (h : Half) (prn : Nat) (newOwner : Bool) (pid : Nat) (s : State) : Out :=
  let from_ := cursorFor s h 1 prn
  feCommand s h (1 + 32 * b2n newOwner + 256 * (pid % 64)) prn 0 fun s =>
    let r := getRegion s prn
    let ok := feServes s h prn &&
      if newOwner then decide (r.st = .allocating) && decide (r.pid = pid) else decide (r.st = .teardown)
    feBegin s h { (s.fill.get h).begin_ 1 prn from_ with pid := pid }
      (if ok then none else some 1)

/-- REEPOCH (R292). -/
def execReepoch (h : Half) (prn : Nat) (s : State) : Out :=
  let from_ := cursorFor s h 2 prn
  feCommand s h 2 prn 0 fun s =>
    let ok := feServes s h prn && decide ((getRegion s prn).st = .owned)
    feBegin s h ((s.fill.get h).begin_ 2 prn from_) (if ok then none else some 1)

/-- A MIGRATE that halted or was ended by a Calm may be issued again for the same regions (R293, R295). -/
def mayResume (s : State) (h : Half) (src dst : Nat) : Bool :=
  let i := halfIdx h
  let st := fieldOf (kreg s .memFill i 0x04C) 2 0
  (decide (st = 3) || decide (st = 5)) && decide (kregN s .memFill i 0x044 = src) && decide (kregN s .memFill i 0x048 = dst) &&
    decide (fieldOf (kreg s .memFill i 0x040) 3 0 = 3)

/-- Regions of different channels (R292). -/
def otherChannel (c : BlockCfg) (p q : Nat) : Bool :=
  decide (stackOf c p ≠ stackOf c q) || decide (channelOf c p ≠ channelOf c q)

/-- MIGRATE (R292, R294, R295): a new copy, or the resumption of a halted one. -/
def execMigrate (h : Half) (src : Nat) (dst : Nat) (carry : Bool) (s : State) : Out :=
  let again := mayResume s h src dst
  feCommand s h (3 + 16 * b2n carry) src dst fun s =>
    let a := getRegion s src
    let b := getRegion s dst
    let served := feServes s h src && feServes s h dst && otherChannel s.cfg src dst
    let f := s.fill.get h
    if again then
      feBegin s h { f.begin_ 3 src f.cursor with dst := dst, carry := carry, mig := true } none
    else if served && decide (a.st = .owned) && decide (b.st = .free) then
      feBegin (putRegion (putRegion s src { a with st := .migrating }) dst { b with st := .allocating, pid := a.pid, gen := a.gen })
        h { f.begin_ 3 src 0 with dst := dst, carry := carry, mig := true } none
    else feBegin s h f (some 1)

/-- ROW_REPAIR (R295): refused with NO_SPARE where the channel has no spare row left. -/
def execRowRepair (h : Half) (prn : Nat) (span : Nat) (pseudo : Nat) (s : State) : Out :=
  feCommand s h 4 (prn % 2 ^ 19 + 2 ^ 19 * (span % 1024) + 2 ^ 29 * (pseudo % 2)) 0 fun s =>
    let k := stackOf s.cfg prn
    let f := s.fill.get h
    if !feServes s h prn then feBegin s h f (some 1)
    else if spareLeft s k (channelOf s.cfg prn) = 0 then raiseK (feBegin s h f (some 2)) .mem k 19
    else feBegin s h { f.begin_ 4 prn (span % 1024) with pseudo := pseudo % 2 } none

/-- LANE_ERASE (R296): one erased pin is allowed per pseudo-channel. -/
def execLaneErase (h : Half) (prn : Nat) (pin : Nat) (pseudo : Nat) (s : State) : Out :=
  feCommand s h 5 (prn % 2 ^ 19 + 2 ^ 24 * (pin % 32) + 2 ^ 29 * (pseudo % 2)) 0 fun s =>
    let k := stackOf s.cfg prn
    let c := channelOf s.cfg prn
    let x := getCh s k c
    if !feServes s h prn then feRefuse s h 1
    else if (if pseudo % 2 = 0 then x.pin0 else x.pin1).isSome then feRefuse s h 3
    else
      let y := if pseudo % 2 = 0 then { x with pin0 := some (pin % 32) } else { x with pin1 := some (pin % 32) }
      feDone (raiseK (putCh s k c y) .mem k 18) h

/-- The regions of a channel (R282), in slice order. -/
def channelRegions (c : BlockCfg) (k ch : Nat) : List Nat :=
  (List.range 1440).map fun j => j * (32 * c.stackCount) + ch * c.stackCount + k

/-- Some region of the channel is in use (R297). -/
def channelUsed (s : State) (k ch : Nat) : Bool :=
  s.regions.cells.any fun c =>
    decide (stackOf s.cfg c.1 = k) && decide (channelOf s.cfg c.1 = ch) &&
      (decide (c.2.st = .owned) || decide (c.2.st = .migrating) || decide (c.2.st = .allocating))

/-- CH_RETIRE (R297). A refused one leaves the channel DRAINING, so that the RTP can empty it and try again. -/
def execChRetire (h : Half) (prn : Nat) (s : State) : Out :=
  feCommand s h 6 (prn % 2 ^ 19) 0 fun s =>
    let k := stackOf s.cfg prn
    let c := channelOf s.cfg prn
    let x := getCh s k c
    if !feServes s h prn then feRefuse s h 1
    else if channelUsed s k c || decide (waiting s (arbKey .arbStack k c) ≠ 0) then
      feRefuse (putCh s k c { x with st := if x.st = .retired then .retired else .draining }) h 4
    else
      let s1 := setKreg s .arbStack k 0x044 (setBit (kreg s .arbStack k 0x044) c)
      let s2 := (channelRegions s.cfg k c).foldl (fun u p => putRegion u p { getRegion u p with st := .retired, pid := 0 }) s1
      feDone (raiseK (putCh s2 k c { x with st := .retired }) .mem k 21) h

/-- The first region at or after a PRN that lies in a half; none beyond the last. -/
def halfPrn (c : BlockCfg) (h : Half) : Nat → Nat → Option Nat
  | 0, _ => none
  | n + 1, p => if c.regions ≤ p then none else if regionHalf c p = h then some p else halfPrn c h n (p + 1)

/-- PATROL (R292, R301): the background pass runs with a period in hours; 0 stops it. -/
def execPatrol (h : Half) (hours : Nat) (s : State) : Out :=
  needHalf s h (.next (
    if pageRuns s .memFill (halfIdx h) then setKreg s .memFill (halfIdx h) 0x058 (BitVec.ofNat 32 hours) else s))

/-- Change what an engine holds. -/
def onFill (s : State) (h : Half) (f : Fill → Fill) : State := { s with fill := s.fill.put h (f (s.fill.get h)) }

/-- The patrol moves on to the next region of the half; after the last, a pass is complete (R301). -/
def patrolNext (s : State) (h : Half) (p : Nat) : State :=
  let i := halfIdx h
  let s0 := onFill s h fun f => { f with patLine := 0 }
  match halfPrn s.cfg h 8 (p + 1) with
  | some q => setKreg s0 .memFill i 0x05C (BitVec.ofNat 32 q)
  | none =>
    let late := decide (kregN s .memFill i 0x058 * 3600000000000 * 2304 < cyc2304 (s.cyc - (s.fill.get h).passCyc))
    let s1 := incReg (setKreg s0 .memFill i 0x05C 0) .memFill i 0x060 1
    if late then raiseK s1 .memFill i 18 else s1

/-- The foreground command of an engine holds a region (R292). -/
def Fill.holds (f : Fill) (prn : Nat) : Bool :=
  f.op.isSome && (decide (f.src = prn) || (decide (f.op = some 3) && decide (f.dst = prn)))

/-- PATROL_LINE (R292, R293): the line that patrol asked for, and whose read was granted, returns and is checked. A corrected line is
written back unless another write to it was granted since the read; the write-back is then dropped and counted. `inner` is a
correction that the stack's on-die ECC reported with the read (R287). -/
def execPatrolLine (h : Half) (line : Nat) (finding : LineFinding) (inner : Bool) (s : State) : Out :=
  needHalf s h (.next (
    let i := halfIdx h
    match halfPrn s.cfg h 8 (kregN s .memFill i 0x05C) with
    | none => s
    | some p =>
      match awaiting s p line (engineSrc h) with
      | none => s
      | some (n, e) =>
        if e.ask.use ≠ .patrol h then s
        else
          let f := findingOf s p line (e.markOf line) finding
          let s1 := readLine (changeEntry (innerCount s (stackOf s.cfg p) inner) p n none) p line (engineSrc h) f
          let s2 := match f with
            | .corrected _ =>
              if e.newer then incReg s1 .memFill i 0x064 1
              else countBlk s1 h 0x0D [1] (stackOf s.cfg p) (lineOwner s p) 1
            | _ => s1
          if line = 32767 then patrolNext s2 h p else onFill s2 h fun f => { f with patLine := line + 1 }))

/-! ### What an engine does of itself (R292 to R295, R301) -/

/-- The flits of the span at an engine's cursor, in a region. What a write's flits carry counts for ZERO alone: the others
rewrite or copy what the span holds as they are granted. -/
def spanAsks (h : Half) (prn cursor : Nat) (write : Bool) : List (MemAsk × List Byte) :=
  (List.range 16).map fun j =>
    (⟨.engine h, write, prn, 2048 * cursor + 128 * j, 128⟩, if write then List.replicate 128 0 else [])

/-- The engine asks for its span: a read's flits one by one, a write's as one locked burst (R242). -/
def askSpan (s : State) (h : Half) (prn : Nat) (write : Bool) : State :=
  let l := spanAsks h prn (s.fill.get h).cursor write
  let pid := (lineOwner s prn).getD 0
  if write then askStack s (engineSrc h) (engineLst s h) pid true l
  else l.foldl (fun u q => askStack u (engineSrc h) (engineLst s h) pid false [q]) s

/-- The span at the cursor moves on: read where the operation reads, then written, then passed (R293). A ROW_REPAIR reads its span's lines
in the controller itself, which grants nothing meanwhile (R295). -/
def spanStep (s : State) (h : Half) (f : Fill) (op : Nat) : State :=
  match f.span with
  | .rest =>
    if op = 1 then askSpan (onFill s h fun f => { f with span := .writing }) h f.src true
    else if op = 4 then
      let k := stackOf s.cfg f.src
      let c := channelOf s.cfg f.src
      let es : List ChEntry := (spanAsks h f.src f.cursor false).map fun q =>
        ⟨q.1, engineSrc h, 0, 0, [], (List.range 2).map fun j => (q.1.off / 64 + j, lineMark s f.src (q.1.off / 64 + j)), false, false⟩
      putEntries (onFill s h fun f => { f with span := .reading }) k c (entriesAt s k c ++ es)
    else askSpan (onFill s h fun f => { f with span := .reading }) h f.src false
  | .reading =>
    if op = 4 then onFill s h fun f => { f with span := .writing }
    else askSpan (onFill s h fun f => { f with span := .writing }) h (if op = 3 then f.dst else f.src) true
  | .writing =>
    if op = 4 then s
    else
      let s1 := onFill s h fun f => { f with span := .rest, cursor := f.cursor + 1 }
      feStatus s1 h 1 (f.cursor + 1)

/-- The foreground command goes on, once its last flits have done what they do; past the last span, and at a line that a MIGRATE
cannot read, it waits for its completion. -/
def foreTick (s : State) (h : Half) : State :=
  let f := s.fill.get h
  match f.op with
  | some op =>
    if decide (f.cursor < 1024) && f.bad.isNone && !useLeft s (.engine h) then spanStep s h f op else s
  | none => s

/-- Regions whose MIGRATE is complete become TEARDOWN once no write to them can come (R294): DESIGN CHOICE (log 155), beside the channel's
entries those are flits on their way to it and requests that wait there. -/
def lateTick (s : State) (h : Half) : State :=
  let left (prn : Nat) : Bool :=
    flitLeft s (fun w => match w with
      | .mem a _ => decide (a.prn = prn)
      | _ => false) ||
    anyReq s (fun r => match r.what with
      | .mem l => l.any fun q => decide (q.1.prn = prn)
      | _ => false) ||
    s.entries.cells.any fun c => c.2.any fun e => decide (e.ask.prn = prn)
  let done := (s.fill.get h).late.filter fun q => !left q.1
  if done = [] then s
  else
    let s1 := onFill s h fun f => { f with late := f.late.filter fun q => left q.1 }
    done.foldl (fun u q => putRegion u q.1 { getRegion u q.1 with st := .teardown }) s1

/-- Cycles from one patrol line to the next (R301): DESIGN CHOICE (log 156), the period spread evenly over the lines of the half. -/
def patrolGap (s : State) (h : Half) : Nat :=
  kregN s .memFill (halfIdx h) 0x058 * 6480000000000 / (1440 * 32 * 4 * 32768)

/-- Patrol asks for its next line (R292, R301): it passes over a region that the foreground command holds, and one whose channel serves
nothing. -/
def patrolTick (s : State) (h : Half) : State :=
  let f := s.fill.get h
  let i := halfIdx h
  if kregN s .memFill i 0x058 = 0 ∨ s.cyc < f.patCyc + patrolGap s h ∨ useLeft s (.patrol h) = true then s
  else
    match halfPrn s.cfg h 8 (kregN s .memFill i 0x05C) with
    | none => s
    | some p =>
      if f.holds p || !chanUp s (stackOf s.cfg p) (channelOf s.cfg p) then patrolNext s h p
      else
        let first := decide (kregN s .memFill i 0x05C = 0) && decide (f.patLine = 0)
        askStack (onFill s h fun f => { f with patCyc := s.cyc, passCyc := if first then s.cyc else f.passCyc }) (engineSrc h) (engineLst s h)
          ((lineOwner s p).getD 0) false [(⟨.patrol h, false, p, 64 * f.patLine, 64⟩, [])]

/-- What an engine does in a cycle (R293): nothing while a Calm is in force. -/
def fillTick (s : State) (h : Half) : State :=
  if pageRuns s .memFill (halfIdx h) && !calmOn s h then patrolTick (lateTick (foreTick s h) h) h else s

/-- The channels write the entries out that hold writes (R290, R293): DESIGN CHOICE (log 157), one in a cycle, the oldest that no engine's
span holds. -/
def entryTick (s : State) : State :=
  { s with entries := ⟨s.entries.cells.filterMap fun c =>
      let n := c.2.findIdx fun e => e.ask.write && (fromEngine e.src || !spanBusy s e.ask.prn e.ask.off)
      let l := c.2.eraseIdx n
      if l = [] then none else some (c.1, l)⟩ }

/-! ### Completion of a foreground command -/

/-- The partition command in progress is DONE (R307). -/
def partDone (s : State) (q : Nat) : State :=
  setKreg { s with partCmd := none } .partCtrl 0 0x048 (BitVec.ofNat 32 (2 + 2 ^ 16 * q))

/-- A region of a partition's pending work has been zeroed (R304, R305, R310): regions that a command takes are appended to the
list in the order taken once all are OWNED, and a SHRINK or a scrub step has no more work once all are FREE. -/
def workDone (s : State) (q : Nat) : State :=
  let p := getPart s q
  if p.work = [] then s
  else if p.work.all fun r => decide ((getRegion s r).st = .owned) then
    let s1 := putPart s q { p with regions := p.regions ++ p.work, work := [] }
    if decide (p.st = .live) || decide (p.st = .unavailable) then partDone s1 q else s1
  else if p.work.all fun r => decide ((getRegion s r).st = .free) then
    let s1 := putPart s q { p with work := [] }
    if decide (p.st = .live) || decide (p.st = .unavailable) then partDone s1 q else s1
  else s

/-- ZERO completes on a region (R286, R292): its lines are zeros, its epoch has advanced, and it becomes OWNED by its new owner
or FREE. -/
def zeroDone (s : State) (prn : Nat) : State :=
  let r := getRegion s prn
  let e := (r.epoch + 1) % 2 ^ 40
  let s1 := clearRegion s prn
  match r.st with
  | .allocating => workDone (putRegion s1 prn { r with st := .owned, epoch := e, era := s.era }) r.pid
  | .teardown => workDone (putRegion s1 prn ⟨.free, 0, 0, e, s.era⟩) r.pid
  | _ => putRegion s1 prn { r with epoch := e, era := s.era }

/-- MIGRATE halts at an uncorrectable line (R295). -/
def migrateHalts (s : State) (h : Half) (f : Fill) (line : Nat) : State :=
  let s1 := onFill s h fun f => { f with op := none, span := .rest, bad := none }
  let s2 := setKreg (feStatus s1 h 3 f.cursor) .memFill (halfIdx h) 0x050 (BitVec.ofNat 32 line)
  raiseK s2 .memFill (halfIdx h) 16

/-- MIGRATE completes (R286, R294): the owner's list names the destination, which has a new epoch, and the source becomes TEARDOWN
when no write to it is left. -/
def migrateDone (s : State) (h : Half) (f : Fill) : State :=
  let a := getRegion s f.src
  let b := getRegion s f.dst
  let s1 := putRegion s f.dst { b with st := .owned, epoch := (b.epoch + 1) % 2 ^ 40, era := s.era }
  let p := getPart s a.pid
  let s2 := putPart s1 a.pid { p with regions := p.regions.map fun r => if r = f.src then f.dst else r }
  onFill (feDone s2 h) h fun g => { g with mig := false, late := g.late ++ [(f.src, f.dst)] }

/-- ROW_REPAIR completes (R295): the channel has one spare row less, and its span's lines stand again as they were read. -/
def repairDone (s : State) (h : Half) (f : Fill) : State :=
  let k := stackOf s.cfg f.src
  let c := channelOf s.cfg f.src
  let x := getCh s k c
  satReg (putCh (feDone s h) k c { x with rows := x.rows + 1 }) .mem k 0x064 1

/-- FE_COMMAND_DONE (R292 to R295): the foreground command of an engine completes past its last span, or a MIGRATE halts at an
uncorrectable line, which the command names. While a Calm is in force the engine issues nothing, so nothing completes (R293). One that
names a line the engine has not met, or none where it has met one, is no event of the engine (log 3). -/
def execFeCommandDone (h : Half) (ueLine : Option Nat) (s : State) : Out :=
  needHalf s h (.next (
    let f := s.fill.get h
    if calmOn s h || useLeft s (.engine h) || ueLine ≠ f.bad then s
    else
      match f.op, f.bad with
      | none, _ => s
      | some _, some line => migrateHalts s h f line
      | some 4, none => if f.span = .writing then repairDone s h f else s
      | some op, none =>
        if f.cursor < 1024 then s
        else if op = 1 then zeroDone (feDone s h) f.src
        else if op = 2 then
          let r := getRegion s f.src
          putRegion (feDone s h) f.src { r with epoch := (r.epoch + 1) % 2 ^ 40 }
        else migrateDone s h f))

end Sys2Proof.Machine
end

