-- ==== Sys2Proof/Machine/Power.lean ====
section
/-! DEFINITION. The power allowance (chapter 16): allowance codes, budgets and the gate in each tile, heat, power readings, and
the commands ALW_STB, ALW_STB_HELD, ALW_ACK, ALW_LOST, BUDGET_RECOMPUTE, THERMAL_READING, POWER_READING. -/

namespace Sys2Proof.Machine

/-- The current of an allowance code, in A (R348). -/
def codeAmps (c : Nat) : Nat := if c % 256 = 0 then 0 else 360 + 8 * (c % 256)

/-- BASE_A of the variant (R352). -/
def BlockCfg.baseAmps (c : BlockCfg) : Nat := if c.halfB then 360 else 184

/-- Do something on the PWR page of each fitted half (R361: values of the whole block read the same in both). -/
def onPwr (s : State) (f : State → Nat → State) : State := if s.cfg.halfB then f (f s 0) 1 else f s 0

/-- Set an error bit of every PWR page. -/
def raisePwr (s : State) (bit : Nat) : State := onPwr s fun u i => raiseK u .pwr i bit

/-- Put a code in force (R349 to R352); its acknowledgement is owed. -/
def setCode (s : State) (code src : Nat) : State :=
  let p := s.power
  let s1 := { s with power := { p with code := code % 256, src := src, owed := some (code % 256, s.cyc) } }
  if codeAmps code < s.cfg.baseAmps then raisePwr s1 19 else s1

/-- An ignored strobe edge (R349). -/
def badStrobe (s : State) : State := onPwr s fun u i => raiseK (satReg u .pwr i 0x050 1) .pwr i 17

/-- The conditions of a good strobe (R349). -/
def strobeGood (s : State) (lowNs highNs : Nat) : Bool :=
  decide (20 ≤ lowNs) && decide (8 ≤ highNs) && decide (highNs ≤ 1000) &&
    match s.power.goodCyc with
    | none => true
    | some c => cycAgo s c 5000

/-- ALW_STB (R349, R350): a strobe on the allowance port, low for lowNs before its edge and high for highNs. -/
def execAlwStb (code : Nat) (lowNs : Nat) (highNs : Nat) (s : State) : Out :=
  if strobeGood s lowNs highNs then
    let s1 := onPwr s fun u i => incReg u .pwr i 0x04C 1
    let s2 := setCode { s1 with power := { s1.power with goodCyc := some s.cyc } } code 0
    .next (if code % 256 < s.cfg.floor then raisePwr s2 18 else s2)
  else .next (badStrobe s)

/-- ALW_STB_HELD (R349): a strobe that stays high for 1,000 ns is ignored and counted once. -/
def execAlwStbHeld (s : State) : Out := .next (badStrobe s)

/-- ALW_ACK (R349): once a recompute has put the code in every tile gate, ALW_ACK pulses with it. -/
def execAlwAck (s : State) : Out :=
  match s.power.owed with
  | some (c, k) => if k < s.power.splitCyc then .next { s with power := { s.power with owed := none, acked := some c } } else .next s
  | none => .next s

/-- ALW_LOST (R351): 100,000 ns after the last good strobe the allowance falls to the floor. -/
def execAlwLost (s : State) : Out :=
  match s.power.goodCyc with
  | none => .next s
  | some c =>
    if cycAgo s c 100000 && decide (s.power.src ≠ 2) then
      let s1 := setCode s s.cfg.floor 2
      .next (raisePwr (onPwr s1 fun u i => setKreg64 u .pwr i 0x054 (ftOrOnes s (mainHalf s))) 16)
    else .next s

/-- Where the code in force came from, as PWR_ALLOW shows it (R361): 0 a strobe, 1 held, 2 the floor. DESIGN CHOICE (log 159): a code is
held once the 10 us after which the controller grants anew have passed. -/
def allowSource (s : State) : Nat :=
  match s.power.goodCyc with
  | none => s.power.src
  | some c => if s.power.src = 0 ∧ cycAgo s c 10000 = true then 1 else s.power.src

/-! ### Budgets -/

/-- The thermal factor in eighths (R357). -/
def thermalFactor (s : State) : Nat := fieldOf (kreg s .pwr 0 0x060) 3 0

/-- The tile allowance in 1/64 A (R352): the allowance less BASE_A, scaled by the thermal factor. -/
def tileAllowance (s : State) : Nat := (codeAmps s.power.code - s.cfg.baseAmps) * 8 * thermalFactor s

/-- ALLOW_SHARE of a partition; PID 0 holds what no partition does (R309). -/
def shareOfPid (s : State) (q : Nat) : Nat :=
  let one (r : Nat) : Nat := if (getPart s r).st = .free then 0 else fieldOf (partReg s r 0x008) 10 0
  if q = 0 then 1024 - ((List.range 63).map fun i => one (i + 1)).foldl (· + ·) 0 else one q

/-- A partition's budget in 1/64 A (R353). -/
def budgetOf (s : State) (q : Nat) : Nat := tileAllowance s * shareOfPid s q / 1024

/-- A tile takes part in the split: its page is ON and it is awake, waking or in Lull 1 (R353). -/
def drawsBudget (s : State) (t : Nat) : Bool :=
  pageIsOn s .tile t &&
    match (getTile s t).lull with
    | .asleep l => decide (l ≤ 1)
    | _ => true

/-- The tiles of a partition in a half that take part. -/
def drawers (s : State) (q : Nat) (h : Half) : Nat :=
  (s.pages.cells.filter fun c =>
    match pageOf c.1 with
    | some (.tile, t) => decide (c.2.owner = q) && decide (tileHalf t = h) && drawsBudget s t
    | _ => false).length

/-- The logical tiles of a partition in a half. -/
def logicalTiles (s : State) (q : Nat) (h : Half) : Nat :=
  ((List.range 512).filter fun i =>
    match physOf s (512 * halfIdx h + i) with
    | some t => decide (tileOwner s t = q)
    | none => false).length

/-- A partition's budget in a half (R353). -/
def halfBudget (s : State) (q : Nat) (h : Half) : Nat :=
  let b := budgetOf s q
  if !s.cfg.halfB then b
  else
    let x := if inSplit s then logicalTiles s q h else drawers s q h
    let y := if inSplit s then logicalTiles s q .a + logicalTiles s q .b else drawers s q .a + drawers s q .b
    if y = 0 then 0 else b * x / y

/-- The allotment of a tile now: what the last recompute gave it (R353, R355). -/
def tileAllot (s : State) (t : Nat) : Nat := s.allots.get 0 t

/-- The level of a tile's gate now (R355): it gains its allotment each cycle, up to 64 of them. -/
def gateLevel (s : State) (t : Nat) : Int :=
  let a := tileAllot s t
  let x := getTile s t
  min ((64 * a : Nat) : Int) (x.bucket + ((a * (s.cyc - x.bucketCyc) : Nat) : Int))

/-- Bring every tile's gate up to date. -/
def settleGates (s : State) : State :=
  { s with tiles := s.tiles.mapVals fun t x => { x with bucket := gateLevel s t, bucketCyc := s.cyc } }

/-- The tile's charged issue (R355): the whole charge is deducted at issue. -/
def chargeGate (s : State) (t charge : Nat) : State :=
  let l := gateLevel s t
  onTile s t fun x => { x with bucket := l - charge, bucketCyc := s.cyc }

/-- The part of its partition's budget that a tile takes in a split: an equal one, where it takes part (R353). -/
def tileShare (s : State) (t : Nat) : Nat :=
  if drawsBudget s t then
    let h := tileHalf t
    let q := tileOwner s t
    halfBudget s q h / drawers s q h
  else 0

/-- The new split of every partition's budget among its tiles (R353). -/
def splitBudgets (s : State) : State :=
  let halves : List Half := if s.cfg.halfB then [.a, .b] else [.a]
  let rows := halves.flatMap fun h => (List.range 64).map fun q => (64 * halfIdx h + q, halfBudget s q h)
  { s with
    budgets := rows.foldl (fun m r => m.put 0 r.1 r.2) s.budgets
    allots := (List.range 1088).foldl (fun m t => m.put 0 t (tileShare s t)) s.allots }

/-- BUDGET_RECOMPUTE (R353, R355): every 1,800 cycles the budgets are split anew; a gate above its new cap is cut to it. -/
def execBudgetRecompute (s : State) : Out :=
  if s.power.splitCyc + 1800 ≤ s.cyc then
    let s1 := splitBudgets (settleGates s)
    let s2 := settleGates { s1 with power := { s1.power with splitCyc := s.cyc } }
    .next (onPwr s2 fun u i => setKreg u .pwr i 0x048 (BitVec.ofNat 32 (tileAllowance s)))
  else .next s

/-! ### Heat and power readings -/

/-- The thermal factor and the trip after a reading (R357). -/
def thermalStep (factor hottest throttle hyst : Nat) (trip : Bool) : Nat × Bool :=
  if 125 ≤ hottest then (0, true)
  else if trip then (if hottest < throttle - hyst then (2, false) else (0, true))
  else if throttle ≤ hottest then (max 2 (factor - 1), false)
  else if hottest < throttle - hyst then (min 8 (factor + 1), false)
  else (factor, false)

/-- THERMAL_READING (R357): the sensors are read; hottest is the block's hottest reading in °C and spot says where it stands. DESIGN CHOICE (log
160): the block has one thermal factor, and half A's PWR_THERM_CTRL governs it. The tiles that stood above THROTTLE wear by the reading's
18,000 cycles (R432): DESIGN CHOICE (log 161), which tiles those are comes with the command. -/
def execThermalReading (hottest : Nat) (spot : HotSpot) (s0 : State) : Out :=
  let s := (spot.tiles.filter fun t => tileFitted s0 t).foldl (fun u t => wearAdd u 4 t 18000) s0
  let w := kregF s .pwr 0 0x05C
  let old := thermalFactor s
  let r := thermalStep old hottest (fieldOf w 7 0) (fieldOf w 15 8) s.power.trip
  let word := BitVec.ofNat 32 (r.1 + 256 * (hottest % 256) + 65536 * (spot.sensor % 32))
  let s1 := onPwr { s with power := { s.power with trip := r.2 } } fun u i => setKreg u .pwr i 0x060 word
  let s2 := if old = 8 ∧ r.1 < 8 then raisePwr s1 20 else s1
  .next (if r.2 && !s.power.trip then raisePwr s2 21 else s2)

/-- POWER_READING (R358): the block's power averaged over the preceding 10 ms, in 0.1 W, at each FT that is a whole multiple of
10,000,000 ns, or every 10 ms of the local clock without time. -/
def execPowerReading (tenthWatts : Nat) (s : State) : Out :=
  let h := mainHalf s
  let timed := hasTime s h
  let ft := ftNs s h / 10000000 * 10000000
  let due := if timed then decide (kreg64 s .pwr 0 0x068 ≠ ft) else cycAgo s s.power.readCyc 10000000
  if due then
    let s1 := { s with power := { s.power with readCyc := s.cyc } }
    .next (onPwr s1 fun u i =>
      setKreg64 (setKreg u .pwr i 0x064 (BitVec.ofNat 32 (tenthWatts % 65536))) .pwr i 0x068 (if timed then ft else allOnes64))
  else .next s

end Sys2Proof.Machine
end

