-- ==== Sys2Proof/Machine/SesOps.lean ====
section
/-! DEFINITION. Sessions as their descriptors and tables lay them out (chapters 7 and 9): descriptor fields, contributors,
epochs, what each contributor owes, ranks, timers, and the tiles and bindings of the parts. -/

namespace Sys2Proof.Machine

/-! ### Empty values -/

/-- An epoch that is IDLE and has held nothing. -/
def Epoch.fresh : Epoch :=
  { st := .idle, num := 0, start := 0, fmt := 0, bank := 0, gotCommit := false, gotDisarm := false, acked := [],
    awaited := [], ackSent := false, fromStart := [], missing := [], waiting := [], excluded := [], reminded := [],
    stopCredit := false, fates := .empty, settledParts := [], outParts := [], turn := .empty, started := [],
    retiredUe := 0, resultLost := 0, failed := none, childDone := [], sent := false, doneAt := 0, doneCount := 0, settledAt := 0,
    dec := none, rangesIn := [], outcomeSent := false, resultsIn := [], shift := 0, entry := none, issued := 0,
    returned := 0, kept := [], downSent := [], opened := false, refusal := 0, rung := 0, since := 0 }

/-- A session that is EMPTY. -/
def Session.fresh : Session :=
  { st := .empty, desc := [], banks := ⟨[], []⟩, newest := 0, tableOk := false, cst := .empty, parentKey := false,
    relayKey := false, restart := false, frozenFrom := .empty, epoch := 0, next := none, eps := ⟨.fresh, .fresh⟩,
    lastOutcome := 0, lastReason := 0, issued := 0, returned := 0, late := 0, dup := 0, authBad := 0, crcBad := 0,
    reduced := 0, discarded := 0, records := [], advised := [], seen := [], outSeq := [], orders := [], resultNacks := 0, sendCredits := [],
    outSegs := [], batches := [], authAt := .empty, lastPort := .empty, wvRun := 0, wvRung := 0, wvLock := false,
    wvFrom := 0, wvMeas := [] }

/-- A session. -/
def getSes (s : State) (sid : Nat) : Session := s.sessions.get Session.fresh sid

/-- Write a session. -/
def putSes (s : State) (sid : Nat) (x : Session) : State := { s with sessions := s.sessions.put Session.fresh sid x }

/-- Change a session. -/
def onSes (s : State) (sid : Nat) (f : Session → Session) : State := putSes s sid (f (getSes s sid))

/-- A parity's epoch. -/
def Session.ep (x : Session) (p : Nat) : Epoch := x.eps.get (halfOf p)

/-- Write a parity's epoch. -/
def Session.setEp (x : Session) (p : Nat) (e : Epoch) : Session := { x with eps := x.eps.put (halfOf p) e }

/-- Change a parity's epoch. -/
def onEp (s : State) (sid p : Nat) (f : Epoch → Epoch) : State :=
  onSes s sid fun x => x.setEp p (f (x.ep p))

/-! ### Descriptor fields (R151) -/

/-- A descriptor word. -/
def Session.word (x : Session) (n : Nat) : Word := x.desc.getD n 0

def Session.op (x : Session) : Nat := fieldOf (x.word 0) 3 0
def Session.operator (x : Session) : Nat := fieldOf (x.word 0) 5 4
def Session.policy (x : Session) : Nat := fieldOf (x.word 0) 7 6
def Session.pid (x : Session) : Nat := fieldOf (x.word 0) 13 8
def Session.home (x : Session) : Half := halfOf (fieldOf (x.word 0) 14 14)
def Session.isRelay (x : Session) : Bool := bitOf (x.word 0) 15
def Session.isRoot (x : Session) : Bool := bitOf (x.word 0) 16
def Session.localPorts (x : Session) : Bool := bitOf (x.word 0) 17
def Session.contribs (x : Session) : Nat := fieldOf (x.word 1) 13 0
def Session.parts (x : Session) : Nat := fieldOf (x.word 1) 26 16
def Session.partElems (x : Session) : Nat := fieldOf (x.word 2) 12 0
def Session.lastElems (x : Session) : Nat := fieldOf (x.word 2) 28 16
def Session.wireFmts (x : Session) : Nat := fieldOf (x.word 3) 15 0
def Session.startFmt (x : Session) : Nat := fieldOf (x.word 3) 19 16
def Session.upFmt (x : Session) : Nat := fieldOf (x.word 3) 23 20
def Session.resultFmt (x : Session) : Nat := fieldOf (x.word 3) 27 24
def Session.resultRound (x : Session) : Nat := fieldOf (x.word 3) 29 28
def Session.creditWindow (x : Session) : Nat := fieldOf (x.word 4) 7 0
def Session.profile (x : Session) : Nat := fieldOf (x.word 4) 15 8
def Session.failLimit (x : Session) : Nat := fieldOf (x.word 4) 23 16
def Session.expectNs (x : Session) : Nat := (x.word 5).toNat
def Session.deadlineNs (x : Session) : Nat := (x.word 6).toNat
def Session.waitMaxNs (x : Session) : Nat := (x.word 7).toNat
def Session.guardNs (x : Session) : Nat := (x.word 8).toNat
def Session.marginNs (x : Session) : Nat := (x.word 9).toNat
def Session.parentSid (x : Session) : Nat := fieldOf (x.word 10) 11 0
def Session.parentCidx (x : Session) : Nat := fieldOf (x.word 10) 24 12
def Session.parentPfa (x : Session) : Nat := (x.word 11).toNat
def Session.relaySid (x : Session) : Nat := fieldOf (x.word 12) 11 0
def Session.relayCidx (x : Session) : Nat := fieldOf (x.word 12) 24 12
def Session.relayPfa (x : Session) : Nat := (x.word 13).toNat
def Session.armerRank (x : Session) : Nat := fieldOf (x.word 14) 16 0
def Session.armerEn (x : Session) : Bool := bitOf (x.word 14) 17
def Session.tileBase (x : Session) : Nat := fieldOf (x.word 15) 9 0
def Session.bindIndex (x : Session) : Nat := fieldOf (x.word 15) 13 10
def Session.accBase (x : Session) : Nat := fieldOf (x.word 15) 28 16

/-- PLANE of a PFA (R149). -/
def planeOf (pfa : Nat) : Nat := bitsOf pfa 31 28

/-- The policies of R151. -/
def polAbort : Nat := 0
def polWait : Nat := 1
def polExclude : Nat := 2

/-- The operations of R151. -/
def opReduce : Nat := 1
def opReduceScatter : Nat := 2
def opAllreduce : Nat := 3
def opAllgather : Nat := 4
def opBroadcast : Nat := 5
def opAlltoall : Nat := 6
def opBarrier : Nat := 7
def opRub : Nat := 8
def opProgram : Nat := 9

/-! ### Contributors -/

/-- The code of an edge: a contributor's CIDX, 8,192 for the parent and 8,193 for the relay. -/
def edgeCode : Edge → Nat
  | .contrib c => c
  | .parent => 8192
  | .relay => 8193

/-- A bank of the contributor table (R150). -/
def Session.bank (x : Session) (b : Nat) : List Contrib := x.banks.get (halfOf b)

/-- The contributor entries of a bank, with their indices. -/
def indexed {α : Type} : Nat → List α → List (Nat × α)
  | _, [] => []
  | n, x :: l => (n, x) :: indexed (n + 1) l

/-- The enabled entries of a bank with their indices. -/
def Session.enabled (x : Session) (b : Nat) : List (Nat × Contrib) := (indexed 0 (x.bank b)).filter fun c => c.2.enabled

/-- A contributor's state and its run of misses (R177). -/
def Session.ctst (x : Session) (c : Nat) : CtSt × Nat := x.cst.get (.disabled, 0) c

/-- Set a contributor's state and run. -/
def Session.setCt (x : Session) (c : Nat) (st : CtSt) (run : Nat) : Session := { x with cst := x.cst.put (.disabled, 0) c (st, run) }

/-- Codes of R177. -/
def ctCode : CtSt → Nat
  | .disabled => 0
  | .keying => 1
  | .active => 2
  | .suspect => 3
  | .failed => 4
  | .remapped => 5

/-- Codes of R156. -/
def sesCode : SesSt → Nat
  | .empty => 0
  | .defined => 1
  | .ready => 2
  | .active => 3
  | .draining => 4
  | .frozen => 5

/-- Codes of R173. -/
def epCode : EpSt → Nat
  | .idle => 0
  | .armed => 1
  | .committed => 2
  | .uncommitted => 3
  | .opened => 4
  | .settled => 5
  | .waitOutcome => 6
  | .closing => 7

/-- TYPE 2 of R153. -/
def Contrib.isFarhel (c : Contrib) : Bool := decide (c.type = 2)

/-- A contributor's window (R153). -/
def Session.windowOf (x : Session) (c : Contrib) : Nat := if c.window = 0 then x.creditWindow else c.window

/-- A contributor that an ARM passes over (R188): FAILED, KEYING or REMAPPED. -/
def absentAtArm : CtSt → Bool
  | .failed => true
  | .keying => true
  | .remapped => true
  | _ => false

/-! ### Elements and segments -/

/-- Elements of a part. -/
def Session.elemsOf (x : Session) (p : Nat) : Nat := if p + 1 = x.parts then x.lastElems else x.partElems

/-- Cells of a part in a format (R127, R128). -/
def segsIn (fmt elems : Nat) : Nat := (elems + cellElems fmt - 1) / cellElems fmt

/-- Segments of a part in a format. -/
def Session.segsOf (x : Session) (fmt p : Nat) : Nat := segsIn fmt (x.elemsOf p)

/-- A range of ranks holds a rank. -/
def rangeHas (first count r : Nat) : Bool := decide (first ≤ r) && decide (r < first + count)

/-- Cells of a part that belong to one rank of an ALLTOALL (R201): C ÷ PARTS. -/
def Session.allS (x : Session) : Nat := x.segsOf x.startFmt 0 / x.parts

/-- A sender of some ranges of ranks owes a segment (R199), given what the part holds in its format. -/
def Session.shapeOwes (x : Session) (has : Nat → Bool) (segs p seg : Nat) : Bool :=
  if x.op = opBroadcast then false
  else if x.op = opAllgather then has p && decide (seg < segs)
  else if x.op = opAlltoall then decide (x.allS ≠ 0) && has (seg / x.allS) && decide (seg < segs)
  else if x.op = opBarrier then decide (p = 0) && decide (seg = 0)
  else decide (seg < segs)

/-- A contributor owes a segment of a part in an epoch's format (R181, R199). -/
def Session.owes (x : Session) (fmt : Nat) (c : Contrib) (p seg : Nat) : Bool :=
  x.shapeOwes (rangeHas c.first c.count) (x.segsOf fmt p) p seg

/-- The segments of a part that a contributor owes. -/
def Session.owedSegs (x : Session) (fmt : Nat) (c : Contrib) (p : Nat) : List Nat :=
  (List.range (x.segsOf fmt p)).filter (x.owes fmt c p)

/-- A contributor owes nothing in the epoch (R200). -/
def Session.owesNothing (x : Session) (fmt : Nat) (c : Contrib) : Bool :=
  (List.range x.parts).all fun p => decide (x.owedSegs fmt c p = [])

/-- A rank is covered at this block by an epoch's bank. -/
def Session.covers (x : Session) (b r : Nat) : Bool := (x.enabled b).any fun c => rangeHas c.2.first c.2.count r

/-- A segment that this block owes its parent (R199, "Up"). -/
def Session.upOwes (x : Session) (b p seg : Nat) : Bool := x.shapeOwes (x.covers b) (x.segsOf x.upFmt p) p seg

/-- The parts whose RESULT a contributor receives (R199, "Down"). -/
def Session.downTo (x : Session) (c : Contrib) (p : Nat) : Bool :=
  if x.op = opReduce then false
  else if x.op = opReduceScatter ∨ x.op = opAlltoall then rangeHas c.first c.count p
  else true

/-- The parts whose RESULT this block receives from its parent. -/
def Session.downHere (x : Session) (b p : Nat) : Bool :=
  if x.op = opReduce then false
  else if x.op = opReduceScatter ∨ x.op = opAlltoall then x.covers b p
  else true

/-- The operation fixes which RESULT cells go down; RUB and PROGRAM leave it to the program (R199). -/
def Session.downFixed (x : Session) : Bool := decide (x.op ≠ opRub) && decide (x.op ≠ opProgram)

/-- The key of a contribution's fate. -/
def fateKey (c p seg : Nat) : Nat := (c * 1024 + p) * 4096 + seg

/-- A part and segment of an epoch as one number. -/
def segKey (p seg : Nat) : Nat := p * 4096 + seg

/-- Fates and stages on the way to one (R181). -/
def fateCredited : Nat := 1
def fateAccepted : Nat := 2
def fateReduced : Nat := 3
def fateDiscFailed : Nat := 4
def fateDiscTile : Nat := 5
def fateDiscSettled : Nat := 6
def fateReclaimed : Nat := 7
def fateFilled : Nat := 8

/-- The fate of a contribution. -/
def Epoch.fate (e : Epoch) (c p seg : Nat) : Nat := e.fates.get 0 (fateKey c p seg)

/-- Set a contribution's fate. -/
def Epoch.setFate (e : Epoch) (c p seg f : Nat) : Epoch := { e with fates := e.fates.put 0 (fateKey c p seg) f }

/-- A contribution has arrived in its slot, or has been discarded there. -/
def fateIn (f : Nat) : Bool :=
  decide (f = fateReduced) || decide (f = fateFilled) || decide (f = fateDiscFailed) || decide (f = fateDiscTile) ||
    decide (f = fateDiscSettled)

/-- Every owed segment of a part from a contributor has arrived. -/
def Session.arrived (x : Session) (e : Epoch) (c : Nat) (ct : Contrib) (p : Nat) : Bool :=
  (x.owedSegs e.fmt ct p).all fun seg => fateIn (e.fate c p seg)

/-- A complete DONE of a child (R190). -/
def Epoch.doneOf (e : Epoch) (c : Nat) : Option ChildDone := e.childDone.find? fun d => decide (d.cidx = c)

/-- A FARHEL contributor that owes cells has also to send its DONE (R189, R193). -/
def Session.doneIn (x : Session) (e : Epoch) (c : Nat) (ct : Contrib) : Bool :=
  !ct.isFarhel || x.owesNothing e.fmt ct || (match e.doneOf c with | some d => d.complete | none => false)

/-- A contributor still owes something in the epoch (R174). -/
def Session.stillOwes (x : Session) (e : Epoch) (c : Nat) (ct : Contrib) : Bool :=
  !((List.range x.parts).all (x.arrived e c ct) && x.doneIn e c ct)

/-- A contributor is accounted for in a part (R173): its cells are in, or it is excluded and none of its accepted cells is
still on its way. -/
def Session.accounted (x : Session) (e : Epoch) (p : Nat) (c : Nat) (ct : Contrib) : Bool :=
  if e.excluded.contains c then
    (x.owedSegs e.fmt ct p).all fun seg => decide (e.fate c p seg ≠ fateAccepted)
  else x.arrived e c ct p && x.doneIn e c ct

/-- Every contributor is accounted for in a part. -/
def Session.partAccounted (x : Session) (e : Epoch) (p : Nat) : Bool :=
  (x.enabled e.bank).all fun c => x.accounted e p c.1 c.2

/-! ### Ranks (R189, R204) -/

/-- Ranks covered by an epoch's bank. -/
def Session.ranks (x : Session) (e : Epoch) : Nat := ((x.enabled e.bank).map fun c => c.2.count).foldl (· + ·) 0

/-- The excluded ranges of an epoch at this block (R189): of its own exclusions and of its children's DONE. -/
def Session.exRanges (x : Session) (e : Epoch) : List RankRange :=
  (x.enabled e.bank).flatMap fun c =>
    if e.excluded.contains c.1 then [⟨c.2.first, c.2.count⟩]
    else match e.doneOf c.1 with
      | some d => if d.status = 1 then d.ranges else []
      | none => []

/-- Ranks of a list of ranges. -/
def rangesCount (l : List RankRange) : Nat := (l.map (·.count)).foldl (· + ·) 0

/-! ### Tiles and bindings -/

/-- The physical tile of a part (R155). -/
def Session.tileOf (s : State) (x : Session) (p : Nat) : Option Nat := physOf s (x.tileBase + p)

/-- The parts of a session. -/
def Session.partList (x : Session) : List Nat := if x.isRelay then [] else List.range x.parts

/-- The part of a session that a logical tile holds. -/
def Session.partAt (x : Session) (lt : Nat) : Option Nat :=
  if !x.isRelay && decide (x.tileBase ≤ lt) && decide (lt < x.tileBase + x.parts) then some (lt - x.tileBase) else none

/-- An epoch is live (R172). -/
def Epoch.live (e : Epoch) : Bool := decide (e.st ≠ .idle)

/-- Both parities are IDLE. -/
def Session.idle (x : Session) : Bool := !x.eps.a.live && !x.eps.b.live

/-- Whether a part's tile has reported an epoch (R116): its binding's parity is no longer owed. -/
def tileReported (s : State) (x : Session) (par p : Nat) : Bool :=
  match x.tileOf s p with
  | some t => !(((getTile s t).bind x.bindIndex).ep par).owed
  | none => true

/-- Every tile has reported. -/
def tilesReported (s : State) (x : Session) (par : Nat) : Bool := x.partList.all (tileReported s x par)

/-! ### Timers (R174, R414) -/

/-- The FT in ns at which a session's half stands. -/
def sesNow (s : State) (x : Session) : Nat := ftNs s x.home

/-- The start FT a timer is counted from. -/
def Epoch.base (e : Epoch) : Nat := e.start + e.shift

/-- The home half has time and its timer has come; no timer runs during a Calm (R54, R414). -/
def timerDue (s : State) (x : Session) (at_ : Nat) : Bool :=
  hasTime s x.home && !calmOn s x.home && decide (at_ ≤ sesNow s x)

/-- Expected arrival of a contributor (R174). -/
def Session.expected (x : Session) (e : Epoch) (c : Contrib) : Nat := e.base + x.expectNs + 100 * c.expectAdd

/-- The SES page of a session. -/
def Session.page (x : Session) : Nat := halfIdx x.home

/-- Count on the session's SES page. -/
def sesCount (s : State) (x : Session) (off : Nat) : State := satReg s .ses x.page off 1

/-- The unit source of the session engine of a half (R371). -/
def sesUnit (x : Session) : Nat := 4 + x.page

/-- The source ID of the session engine of a half (R239). -/
def sesSrc (x : Session) : Nat := 0x4C2 + x.page

/-- The session engine of a half runs (R179). -/
def engineOn (s : State) (h : Half) : Bool := pageIsOn s .ses (halfIdx h)

/-- The record of a retired epoch, newest first (R182). -/
def Session.recordOf (x : Session) (n : Nat) : Option EpRecord := (x.records.take 2).find? fun r => decide (r.num = n)

end Sys2Proof.Machine
end

