-- ==== Sys2Proof/Machine/WvOps.lean ====
section
/-! DEFINITION. Weathervane's operations (chapter 10): profiles, shadow reducers and their slots, sampling, copies, voiding,
measures and codes, and the advice of R231. -/

namespace Sys2Proof.Machine

/-! ### Profiles (R229) -/

/-- A word of a profile. -/
def profWord (s : State) (h : Half) (k n : Nat) : Word := kreg s .wv (halfIdx h) (0x100 + 0x20 * k + 4 * n)

/-- A session's profile words. -/
def Session.prof (s : State) (x : Session) (n : Nat) : Word := profWord s x.home x.profile n

/-- A session is audited (R222). -/
def Session.audited (x : Session) : Bool := decide (x.profile ≠ 0)

/-- Rung r of a profile's ladder. -/
def rungFmt (w1 : Word) (r : Nat) : Nat := fieldOf w1 (4 * r + 3) (4 * r)

/-- LADDER_LEN: rungs minus one. -/
def ladderLast (w0 : Word) : Nat := fieldOf w0 18 16

/-- The rung whose format is a given one, if the ladder has it. -/
def rungOf (w0 w1 : Word) (fmt : Nat) : Option Nat :=
  (List.range (ladderLast w0 + 1)).find? fun r => decide (rungFmt w1 r = fmt)

/-- The format of a session's rung in force. -/
def Session.rungFormat (s : State) (x : Session) : Nat := rungFmt (x.prof s 1) x.wvRung

/-- A descriptor's audit is refused (R222). -/
def wvRefuses (s : State) (x : Session) : Bool :=
  x.audited &&
    (let w0 := x.prof s 0
     let w1 := x.prof s 1
     decide (64 ≤ x.profile) || !bitOf w0 0 || decide (fieldOf w0 13 8 ≠ x.pid) ||
       (List.range (ladderLast w0 + 1)).any (fun r => !x.wireFmts.testBit (rungFmt w1 r)) ||
       (rungOf w0 w1 x.startFmt).isNone || decide (x.op = opAllgather) || decide (x.op = opBroadcast) ||
       decide (x.op = opAlltoall))

/-- The profile is named by a session of the half that is not EMPTY (R229). -/
def profileNamed (s : State) (h : Half) (k : Nat) : Bool :=
  s.sessions.cells.any fun c => decide (c.2.st ≠ .empty) && decide (c.2.home = h) && decide (c.2.profile = k)

/-! ### Shadow reducers -/

/-- The role of a shadow reducer by page index: 0 ACTIVE, 1 SPARE, 2 RETIRED (R237). -/
def srRoleOf (s : State) (sr : Nat) : Nat :=
  (s.srRole.find sr).getD (if sr % (s.cfg.srPerHalf + sparesPerHalf) < s.cfg.srPerHalf then 0 else 1)

/-- Shadow reducers of a half, by page index. -/
def srsOf (c : BlockCfg) (h : Half) : List Nat :=
  (List.range (c.srPerHalf + sparesPerHalf)).map fun i => halfIdx h * (c.srPerHalf + sparesPerHalf) + i

/-- A shadow reducer takes new groups (R237, R435): its role is ACTIVE and no swap waits for it. -/
def srTakes (s : State) (sr : Nat) : Bool := decide (srRoleOf s sr = 0) && !s.srSwap.contains sr

/-- Slots a shadow reducer holds: sample groups and dense audits (R221, R235). -/
def srLoad (s : State) (sr : Nat) : Nat :=
  (s.wvGroups.cells.filter fun c => decide (c.1 / 128 = sr)).length + (s.audits.filter fun a => decide (a.sr = sr)).length

/-- The lowest free slot of a shadow reducer. -/
def freeSlot (s : State) (sr : Nat) : Option Nat :=
  if 128 ≤ srLoad s sr then none
  else (List.range 128).find? fun i =>
    (s.wvGroups.find (128 * sr + i)).isNone && !s.audits.any fun a => decide (a.sr = sr) && decide (a.slot = i)

/-- The shadow reducers of a half from its turn on. -/
def srOrder (s : State) (h : Half) : List Nat :=
  let l := srsOf s.cfg h
  let k := s.wvTurn.get h % l.length
  l.drop k ++ l.take k

/-- A free slot in a half, in turn (R223): the key of the slot. The half's WV control page is ON. -/
def takeSlot (s : State) (h : Half) : Option Nat :=
  if !pageIsOn s .wv (halfIdx h) then none
  else (srOrder s h).findSome? fun sr => if srTakes s sr then (freeSlot s sr).map fun i => 128 * sr + i else none

/-- The turn moves on to the reducer after one. -/
def nextTurn (s : State) (h : Half) (sr : Nat) : State :=
  let n := s.cfg.srPerHalf + sparesPerHalf
  { s with wvTurn := s.wvTurn.put h ((sr % n + 1) % n) }

/-! ### An epoch's entry -/

/-- An entry that has counted nothing. -/
def WvEpoch.fresh (sid epoch fmt : Nat) : WvEpoch := ⟨sid, epoch, fmt, 0, 0, 0, 0, 0, none, allOnes64, none, 0, 0, 0, false, none⟩

/-- The entry of an epoch. -/
def wvEp (s : State) (sid epoch : Nat) : Option WvEpoch :=
  s.wvEpochs.find? fun e => decide (e.sid = sid) && decide (e.epoch = epoch)

/-- Change the entry of an epoch. -/
def onWvEp (s : State) (sid epoch : Nat) (f : WvEpoch → WvEpoch) : State :=
  { s with wvEpochs := s.wvEpochs.map fun e => if e.sid = sid ∧ e.epoch = epoch then f e else e }

/-- Take the entry of an epoch away. -/
def dropWvEp (s : State) (sid epoch : Nat) : State :=
  { s with wvEpochs := s.wvEpochs.filter fun e => !(decide (e.sid = sid) && decide (e.epoch = epoch)) }

/-- Count groups or audits not given a slot (R223, R235, R393). -/
def countSkipped (s : State) (h : Half) (pid n : Nat) : State :=
  if n = 0 then s else countBlk (satReg s .wv (halfIdx h) 0x04C n) h 0x0F [2] (halfIdx h) (some pid) n

/-! ### Sampling (R223) -/

/-- Groups of a part. -/
def groupsOf (elems : Nat) : Nat := (elems + 31) / 32

/-- Groups of an epoch of a session. -/
def Session.groups (x : Session) : Nat := ((List.range x.parts).map fun p => groupsOf (x.elemsOf p)).foldl (· + ·) 0

/-- The part and the place of the n-th group of an epoch: parts but the last hold equally many. -/
def Session.groupAt (x : Session) (n : Nat) : Nat × Nat :=
  let g := groupsOf x.partElems
  if g = 0 then (0, 0) else (min (n / g) (x.parts - 1), n - min (n / g) (x.parts - 1) * g)

/-- k distinct numbers below n, each set equally likely, from free draws: the j-th draw is below j + 1, and a number already
taken gives way to j. -/
def distinct (s : State) : Nat → Nat → List Nat → List Nat × State
  | 0, _, l => (l, s)
  | k + 1, n, l =>
    let p := distinct s k (n - 1) l
    let d := p.2.draw Config.entropy
    let v := d.1 % n
    ((if p.1.contains v then n - 1 else v) :: p.1, d.2)

/-- An element before its first addend. -/
def WvElem.fresh : WvElem := ⟨none, none, 0, Acc.clear, 0⟩

/-- A group that has taken nothing. -/
def WvGroup.fresh (sid parity epoch part group : Nat) (probe : Option Nat) : WvGroup :=
  ⟨sid, parity, epoch, part, group, probe, 0, 0, none, 0, 0, false, List.replicate 32 WvElem.fresh⟩

/-- A chosen group gets a slot in the half of its part's tile, or is skipped. -/
def placeGroup (s : State) (sid par epoch : Nat) (probe : Option Nat) (n : Nat) : State :=
  let x := getSes s sid
  let g := x.groupAt n
  let h := match x.tileOf s g.1 with
    | some t => tileHalf t
    | none => x.home
  match takeSlot s h with
  | some key =>
    nextTurn { s with wvGroups := s.wvGroups.set key (WvGroup.fresh sid par epoch g.1 g.2 probe) } h (key / 128)
  | none => countSkipped (onWvEp s sid epoch fun e => { e with skipped := e.skipped + 1 }) h x.pid 1

/-- The format of the probe sum (R226): the ladder's next narrower one after the format the epoch is sent in. DEDUCED: a format
that is not on the ladder stands at the rung the epoch was armed at. -/
def Session.probeFmt (s : State) (x : Session) (e : Epoch) : Option Nat :=
  let r := (rungOf (x.prof s 0) (x.prof s 1) e.fmt).getD e.rung
  if r < ladderLast (x.prof s 0) then some (rungFmt (x.prof s 1) (r + 1)) else none

/-- The sampler of an audited session chooses its groups as an epoch opens (R223). -/
def sampleEpoch (s : State) (sid par : Nat) : State :=
  let x := getSes s sid
  if !x.audited || x.isRelay then s
  else
    let n := x.groups
    let k := min (fieldOf (x.prof s 3) 23 16) n
    let e := x.ep par
    let fmt := rungFmt (x.prof s 1) e.rung
    let s1 := { s with wvEpochs := s.wvEpochs ++ [{ WvEpoch.fresh sid e.num fmt with chosen := k }] }
    let d := distinct s1 k n []
    d.1.reverse.foldl (fun u i => placeGroup u sid par e.num (x.probeFmt s e) i) d.2

/-! ### Voiding (R225) -/

/-- Void a group: it gives up its slot, and flits on their way to it are dropped. -/
def voidGroup (s : State) (key : Nat) : State :=
  match s.wvGroups.find key with
  | none => s
  | some g =>
    let h := if key / 128 < s.cfg.srPerHalf + sparesPerHalf then Half.a else .b
    let mine (f : WvFlit) : Bool := decide (f.sr = key / 128) && decide (f.slot = key % 128)
    let s1 := dropFlits { s with wvGroups := s.wvGroups.drop key, wvFlits := s.wvFlits.filter fun f => !mine f } fun w =>
      match w with
      | .wv f => mine f
      | _ => false
    let s2 := onWvEp (satReg s1 .wv (halfIdx h) 0x050 1) g.sid g.epoch fun e => { e with voided := e.voided + 1 }
    countBlk s2 h 0x0F [1] (halfIdx h) (some (getSes s g.sid).pid) 1

/-- Void every group that passes a test. -/
def voidGroups (s : State) (p : WvGroup → Bool) : State :=
  (s.wvGroups.cells.filter fun c => p c.2).foldl (fun u c => voidGroup u c.1) s

/-- Void the groups of an epoch. -/
def voidEpoch (s : State) (sid epoch : Nat) : State :=
  voidGroups s fun g => decide (g.sid = sid) && decide (g.epoch = epoch)

/-! ### Copies (R224) -/

/-- The slots that hold groups of a part of an epoch. -/
def groupsAt (s : State) (sid epoch p : Nat) : List (Nat × WvGroup) :=
  s.wvGroups.cells.filter fun c => decide (c.2.sid = sid) && decide (c.2.epoch = epoch) && decide (c.2.part = p)

/-- The LST of a flit sent now with the copy slack (R224). -/
def copyLst (s : State) (h : Half) : Nat := lstOf (ftNs s h + kregFN s .wv (halfIdx h) 0x044)

/-- RACC copies the elements of each chosen group that a cell covers: first is the cell's first element within the part, and
`elems` gives each element's code and scale byte. DEDUCED: an element past the end of the part, which the reduce unit ignores
(R128), goes as a zero. -/
def sendCopies (s : State) (t sid epoch p fmt op first : Nat) (elems : List (Nat × Nat)) : State :=
  let h := tileHalf t
  let n := (getSes s sid).elemsOf p
  (groupsAt s sid epoch p).foldl (fun u c =>
    let lo := 32 * c.2.group
    if first ≤ lo ∧ lo < first + elems.length then
      let l := ((elems.drop (lo - first)).take 32).take (n - lo)
      let scale := match l with
        | y :: _ => y.2
        | [] => 0
      flitToReducer { u with wvGroups := u.wvGroups.set c.1 { c.2 with sent := c.2.sent + 1 } } t (getSes s sid).pid
        ⟨c.1 / 128, c.1 % 128, copyLst u h, .copy fmt scale op (l.map (·.1) ++ List.replicate (32 - l.length) 0)⟩
    else u) s

/-- As a part settles, the reduce unit sends the states of its groups' accumulators in four flits each (R224). -/
def sendStates (s : State) (t b sid par epoch p : Nat) : State :=
  let v := (getTile s t).bind b
  let x := getTile s t
  (groupsAt s sid epoch p).foldl (fun u c =>
    let acc (i : Nat) :=
      if 32 * c.2.group + i < v.accCount then x.racc.get Acc.clear (v.accOf par + 32 * c.2.group + i) else Acc.clear
    let flit (k : Nat) : WvFlit :=
      ⟨c.1 / 128, c.1 % 128, copyLst u (tileHalf t), .state k ((List.range 8).map fun i => acc (8 * k + i)) c.2.sent⟩
    [0, 1, 2, 3].foldl (fun w k => flitToReducer w t (getSes s sid).pid (flit k)) u) s

/-! ### Exact sums (R221) -/

/-- The integer of m × 2^e in units of 2^-w; exact for every value a cell can carry. -/
def inUnits (w : Nat) (m e : Int) : Int :=
  let k : Int := e + w
  if k ≥ 0 then m * 2 ^ k.toNat else m / 2 ^ (-k).toNat

/-- The wire step of an element (chapter 10): the exponent of the gap to the next larger magnitude of its format, block scale
included. -/
def stepExp (c raw x : Nat) : Int :=
  let k : Int := if isBlock c then (x : Int) - 127 else 0
  match (if isBlock c then blockElem c else scalarFmt c) with
  | some f =>
    let ex := raw / 2 ^ f.man % 2 ^ f.exp
    (max ex 1 : Nat) - (f.bias : Int) - f.man + k
  | none => k - 6

/-- U grows by the square of the step, in units of 2^-320. -/
def stepSquare (c raw x : Nat) : Nat := 2 ^ (2 * stepExp c raw x + 320).toNat

/-- What makes P of an element infinite (1) or a NaN (2): a re-rounded addend of a finite one. -/
def oddProbe (v p : Val) : Nat :=
  match v, p with
  | .nan, _ => 0
  | .inf _, _ => 0
  | _, .nan => 2
  | _, .inf _ => 1
  | _, _ => 0

/-- One addend of S or P under the operator: SUM adds, MAX and MIN keep the larger or the smaller. -/
def exactAdd (op : Nat) (held : Option Int) (v : Val) : Option Int :=
  let z : Option Int := match v with
    | .fin m e => some (inUnits 160 m e)
    | .zero _ => some 0
    | _ => none
  match z, held with
  | none, h => h
  | some a, none => some a
  | some a, some b => some (if op = 1 then max a b else if op = 2 then min a b else a + b)

/-- The addends of a group re-rounded with RNE to a format, one block of 32 where it is a block format (R226, R136). -/
def reround (c : Nat) (vs : List Val) : List Val :=
  if isBlock c then
    let n := narrowBlock c .rne vs (vs.map fun _ => 0)
    let x := n.scales.headD 0
    n.codes.map fun q => elemVal c q x
  else
    match scalarFmt c with
    | some f => vs.map fun v => decodeElem f (narrow f .rne 0 v).code
    | none => vs

/-- A group after a copy flit. -/
def WvGroup.copied (g : WvGroup) (fmt scale op : Nat) (raws : List Nat) : WvGroup :=
  let vs := raws.map fun r => elemVal fmt r scale
  let ps := match g.probe with
    | some c => reround c vs
    | none => vs.map fun _ => Val.nan
  let upd (i : Nat) (e : WvElem) : WvElem :=
    match vs[i]? with
    | none => e
    | some v =>
      { e with
        s := exactAdd op e.s v
        p := exactAdd op e.p (ps.getD i .nan)
        pOdd := if g.probe.isSome then max e.pOdd (oddProbe v (ps.getD i .nan)) else 0
        u := e.u + (match v with | .nan => 0 | .inf _ => 0 | _ => stepSquare fmt (raws.getD i 0) scale) }
  { g with got := g.got + 1, elems := (indexed 0 g.elems).map fun c => upd c.1 c.2 }

/-- A group after a state flit. -/
def WvGroup.stated (g : WvGroup) (cyc i : Nat) (accs : List Acc) (sent : Nat) : WvGroup :=
  { g with
    announced := some sent, states := g.states + 1, stateCyc := cyc
    elems := (indexed 0 g.elems).map fun c =>
      if c.1 / 8 = i then { c.2 with acc := accs.getD (c.1 % 8) Acc.clear } else c.2 }

/-- The group holds its state flits and as many copies as they announce (R225). -/
def WvGroup.ready (g : WvGroup) : Bool := decide (g.states = 4) && decide (g.announced = some g.got)

/-! ### Measures (R226 to R228) -/

/-- An element that is left out of every norm: its accumulator carries NAN, INF_POS or INF_NEG. -/
def WvElem.odd (e : WvElem) : Bool := e.acc.nan || e.acc.infPos || e.acc.infNeg

/-- V of an element, exactly: W × 2^E as a value. -/
def WvElem.v (e : WvElem) : Val := if e.acc.empty then .zero false else mkVal false e.acc.w e.acc.e

/-- S as a value. -/
def sVal (z : Option Int) : Val := mkVal false (z.getD 0) (-160)

/-- The magnitude of a finite difference of two values, as an integer over 2^exponent; none where one is not finite. -/
def absDiff (a b : Val) : Option (Nat × Int) :=
  match a.add b.neg with
  | .zero _ => some (0, 0)
  | .fin m e => some (mag m, e)
  | _ => none

/-- O under SR (R227): of the two neighbours, which SR gives at its lowest and beyond its highest draw, the one that RNE does not choose.
DESIGN CHOICE (log 146): where both lie equally far, the one that is odd. -/
def fartherOf (lo hi near : Nat) : Nat := if near = lo then hi else lo

/-- The codes of O under SR from the codes that three narrowings give. -/
def fartherCodes (los his nears : List Nat) : List Nat := (List.zip los (List.zip his nears)).map fun c => fartherOf c.1 c.2.1 c.2.2

/-- O of the elements of one group (R227): narrowed to the output format. `far` stands for SR. -/
def outputs (c : Nat) (mode : Mode) (far : Bool) (vs : List Val) : List Val :=
  let all (m : Mode) (r : Nat) : NarrowedLanes :=
    if isBlock c then narrowBlock c m vs (vs.map fun _ => r)
    else match scalarFmt c with
      | some f => gatherNarrowed (vs.map (narrow f m r)) [] false
      | none => ⟨[], [], 0, false, false⟩
  let n := all (if far then .rne else mode) 0
  let codes := if far then fartherCodes (all .sr 0).codes (all .sr 65536).codes n.codes else n.codes
  codes.map fun q => elemVal c q (n.scales.headD 0)

/-- The output format, its rounding mode, and whether it is SR (R227). -/
def Session.outFormat (x : Session) : Nat × Mode × Bool :=
  if !x.isRoot then (x.upFmt, .rne, false)
  else if x.op = opReduceScatter ∨ x.op = opAllreduce ∨ x.op = opBarrier then
    (x.resultFmt, if x.resultRound = 1 then .rtz else .rne, decide (x.resultRound = 2))
  else (0, .rne, false)

/-- floor(log2(n ÷ d)) of positive numbers. -/
def floorLog2 (n d : Nat) : Int :=
  let k : Int := (Nat.log2 n : Int) - Nat.log2 d
  if k ≥ 0 then (if n ≥ d * 2 ^ k.toNat then k else k - 1)
  else if n * 2 ^ (-k).toNat ≥ d then k else k - 1

/-- The code of an exact ratio n ÷ d (R228): floor(-16 × log2 e) clamped to 0x0000 to 0xFFFE, 0xFFFF for zero; with a zero
denominator any other ratio reads 0x0000. -/
def codeOf (n d : Nat) : Nat :=
  if n = 0 then 0xFFFF
  else if d = 0 then 0
  else (max 0 (min 0xFFFE (floorLog2 (d ^ 16) (n ^ 16)))).toNat

/-- Two magnitudes at one exponent. -/
def alignMag (p q : Nat × Int) : Nat × Nat :=
  if p.2 ≤ q.2 then (p.1, q.1 * 2 ^ (q.2 - p.2).toNat) else (p.1 * 2 ^ (p.2 - q.2).toNat, q.1)

/-- The larger of two magnitudes. -/
def maxMag (p q : Nat × Int) : Nat × Int := if magGt q.1 q.2 p.1 p.2 then q else p

/-- The sum of two magnitudes. -/
def addMag (p q : Nat × Int) : Nat × Int :=
  let r := alignMag p q
  (r.1 + r.2, min p.2 q.2)

/-- The sum of the squares of finite differences; none where one of them is infinite. -/
def sumSquares (l : List (Option (Nat × Int))) : Option (Nat × Int) :=
  l.foldl (fun acc d =>
    match acc, d with
    | some a, some q => some (addMag a (q.1 * q.1, 2 * q.2))
    | _, _ => none) (some (0, 0))

/-- The sum of two sums of squares. -/
def addSquares (p q : Option (Nat × Int)) : Option (Nat × Int) :=
  match p, q with
  | some a, some b => some (addMag a b)
  | _, _ => none

/-- The code of the root of a ratio n ÷ d of positive numbers (R228): floor(-8 × log2 (n ÷ d)), clamped. -/
def rootCode (n d : Nat) : Nat := (max 0 (min 0xFFFE (floorLog2 (d ^ 8) (n ^ 8)))).toNat

/-- A sum of squares lies well within the range of FP32, where no square that matters is lost. -/
def fp32Safe (p : Nat × Int) : Bool :=
  let k := (Nat.log2 p.1 : Int) + p.2
  decide (-100 ≤ k) && decide (k < 126)

/-- The code of a measure √(num ÷ den) whose squares, sums and roots are formed in FP32 (R226, R228): 0xFFFF for zero, 0 where the norm
is zero or a difference infinite. DESIGN CHOICE (log 147): the spec gives no order of the FP32 operations, which err together by less
than 2^-11 of the square: where both ends of that span have one code it is the code; else the code is free between theirs, and beyond
the range of FP32 it is free. -/
def normCode (s : State) (num : Option (Nat × Int)) (den : Nat × Int) : Nat × State :=
  match num with
  | none => (0, s)
  | some n =>
    if n.1 = 0 then (0xFFFF, s)
    else if den.1 = 0 then (0, s)
    else if fp32Safe n && fp32Safe den then
      let r := alignMag n den
      let lo := rootCode (2049 * r.1) (2048 * r.2)
      let hi := rootCode (2047 * r.1) (2048 * r.2)
      if hi ≤ lo then (lo, s)
      else
        let d := s.draw Config.wvCode
        (lo + d.1 % (hi + 1 - lo), d.2)
    else
      let d := s.draw Config.wvCode
      (d.1 % 65535, d.2)

/-- What the completed groups of an epoch say: per element V, S, P, U and O. -/
structure WvSample where
  v : Val
  sv : Val
  p : Val
  u : Nat
  o : Val
  pOdd : Nat
deriving DecidableEq, Repr

/-- The elements of a group of a part of n elements that enter the norms: those of the part that are finite. -/
def WvGroup.samples (g : WvGroup) (n : Nat) (out : Nat × Mode × Bool) : List WvSample :=
  let os := outputs out.1 out.2.1 out.2.2 (g.elems.map (·.v))
  ((indexed 0 g.elems).filter fun c => !c.2.odd && decide (32 * g.group + c.1 < n)).map fun c =>
    ⟨c.2.v, sVal c.2.s, sVal c.2.p, c.2.u, os.getD c.1 .nan, c.2.pOdd⟩

/-- A multiple of a sum of squares. -/
def scaled (k : Nat) (p : Option (Nat × Int)) : Option (Nat × Int) := p.map fun q => (k * q.1, q.2)

/-- The code of OUT_MAX, exactly (R226): an infinite difference reads 0. -/
def maxCodeOf (l : List WvSample) : Nat :=
  let top := l.foldl (fun (m : Option (Nat × Int)) e =>
    match m, absDiff e.o e.sv with
    | some a, some p => some (maxMag a p)
    | _, _ => none) (some (0, 0))
  let den := l.foldl (fun m e => match absDiff e.sv (.zero false) with | some p => maxMag m p | none => m) (0, 0)
  match top with
  | none => 0
  | some p =>
    let r := alignMag p den
    codeOf r.1 r.2

/-- The measures of an epoch from its completed groups (R226): TOTAL and NARROW from the squares of OUT, WIRE and PROBE. The sums are
kept twelvefold for the twelfth of WIRE. -/
def measure (s : State) (x : Session) (gs : List WvGroup) : WvCodes × State :=
  let l := gs.flatMap fun g => g.samples (x.elemsOf g.part) x.outFormat
  let den0 := (sumSquares (l.map fun e => absDiff e.sv (.zero false))).getD (0, 0)
  let den := (12 * den0.1, den0.2)
  let acc := scaled 12 (sumSquares (l.map fun e => absDiff e.v e.sv))
  let out := scaled 12 (sumSquares (l.map fun e => absDiff e.o e.sv))
  let wire := some ((l.map (·.u)).foldl (· + ·) 0, (-320 : Int))
  let probe := scaled 12 (sumSquares (l.map fun e => if e.pOdd = 0 then absDiff e.p e.sv else none))
  let total := addSquares out wire
  let a := normCode s acc den
  let o := normCode a.2 out den
  let w := normCode o.2 wire den
  let t := normCode w.2 total den
  let n :=
    if gs.all fun g => g.probe.isNone then (0, t.2)
    else if l.any fun e => decide (e.pOdd = 2) then
      let d := t.2.draw Config.wvCode
      (d.1 % 65535, d.2)
    else normCode t.2 (addSquares total probe) den
  (⟨a.1, o.1, maxCodeOf l, w.1, t.1, n.1⟩, n.2)

/-! ### Advice (R230 to R232) -/

/-- A measure is valid (R231). -/
def Session.measureValid (s : State) (x : Session) (completed : Nat) : Bool := decide (fieldOf (x.prof s 3) 31 24 ≤ completed)

/-- The newest measure of an epoch or one before it. -/
def Session.measureBy (x : Session) (epoch : Nat) : Option WvMeas := x.wvMeas.find? fun m => decide (m.epoch ≤ epoch)

/-- A measure joins those of the session, the newest epoch first. Four are more than both parities and their children can ask for. -/
def Session.withMeasure (x : Session) (m : WvMeas) : Session :=
  { x with wvMeas := ((x.wvMeas.filter fun o => decide (m.epoch < o.epoch)) ++ m :: x.wvMeas.filter fun o => decide (o.epoch < m.epoch)).take 4 }

/-- What DONE of an epoch carries (R230): TOTAL, NARROW and LAG, LAG 0xFF where there is no measure. -/
def Session.lagOf (x : Session) (epoch : Nat) : Nat × Nat × Nat :=
  match x.measureBy epoch with
  | some m => if epoch - m.epoch < 255 then (m.total, m.narrow, epoch - m.epoch) else (0, 0, 255)
  | none => (0, 0, 255)

/-- The usable child values of an epoch (R231). -/
def Session.childCodes (x : Session) (e : Epoch) : List (Nat × Nat) :=
  (e.childDone.filter fun d => d.complete && decide (d.lag ≠ 255) && decide (x.wvFrom + d.lag ≤ e.num)).map
    fun d => (d.total, d.narrow)

/-- The root's own measure that the OUTCOME of an epoch may use (R231, R232): complete, valid, not judged before, and of the
rung's format. -/
def Session.ownMeasure (x : Session) (e : Epoch) : Option WvMeas :=
  match x.measureBy e.num with
  | some m => if !m.judged && decide (x.wvFrom ≤ m.epoch) then some m else none
  | none => none

/-- What the advice decides: the code (0 HOLD, 1 NARROW, 2 WIDEN), the rung, the patience and the breach mark. -/
structure Advice where
  code : Nat
  rung : Nat
  run : Nat
  breach : Bool
deriving DecidableEq, Repr

/-- The smallest of a list of codes. -/
def minCode (l : List Nat) : Nat := l.foldl min 0xFFFF

/-- The procedure of R231. -/
def Session.advise (s : State) (x : Session) (e : Epoch) (code : Nat) : Advice :=
  let own := x.ownMeasure e
  let kids := x.childCodes e
  let hold : Advice := ⟨0, x.wvRung, x.wvRun, false⟩
  if code = 3 ∨ code = 0 ∨ x.wvLock then hold
  else if own.isNone ∧ kids = [] then hold
  else
    let mine := match own with
      | some m => [(m.total, m.narrow)]
      | none => []
    let tot := minCode ((mine ++ kids).map (·.1))
    let nar := minCode ((mine ++ kids).map (·.2))
    let w2 := x.prof s 2
    let w3 := x.prof s 3
    let budget := fieldOf w2 15 0
    let overMax := match own with
      | some m => decide (m.outMax < fieldOf w2 31 16)
      | none => false
    if decide (tot < budget) || overMax then
      if 0 < x.wvRung then ⟨2, x.wvRung - 1, 0, false⟩ else ⟨0, x.wvRung, 0, true⟩
    else if x.wvRung < ladderLast (x.prof s 0) ∧ budget + fieldOf w3 7 0 ≤ nar then
      if fieldOf w3 15 8 ≤ x.wvRun + 1 then ⟨1, x.wvRung + 1, 0, false⟩ else ⟨0, x.wvRung, x.wvRun + 1, false⟩
    else ⟨0, x.wvRung, 0, false⟩

/-- The OUTCOME of an epoch judges the root's measure (R231): it is neither FAILED nor NONE, and the OUTCOME before changed
nothing. -/
def Session.judges (x : Session) (code : Nat) : Bool := decide (code ≠ 3) && decide (code ≠ 0) && !x.wvLock

/-- A session after an advice. -/
def Session.withAdvice (x : Session) (e : Epoch) (code : Nat) (a : Advice) : Session :=
  { x with
    wvRung := a.rung, wvRun := a.run, wvLock := decide (a.code ≠ 0)
    wvFrom := if a.code ≠ 0 then e.num + 2 else x.wvFrom
    wvMeas := x.wvMeas.map fun m => { m with judged := m.judged || (x.judges code && decide (m.epoch ≤ e.num)) } }

/-- The child codes that an epoch's record shows (R233): the smallest usable ones as its OUTCOME leaves. -/
def noteKids (s : State) (sid par : Nat) : State :=
  let x := getSes s sid
  let e := x.ep par
  let k := x.childCodes e
  onWvEp s sid e.num fun v => { v with kids := some (minCode (k.map (·.1)), minCode (k.map (·.2))) }

/-- A member below the root follows the format that an OUTCOME names (R181, R231): its rung, and the first epoch sent in its format. -/
def followAdvice (s : State) (sid par fmt : Nat) : State :=
  let x := getSes s sid
  if !x.audited || x.isRelay then s
  else
    match rungOf (x.prof s 0) (x.prof s 1) fmt with
    | none => s
    | some r => if r = x.wvRung then s else onSes s sid fun y => { y with wvRung := r, wvFrom := (y.ep par).num + 2 }

/-- The root forms the advice of an epoch's OUTCOME (R231): the state after it, the advice, and the format the OUTCOME names.
A session that is not audited holds at its start format. -/
def formAdvice (s : State) (sid par code : Nat) : State × Nat × Nat :=
  let x := getSes s sid
  let e := x.ep par
  if !x.audited then (s, 0, x.startFmt)
  else
    let a := x.advise s e code
    let s1 := putSes s sid (x.withAdvice e code a)
    (onWvEp s1 sid e.num fun v => { v with run := a.run, breach := a.breach }, a.code, rungFmt (x.prof s 1) a.rung)

end Sys2Proof.Machine
end

