-- ==== Sys2Proof/Machine/SessionOps.lean ====
section
/-! DEFINITION. What the session engine does of its own accord (chapters 7 to 9): sending, granting credits, settling parts and
epochs, fixing and forwarding the outcome, failing an epoch, opening one, arming, and the faults of a tile's program as the
engine answers them. -/

namespace Sys2Proof.Machine

/-! ### Message types and reasons -/

def msgArmReq : Nat := 1
def msgArm : Nat := 2
def msgArmAck : Nat := 3
def msgCommit : Nat := 4
def msgDisarm : Nat := 5
def msgGrant : Nat := 6
def msgNack : Nat := 7
def msgDone : Nat := 8
def msgOutcome : Nat := 9

/-- Reason codes of R192. -/
def rsnMissing : Nat := 1
def rsnWaitExpired : Nat := 2
def rsnUncommitted : Nat := 3
def rsnTileFault : Nat := 4
def rsnTimeLost : Nat := 5
def rsnSplit : Nat := 6
def rsnParentLost : Nat := 7
def rsnContribUe : Nat := 8
def rsnProgram : Nat := 9
def rsnCalmAbandoned : Nat := 10

/-! ### Sending -/

/-- The PFA at the far end of an edge, a contributor's from a table bank. -/
def Session.pfaOf (x : Session) (b : Nat) : Edge → Nat
  | .contrib c => match (x.bank b)[c]? with
    | some ct => ct.pfa
    | none => 0
  | .parent => x.parentPfa
  | .relay => x.relayPfa

/-- The CIDX that names an edge (R153). -/
def Session.cidxOf (x : Session) : Edge → Nat
  | .contrib c => c
  | .parent => x.parentCidx
  | .relay => x.relayCidx

/-- The session ID at the far end of an edge (R147, R160). DESIGN CHOICE (log 142): 0 at a contributor that is not a Farhel block. -/
def Session.sidAt (x : Session) (b : Nat) : Edge → Nat
  | .contrib c => match (x.bank b)[c]? with
    | some ct => if ct.isFarhel then ct.peerSid else 0
    | none => 0
  | .parent => x.parentSid
  | .relay => x.relaySid

/-- An edge leads toward a child: to a contributor, and from the root to the top relay of the commit tree (R151, R160). -/
def Session.toChild (x : Session) : Edge → Bool
  | .contrib _ => true
  | .parent => false
  | .relay => x.isRoot

/-- What names the key of an edge (R330): the peer, PID and GENERATION, the session IDs of the parent end and of the child end, and the
CIDX. -/
def edgeKey (s : State) (x : Session) (sid b : Nat) (edge : Edge) : List Nat :=
  let far := x.sidAt b edge
  let down := x.toChild edge
  [x.pfaOf b edge, x.pid, (getPart s x.pid).gen, if down then sid else far, if down then far else sid, x.cidxOf edge]

/-- A cell goes to its egress port (R259), or waits for a port. -/
def sendCell (s : State) (sid : Nat) (c : Cell) : State :=
  let x := getSes s sid
  match choosePort s (x.lastPort.find (edgeCode c.edge)) (if x.localPorts then some x.home else none) c.pfa with
  | some p => queueCell s p (sesSrc x) c
  | none => { s with stranded := s.stranded ++ [c] }

/-- The next SEQ on an edge in an epoch (R162). -/
def Session.seqOf (x : Session) (edge : Edge) (epoch : Nat) : Nat :=
  match x.outSeq.find? fun q => decide (q.1 = edgeCode edge) && decide (q.2.1 = epoch) with
  | some q => q.2.2
  | none => 0

/-- A SEQ has been used. -/
def Session.usedSeq (x : Session) (edge : Edge) (epoch : Nat) : Session :=
  let n := x.seqOf edge epoch + 1
  { x with outSeq := (edgeCode edge, epoch, n) ::
      x.outSeq.filter fun q => !(decide (q.1 = edgeCode edge) && decide (q.2.1 = epoch)) }

/-- What a control message says (R160, R161). -/
structure Msg where
  msg : Nat
  ft : Nat
  arg : Nat
  ranges : List RankRange
  more : Bool
  credits : List Credit
deriving DecidableEq, Repr

/-- A message without a body. -/
def Msg.plain (msg ft arg : Nat) : Msg := ⟨msg, ft, arg, [], false, []⟩

/-- The CTRL cell of a message. Its SEQ stands in `seg`. -/
def ctrlCell (s : State) (x : Session) (sid b epoch : Nat) (edge : Edge) (m : Msg) (seq : Nat) : Cell :=
  { kind := 3, cls := 0, pid := x.pid, sid := sid, edge := edge, dst := x.sidAt b edge, toChild := x.toChild edge,
    key := edgeKey s x sid b edge, pfa := x.pfaOf b edge, epoch := epoch,
    cidx := x.cidxOf edge, part := 0, seg := seq, fmt := 0, msg := m.msg, ft := m.ft, arg := m.arg, ranges := m.ranges,
    more := m.more, credits := m.credits, handle := 0, payload := [], lst := lstOf (sesNow s x), queued := sesNow s x,
    heads := true, grant := 0, tile := none }

/-- Send a control message on an edge with the next SEQ (R162: none above 4,095), and again 4,000 ns later where R193 says so. -/
def sendCtrl (s : State) (sid b epoch : Nat) (edge : Edge) (m : Msg) (twice : Bool) : State :=
  let x := getSes s sid
  let seq := x.seqOf edge epoch
  if 4095 < seq then s
  else
    let c := ctrlCell s x sid b epoch edge m seq
    let s1 := sendCell (putSes s sid (x.usedSeq edge epoch)) sid c
    if twice then { s1 with copies := s1.copies ++ [(sesNow s x + 4000, c)] } else s1

/-- Send a message to several contributors. -/
def sendAll (s : State) (sid b epoch : Nat) (dests : List Nat) (m : Msg) (twice : Bool) : State :=
  dests.foldl (fun u c => sendCtrl u sid b epoch (.contrib c) m twice) s

/-- Cut a list into pieces of 27. -/
def chunks27 : Nat → List RankRange → List (List RankRange)
  | 0, l => [l]
  | n + 1, l => if l.length ≤ 27 then [l] else l.take 27 :: chunks27 n (l.drop 27)

/-- The messages that carry a list of ranges (R190): all but the last have MORE set. -/
def pagesOf (m : Msg) (l : List RankRange) : List Msg :=
  let ps := chunks27 l.length l
  (indexed 0 ps).map fun p => { m with ranges := p.2, more := decide (p.1 + 1 < ps.length) }

/-- Send a message with its ranges. -/
def sendRanged (s : State) (sid b epoch : Nat) (edge : Edge) (m : Msg) (l : List RankRange) (twice : Bool) : State :=
  (pagesOf m l).foldl (fun u p => sendCtrl u sid b epoch edge p twice) s

/-! ### Rank excluded: DONE (R161, R189, R192, R230) -/

/-- DONE's status and reason: 0 OK, 1 EXCLUDED, 2 FAILED, 3 UNCOMMITTED. -/
def Session.doneStatus (x : Session) (e : Epoch) : Nat × Nat :=
  if e.st = .uncommitted then (3, rsnUncommitted)
  else match e.failed with
    | some r => (2, r)
    | none => if x.exRanges e = [] then (0, 0) else (1, rsnMissing)

/-- DONE's ARG with the measures of R230. -/
def Session.doneArg (x : Session) (e : Epoch) : Nat :=
  let st := x.doneStatus e
  let w := x.lagOf e.num
  st.1 + 2 ^ 8 * st.2 + 2 ^ 16 * w.1 + 2 ^ 32 * w.2.1 + 2 ^ 48 * w.2.2

/-- Send DONE to the parent, with the FT of settling (R161); the first one starts the timers of R193. -/
def sendDone (s : State) (sid par : Nat) (repeats : Bool) : State :=
  let x := getSes s sid
  let e := x.ep par
  let s1 := sendRanged s sid e.bank e.num .parent (.plain msgDone e.settledAt (x.doneArg e)) (x.exRanges e) true
  onEp s1 sid par fun e =>
    if e.sent then { e with doneCount := e.doneCount + b2n repeats }
    else { e with sent := true, doneAt := sesNow s x, doneCount := 1 }

/-! ### Markers (R109, R203) -/

/-- A close marker of a part of an epoch, with the ranks of R204 where it carries the outcome. -/
def Session.marker (x : Session) (par : Nat) (e : Epoch) (outcome : Bool) : QEntry :=
  let ranks := x.ranks e
  let ex := rangesCount (x.exRanges e)
  if outcome then
    let c := match e.dec with | some d => d.code | none => 0
    ⟨true, decide (c = 3) || decide (c = 0), decide (c = 2), false, par, 0, 0, true, ranks, ex⟩
  else ⟨true, e.failed.isSome, decide (x.exRanges e ≠ []), false, par, 0, 0, false, ranks, ex⟩

/-- Push a marker onto the binding of a part, where the part's start has not been held (R438). -/
def pushMarker (s : State) (sid p : Nat) (q : QEntry) : State :=
  let x := getSes s sid
  match x.tileOf s p with
  | some t => if (((getTile s t).bind x.bindIndex).ep q.parity).live then pushEntry s t x.bindIndex q else s
  | none => s

/-- The older epoch of the session, live and opened, still has a marker to push for the part (R109: close markers in epoch
order). -/
def Session.olderHolds (x : Session) (par p : Nat) : Bool :=
  let o := x.ep (1 - par)
  o.live && o.opened && decide (o.num < (x.ep par).num) &&
    !(if x.isRoot then o.outParts.contains p else o.settledParts.contains p)

/-- Push what is due of a part's markers: the settle marker of a member that is not the root, and the outcome marker. As a part
settles, its groups' accumulator states go to Weathervane (R224). -/
def flushPart (s : State) (sid par p : Nat) : State :=
  let x := getSes s sid
  let e := x.ep par
  let due := e.opened && e.live && !e.settledParts.contains p && (decide (e.st ≠ .opened) || x.partAccounted e p) &&
    (x.isRoot || !x.olderHolds par p)
  let s1 := if due then
      let s0 := match x.tileOf s p with
        | some t => sendStates s t x.bindIndex sid par e.num p
        | none => s
      let s' := if x.isRoot then s0 else pushMarker s0 sid p (x.marker par e false)
      onEp s' sid par fun e => { e with settledParts := p :: e.settledParts }
    else s
  let y := getSes s1 sid
  let f := y.ep par
  if f.opened && f.live && f.dec.isSome && f.settledParts.contains p && !f.outParts.contains p && !y.olderHolds par p then
    onEp (pushMarker s1 sid p (y.marker par f true)) sid par fun e => { e with outParts := p :: e.outParts }
  else s1

/-- Push what is due of every part. -/
def flushMarkers (s : State) (sid par : Nat) : State :=
  (getSes s sid).partList.foldl (fun u p => flushPart u sid par p) s

/-! ### Cells that wait for credits (R206) -/

/-- The credit that a cell may be sent by. -/
def Session.creditFor (x : Session) (edge : Edge) (epoch p seg : Nat) : Option SendCredit :=
  x.sendCredits.find? fun c => decide (c.edge = edge) && decide (c.epoch = epoch) && decide (c.part = p) && decide (c.seg = seg)

/-- The DATA or RESULT cell of a segment. -/
def dataCell (s : State) (x : Session) (sid b : Nat) (edge : Edge) (o : OutSeg) (c : SendCredit) : Cell :=
  { kind := if o.down then 2 else 1, cls := if o.down then 2 else 1, pid := x.pid, sid := sid, edge := edge,
    dst := x.sidAt b edge, toChild := o.down, key := edgeKey s x sid b edge,
    pfa := x.pfaOf b edge, epoch := o.epoch, cidx := x.cidxOf edge, part := o.part, seg := o.seg,
    fmt := if o.down then x.resultFmt else x.upFmt, msg := 0, ft := 0, arg := 0, ranges := [], more := false, credits := [],
    handle := c.handle, payload := o.payload, lst := o.lst, queued := sesNow s x, heads := false,
    grant := c.grant, tile := some o.tile }

/-- The edge of a destination. -/
def destEdge (o : OutSeg) (d : Nat) : Edge := if o.down then .contrib d else .parent

/-- The bank of an epoch of a session: of the live parity that has the number. -/
def Session.bankOfEpoch (x : Session) (n : Nat) : Nat := (x.ep (n % 2)).bank

/-- A destination takes no RESULT: it is excluded, or FAILED (R189, R206). -/
def Session.destGone (x : Session) (o : OutSeg) (d : Nat) : Bool :=
  o.down && ((x.ep (o.epoch % 2)).excluded.contains d || decide ((x.ctst d).1 = .failed))

/-- One copy of a segment goes if its credit is there: the state, and whether the destination is served. -/
def sendCopy (s : State) (sid : Nat) (o : OutSeg) (d : Nat) : State × Bool :=
  let x := getSes s sid
  if x.destGone o d then (s, true)
  else
    let edge := destEdge o d
    match x.creditFor edge o.epoch o.part o.seg with
    | none => (s, false)
    | some c =>
      let cell := dataCell s x sid (x.bankOfEpoch o.epoch) edge o c
      let y := { x with sendCredits := x.sendCredits.filter fun k => decide (k ≠ c) }
      let s1 := sendCell (putSes s sid y) sid cell
      if o.down then (s1, true)
      else (onEp s1 sid (o.epoch % 2) fun e => { e with kept := e.kept ++ [⟨o.part, o.seg, c.handle, c.grant, o.payload, o.tile, o.lst, false⟩] }, true)

/-- Serve the destinations of one segment. -/
def sendSeg (s : State) (sid : Nat) (o : OutSeg) : State × OutSeg :=
  if o.held then (s, o)
  else
    let r := o.dests.foldl (fun (u : State × List Nat) d =>
      let q := sendCopy u.1 sid o d
      (q.1, if q.2 then u.2 else u.2 ++ [d])) (s, [])
    (if r.2 = [] ∧ o.down = true then
      onEp r.1 sid (o.epoch % 2) fun e => { e with downSent := segKey o.part o.seg :: e.downSent } else r.1,
     { o with dests := r.2 })

/-- Send what credits allow of a session's waiting segments. -/
def pump (s : State) (sid : Nat) : State :=
  let r := (getSes s sid).outSegs.foldl (fun (u : State × List OutSeg) o =>
    let q := sendSeg u.1 sid o
    (q.1, if q.2.dests = [] then u.2 else u.2 ++ [q.2])) (s, [])
  onSes r.1 sid fun x => { x with outSegs := r.2 }

/-! ### Credits (R163, R164, R166) -/

/-- Credits outstanding to a contributor, of both epochs. -/
def Session.outstandingTo (x : Session) (c : Nat) : Nat :=
  let n (e : Epoch) := (e.fates.cells.filter fun f => decide (f.2 = fateCredited) && decide (f.1 / (1024 * 4096) = c)).length
  n x.eps.a + n x.eps.b

/-- The lowest segment of a part that a contributor owes and holds no credit for. -/
def Session.uncredited (x : Session) (e : Epoch) (c : Nat) (ct : Contrib) (p : Nat) : Option Nat :=
  (x.owedSegs e.fmt ct p).find? fun seg => decide (e.fate c p seg = 0)

/-- A meter holds back the GRANTs of a partition on an edge (R275). -/
def grantRefused (s : State) (x : Session) (edge : Edge) : Bool :=
  match x.lastPort.find (edgeCode edge) with
  | some p => meterRed s p x.pid
  | none => false

/-- A contributor may take one more credit for a part (R164, R187, R275). -/
def mayCredit (s : State) (x : Session) (e : Epoch) (p : Nat) (c : Nat × Contrib) : Bool :=
  !e.fromStart.contains c.1 && !e.excluded.contains c.1 && decide ((x.ctst c.1).1 ≠ .failed) &&
    (x.uncredited e c.1 c.2 p).isSome && decide (x.outstandingTo c.1 < x.windowOf c.2) &&
    !grantRefused s x (.contrib c.1)

/-- The contributors of a bank from an index on, wrapping. -/
def fromTurn (l : List (Nat × Contrib)) (k : Nat) : List (Nat × Contrib) :=
  l.filter (fun c => decide (k ≤ c.1)) ++ l.filter fun c => decide (c.1 < k)

/-- A tile may be given a credit: its page is ON and its program has not faulted (R90, R120). -/
def tileTakes (s : State) (t : Nat) : Bool :=
  pageIsOn s .tile t && decide ((getTile s t).prog ≠ .faulted)

/-- The lowest FREE slot of a tile. -/
def freeRx (s : State) (t : Nat) : Option Nat :=
  (List.range 64).find? fun i => decide (((getTile s t).slot i).st = .free)

/-- A GRANT leaves. -/
def sendGrant (s : State) (sid b epoch : Nat) (edge : Edge) (l : List Credit) : State :=
  sendCtrl s sid b epoch edge ⟨msgGrant, 0, l.length, [], false, l⟩ false

/-- The batch of an edge and an epoch (R164). -/
def Session.batchOf (x : Session) (edge : Edge) (epoch : Nat) : Option (Edge × Nat × List Credit × Nat) :=
  x.batches.find? fun b => decide (b.1 = edge) && decide (b.2.1 = epoch)

/-- Take a batch away. -/
def Session.dropBatch (x : Session) (edge : Edge) (epoch : Nat) : Session :=
  { x with batches := x.batches.filter fun b => !(decide (b.1 = edge) && decide (b.2.1 = epoch)) }

/-- A credit joins the batch of its edge; the 28th sends it, unless a meter holds the edge's GRANTs back (R275). -/
def batchCredit (s : State) (sid b epoch : Nat) (edge : Edge) (c : Credit) : State :=
  let x := getSes s sid
  let old := match x.batchOf edge epoch with
    | some q => (q.2.2.1, q.2.2.2)
    | none => ([], s.cyc)
  let l := old.1 ++ [c]
  let y := x.dropBatch edge epoch
  if 28 ≤ l.length ∧ grantRefused s x edge = false then
    let s1 := sendGrant (putSes s sid y) sid b epoch edge (l.take 28)
    if l.length = 28 then s1 else onSes s1 sid fun z => { z with batches := z.batches ++ [(edge, epoch, l.drop 28, s.cyc)] }
  else
    putSes s sid { y with batches := y.batches ++ [(edge, epoch, l, old.2)] }

/-- Reserve a slot of a tile for a credit (R80, R165): the identity before becomes P. -/
def reserveSlot (s : State) (t i kind sid par epoch c p seg : Nat) : State :=
  onTile s t fun x =>
    let o := x.slot i
    x.setSlot i { RxSlot.unused with
      st := .reserved, kind := kind, sid := sid, parity := par, epoch := epoch, cidx := c, part := p, seg := seg,
      issued := ftNs s (getSes s sid).home
      nackAt := o.nackAt
      prior := if o.kind = 0 then o.prior else some (o.kind, o.sid, o.epoch, o.cidx, o.part, o.seg) }

/-- The handle of a slot (R163): the logical tile and the slot. -/
def handleOf (lt i : Nat) : Nat := lt % 1024 * 64 + i % 64

/-- Count an issued credit (R166, R180, R393). -/
def countIssued (s : State) (sid par kind : Nat) : State :=
  let x := getSes s sid
  let s1 := putSes s sid { x.setEp par { x.ep par with issued := (x.ep par).issued + 1 } with issued := x.issued + 1 }
  countBlk s1 x.home 0x08 [kind - 1] x.page (some x.pid) 1

/-- Issue a DATA credit to a contributor. -/
def creditData (s : State) (sid par p t i : Nat) (c : Nat × Contrib) (seg : Nat) : State :=
  let x := getSes s sid
  let e := x.ep par
  let s1 := reserveSlot s t i 1 sid par e.num c.1 p seg
  let s2 := countIssued (onEp s1 sid par fun e => { e.setFate c.1 p seg fateCredited with turn := e.turn.put 0 p (c.1 + 1) }) sid par 1
  batchCredit s2 sid e.bank e.num (.contrib c.1) ⟨p, seg, handleOf (x.tileBase + p) i⟩

/-- Issue a RESULT credit to the parent. -/
def creditResult (s : State) (sid par p t i seg : Nat) : State :=
  let x := getSes s sid
  let e := x.ep par
  let s1 := reserveSlot s t i 2 sid par e.num x.parentCidx p seg
  let s2 := countIssued (onEp s1 sid par fun e => { e with resultsIn := segKey p seg :: e.resultsIn }) sid par 2
  batchCredit s2 sid e.bank e.num .parent ⟨p, seg, handleOf (x.tileBase + p) i⟩

/-- RESULT credits outstanding at the parent. -/
def resultsOut (s : State) (sid : Nat) : Nat :=
  ((s.tiles.cells.map fun c =>
    (c.2.slots.cells.filter fun k => decide (k.2.st = .reserved) && decide (k.2.kind = 2) && decide (k.2.sid = sid)).length)).foldl
    (· + ·) 0

/-- The next RESULT segment of a part to be credited: once the epoch has settled without failing, at a member below the root. -/
def nextResult (s : State) (sid : Nat) (x : Session) (e : Epoch) (p : Nat) : Option Nat :=
  if !x.isRoot && (decide (e.st = .settled) || decide (e.st = .waitOutcome)) && e.opened && e.failed.isNone && x.downHere e.bank p &&
      decide (resultsOut s sid < x.creditWindow) && !grantRefused s x .parent then
    (List.range (x.segsOf x.resultFmt p)).find? fun seg => !e.resultsIn.contains (segKey p seg)
  else none

/-- One more credit for a part of an epoch, if one can be issued. -/
def creditOne (s : State) (sid par p : Nat) : Option State :=
  let x := getSes s sid
  let e := x.ep par
  match x.tileOf s p with
  | none => none
  | some t =>
    if !tileTakes s t || !e.started.contains p || decide (x.st = .frozen) then none
    else
      match freeRx s t with
      | none => none
      | some i =>
        if e.st = .opened ∧ e.stopCredit = false then
          match (fromTurn (x.enabled e.bank) (e.turn.get 0 p)).find? (mayCredit s x e p) with
          | some c => (x.uncredited e c.1 c.2 p).map fun seg => creditData s sid par p t i c seg
          | none => none
        else (nextResult s sid x e p).map fun seg => creditResult s sid par p t i seg

/-- Issue credits for a part while there are slots (at most the tile's 64). -/
def creditPart : Nat → State → Nat → Nat → Nat → State
  | 0, s, _, _, _ => s
  | n + 1, s, sid, par, p =>
    match creditOne s sid par p with
    | some u => creditPart n u sid par p
    | none => s

/-- Issue every credit that R164 allows a session. -/
def grantAll (s : State) (sid par : Nat) : State :=
  (getSes s sid).partList.foldl (fun u p => creditPart 64 u sid par p) s

/-! ### Settling, the outcome, failing (R171, R173, R175, R187, R192) -/

/-- Cancel the EPOCH_START of an epoch. -/
def cancelStart (s : State) (sid par : Nat) : State :=
  let x := getSes s sid
  match (x.ep par).entry with
  | some i =>
    let e := getEntry s x.home i
    let s1 := if e.st = .armed ∨ e.st = .held then putEntry s x.home i { e with st := .cancelled, due := none } else s
    onEp s1 sid par fun e => { e with entry := none }
  | none => s

/-- Count a decided epoch (R393) and emit its SESSION event (R369). -/
def decided (s : State) (sid par : Nat) (d : Decision) : State :=
  let x := getSes s sid
  let e := x.ep par
  let s1 := countBlk s x.home 0x09 (if d.code = 0 then [0] else [0, d.code]) x.page (some x.pid) 1
  tenantEvent s1 (sesUnit x) x.pid 3 d.code (pageNo .ses x.page) (sid + 2 ^ 12 * d.reason + 2 ^ 32 * e.num)

/-- What an outcome makes of the cells that wait to be sent: RESULT cells held at the root go, or are discarded where the epoch fails
(R206), and the credits that the parent granted are void, with the DATA cells that waited for them (R166). -/
def releaseHeld (s : State) (sid n : Nat) (fail : Bool) : State :=
  onSes s sid fun x => { x with
    sendCredits := x.sendCredits.filter fun c => !(decide (c.edge = .parent) && decide (c.epoch = n))
    outSegs := (x.outSegs.filter fun o => !(decide (o.epoch = n) && (fail || !o.down))).map fun o =>
      if o.epoch = n then { o with held := false } else o }

/-- Contributions in hand of an epoch that fails (R181). -/
def Epoch.discardAll (e : Epoch) : Epoch :=
  { e with fates := e.fates.mapVals fun _ f =>
      if f = fateReduced ∨ f = fateAccepted ∨ f = fateFilled then fateDiscFailed else f }

/-- An outcome takes effect at this block (R173, R181, R203, R225). -/
def takeOutcome (s : State) (sid par : Nat) (d : Decision) : State :=
  let bad := decide (d.code = 3) || decide (d.code = 0)
  let s1 := onEp s sid par fun e => { (if d.code = 3 then e.discardAll else e) with
    dec := some d, st := .closing, stopCredit := true, since := sesNow s (getSes s sid) }
  let s2 := if bad then voidEpoch s1 sid ((getSes s1 sid).ep par).num else s1
  decided (releaseHeld s2 sid ((getSes s2 sid).ep par).num bad) sid par d

/-- The root fixes the outcome as it settles (R175, R192). -/
def fixOutcome (s : State) (sid par : Nat) : State :=
  let x := getSes s sid
  let e := x.ep par
  let l := x.exRanges e
  let d : Decision :=
    match e.failed with
    | some r => ⟨3, sesNow s x, r, 0, 0, l⟩
    | none => if l = [] then ⟨1, sesNow s x, 0, 0, 0, []⟩ else ⟨2, sesNow s x, rsnMissing, 0, 0, l⟩
  takeOutcome s sid par d

/-- A contributor whose cells all arrived is ACTIVE again (R177). -/
def praise (s : State) (sid par : Nat) : State :=
  let x := getSes s sid
  let e := x.ep par
  putSes s sid ((x.enabled e.bank).foldl (fun y c =>
    if (y.ctst c.1).1 = .suspect ∧ x.stillOwes e c.1 c.2 = false ∧ e.missing.contains c.1 = false ∧
        e.fromStart.contains c.1 = false
    then y.setCt c.1 .active 0 else y) x)

/-- An epoch is SETTLED (R173): the root fixes the outcome, another member sends DONE. -/
def settleEpoch (s : State) (sid par : Nat) : State :=
  let x := getSes s sid
  let s1 := praise (onEp s sid par fun e => { e with
    st := .settled, stopCredit := true, since := sesNow s x, settledAt := sesNow s x }) sid par
  if x.isRoot then fixOutcome s1 sid par else sendDone s1 sid par false

/-- Every part of an OPEN epoch is accounted for. -/
def allAccounted (x : Session) (e : Epoch) : Bool := x.partList.all (x.partAccounted e)

/-- Settle an OPEN epoch if it can settle. -/
def trySettle (s : State) (sid par : Nat) : State :=
  let x := getSes s sid
  let e := x.ep par
  if e.st = .opened ∧ allAccounted x e = true then settleEpoch s sid par else s

/-- The root fails an epoch whose outcome it has fixed and not sent (R186): what it has fixed changes to FAILED, held RESULT cells are
discarded, and every part gets a marker of the new outcome. DESIGN CHOICE (log 144): the epoch is counted once, as first fixed. -/
def failFixed (s : State) (sid par reason : Nat) : State :=
  let x := getSes s sid
  let e := x.ep par
  let bad := match e.dec with | some d => decide (d.code = 3) | none => false
  if x.isRoot && !e.outcomeSent && !bad then
    let now := sesNow s x
    let s1 := onEp s sid par fun e => { e.discardAll with
      failed := some reason, dec := some ⟨3, now, reason, 0, 0, x.exRanges e⟩, outParts := [], settledAt := now }
    raiseK (voidEpoch (releaseHeld s1 sid e.num true) sid e.num) .ses x.page 19
  else s

/-- An epoch settles FAILED with a reason (R187, R192): the earliest reason stands. An epoch that is UNCOMMITTED, or whose outcome
this block has received or sent, is not changed; one that has sent its DONE sends another. -/
def failEpoch (s : State) (sid par reason : Nat) : State :=
  let x := getSes s sid
  let e := x.ep par
  match e.st with
  | .idle => s
  | .uncommitted => s
  | .closing => failFixed s sid par reason
  | .settled | .waitOutcome =>
    if e.failed.isSome then s
    else
      let s1 := onEp s sid par fun e => { e.discardAll with
        failed := some reason, st := .waitOutcome, since := sesNow s x, settledAt := sesNow s x }
      let s2 := raiseK (voidEpoch s1 sid e.num) .ses x.page 19
      sendDone s2 sid par false
  | .armed | .committed | .opened =>
    let s1 := onEp (cancelStart s sid par) sid par fun e =>
      { e.discardAll with
        failed := some (e.failed.getD reason), st := .settled, stopCredit := true, since := sesNow s x, settledAt := sesNow s x }
    let s2 := raiseK (voidEpoch s1 sid e.num) .ses x.page 19
    if x.isRoot then fixOutcome s2 sid par
    else onEp (sendDone s2 sid par false) sid par fun e => { e with st := .waitOutcome, since := sesNow s x }

/-- An epoch becomes UNCOMMITTED (R171, R195): its start is cancelled and DONE UNCOMMITTED goes to the parent. A root in this
state fixes FAILED for every member. -/
def uncommit (s : State) (sid par : Nat) : State :=
  let x := getSes s sid
  let s1 := onEp (cancelStart s sid par) sid par fun e => { e with
    st := .uncommitted, since := sesNow s x, settledAt := sesNow s x }
  let s2 := raiseK (satReg s1 .ses x.page 0x07C 1) .ses x.page 18
  if x.isRoot then
    fixOutcome (raiseK (onEp s2 sid par fun e => { e with failed := some (e.failed.getD rsnUncommitted) }) .ses x.page 19) sid par
  else sendDone s2 sid par false

/-- Every segment this block owes its parent has been sent (R173, R199). -/
def Session.partialSent (x : Session) (e : Epoch) : Bool :=
  (List.range x.parts).all fun p =>
    (List.range (x.segsOf x.upFmt p)).all fun seg =>
      !x.upOwes e.bank p seg || e.kept.any fun k => decide (k.part = p) && decide (k.seg = seg)

/-- A run cell of an epoch of a session waits for egress. -/
def cellWaits (s : State) (sid n : Nat) (kind : Nat) : Bool :=
  anyCell s fun c => decide (c.sid = sid) && decide (c.epoch = n) && decide (c.kind = kind) &&
    (decide (kind ≠ 3) || decide (c.msg = msgOutcome))

/-- Every RESULT that the operation's shape sends down has gone (R199). -/
def Session.downDone (x : Session) (e : Epoch) : Bool :=
  x.downFixed && (List.range x.parts).all fun p =>
    !((x.enabled e.bank).any fun c => x.downTo c.2 p) ||
      (List.range (x.segsOf x.resultFmt p)).all fun seg => e.downSent.contains (segKey p seg)

/-- Every RESULT cell of a closing epoch has been sent (R173): none waits, and none is still to come from a tile. -/
def resultsDone (s : State) (sid par : Nat) : Bool :=
  let x := getSes s sid
  let e := x.ep par
  match e.dec with
  | none => false
  | some d =>
    decide (d.code = 3) || decide (d.code = 0) ||
      (!(x.outSegs.any fun o => decide (o.epoch = e.num) && o.down) && !cellWaits s sid e.num 2 &&
        (tilesReported s x par || x.downDone e))

/-- The contributors an OUTCOME goes to. -/
def Session.outcomeTo (x : Session) (e : Epoch) : List Nat :=
  ((x.enabled e.bank).filter fun c => !e.fromStart.contains c.1).map (·.1)

/-- OUTCOME's ARG (R161). -/
def Decision.arg (d : Decision) : Nat := d.code + 2 ^ 8 * d.reason + 2 ^ 16 * d.fmt + 2 ^ 20 * d.advice

/-- Send an OUTCOME to one contributor. -/
def sendOutcome (s : State) (sid b n c : Nat) (d : Decision) (twice : Bool) : State :=
  sendRanged s sid b n (.contrib c) (.plain msgOutcome d.ft d.arg) d.ranges twice

/-- Send or forward the OUTCOME of a closing epoch once its RESULT cells have gone (R173, R175). The root forms the advice it
carries (R231); another member follows it. Outcome NONE is not forwarded (R193). -/
def tryOutcome (s : State) (sid par : Nat) : State :=
  let x := getSes s sid
  let e := x.ep par
  match e.dec with
  | none => s
  | some d =>
    if e.st = .closing ∧ e.outcomeSent = false ∧ resultsDone s sid par = true then
      if d.code = 0 then onEp s sid par fun e => { e with outcomeSent := true }
      else
        let s0 := noteKids s sid par
        let f := if x.isRoot then formAdvice s0 sid par d.code else (followAdvice s0 sid par d.fmt, d.advice, d.fmt)
        let d' := { d with advice := f.2.1, fmt := f.2.2 }
        let s1 := onSes f.1 sid fun y =>
          { y.setEp par { y.ep par with dec := some d', outcomeSent := true } with advised := (e.num, d'.fmt) :: y.advised }
        (x.outcomeTo e).foldl (fun u c => sendOutcome u sid e.bank e.num c d' true) s1
    else s

/-- A settled member has sent its partial and its DONE (R173). -/
def advance (s : State) (sid par : Nat) : State :=
  let x := getSes s sid
  let e := x.ep par
  let s1 := if e.st = .settled ∧ x.isRoot = false ∧ x.partialSent e = true then
      onEp s sid par fun e => { e with st := .waitOutcome, since := sesNow s x }
    else s
  tryOutcome s1 sid par

/-- What the session engine does for one parity after something has happened. -/
def reactEp (s : State) (sid par : Nat) : State :=
  let s1 := flushMarkers (trySettle s sid par) sid par
  advance (grantAll (pump s1 sid) sid par) sid par

/-- What the session engine does after something has happened in a session: it settles what is accounted for, pushes markers,
sends cells that have credits, and issues credits, the older epoch first. During a Calm of the half it does none of this
(R413). -/
def react (s : State) (sid : Nat) : State :=
  let x := getSes s sid
  if calmOn s x.home ∨ x.st = .empty ∨ x.isRelay = true then s
  else
    let first := if x.eps.b.live && (!x.eps.a.live || decide (x.eps.b.num < x.eps.a.num)) then 1 else 0
    reactEp (reactEp s sid first) sid (1 - first)

/-! ### A tile's program faults, or its page stops (R90, R120) -/

/-- Free the FILLED slots of a binding: their cells take a fate. DESIGN CHOICE (log 140): their queue entries and ARRIVE increments go
with them. -/
def freeFilledAs (s : State) (t b fate : Nat) : State :=
  let x := getTile s t
  let v := x.bind b
  let hit (r : RxSlot) : Bool := decide (r.st = .filled) && decide (r.sid = v.sid) && !r.flight
  let gone := x.slots.cells.filter fun c => hit c.2
  let s1 := gone.foldl (fun u c =>
    if c.2.kind = 1 then onEp u c.2.sid c.2.parity fun e =>
      if e.num = c.2.epoch ∧ e.live = true then e.setFate c.2.cidx c.2.part c.2.seg fate else e
    else u) s
  let keep := v.queue.filter fun q => q.mark || q.retired || !(gone.any fun c => decide (c.1 = q.slot))
  onTile s1 t fun y =>
    let z := { y with
      slots := y.slots.mapVals fun _ r => if hit r then { r with st := .free, payload := [] } else r
      sems := y.sems.put 0 v.semArrive (y.sem v.semArrive - (v.queue.length - keep.length)) }
    z.setBind b { v with queue := keep }

/-- Free the FILLED slots of a binding: their cells are discarded with reason TILE_FAULT (R120). -/
def freeFilled (s : State) (t b : Nat) : State := freeFilledAs s t b fateDiscTile

/-- The live parities of a binding that the tile has not reported. -/
def Binding.owedPars (v : Binding) : List Nat :=
  if !v.valid then [] else (if v.eps.a.owed then [0] else []) ++ (if v.eps.b.owed then [1] else [])

/-- The tile cannot finish its epochs (R120): the FILLED slots of its bindings are freed and every live epoch that it has not reported fails with
TILE_FAULT. A page that stops counts as having reported EPFAIL (R90). -/
def failTile (s : State) (t : Nat) (reported : Bool) : State :=
  (List.range 16).foldl (fun u b =>
    let v := (getTile u t).bind b
    let ps := v.owedPars
    if !v.valid then u
    else
      let u1 := freeFilled u t b
      let u2 := if reported then onTile u1 t fun y =>
          let w := y.bind b
          y.setBind b { w with eps := ⟨{ w.eps.a with reported := w.eps.a.reported || w.eps.a.live },
            { w.eps.b with reported := w.eps.b.reported || w.eps.b.live }⟩ }
        else u1
      react (ps.foldl (fun w p => failEpoch w v.sid p rsnTileFault) u2) v.sid) s

/-- The PAGE_ERR bit of a fault reason (R119). -/
def faultBit (code : Nat) : Nat :=
  if code = 2 then 20 else if code = 3 then 21 else if code = 4 then 18 else 16

/-- A program faults (R119, R120): PROG becomes FAULTED, TILE_PROG_FAULT records reason and index, the PAGE_ERR bit is set, and
the engine fails the tile's live epochs. -/
def programFault (s : State) (t code index : Nat) : State :=
  let s1 := onTile s t fun x => { x with prog := .faulted, wait := .none, waitFt := allOnes64 }
  let s2 := setKreg s1 .tile t 0x074 (BitVec.ofNat 32 (code + 2 ^ 16 * (index % 1024)))
  failTile (raiseK s2 .tile t (faultBit code)) t false

/-! ### Missing contributors (R187 to R189) -/

/-- A contributor that takes part misses an epoch: SUSPECT, and FAILED after FAIL_LIMIT in a row (R177, R187). -/
def missOnce (s : State) (sid c : Nat) : State :=
  onSes s sid fun x =>
    let q := x.ctst c
    if q.1 ≠ .active ∧ q.1 ≠ .suspect then x
    else if x.failLimit ≤ q.2 + 1 then x.setCt c .failed (q.2 + 1) else x.setCt c .suspect (q.2 + 1)

/-- Exclude a contributor from an epoch (R189). -/
def excludeOne (s : State) (sid par c : Nat) : State :=
  onEp s sid par fun e => if e.excluded.contains c then e else { e with excluded := e.excluded ++ [c] }

/-- POLICY applies to a contributor that is missing (R187): ABORT_EPOCH fails the epoch, WAIT moves its deadline, EXCLUDE excludes
it. -/
def applyPolicy (s : State) (sid par c : Nat) : State :=
  let x := getSes s sid
  if x.policy = polAbort then failEpoch s sid par rsnMissing
  else if x.policy = polWait then onEp s sid par fun e => { e with waiting := c :: e.waiting }
  else excludeOne s sid par c

/-- A contributor is missing in an OPEN epoch. -/
def goesMissing (s : State) (sid par c : Nat) : State :=
  let s1 := onEp s sid par fun e => { e with missing := c :: e.missing }
  applyPolicy (missOnce s1 sid c) sid par c

/-! ### Arming (R168, R169, R181) -/

/-- The expected format of an epoch (R181). -/
def Session.expectedFmt (x : Session) (n : Nat) : Nat :=
  let l := x.advised.filter fun a => decide (a.1 + 2 ≤ n)
  match l.foldl (fun (m : Option (Nat × Nat)) a =>
      match m with
      | none => some a
      | some b => if b.1 < a.1 then some a else m) none with
  | some a => a.2
  | none => x.startFmt

/-- A free reserved entry of a half's schedule (R64). -/
def freeEntry (s : State) (h : Half) : Option Nat :=
  (List.range 1024).find? fun i =>
    decide (reserveFrom s h ≤ i) &&
      (let st := (getEntry s h i).st
       decide (st ≠ .armed) && decide (st ≠ .held))

/-- Why an ARM for an epoch is refused (R168, R169), for a start that must lie `lead` ns ahead. -/
def armRefusal (s : State) (x : Session) (n ft lead : Nat) : Option Nat :=
  if x.st = .frozen then some 6
  else if x.st ≠ .active ∨ engineOn s x.home = false then some 4
  else if (match x.next with | some k => decide (k ≠ n) | none => false) = true then some 3
  else if (x.ep (n % 2)).live then some 1
  else if (freeEntry s x.home).isNone then some 2
  else if hasTime s x.home = false ∨ ft < sesNow s x + lead then some 5
  else none

/-- SCHED_FULL of the FTU page (R64). -/
def noteRefusal (s : State) (x : Session) (code : Nat) : State :=
  if code = 2 then raiseK s .ftu x.page 25 else s

/-- The contributors an ARM goes to, and those missing from the start (R188). -/
def Session.presentAt (x : Session) : List Nat := ((x.enabled x.newest).filter fun c => !absentAtArm (x.ctst c.1).1).map (·.1)
def Session.absentFrom (x : Session) : List Nat := ((x.enabled x.newest).filter fun c => absentAtArm (x.ctst c.1).1).map (·.1)

/-- Every awaited contributor has answered OK. -/
def Epoch.allAcked (e : Epoch) : Bool := e.awaited.all fun c => e.acked.contains c

/-- ARM_ACK to the parent. -/
def sendAck (s : State) (sid n status : Nat) : State :=
  sendCtrl s sid (getSes s sid).newest n .parent (.plain msgArmAck 0 status) true

/-- A member that is not the root acknowledges once every awaited contributor has (R169). -/
def tryAck (s : State) (sid par : Nat) : State :=
  let x := getSes s sid
  let e := x.ep par
  if x.isRoot = false ∧ e.st = .armed ∧ e.ackSent = false ∧ e.allAcked = true then
    onEp (sendAck s sid e.num 0) sid par fun e => { e with ackSent := true }
  else s

/-- An ARM is accepted (R168, R169, R181, R188): the EPOCH_START is entered, ARM goes to every contributor that is not missing
from the start, and the epoch is ARMED. -/
def acceptArm (s : State) (sid n ft : Nat) : State :=
  let x := getSes s sid
  let par := n % 2
  let i := (freeEntry s x.home).getD 0
  let e : Epoch := { Epoch.fresh with
    st := .armed, num := n, start := ft, fmt := x.expectedFmt n, bank := x.newest, awaited := x.presentAt,
    fromStart := x.absentFrom, entry := some i, rung := x.wvRung }
  let s1 := putEntry s x.home i
    { Entry.empty with st := .armed, ft := ft, action := actEpochStart, pid := x.pid, target := sid, arg := par, due := some ft }
  let s2 := putSes s1 sid { x.setEp par e with epoch := n, next := some (n + 1) }
  tryAck (sendAll s2 sid x.newest n x.presentAt (.plain msgArm ft 0) true) sid par

/-! ### Opening (R110, R188, R205) -/

/-- A part's tile can serve an epoch (R205). -/
def tileServes (s : State) (x : Session) (p : Nat) : Bool :=
  match x.tileOf s p with
  | none => false
  | some t =>
    pageIsOn s .tile t && !(getTile s t).stopped &&
      (let g := (getTile s t).prog
       decide (g = .running) || decide (g = .waitSem) || decide (g = .waitFt))

/-- A swap of a logical tile waits (R438): from its acceptance until it commits or is abandoned. -/
def swapWaits (s : State) (lt : Nat) : Bool :=
  let at_ (o : Option Swap) : Bool := match o with
    | some w => decide (w.lt = lt)
    | none => false
  at_ s.swaps.a || at_ s.swaps.b

/-- A start is held for a swap; the first one starts SPR_WINDOW_NS (R438). -/
def holdStart (s : State) (lt b par : Nat) : State :=
  let mark (o : Option Swap) : Option Swap := o.map fun w =>
    if w.lt = lt ∧ w.heldAt = none then { w with heldAt := some (ftNs s (tileHalf w.old)) } else w
  { s with heldStarts := s.heldStarts ++ [(lt, b, par)], swaps := ⟨mark s.swaps.a, mark s.swaps.b⟩ }

/-- A part's binding joins an epoch: the parity is live, and its accumulators are cleared (R110); or its start is held. -/
def openPart (s : State) (sid par p : Nat) : State :=
  let x := getSes s sid
  let e := x.ep par
  match x.tileOf s p with
  | none => s
  | some t =>
    if swapWaits s (x.tileBase + p) then holdStart s (x.tileBase + p) x.bindIndex par
    else onTile s t fun y =>
      let v := y.bind x.bindIndex
      (y.setBind x.bindIndex (v.setEp par ⟨true, false, e.num, e.start⟩)).clearAcc (v.accOf par) v.accCount

/-- Contributors missing from the start (R188). DEDUCED (log 143): no deadline has passed, so none changes its state (R177, R196). -/
def applyFromStart (s : State) (sid par : Nat) : State :=
  let x := getSes s sid
  let e := x.ep par
  let l := e.fromStart.filter fun c =>
    match (x.bank e.bank)[c]? with
    | some ct => !x.owesNothing e.fmt ct
    | none => false
  let s1 := onEp s sid par fun e => { e with missing := l ++ e.missing }
  if x.policy = polExclude then l.foldl (fun u c => excludeOne u sid par c) s1
  else if l = [] then s1 else failEpoch s1 sid par rsnMissing

/-- An epoch opens (R110, R188, R200, R205, R223): parts open, groups are chosen, and the epoch fails at once where a part's tile
cannot serve it, where a member below has reported it UNCOMMITTED (R171), or where R188 says so. -/
def openEpoch (s : State) (sid par shift : Nat) : State :=
  let x := getSes s sid
  let e := x.ep par
  if e.st ≠ .committed then s
  else
    let s1 := onEp s sid par fun e => { e with
      st := .opened, opened := true, entry := none, shift := e.shift + shift, since := sesNow s x }
    let s2 := x.partList.foldl (fun u p => openPart u sid par p) s1
    let s3 := applyFromStart (sampleEpoch s2 sid par) sid par
    let s4 := if x.partList.all (tileServes s3 x) then s3 else failEpoch s3 sid par rsnTileFault
    let s5 := match e.failed with
      | some r => failEpoch s4 sid par r
      | none => s4
    react s5 sid

end Sys2Proof.Machine
end

