-- ==== Sys2Proof/Machine/Operands.lean ====
section
/-! DEFINITION. The 128-bit instruction word (R96): its fields, the operand files (R97), which operands each operation takes,
and the reading of an operand. -/

namespace Sys2Proof.Machine

/-- The fields of an instruction word (R96). MOD is split into format code, rounding code and the class-specific bits. -/
structure Ins where
  cls : Nat
  op : Nat
  cond : Nat
  fmt : Nat
  rnd : Nat
  low : Nat
  dst : Nat
  src1 : Nat
  src2 : Nat
  src3 : Nat
  sem : Nat
  imm : Nat
deriving DecidableEq, Repr

/-- The fields of a word, by the layout of R96. -/
def insOf (w : BitVec 128) : Ins :=
  let n := w.toNat
  { cls := bitsOf n 127 124, op := bitsOf n 123 116, cond := bitsOf n 115 112, fmt := bitsOf n 111 108,
    rnd := bitsOf n 107 106, low := bitsOf n 105 104, dst := bitsOf n 103 96, src1 := bitsOf n 95 88,
    src2 := bitsOf n 87 80, src3 := bitsOf n 79 72, sem := bitsOf n 71 64, imm := bitsOf n 63 0 }

/-- The file and the index of an operand field (R97). -/
def opFile (b : Nat) : Nat := b / 32
def opIndex (b : Nat) : Nat := b % 32

/-- What an operand field may hold in an operation. -/
inductive Form where
  /-- The description does not name the field: zero. -/
  | none
  | scalar
  | pair
  | vector
  | binding
  | scalarOpt
  | pairOpt
  /-- A vector, or a scalar that is broadcast to all lanes. -/
  | lanes
  /-- The scale register of a block-format access (R129): any operand of R97 that is not reserved. -/
  | scale
  /-- SRC3 of TILECP: [7] enables an increment of semaphore [5:0] (R114). -/
  | semaphore
deriving DecidableEq, Repr

/-- The field names a scalar register, an even pair, a vector register, a binding. -/
def isScalar (b : Nat) : Bool := decide (opFile b = 1) && decide (opIndex b < 16)
def isPair (b : Nat) : Bool := isScalar b && decide (opIndex b % 2 = 0)
def isVector (b : Nat) : Bool := decide (opFile b = 2)
def isBinding (b : Nat) : Bool := decide (opFile b = 3) && decide (opIndex b < 16)

/-- A field suits a form (R96, R97). A file that the operation cannot take breaks R97. -/
def Form.takes (f : Form) (b : Nat) : Bool :=
  match f with
  | .none => decide (b = 0)
  | .scalar => isScalar b
  | .pair => isPair b
  | .vector => isVector b
  | .binding => isBinding b
  | .scalarOpt => decide (b = 0) || isScalar b
  | .pairOpt => decide (b = 0) || isPair b
  | .lanes => isScalar b || isVector b
  | .scale => decide (b = 0) || isScalar b || isVector b || isBinding b
  | .semaphore => decide (bitsOf b 6 6 = 0)

/-- The forms of DST, SRC1, SRC2 and SRC3. -/
structure Forms where
  dst : Form
  src1 : Form
  src2 : Form
  src3 : Form
deriving DecidableEq, Repr

/-- The class codes of R96. -/
def clsCtrl : Nat := 0
def clsSync : Nat := 1
def clsMove : Nat := 2
def clsReduce : Nat := 3
def clsVector : Nat := 4
def clsTensor : Nat := 5

/-- The operands of each CTRL operation (R103). -/
def ctrlForms : Nat → Option Forms
  | 0x00 => some ⟨.none, .none, .none, .none⟩
  | 0x01 => some ⟨.scalar, .none, .none, .none⟩
  | 0x02 => some ⟨.scalar, .scalar, .scalarOpt, .none⟩
  | 0x03 => some ⟨.scalar, .scalar, .scalarOpt, .none⟩
  | 0x04 => some ⟨.scalar, .scalar, .scalarOpt, .none⟩
  | 0x05 => some ⟨.scalar, .scalar, .scalarOpt, .none⟩
  | 0x06 => some ⟨.scalar, .scalar, .scalarOpt, .none⟩
  | 0x07 => some ⟨.scalar, .scalar, .scalarOpt, .none⟩
  | 0x08 => some ⟨.scalar, .scalar, .scalarOpt, .none⟩
  | 0x09 => some ⟨.none, .scalar, .scalarOpt, .none⟩
  | 0x0A => some ⟨.none, .none, .none, .none⟩
  | 0x0B => some ⟨.scalar, .none, .none, .none⟩
  | 0x0C => some ⟨.scalar, .scalar, .none, .none⟩
  | 0x0D => some ⟨.none, .scalar, .scalar, .none⟩
  | 0x0E => some ⟨.scalar, .none, .binding, .none⟩
  | 0x0F => some ⟨.pair, .none, .none, .none⟩
  | 0x10 => some ⟨.none, .none, .none, .none⟩
  | _ => none

/-- The operands of each SYNC operation (R105). -/
def syncForms : Nat → Option Forms
  | 0x00 => some ⟨.none, .pairOpt, .none, .none⟩
  | 0x01 => some ⟨.none, .none, .none, .none⟩
  | 0x02 => some ⟨.none, .scalar, .none, .none⟩
  | 0x03 => some ⟨.none, .pair, .none, .none⟩
  | 0x04 => some ⟨.none, .none, .binding, .none⟩
  | 0x05 => some ⟨.none, .none, .none, .none⟩
  | 0x06 => some ⟨.none, .scalar, .binding, .none⟩
  | 0x07 => some ⟨.none, .scalar, .binding, .none⟩
  | _ => none

/-- The operands of each MOVE operation (R114, R206). -/
def moveForms : Nat → Option Forms
  | 0x00 => some ⟨.scalar, .pair, .none, .none⟩
  | 0x01 => some ⟨.pair, .scalar, .none, .none⟩
  | 0x02 => some ⟨.scalar, .scalar, .scalar, .semaphore⟩
  | 0x03 => some ⟨.none, .scalar, .binding, .scalarOpt⟩
  | _ => none

/-- The operands of each REDUCE operation (R113). -/
def reduceForms : Nat → Option Forms
  | 0x00 => some ⟨.scalar, .none, .binding, .none⟩
  | 0x01 => some ⟨.scalar, .scalar, .binding, .none⟩
  | 0x02 => some ⟨.vector, .scalar, .none, .none⟩
  | 0x03 => some ⟨.none, .scalar, .none, .none⟩
  | _ => none

/-- The operands of each VECTOR operation (R117, R129). -/
def vectorForms : Nat → Option Forms
  | 0x00 => some ⟨.vector, .scalar, .none, .scale⟩
  | 0x01 => some ⟨.none, .lanes, .scalar, .scale⟩
  | 0x02 => some ⟨.vector, .lanes, .lanes, .none⟩
  | 0x03 => some ⟨.vector, .lanes, .lanes, .none⟩
  | 0x04 => some ⟨.vector, .lanes, .lanes, .none⟩
  | 0x05 => some ⟨.vector, .lanes, .lanes, .lanes⟩
  | 0x06 => some ⟨.vector, .lanes, .lanes, .none⟩
  | 0x07 => some ⟨.vector, .lanes, .lanes, .none⟩
  | 0x08 => some ⟨.vector, .lanes, .none, .none⟩
  | 0x09 => some ⟨.vector, .lanes, .none, .none⟩
  | 0x0A => some ⟨.vector, .lanes, .none, .none⟩
  | 0x0B => some ⟨.vector, .lanes, .none, .none⟩
  | 0x0C => some ⟨.vector, .lanes, .lanes, .none⟩
  | 0x0D => some ⟨.vector, .lanes, .lanes, .lanes⟩
  | 0x0E => some ⟨.vector, .lanes, .lanes, .none⟩
  | 0x0F => some ⟨.vector, .scalarOpt, .none, .none⟩
  | 0x10 => some ⟨.vector, .lanes, .none, .none⟩
  | 0x11 => some ⟨.scalar, .lanes, .none, .none⟩
  | 0x12 => some ⟨.scalar, .lanes, .none, .none⟩
  | _ => none

/-- The operands of each TENSOR operation (R118). -/
def tensorForms : Nat → Option Forms
  | 0x00 => some ⟨.none, .scalar, .scalar, .none⟩
  | 0x01 => some ⟨.none, .none, .none, .none⟩
  | 0x02 => some ⟨.vector, .none, .none, .none⟩
  | 0x03 => some ⟨.none, .lanes, .none, .none⟩
  | _ => none

/-- The operands of an operation; none for a reserved CLASS or OP. -/
def formsOf (cls op : Nat) : Option Forms :=
  match cls with
  | 0 => ctrlForms op
  | 1 => syncForms op
  | 2 => moveForms op
  | 3 => reduceForms op
  | 4 => vectorForms op
  | 5 => tensorForms op
  | _ => none

/-- MOD holds only what the operation uses (R96, R140): bits [7:2] in no CTRL, SYNC or MOVE instruction, bits [1:0] only in RACC,
where 3 is reserved, and bit [0] in SEND. -/
def Ins.modLegal (i : Ins) : Bool :=
  (decide (3 ≤ i.cls) || (decide (i.fmt = 0) && decide (i.rnd = 0))) &&
    (if i.cls = 3 ∧ i.op = 0 then decide (i.low ≠ 3)
     else if i.cls = 2 ∧ i.op = 3 then decide (i.low ≤ 1)
     else decide (i.low = 0))

/-- The count of a SYNC operation that names a semaphore and a count (R105). -/
def Ins.count (i : Ins) : Nat := bitsOf i.imm 7 0

/-- The semaphore that a SYNC operation names. -/
def Ins.semNo (i : Ins) : Nat := bitsOf i.imm 13 8

/-- The word breaks R96 or R97, or names a zero SYNC count (R105): it faults the program with ILLEGAL. -/
def Ins.illegal (i : Ins) : Bool :=
  match formsOf i.cls i.op with
  | none => true
  | some f =>
    decide (0xC ≤ i.cond) || decide (bitsOf i.sem 6 6 ≠ 0) || !i.modLegal || !f.dst.takes i.dst || !f.src1.takes i.src1 ||
      !f.src2.takes i.src2 || !f.src3.takes i.src3 || (decide (i.cls = 1) && decide (i.op ≤ 2) && decide (i.count = 0))

/-- The format and rounding codes of a REDUCE, VECTOR or TENSOR operation are ones it takes (R96, R123, R131, R132, R140,
R142). -/
def Ins.formatOk (i : Ins) : Bool :=
  if i.cls < 3 then true
  else if i.cls = 3 ∧ i.op ≤ 1 then decide (i.fmt = 15) && decide (i.rnd = 0)
  else if i.cls = 3 ∧ i.op = 2 then decide (i.fmt = 0) && decide (i.rnd ≤ 2)
  else if i.cls = 4 ∧ i.op = 0 then isElemFmt i.fmt && decide (i.rnd = 0)
  else if i.cls = 4 ∧ (i.op = 1 ∨ i.op = 0x10) then isElemFmt i.fmt && decide (i.rnd ≤ 2)
  else if i.cls = 5 ∧ i.op = 0 then isElemFmt i.fmt && decide (i.fmt ≠ 0) && decide (i.rnd = 0)
  else decide (i.fmt = 0) && decide (i.rnd = 0)

/-- The semaphore incremented on completion (R96). -/
def Ins.done (i : Ins) : Option Nat := if bitsOf i.sem 7 7 = 1 then some (bitsOf i.sem 5 0) else none

/-- IMM[31:0] as a word. -/
def Ins.immWord (i : Ins) : Word := BitVec.ofNat 32 i.imm

/-- The scalar register that a field names. -/
def Tile.scal (x : Tile) (b : Nat) : Word := x.sreg (opIndex b)

/-- The 64-bit pair that a field names (R97). -/
def Tile.scalPair (x : Tile) (b : Nat) : Nat := x.pair (opIndex b)

/-- SRC2, or IMM[31:0] when SRC2 is none (R103). -/
def Tile.src2OrImm (x : Tile) (i : Ins) : Word := if i.src2 = 0 then i.immWord else x.scal i.src2

/-- The 64 lanes a field gives: a vector register, or a scalar broadcast (R97). -/
def Tile.lanes (x : Tile) (b : Nat) : List Word :=
  if opFile b = 2 then x.vreg (opIndex b) else List.replicate 64 (x.scal b)

/-- A local address: a scalar plus IMM[31:0], in 32 bits. -/
def Tile.localAddr (x : Tile) (b : Nat) (i : Ins) : Nat := (x.scal b + i.immWord).toNat

/-- A range of local addresses lies in SRAM (R75). -/
def inSram (a n : Nat) : Bool := decide (a + n ≤ 0x80000)

/-- A range of local addresses lies in the receive buffer (R75). -/
def inRx (a n : Nat) : Bool := decide (0x100000 ≤ a) && decide (a + n ≤ 0x104000)

end Sys2Proof.Machine
end

