-- ==== Sys2Proof/Machine/Flags.lean ====
section
/-! DEFINITION. The program flags Z, N, C, T, L and M: what sets them (R98, R103, R106, R107, R111) and the conditions that
read them (R98). -/

namespace Sys2Proof.Machine

/-- A condition code is true (R98). Reserved codes never reach this: they are ILLEGAL (R96). -/
def Tile.cond (x : Tile) (c : Nat) : Bool :=
  match c with
  | 0x0 => true
  | 0x1 => x.fz
  | 0x2 => !x.fz
  | 0x3 => x.fn
  | 0x4 => !x.fn
  | 0x5 => x.fc
  | 0x6 => !x.fc
  | 0x7 => x.ft
  | 0x8 => !x.ft
  | 0x9 => x.fl
  | 0xA => x.fm
  | 0xB => !x.fm
  | _ => false

/-- Z, N and C after a result (R98). -/
def Tile.setZnc (x : Tile) (r : Word) (c : Bool) : Tile := { x with fz := decide (r = 0), fn := r.msb, fc := c }

/-- Z, N and C after a sum: C is the carry out of bit 31 (R103). -/
def Tile.addFlags (x : Tile) (a b : Word) : Tile := x.setZnc (a + b) (decide (2 ^ 32 ≤ a.toNat + b.toNat))

/-- Z, N and C after a difference: C is the borrow (R103). -/
def Tile.subFlags (x : Tile) (a b : Word) : Tile := x.setZnc (a - b) (decide (a.toNat < b.toNat))

/-- T after an SWAIT: set where its limit came first (R106). -/
def Tile.setT (x : Tile) (b : Bool) : Tile := { x with ft := b }

/-- L after an FT wait: set where it is late (R107). -/
def Tile.setL (x : Tile) (b : Bool) : Tile := { x with fl := b }

/-- M after RACC or RCOPY: bit 31 of the entry word (R111). -/
def Tile.setM (x : Tile) (b : Bool) : Tile := { x with fm := b }

end Sys2Proof.Machine
end

