-- ==== Sys2Proof/Machine/Issue.lean ====
section
/-! DEFINITION. Issuing one instruction of a tile program (R91, R96 to R102, R119): when a tile may issue, what holds an
instruction at issue (R100, R114, R118, R355), its charge (R354), and the frame in which every instruction's own effect is
set. Waiting and completing. Stall codes (R403). -/

namespace Sys2Proof.Machine

/-! ### When a tile issues -/

/-- The tile is awake. -/
def Tile.awake (x : Tile) : Bool := decide (x.lull = .awake)

/-- The tile may issue (R82, R90, R121): its page is ON and not frozen, no Calm is in force, and it is awake. -/
def tileLive (s : State) (t : Nat) : Bool :=
  pageRuns s .tile t && !tileCalm s t && (getTile s t).awake

/-- The program issues its next instruction now: it is RUNNING and in no wait. -/
def mayIssue (s : State) (t : Nat) : Bool :=
  tileLive s t && decide ((getTile s t).prog = .running) && decide ((getTile s t).wait = .none) &&
    decide ((getTile s t).pc < (getTile s t).codeWords)

/-- The instruction at an index of the buffer. -/
def Tile.insAt (x : Tile) (n : Nat) : Ins := insOf (x.ibuf.get 0 n)

/-- The instruction at PC. -/
def Tile.ins (x : Tile) : Ins := x.insAt x.pc

/-! ### What holds an instruction at issue -/

/-- The SRAM ranges of its own tile that an incomplete MOVE holds (R100). -/
def Move.ranges (t : Nat) (v : Move) : List (Nat × Nat) :=
  match v.op with
  | 0 => [(v.dst, v.len)]
  | 2 => if v.arg = t then [(v.src, v.len), (v.dst, v.len)] else [(v.src, v.len)]
  | _ => [(v.src, v.len)]

/-- Some incomplete MOVE holds a byte of a range. -/
def Tile.moveHeld (x : Tile) (t a n : Nat) : Bool :=
  x.moves.cells.any fun c => (c.2.ranges t).any fun r => overlaps a n r.1 r.2

/-- Bytes of a TMMA operand: its element area, and its scale plane for a block format (R130). -/
def tmmaBytes (k fmt : Nat) : Nat := 64 * k * elemWidth fmt / 8 + if isBlock fmt then 64 * k / 32 else 0

/-- An incomplete TMMA holds a byte of a range (R118). -/
def Tile.tmmaHeld (x : Tile) (a n : Nat) : Bool :=
  match x.tmma with
  | some m => overlaps a n m.a (tmmaBytes m.k m.fmt) || overlaps a n m.b (tmmaBytes m.k m.fmt)
  | none => false

/-- The bytes 64 elements of a format take in SRAM (R129). -/
def laneBytes (fmt : Nat) : Nat := 8 * elemWidth fmt

/-- The binding an operand names. -/
def Tile.bindOf (x : Tile) (b : Nat) : Binding := x.bind (opIndex b)

/-- The SRAM address to which RCOPY copies an entry's payload (R113). DESIGN CHOICE (log 139): the sum does not wrap at 32 bits. -/
def Tile.copyAddr (x : Tile) (i : Ins) (e : QEntry) : Nat := (x.scal i.src1).toNat + 256 * e.seg

/-- The SRAM ranges that an instruction of the CTRL, REDUCE, VECTOR and TENSOR classes touches (R100). -/
def Tile.touches (x : Tile) (i : Ins) : List (Nat × Nat) :=
  match i.cls, i.op with
  | 0, 0x0C => [(x.localAddr i.src1 i, 4)]
  | 0, 0x0D => [(x.localAddr i.src1 i, 4)]
  | 3, 0x01 =>
    match (x.bindOf i.src2).queue with
    | e :: _ => if e.mark || e.retired then [] else [(x.copyAddr i e, 256)]
    | [] => []
  | 4, 0x00 => (x.localAddr i.src1 i, laneBytes i.fmt) :: if isBlock i.fmt then [((x.scal i.src3).toNat, 2)] else []
  | 4, 0x01 => (x.localAddr i.src2 i, laneBytes i.fmt) :: if isBlock i.fmt then [((x.scal i.src3).toNat, 2)] else []
  | 5, 0x00 =>
    let n := tmmaBytes (bitsOf i.imm 15 0) i.fmt
    [((x.scal i.src1).toNat, n), ((x.scal i.src2).toNat, n)]
  | _, _ => []

/-- The stall code under which an instruction whose condition is true is held at issue (R403), if it is. -/
def holdOf (s : State) (t : Nat) (i : Ins) : Option Nat :=
  let x := getTile s t
  if 3 ≤ i.cls ∧ gateLevel s t < 0 then some 0x05
  else if i.cls = 2 ∧ 16 ≤ x.moves.cells.length then some 0x06
  else if i.cls ≠ 2 ∧ ((x.touches i).any fun r => x.moveHeld t r.1 r.2) = true then some 0x07
  else if i.cls = 5 ∧ x.tmma.isSome = true then some 0x08
  else if i.cls ≠ 2 ∧ ((x.touches i).any fun r => x.tmmaHeld r.1 r.2) = true then some 0x08
  else none

/-! ### SRAM banks and errors (R73, R74) -/

/-- The SRAM ranges that an instruction accesses as it issues. -/
def Tile.accesses (x : Tile) (i : Ins) : List (Nat × Nat) :=
  if i.cls = 5 then [] else (x.touches i).filter fun r => inSram r.1 r.2

/-- The place in the order of R73 of what an instruction accesses SRAM by. DESIGN CHOICE (log 134): LDS and STS, which the order does
not name, take the vector unit's. -/
def Ins.bankOrder (i : Ins) : Nat := if i.cls = 3 then bankReduce else bankVector

/-- The banks that an instruction needs in the cycle it issues. -/
def Tile.banksFor (x : Tile) (i : Ins) : List Nat := banksOfAll (x.accesses i)

/-- An instruction finds a bank taken in this cycle. -/
def bankHeld (s : State) (t : Nat) (i : Ins) : Bool := banksTaken s t ((getTile s t).banksFor i)

/-- The SRAM ranges that an instruction reads as it issues: of LDS, VLD, and a MOVE from SRAM. -/
def Tile.sramReads (x : Tile) (i : Ins) : List (Nat × Nat) :=
  let l := match i.cls, i.op with
    | 0, 0x0C => [(x.localAddr i.src1 i, 4)]
    | 2, 0 => []
    | 2, _ => [((x.scal i.src1).toNat, bitsOf i.imm 31 0)]
    | 4, 0x00 => x.touches i
    | _, _ => []
  l.filter fun r => inSram r.1 r.2

/-- A read of SRAM ranges (R74): none where a word is uncorrectable; a corrected word is written back, counted and sets SRAM_CE. -/
def sramRead (s : State) (t : Nat) (l : List (Nat × Nat)) : Option State :=
  let x := getTile s t
  if x.flawed 2 l ≠ [] then none
  else
    match x.flawed 1 l with
    | [] => some s
    | ws => some (wearAdd (raiseK (onTile s t fun x => { x with flaws := x.flaws.keep fun w _ => !ws.contains w }) .tile t 17) 1 t ws.length)

/-- An uncorrectable word faults the program with SRAM_UE (R74, R119), and is counted (R432). -/
def sramFault (s : State) (t index : Nat) : State := programFault (wearAdd s 2 t 1) t 4 index

/-- A window reads an uncorrectable word (R74): a program that the tile runs faults; without one the page says SRAM_UE. -/
def windowUe (s : State) (t : Nat) : State :=
  let x := getTile s t
  if x.prog = .running ∨ x.prog = .waitSem ∨ x.prog = .waitFt ∨ x.prog = .loaded then sramFault s t x.pc
  else raiseK (wearAdd s 2 t 1) .tile t 18

/-! ### The charge of the power gate -/

/-- Accumulators that an RCLR clears (R113). -/
def Ins.clears (i : Ins) : Nat := bitsOf i.imm 12 0

/-- TMMA's rate class c: 1 for 4-bit formats, 2 for 6-bit and 8-bit, 4 for 16-bit (R118, R123). -/
def tmmaRate (fmt : Nat) : Nat := if elemWidth fmt ≤ 4 then 1 else if elemWidth fmt ≤ 8 then 2 else 4

/-- The charge of a gated instruction in 1/64 A (R354); `shifts` says that a RACC's cell forces a window shift. -/
def Ins.charge (i : Ins) (shifts : Bool) : Nat :=
  match i.cls, i.op with
  | 3, 0x00 => 11 * (if shifts then 8 else 4)
  | 3, 0x01 => 11 * 4
  | 3, 0x02 => 11
  | 3, 0x03 => 11 * ((i.clears + 63) / 64)
  | 4, 0x09 => 20 * 4
  | 4, 0x0A => 20 * 4
  | 4, 0x0B => 20 * 4
  | 4, 0x0C => 20 * 8
  | 4, _ => 20
  | 5, 0x00 => 84 * (bitsOf i.imm 15 0 * tmmaRate i.fmt)
  | 5, 0x01 => 84 * 16
  | 5, _ => 84 * 2
  | _, _ => 0

/-! ### The frame of an instruction -/

/-- What an instruction's own meaning answers: a fault of the program (R119), completed at once, a jump, a wait that has begun
or an operation that completes later, or HALT. The states do not hold PC's advance. -/
inductive Did where
  | fault (code : Nat)
  | done (s : State)
  | jump (s : State) (pc : Nat)
  | later (s : State)
  | waits (s : State)
  | halts (s : State)
deriving DecidableEq, Repr

/-- An instruction issues: it is counted, and the tile is not idle (R83, R394). -/
def noteIssue (s : State) (t cls : Nat) : State :=
  countTile (onTile s t fun x => { x with idleCyc := s.cyc }) t 0x02 [cls, 0xFF] 1

/-- Set PC. -/
def setPc (s : State) (t pc : Nat) : State := onTile s t fun x => { x with pc := pc }

/-- PC moves past an instruction: issue that would run past the last one faults with ILLEGAL at it (R91). -/
def advancePc (s : State) (t n : Nat) : State :=
  let s1 := setPc s t (n + 1)
  if (getTile s1 t).codeWords ≤ n + 1 then programFault s1 t 1 n else s1

/-- The completion of an instruction at index n increments its semaphore (R96). -/
def completes (s : State) (t : Nat) (i : Ins) : State := semIncOpt s t i.done

/-- Finish the instruction at index n. -/
def finish (s : State) (t n : Nat) (i : Ins) : Did → State
  | .fault c => programFault s t c n
  | .done u => advancePc (completes u t i) t n
  | .jump u pc => if (getTile s t).codeWords ≤ pc then programFault s t 1 n else setPc (completes u t i) t pc
  | .later u => advancePc u t n
  | .waits u => setPc u t (n + 1)
  | .halts u => setPc (completes u t i) t (n + 1)

/-- A gated instruction pays its whole charge as it issues (R354, R355). -/
def payGate (s : State) (t : Nat) (i : Ins) (shifts : Bool) : State :=
  if i.cls < 3 then s else chargeGate s t (i.charge shifts)

/-- The command of one tile instruction (R96 to R102): where the tile issues and the word at PC is this operation, the
instruction takes effect. A word that breaks R96 or R97 faults whatever command came; another operation's word is not this
command's moment. `shifts` says whether a RACC forces a window shift. -/
def issueWith (s : State) (t cls op : Nat) (shifts : State → Ins → Bool) (body : State → Ins → Did) : Out :=
  if 1088 ≤ t then .fault .noSuchUnit
  else if !tileFitted s t then .fault .absentUnit
  else if !mayIssue s t then .next s
  else
    let x := getTile s t
    let i := x.ins
    if (formsOf i.cls i.op).isNone then .next (programFault s t 1 x.pc)
    else if i.cls ≠ cls ∨ i.op ≠ op then .next s
    else if i.illegal then .next (programFault s t 1 x.pc)
    else if !x.cond i.cond then .next (advancePc (noteIssue s t cls) t x.pc)
    else if i.cls = 5 ∧ s.cfg.tensor = false then .next (programFault s t 3 x.pc)
    else if !i.formatOk then .next (programFault s t 9 x.pc)
    else if (holdOf s t i).isSome then .next s
    else if bankHeld s t i then .next (loseBanks s t i.bankOrder (x.banksFor i))
    else
      let s1 := noteIssue (serveBanks s t i.bankOrder (x.banksFor i)) t cls
      match sramRead s1 t (x.sramReads i) with
      | none => .next (sramFault s1 t x.pc)
      | some s2 => .next (finish s2 t x.pc i (body (payGate s2 t i (shifts s i)) i))

/-- The command of an instruction whose charge does not depend on data. -/
def issue (s : State) (t cls op : Nat) (body : State → Ins → Did) : Out := issueWith s t cls op (fun _ _ => false) body

/-- An instruction whose effect lies in the tile's own registers and flags. -/
def issueTile (s : State) (t cls op : Nat) (f : Tile → Ins → Tile) : Out :=
  issue s t cls op fun u i => .done (onTile u t fun x => f x i)

/-! ### Stall codes (R403) -/

/-- The code under which the instruction at PC is held at issue, where the program is RUNNING and in no wait. -/
def heldAt (s : State) (t : Nat) : Option Nat :=
  let x := getTile s t
  if x.prog = .running ∧ x.wait = .none ∧ (!x.ins.illegal && x.cond x.ins.cond && x.ins.formatOk) = true then holdOf s t x.ins
  else none

/-- The stall code of a tile now, the first of R403's table that describes it: latencies and issue intervals are not modelled. In the
cycle in which an instruction has issued the code is ISSUED, unless it began a wait. -/
def stallCode (s : State) (t : Nat) : Nat :=
  let x := getTile s t
  if x.prog = .none ∨ x.prog = .loaded ∨ pageSt s .tile t = .starting then 0x30
  else if x.prog = .faulted then 0x31
  else if x.prog = .halted then 0x32
  else if tileCalm s t then 0x33
  else if (getPage s (pageNo .tile t)).freeze then 0x34
  else
    match x.wait with
    | .sem _ _ _ => 0x02
    | .ft _ => 0x03
    | .fence _ => 0x04
    | .none =>
      if x.idleCyc = s.cyc then 0x00
      else if !x.ins.illegal && x.cond x.ins.cond && x.ins.formatOk then
        (holdOf s t x.ins).getD (if bankStalls s t then 0x0D else 0x00)
      else 0x00

end Sys2Proof.Machine
end

