-- ==== Sys2Proof/Machine/TileCtrl.lean ====
section
/-! DEFINITION. The CTRL instructions of a tile program (R103, R104, R116): NOP, SETI, ADD, SUB, AND, OR, XOR, SHL, SHR, CMP, JMP,
LOOP, LDS, STS, EPINFO, RDFT, HALT. -/

namespace Sys2Proof.Machine

/-- Write the scalar register that DST names. -/
def Tile.setDst (x : Tile) (i : Ins) (w : Word) : Tile := x.setSreg (opIndex i.dst) w

/-- NOP (R103). -/
def execNop (t : Nat) (s : State) : Out := issueTile s t 0 0x00 fun x _ => x

/-- SETI (R103): DST ← IMM[31:0]. -/
def execSeti (t : Nat) (s : State) : Out := issueTile s t 0 0x01 fun x i => x.setDst i i.immWord

/-- ADD (R103): DST ← SRC1 + (SRC2 or IMM); sets Z, N, C. -/
def execAdd (t : Nat) (s : State) : Out :=
  issueTile s t 0 0x02 fun x i =>
    let a := x.scal i.src1
    let b := x.src2OrImm i
    (x.addFlags a b).setDst i (a + b)

/-- SUB (R103): DST ← SRC1 − (SRC2 or IMM); sets Z, N, C, C the borrow. -/
def execSub (t : Nat) (s : State) : Out :=
  issueTile s t 0 0x03 fun x i =>
    let a := x.scal i.src1
    let b := x.src2OrImm i
    (x.subFlags a b).setDst i (a - b)

/-- AND (R103). -/
def execAnd (t : Nat) (s : State) : Out :=
  issueTile s t 0 0x04 fun x i => x.setDst i (x.scal i.src1 &&& x.src2OrImm i)

/-- OR (R103). -/
def execOr (t : Nat) (s : State) : Out :=
  issueTile s t 0 0x05 fun x i => x.setDst i (x.scal i.src1 ||| x.src2OrImm i)

/-- XOR (R103). -/
def execXor (t : Nat) (s : State) : Out :=
  issueTile s t 0 0x06 fun x i => x.setDst i (x.scal i.src1 ^^^ x.src2OrImm i)

/-- SHL (R103): by the low five bits of SRC2 or IMM. -/
def execShl (t : Nat) (s : State) : Out :=
  issueTile s t 0 0x07 fun x i => x.setDst i (x.scal i.src1 <<< fieldOf (x.src2OrImm i) 4 0)

/-- SHR (R103): logical, by the low five bits of SRC2 or IMM. -/
def execShr (t : Nat) (s : State) : Out :=
  issueTile s t 0 0x08 fun x i => x.setDst i (x.scal i.src1 >>> fieldOf (x.src2OrImm i) 4 0)

/-- CMP (R103): sets Z, N, C of SRC1 − (SRC2 or IMM) and writes nothing. -/
def execCmp (t : Nat) (s : State) : Out :=
  issueTile s t 0 0x09 fun x i => x.subFlags (x.scal i.src1) (x.src2OrImm i)

/-- JMP (R103, R91): PC ← IMM[9:0]. -/
def execJmp (t : Nat) (s : State) : Out := issue s t 0 0x0A fun s i => .jump s (bitsOf i.imm 9 0)

/-- LOOP (R103, R91): DST ← DST − 1, and PC ← IMM[9:0] while DST is not zero. -/
def execLoop (t : Nat) (s : State) : Out :=
  issue s t 0 0x0B fun s i =>
    let v := (getTile s t).scal i.dst - 1
    let s1 := onTile s t fun x => x.setDst i v
    if ((getTile s1 t).scal i.dst) = 0 then .done s1 else .jump s1 (bitsOf i.imm 9 0)

/-! ### LDS and STS -/

/-- The lowest-numbered VALID filter of a channel that an access of n bytes touches and that admits it (R365): dir 1 for a store;
origin 0 scalar, 1 vector, 2 scale. -/
def dataFilter (s : State) (c a n dir origin : Nat) : Option Nat :=
  (List.range 4).find? fun f =>
    let lo := kregFN s .chan c (0x100 + 0x10 * f)
    let hi := kregFN s .chan c (0x104 + 0x10 * f)
    let w := kregF s .chan c (0x108 + 0x10 * f)
    bitOf w 31 && decide (a < hi) && decide (lo < a + n) && bitOf w dir && bitOf w (2 + origin)

/-- The DATA packets of one access, at most 128 B each (R369). -/
def dataPackets (f dir origin : Nat) : Nat → Nat → List Byte → List (List Byte)
  | 0, _, _ => []
  | k + 1, a, l =>
    if l = [] then []
    else
      let v := l.take 128
      (BitVec.ofNat 8 (0x40 + 8 * dir + origin) :: BitVec.ofNat 8 (v.length / 4 - 1 + 32 * f) :: (leBytes 4 a ++ v)) ::
        dataPackets f dir origin k (a + 128) (l.drop 128)

/-- DATA records of an access to n bytes of SRAM, with the value bytes that they carry (R365, R369). -/
def traceData (s : State) (t a n dir origin : Nat) (l : List Byte) : State :=
  let key := tileKey t true
  match keyChan s key with
  | none => s
  | some c =>
    if !kindAdmitted s key 1 then s
    else
      match dataFilter s c a n dir origin with
      | none => s
      | some f => (dataPackets f dir origin 2 a l).foldl (fun u p => genRecord u key false fun _ _ => p) s

/-- The word of the identity area at an offset (R75, R204, R399). -/
def identityWord (s : State) (t off : Nat) : Word :=
  let h := tileHalf t
  let ft := ftOrOnes s h
  if off = 0x00 then BitVec.ofNat 32 ((logicalOf s t).getD 0)
  else if off = 0x04 then BitVec.ofNat 32 (tileOwner s t)
  else if off = 0x08 then BitVec.ofNat 32 ft
  else if off = 0x0C then BitVec.ofNat 32 (ft / 2 ^ 32)
  else if off = 0x10 then
    if hasTime s h then BitVec.ofNat 32 (countOf s h % 2304 / 9) else BitVec.ofNat 32 allOnes64
  else if 0x40 ≤ off ∧ off < 0xC0 then
    let v := (getTile s t).bind ((off - 0x40) / 8)
    if off % 8 = 0 then BitVec.ofNat 32 (v.ranks % 2 ^ 18) else BitVec.ofNat 32 (v.exRanks % 2 ^ 18)
  else if off = 0xC0 then
    match bankOfTile s t with
    | some b => kreg s .bank b 0x054
    | none => BitVec.ofNat 32 allOnes64
  else 0

/-- LDS at a local address (R75, R104; a counter as it stood at the start of the cycle, R399): the tile after it and the word, or none where the access breaks R75. -/
def ldsAt (s : State) (t a : Nat) : Option (Tile × Word) :=
  let x := getTile s t
  if a % 4 ≠ 0 then none
  else if inSram a 4 then some (x, BitVec.ofNat 32 (leNat (readBytes x.sram a 4)))
  else if 0x120000 ≤ a ∧ a < 0x120080 then
    let n := (a - 0x120000) / 8
    let v := (x.ctrsAtStart s.cyc).get 0 n
    if a % 8 = 0 then some ({ x with ctrLatch := x.ctrLatch.set n (v / 2 ^ 32) }, BitVec.ofNat 32 v)
    else
      match x.ctrLatch.find n with
      | some u => some ({ x with ctrLatch := x.ctrLatch.drop n }, BitVec.ofNat 32 u)
      | none => some (x, BitVec.ofNat 32 (v / 2 ^ 32))
  else if 0x140000 ≤ a ∧ a < 0x140100 then some (x, identityWord s t (a - 0x140000))
  else none

/-- LDS (R103, R75, R104): DST ← 32 bits at the local address SRC1 + IMM. -/
def execLds (t : Nat) (s : State) : Out :=
  issue s t 0 0x0C fun s i =>
    let a := (getTile s t).localAddr i.src1 i
    match ldsAt s t a with
    | none => .fault 2
    | some (x, w) =>
      let s1 := putTile s t (x.setDst i w)
      .done (if inSram a 4 then traceData s1 t a 4 0 0 (leBytes 4 w.toNat) else s1)

/-- STS (R103, R75): 32 bits at SRC1 + IMM ← SRC2, in SRAM only. -/
def execSts (t : Nat) (s : State) : Out :=
  issue s t 0 0x0D fun s i =>
    let x := getTile s t
    let a := x.localAddr i.src1 i
    if a % 4 ≠ 0 ∨ inSram a 4 = false then .fault 2
    else
      let l := leBytes 4 (x.scal i.src2).toNat
      .done (traceData (putTile s t (x.writeSram a l)) t a 4 1 0 l)

/-- EPINFO (R103): DST, DST+1, DST+2 ← epoch word and start FT of the newest live epoch of binding SRC2, all ones without
one. DESIGN CHOICE (log 135): a DST outside s1 to s13 faults with ILLEGAL. -/
def execEpinfo (t : Nat) (s : State) : Out :=
  issue s t 0 0x0E fun s i =>
    let x := getTile s t
    let v := x.bindOf i.src2
    let d := opIndex i.dst
    if d = 0 ∨ 13 < d then .fault 1
    else if !v.valid then .fault 7
    else
      let q : Nat × Nat := match v.newest with
        | some (p, e) => (v.sid % 2 ^ 12 + 2 ^ 12 * p + 2 ^ 16 * (e.epoch % 2 ^ 16), e.start)
        | none => (2 ^ 32 - 1, allOnes64)
      .done (putTile s t (((x.setSreg d (BitVec.ofNat 32 q.1)).setSreg (d + 1) (BitVec.ofNat 32 q.2)).setSreg (d + 2)
        (BitVec.ofNat 32 (q.2 / 2 ^ 32))))

/-- RDFT (R103): DST pair ← FT in ns, all ones while the half is without time. -/
def execRdft (t : Nat) (s : State) : Out :=
  issue s t 0 0x0F fun s i => .done (onTile s t fun x => x.setPair (opIndex i.dst) (ftOrOnes s (tileHalf t)))

/-- HALT (R103, R116): the program stops; it faults with EPOCH while a binding has a live epoch not yet reported. -/
def execHalt (t : Nat) (s : State) : Out :=
  issue s t 0 0x10 fun s _ =>
    if (getTile s t).anyBind Binding.owed then .fault 0x0B else .halts (onTile s t fun x => { x with prog := .halted })

end Sys2Proof.Machine
end

