-- ==== Sys2Proof/Machine/TileSync.lean ====
section
/-! DEFINITION. The SYNC instructions of a tile program (R105 to R108, R116) and the completion of what they wait for: SWAIT,
SWAIT_DONE, SSIG, SSEND, SSEND_DELIVER, FTWAIT, FTWAIT.REL, FT_WAIT_DONE, FENCE, FENCE_DONE, EPDONE, EPFAIL. -/

namespace Sys2Proof.Machine

/-! ### Waits -/

/-- A wait begins (R425). -/
def beginWait (s : State) (t : Nat) (p : ProgSt) (w : WaitSt) : State :=
  let ft := ftOrOnes s (tileHalf t)
  onTile s t fun x => { x with prog := p, wait := w, waitFt := ft }

/-- A wait may end now (R82, R121): the page is ON, no Calm is in force and the tile is awake. -/
def mayEndWait (s : State) (t : Nat) : Bool :=
  pageIsOn s .tile t && !tileCalm s t && (getTile s t).awake

/-- A wait ends: the program runs on. The instruction that waited stands before PC; its semaphore is incremented (R96), and if it
is the last of the code the program faults (R91). -/
def endWait (s : State) (t : Nat) (f : Tile → Tile) : State :=
  let s1 := onTile s t fun x => f { x with prog := .running, wait := .none, waitFt := allOnes64 }
  let x := getTile s1 t
  let s2 := completes s1 t (x.insAt (x.pc - 1))
  if x.codeWords ≤ x.pc then programFault s2 t 1 (x.pc - 1) else s2

/-- The command of a wait's end, at a fitted tile. -/
def waitOut (s : State) (t : Nat) (f : State) : Out :=
  if 1088 ≤ t then .fault .noSuchUnit
  else if !tileFitted s t then .fault .absentUnit
  else .next f

/-- An FT has come and its half has time (R107). -/
def ftPassed (s : State) (h : Half) (target : Nat) : Bool := hasTime s h && decide (target * 2304 ≤ countOf s h)

/-- An FT came before this cycle: this is not the cycle that R57 fixes for it. -/
def ftLate (s : State) (h : Half) (target : Nat) : Bool :=
  decide (target * 2304 + (s.ftu.get (timeHalf s h)).rate ≤ countOf s h)

/-! ### SWAIT -/

/-- An SWAIT ends (R106): on the count, with T 0 and the count subtracted, or on its limit, with T 1. DESIGN CHOICE (log 136): where
both hold at once the count comes first. -/
def swaitEnds (s : State) (t n count : Nat) (limit : Option Nat) : Option (Tile → Tile) :=
  if count ≤ (getTile s t).sem n then
    some fun x => ({ x with sems := x.sems.put 0 n (x.sem n - count) }).setT false
  else
    match limit with
    | some f => if ftPassed s (tileHalf t) f then some fun x => x.setT true else none
    | none => none

/-- SWAIT (R105, R106). -/
def execSwait (t : Nat) (s : State) : Out :=
  issue s t 1 0x00 fun s i =>
    let x := getTile s t
    let limit := if i.src1 = 0 then none else some (x.scalPair i.src1)
    match swaitEnds s t i.semNo i.count limit with
    | some f => .done (onTile s t f)
    | none => .waits (beginWait s t .waitSem (.sem i.semNo i.count limit))

/-- SWAIT_DONE (R106): a pending SWAIT completes on its count or its limit. -/
def execSwaitDone (t : Nat) (s : State) : Out :=
  waitOut s t (
    match (getTile s t).wait with
    | .sem n count limit =>
      if mayEndWait s t then
        match swaitEnds s t n count limit with
        | some f => endWait s t f
        | none => s
      else s
    | _ => s)

/-! ### SSIG and SSEND -/

/-- SSIG (R105, R76): adds the count to a semaphore of this tile. -/
def execSsig (t : Nat) (s : State) : Out := issue s t 1 0x01 fun s i => .done (semInc s t i.semNo i.count)

/-- The logical tile that SRC1[9:0] or SRC2[9:0] names. -/
def Tile.logicalArg (x : Tile) (b : Nat) : Nat := fieldOf (x.scal b) 9 0

/-- A logical tile of a tile's own partition, by physical number (R108, R116). -/
def peerTile (s : State) (t lt : Nat) : Option Nat :=
  match physOf s lt with
  | some u => if tileOwner s u = tileOwner s t then some u else none
  | none => none

/-- SSEND (R105, R108): its increment is on its way to the target tile. -/
def execSsend (t : Nat) (s : State) : Out :=
  issue s t 1 0x02 fun s i =>
    let x := getTile s t
    let lt := x.logicalArg i.src1
    match peerTile s t lt with
    | none => .fault 6
    | some _ => .done { s with ssends := s.ssends ++ [(lt, i.semNo, i.count, t, x.moveSeq)] }

/-- A TILECP of tile t toward a physical tile that was issued before a place in its MOVE order is incomplete. -/
def copyBefore (s : State) (t u place : Nat) : Bool :=
  (getTile s t).moves.cells.any fun c => decide (c.2.op = 2) && decide (c.2.arg = u) && decide (c.2.order < place)

/-- SSEND_DELIVER (R108): the i-th increment on its way reaches its target, after the sender's earlier TILECPs to it. In SPLIT
nothing crosses the bridge (R444). -/
def execSsendDeliver (i : Nat) (s : State) : Out :=
  match s.ssends[i]? with
  | none => .next s
  | some (lt, n, count, t, place) =>
    match physOf s lt with
    | none => .next s
    | some u =>
      if copyBefore s t u place || (inSplit s && decide (tileHalf t ≠ tileHalf u)) then .next s
      else .next (semInc { s with ssends := s.ssends.eraseIdx i } u n count)

/-! ### FT waits -/

/-- Wait until an FT, or complete at once where it has passed (R105, R107). -/
def ftWaitFor (s : State) (t target : Nat) : Did :=
  let h := tileHalf t
  if ftPassed s h target then .done (onTile s t fun x => x.setL (ftLate s h target))
  else .waits (beginWait s t .waitFt (.ft target))

/-- FTWAIT (R105). -/
def execFtwait (t : Nat) (s : State) : Out := issue s t 1 0x03 fun s i => ftWaitFor s t ((getTile s t).scalPair i.src1)

/-- FTWAIT.REL (R105): the start FT of the binding's newest live epoch plus IMM[31:0]. DESIGN CHOICE: without a live epoch it
completes at once, with L a free value. -/
def execFtwaitRel (t : Nat) (s : State) : Out :=
  issue s t 1 0x04 fun s i =>
    let v := (getTile s t).bindOf i.src2
    if !v.valid then .fault 7
    else
      match v.newest with
      | some (_, e) => ftWaitFor s t (e.start + i.immWord.toNat)
      | none =>
        let d := s.draw Config.relFlag
        .done (onTile d.2 t fun x => x.setL d.1)

/-- FT_WAIT_DONE (R107): an FT wait completes in the cycle R57 fixes with L 0, or later, after time has returned or a Calm has
ended, with L 1. -/
def execFtWaitDone (t : Nat) (s : State) : Out :=
  waitOut s t (
    match (getTile s t).wait with
    | .ft target =>
      let h := tileHalf t
      if mayEndWait s t && ftPassed s h target then endWait s t fun x => x.setL (ftLate s h target) else s
    | _ => s)

/-! ### FENCE -/

/-- Earlier work of the classes of a mask is pending: MOVEs and a TMMA are the instructions that complete after they issue. DESIGN
CHOICE (log 137): an SSEND completes as it issues, its delivery pending. -/
def fencePending (x : Tile) (mask : Nat) : Bool :=
  (mask.testBit 2 && decide (x.moves.cells ≠ [])) || (mask.testBit 5 && x.tmma.isSome)

/-- FENCE (R105): waits for earlier instructions of the classes in IMM[5:0]. -/
def execFence (t : Nat) (s : State) : Out :=
  issue s t 1 0x05 fun s i =>
    let mask := bitsOf i.imm 5 0
    if fencePending (getTile s t) mask then .waits (beginWait s t .running (.fence mask)) else .done s

/-- FENCE_DONE (R105). -/
def execFenceDone (t : Nat) (s : State) : Out :=
  waitOut s t (
    match (getTile s t).wait with
    | .fence mask => if mayEndWait s t && !fencePending (getTile s t) mask then endWait s t fun x => x else s
    | _ => s)

/-! ### EPDONE and EPFAIL -/

/-- The parity of an epoch report: SRC1[12]. -/
def Tile.parityArg (x : Tile) (b : Nat) : Nat := fieldOf (x.scal b) 12 12

/-- A tile reports an epoch of a binding (R105, R116). -/
def reportEpoch (s : State) (t : Nat) (i : Ins) (more : State → Nat → Nat → State) : Did :=
  let x := getTile s t
  let b := opIndex i.src2
  let v := x.bind b
  let p := x.parityArg i.src1
  if !v.valid then .fault 7
  else if !(v.ep p).owed then .fault 0x0B
  else
    let s1 := putTile s t (x.setBind b (v.setEp p { v.ep p with reported := true }))
    .done (react (more s1 v.sid p) v.sid)

/-- EPDONE (R105, R116). -/
def execEpdone (t : Nat) (s : State) : Out := issue s t 1 0x06 fun s i => reportEpoch s t i fun u _ _ => u

/-- EPFAIL (R105, R192): the epoch fails with reason IMM[7:0], PROGRAM for a reason below 0x80. -/
def execEpfail (t : Nat) (s : State) : Out :=
  issue s t 1 0x07 fun s i => reportEpoch s t i fun u sid p =>
    failEpoch u sid p (if bitsOf i.imm 7 0 < 0x80 then rsnProgram else bitsOf i.imm 7 0)

end Sys2Proof.Machine
end

