-- ==== Sys2Proof/Machine/TileReduce.lean ====
section
/-! DEFINITION. The REDUCE instructions of a tile program (R111 to R113, R137 to R142, R204): RACC, RCOPY, RRD, RCLR. -/

namespace Sys2Proof.Machine

/-- The entry word that RACC and RCOPY write (R111). -/
def QEntry.word (e : QEntry) : Word :=
  BitVec.ofNat 32 (
    (if e.mark then 2 ^ 31 + 2 ^ 30 * b2n e.abort + 2 ^ 29 * b2n e.excluded else 2 ^ 28 * b2n e.retired + e.seg % 2 ^ 12) +
      2 ^ 12 * (e.parity % 2))

/-- The elements of a cell's payload, each with its scale byte (R126, R127). -/
def cellElements (fmt : Nat) (payload : List Byte) : List (Nat × Nat) :=
  let area := leNat (payload.drop (cellElemByte fmt))
  (List.range (cellElems fmt)).map fun j =>
    (elemAt (elemWidth fmt) area j, if isBlock fmt then (payload.getD (j / 32) 0).toNat else 0)

/-- The elements of a cell that are added (R128): each with its accumulator. -/
def addends (v : Binding) (e : QEntry) (r : RxSlot) : List (Nat × Val) :=
  let first := e.seg * cellElems r.fmt
  ((indexed 0 (cellElements r.fmt r.payload)).filter fun q => decide (first + q.1 < v.accCount)).map fun q =>
    (v.accOf e.parity + first + q.1, elemVal r.fmt q.2.1 q.2.2)

/-- The accumulator of an index. -/
def Tile.acc (x : Tile) (n : Nat) : Acc := x.racc.get Acc.clear n

/-- The oldest entry of a binding's queue that RACC or RCOPY takes. -/
def Tile.head (x : Tile) (i : Ins) : Option QEntry := (x.bindOf i.src2).queue.head?

/-- The addends of the cell that a RACC takes: none for a marker or a RETIRED entry. -/
def Tile.raccAddends (x : Tile) (i : Ins) : List (Nat × Val) :=
  match x.head i with
  | some e => if e.mark || e.retired then [] else addends (x.bindOf i.src2) e (x.slot e.slot)
  | none => []

/-- The cell forces a window shift in some element (R113, R137). -/
def Tile.raccShifts (x : Tile) (i : Ins) : Bool := (x.raccAddends i).any fun a => (x.acc a.1).shifts i.low a.2

/-- Take the head of a binding's queue into DST, and set M (R111, R113); a marker that carries the outcome brings the ranks
of R204 with it. -/
def Tile.takeHead (x : Tile) (i : Ins) (e : QEntry) : Tile :=
  let b := opIndex i.src2
  let v := x.bind b
  let v' := { v with
    queue := v.queue.drop 1
    ranks := if e.mark && e.outcome then e.ranks else v.ranks
    exRanks := if e.mark && e.outcome then e.exRanks else v.exRanks }
  ((x.setBind b v').setDst i e.word).setM e.mark

/-- A slot's payload has been consumed or discarded: the slot is FREE (R80). -/
def RxSlot.freed (r : RxSlot) : RxSlot := { r with st := .free, payload := [], flight := false }

/-- Free a slot of a tile. -/
def freeRxSlot (s : State) (t n : Nat) : State := onTile s t fun x => x.setSlot n (x.slot n).freed

/-- The cell of a slot has been taken by the program: a contribution that was held there is REDUCED (R181). -/
def cellTaken (s : State) (r : RxSlot) : State :=
  if r.kind = 1 then
    onEp s r.sid r.parity fun e =>
      if e.live && decide (e.num = r.epoch) && decide (e.fate r.cidx r.part r.seg = fateFilled) then
        e.setFate r.cidx r.part r.seg fateReduced
      else e
  else s

/-- What RACC and RCOPY share (R112, R113, R116): the binding must be VALID and its queue must hold an entry; a cell is worked on,
its slot is freed, and the session engine may credit it again. -/
def takeEntry (s : State) (t : Nat) (i : Ins) (work : State → QEntry → RxSlot → Option State) (code : Nat) : Did :=
  let x := getTile s t
  let v := x.bindOf i.src2
  if !v.valid then .fault 7
  else
    match v.queue with
    | [] => .fault 8
    | e :: _ =>
      let r := x.slot e.slot
      if e.mark || e.retired || decide (r.st ≠ .filled) then .done (onTile s t fun x => x.takeHead i e)
      else
        match work s e r with
        | none => .fault code
        | some u => .done (react (cellTaken (freeRxSlot (onTile u t fun x => x.takeHead i e) t e.slot) r) v.sid)

/-- RACC's work on a cell: each element is added into its accumulator in order (R137 to R141), the counters count (R394), and
chosen groups are copied (R224). None where an accumulator holds another operator (R140). -/
def raccCell (t : Nat) (i : Ins) (s : State) (e : QEntry) (r : RxSlot) : Option State :=
  let x := getTile s t
  let v := x.bindOf i.src2
  let l := addends v e r
  if l.any fun a => !(x.acc a.1).empty && decide ((x.acc a.1).op ≠ i.low) then none
  else
    let y := l.foldl (fun y a => { y with racc := y.racc.put Acc.clear a.1 ((y.acc a.1).addend i.low a.2) }) x
    let shifts := l.any fun a => (x.acc a.1).shifts i.low a.2
    let rounded := (l.filter fun a => (x.acc a.1).rounds i.low a.2).length
    let s1 := countTile (putTile s t y) t 0x05 (if shifts then [0, 1] else [0]) 1
    let s2 := if rounded = 0 then s1 else countTile s1 t 0x06 [0] rounded
    some (sendCopies s2 t v.sid r.epoch r.part r.fmt i.low (e.seg * cellElems r.fmt) (cellElements r.fmt r.payload))

/-- RACC (R113). -/
def execRacc (t : Nat) (s : State) : Out :=
  issueWith s t 3 0x00 (fun s i => (getTile s t).raccShifts i) fun s i => takeEntry s t i (raccCell t i) 9

/-- RCOPY's work on a cell (R113): its 256 B payload goes to SRAM at SRC1 + 256 × SEGMENT. -/
def rcopyCell (t : Nat) (i : Ins) (s : State) (e : QEntry) (r : RxSlot) : Option State :=
  let a := (getTile s t).copyAddr i e
  if inSram a 256 then
    some (countTile (onTile s t fun x => x.writeSram a ((r.payload ++ List.replicate 256 0).take 256)) t 0x07 [0] 1)
  else none

/-- RCOPY (R113). -/
def execRcopy (t : Nat) (s : State) : Out := issue s t 3 0x01 fun s i => takeEntry s t i (rcopyCell t i) 2

/-! ### Reading and clearing accumulators -/

/-- The rounding mode of a code (R132). -/
def Ins.mode (i : Ins) : Mode := (modeOf i.rnd).getD .rne

/-- Draws of the generator for 64 lanes, under SR only (R134). -/
def Tile.draws64 (x : Tile) (i : Ins) : List Nat := if i.rnd = 2 then srDraws 64 x.sr else List.replicate 64 0

/-- The generator after the instruction, and its draws counted (R394). -/
def afterDraws (s : State) (t : Nat) (i : Ins) : State :=
  if i.rnd = 2 then countTile (onTile s t fun x => { x with sr := srAfter 64 x.sr }) t 0x0C [0] 64 else s

/-- Set bits of TILE_NUM_STATUS. -/
def noteNum (s : State) (t : Nat) (sat nanLost ovf mxNan : Bool) : State :=
  let w := b2n sat + 2 * b2n nanLost + 4 * b2n ovf + 8 * b2n mxNan
  if w = 0 then s else setKreg s .tile t 0x180 (kreg s .tile t 0x180 ||| BitVec.ofNat 32 w)

/-- Elements saturated (R133): counted in TILE_NUM_SATCNT and as events. -/
def noteSat (s : State) (t n : Nat) : State :=
  if n = 0 then s else countTile (satReg s .tile t 0x184 n) t 0x0D [0] n

/-- RRD (R113, R142): DST vector ← 64 accumulators from index SRC1 + IMM[12:0], rounded to FP32. DESIGN CHOICE: a lane beyond the
last accumulator is a free value. -/
def execRrd (t : Nat) (s : State) : Out :=
  issue s t 3 0x02 fun s i =>
    let x := getTile s t
    let first := (x.scal i.src1).toNat + i.clears
    let d := s.draw Config.beyondAcc
    let rs := x.draws64 i
    let lanes := (List.range 64).map fun j =>
      if first + j < 8192 then (x.acc (first + j)).read i.mode (rs.getD j 0) else (d.1 + BitVec.ofNat 32 j, false)
    let u := if first + 64 ≤ 8192 then s else d.2
    let s1 := onTile u t fun x => x.setVreg (opIndex i.dst) (lanes.map (·.1))
    .done (noteNum (afterDraws s1 t i) t false false (lanes.any (·.2)) false)

/-- Accumulators of a range belong to a binding with a live epoch (R113). -/
def Tile.liveAccs (x : Tile) (first n : Nat) : Bool :=
  x.anyBind fun v => v.live && overlaps first n v.accBase (2 * v.accCount)

/-- RCLR (R113): clears IMM[12:0] accumulators from index SRC1. -/
def execRclr (t : Nat) (s : State) : Out :=
  issue s t 3 0x03 fun s i =>
    let x := getTile s t
    let first := (x.scal i.src1).toNat
    if x.liveAccs first i.clears then .fault 7 else .done (onTile s t fun x => x.clearAcc first i.clears)

end Sys2Proof.Machine
end

