-- ==== Sys2Proof/Machine/TileMove.lean ====
section
/-! DEFINITION. The MOVE instructions of a tile program and their completion (R80, R114 to R116, R206): MEMRD, MEMWR, TILECP, SEND,
MOVE_COMPLETE. -/

namespace Sys2Proof.Machine

/-! ### Checks and requests -/

/-- A MOVE's length (R114). -/
def Ins.moveLen (i : Ins) : Nat := bitsOf i.imm 31 0

/-- The length is one that R114 allows. -/
def Ins.lenOk (i : Ins) : Bool :=
  decide (64 ≤ i.moveLen) && decide (i.moveLen ≤ 262144) && decide (i.moveLen % 64 = 0)

/-- The latest-service time of a MOVE's flits (R115): its issue FT plus IMM[63:32], or TILE_MOVE_SLACK. -/
def moveLst (s : State) (t : Nat) (i : Ins) : Nat :=
  let w := bitsOf i.imm 63 32
  lstOf (ftNs s (tileHalf t) + if w = 0 then kregN s .tile t 0x088 else w)

/-- The lowest MOVE index that is free, of 16. -/
def Tile.freeMove (x : Tile) : Nat := ((List.range 16).find? fun m => (x.moves.find m).isNone).getD 0

/-- A MOVE begins: it takes an index and its place in the order. -/
def beginMove (s : State) (t : Nat) (v : Move) : State :=
  onTile s t fun x => { x with moves := x.moves.set x.freeMove { v with order := x.moveSeq }, moveSeq := x.moveSeq + 1 }

/-- The MOVE of an instruction, which n flits of its own leave or come back for, and the bytes it holds. -/
def moveOf (s : State) (t : Nat) (i : Ins) (op src dst arg : Nat) (down : Bool) (rsem : Option Nat) (n : Nat) (got : List (Nat × List Byte)) :
    Move :=
  ⟨op, src, dst, i.moveLen, arg, down, i.done, rsem, moveLst s t i, 0, (getTile s t).pc, n, got, false⟩

/-- Flits of 128 B that a number of bytes takes (R114). -/
def flitsOf (n : Nat) : Nat := (n + 127) / 128

/-- The bytes of the receive buffer; a slot without a payload gives free values. -/
def Tile.rxBytes (x : Tile) (b : Byte) (a n : Nat) : List Byte :=
  (List.range n).map fun j =>
    let o := a + j - 0x100000
    let r := x.slot (o / 256)
    if r.st = .filled ∧ r.flight = false then r.payload.getD (o % 256) 0 else b + BitVec.ofNat 8 j

/-- A MOVE reads its source. DESIGN CHOICE (log 153): its flits are made, and translated, in the cycle in which it issues. -/
def readSource (s : State) (t a n : Nat) : List Byte × State :=
  let x := getTile s t
  if inSram a n then (readBytes x.sram a n, s)
  else
    let d := s.draw Config.rxByte
    (x.rxBytes d.1 a n, d.2)

/-- A piece of a range within one region, as flits of 128 B: memory address, place in the range, bytes. -/
def piecesOf (addr : Nat) (cut : Nat × Nat) : List (Nat × Nat × Nat) :=
  (cutAt 128 (cut.2 / 64 + 1) 0 cut.2).map fun q => (cut.1 + q.1, cut.1 + q.1 - addr, q.2)

/-- Send one burst of flits of a MOVE to the channel of its region (R238, R281). -/
def sendBurst (s : State) (t o pid lst : Nat) (write : Bool) (l : List Byte) (ps : List (Nat × Nat × Nat)) : State :=
  (indexed 0 ps).foldl (fun u q =>
    match translate u pid q.2.1 with
    | some (prn, off) =>
      flitToStack u t (stackOf u.cfg prn) (channelOf u.cfg prn) lst pid ⟨.move t o q.2.2.1, write, prn, off, q.2.2.2⟩
        ((l.drop q.2.2.1).take q.2.2.2) q.1 (if write then ps.length else 1)
    | none => u) s

/-- The bursts of a MOVE of memory (R242, R246): a read's flits are requests of their own, a write's come in locked bursts of at most 16
flits within 2 KiB. No burst leaves its region. -/
def burstsOf (addr len : Nat) (write : Bool) : List (List (Nat × Nat × Nat)) :=
  (cutAt (if write then 2048 else 2 ^ 21) (len / 64 + 1) addr len).map (piecesOf addr)

/-- The flits of a MOVE of memory enter the mesh, toward the stack channels of its regions. -/
def sendToStacks (s : State) (t o addr len : Nat) (write : Bool) (lst : Nat) (l : List Byte) : State :=
  (burstsOf addr len write).foldl (fun u ps => sendBurst u t o (tileOwner s t) lst write l ps) s

/-- A MOVE of memory begins, and its flits leave. -/
def beginMem (s : State) (t : Nat) (i : Ins) (op src dst addr : Nat) (l : List Byte) : State :=
  let write := decide (op = 1)
  let n := ((burstsOf addr i.moveLen write).map (·.length)).foldl (· + ·) 0
  sendToStacks (beginMove s t (moveOf s t i op src dst 0 false none n [])) t (getTile s t).moveSeq addr i.moveLen write (moveLst s t i) l

/-! ### The instructions -/

/-- MEMRD (R114, R116, R281): memory of the partition into SRAM. DESIGN CHOICE (log 154), here and in the MOVEs below: a MOVE that breaks
several rules faults by the first of MOVE_LEN, ADDR, and PART or BINDING. -/
def execMemrd (t : Nat) (s : State) : Out :=
  issue s t 2 0x00 fun s i =>
    let x := getTile s t
    let a := x.scalPair i.src1
    let d := (x.scal i.dst).toNat
    if i.lenOk = false ∨ a % 64 ≠ 0 ∨ d % 64 ≠ 0 then .fault 0x0A
    else if !inSram d i.moveLen then .fault 2
    else if !rangeMapped s (tileOwner s t) a i.moveLen then .fault 6
    else .later (beginMem s t i 0 a d a [])

/-- A MOVE's source lies in SRAM or in the receive buffer (R75). -/
def sourceOk (a n : Nat) : Bool := inSram a n || inRx a n

/-- MEMWR (R114, R116, R281): SRAM into memory of the partition. -/
def execMemwr (t : Nat) (s : State) : Out :=
  issue s t 2 0x01 fun s i =>
    let x := getTile s t
    let a := (x.scal i.src1).toNat
    let d := x.scalPair i.dst
    if i.lenOk = false ∨ a % 64 ≠ 0 ∨ d % 64 ≠ 0 then .fault 0x0A
    else if !sourceOk a i.moveLen then .fault 2
    else if !rangeMapped s (tileOwner s t) d i.moveLen then .fault 6
    else
      let r := readSource s t a i.moveLen
      .later (beginMem r.2 t i 1 a d d r.1)

/-- The flits of a tile-to-tile copy enter the mesh at the tile's router (R240), each for its bytes of the target's SRAM. -/
def sendFlits (s : State) (t u o addr lst : Nat) (l : List Byte) : State :=
  (cutAt 128 (l.length / 64 + 1) 0 l.length).foldl (fun w q =>
    injectFlit w (Flit.fresh t u .tile t lst (tileOwner s t) ((l.drop q.1).take q.2) (.copy t o (addr + q.1)))) s

/-- TILECP (R114, R116): SRAM to SRAM of another logical tile of the partition. -/
def execTilecp (t : Nat) (s : State) : Out :=
  issue s t 2 0x02 fun s i =>
    let x := getTile s t
    let a := (x.scal i.src1).toNat
    let d := (x.scal i.dst).toNat
    if i.lenOk = false ∨ a % 64 ≠ 0 ∨ d % 64 ≠ 0 then .fault 0x0A
    else if sourceOk a i.moveLen = false ∨ inSram d i.moveLen = false then .fault 2
    else
      match peerTile s t (x.logicalArg i.src2) with
      | none => .fault 6
      | some u =>
        let rsem := if bitsOf i.src3 7 7 = 1 then some (bitsOf i.src3 5 0) else none
        let r := readSource s t a i.moveLen
        .later (sendFlits (beginMove r.2 t (moveOf s t i 2 a d u false rsem (flitsOf i.moveLen) [])) t u x.moveSeq d (moveLst s t i) r.1)

/-- SEND (R114, R206): SRAM payloads to the session engine as cells toward the parent (MOD[0] 0) or the children (MOD[0] 1). At
the root an upward SEND completes at once and sends nothing. -/
def execSend (t : Nat) (s : State) : Out :=
  issue s t 2 0x03 fun s i =>
    let x := getTile s t
    let a := (x.scal i.src1).toNat
    let v := x.bindOf i.src2
    let down := decide (i.low = 1)
    if i.lenOk = false ∨ a % 64 ≠ 0 then .fault 0x0A
    else if !sourceOk a i.moveLen then .fault 2
    else if !v.valid then .fault 7
    else if (getSes s v.sid).isRoot && !down then .done s
    else
      let seg := if i.src3 = 0 then 0 else fieldOf (x.scal i.src3) 11 0
      let r := readSource s t a i.moveLen
      .later (beginMove r.2 t (moveOf s t i 3 a seg (opIndex i.src2) down none 0 [(0, r.1)]))

/-! ### Completion -/

/-- A MOVE has consumed the payloads of the receive slots it covers whole (R80). DESIGN CHOICE: their arrival-queue entries stay,
and the RACC or RCOPY that takes one finds no payload. -/
def consumeRx (s : State) (t a n : Nat) : State :=
  if inSram a n then s
  else
    (List.range 64).foldl (fun u k =>
      let lo := 0x100000 + 256 * k
      let r := (getTile u t).slot k
      if a ≤ lo ∧ lo + 256 ≤ a + n ∧ r.st = .filled ∧ r.flight = false then
        react (cellTaken (freeRxSlot u t k) r) r.sid
      else u) s

/-- The epoch that a SEND of a binding serves: the oldest live epoch that the tile has not reported. -/
def Binding.oldestOwed (v : Binding) : Option Nat :=
  match v.eps.a.owed, v.eps.b.owed with
  | false, false => none
  | true, false => some 0
  | false, true => some 1
  | true, true => if v.eps.a.epoch < v.eps.b.epoch then some 0 else some 1

/-- Payloads of 256 B, the last filled up with zeros. -/
def payloadsOf : Nat → List Byte → List (List Byte)
  | 0, _ => []
  | k + 1, l => if l = [] then [] else ((l.take 256 ++ List.replicate 256 0).take 256) :: payloadsOf k (l.drop 256)

/-- The contributors that a RESULT segment of a part goes to (R199, R206). -/
def Session.downDests (x : Session) (e : Epoch) (p : Nat) : List Nat :=
  ((x.enabled e.bank).filter fun c =>
    x.downTo c.2 p && !e.excluded.contains c.1 && decide ((x.ctst c.1).1 ≠ .failed)).map (·.1)

/-- A SEND comes to nothing: the epoch's OUTCOME is held, by which the parent's credits are void (R166), or it failed, and sends no
RESULT (R173). -/
def Epoch.sendsNone (e : Epoch) (down : Bool) : Bool :=
  match e.dec with
  | none => e.failed.isSome && down
  | some d => !down || decide (d.code = 3) || decide (d.code = 0)

/-- The session engine takes a SEND's payloads (R206): each waits for its credits, and at the root until the outcome is fixed. A
binding without a live epoch sends nothing. -/
def takeSend (s : State) (t : Nat) (v : Move) (l : List Byte) : State :=
  let b := (getTile s t).bind v.arg
  match b.oldestOwed with
  | none => s
  | some par =>
    let x := getSes s b.sid
    let e := x.ep par
    let part := match logicalOf s t with
      | some lt => (x.partAt lt).getD 0
      | none => 0
    let dests := if v.down then x.downDests e part else [0]
    let segs := (indexed v.dst (payloadsOf (l.length / 256 + 1) l)).map fun q : Nat × List Byte =>
      ({ epoch := e.num, down := v.down, part := part, seg := q.1 % 4096, payload := q.2, lst := v.lst, dests := dests,
         held := v.down && x.isRoot && e.dec.isNone, tile := t } : OutSeg)
    if e.sendsNone v.down then s else react (onSes s b.sid fun y => { y with outSegs := y.outSegs ++ segs }) b.sid

/-- The bytes of a MOVE have all come, and its writes have all been accepted (R114). -/
def Move.settled (v : Move) : Bool := decide (v.left = 0)

/-- The effect of a MOVE that completes. The bytes of a MEMRD take their places in SRAM; those of a MEMWR and of a TILECP have
theirs. -/
def moveEffect (s : State) (t : Nat) (v : Move) : State :=
  match v.op with
  | 0 => onTile s t fun x => v.got.foldl (fun y q => y.writeSram (v.dst + q.1) q.2) x
  | 1 => consumeRx s t v.src v.len
  | 2 => consumeRx (semIncOpt s v.arg v.rsem) t v.src v.len
  | _ => consumeRx (takeSend s t v (v.got.flatMap (·.2))) t v.src v.len

/-- The banks that a completing MOVE writes (R73): a MEMRD's destination. -/
def Move.banks (v : Move) : List Nat := if v.op = 0 ∧ v.ue = false then banksOf v.dst v.len else []

/-- MOVE_COMPLETE (R114, R119): MOVE m of tile t completes and its semaphore is incremented; a MEMRD that met an uncorrectable line
faults the program with MEM_UE and leaves its destination unwritten. -/
def execMoveComplete (t : Nat) (m : Nat) (s : State) : Out :=
  waitOut s t (
    match (getTile s t).moves.find m with
    | none => s
    | some v =>
      if !v.settled then s
      else if banksTaken s t v.banks then loseBanks s t bankMesh v.banks
      else
        let s1 := onTile s t fun x => { x with moves := x.moves.drop m }
        if v.ue then
          if (getTile s1 t).prog = .faulted then s1 else programFault s1 t 5 v.index
        else semIncOpt (moveEffect (serveBanks s1 t bankMesh v.banks) t v) t v.sem)

end Sys2Proof.Machine
end

