-- ==== Sys2Proof/Machine/TileVector.lean ====
section
/-! DEFINITION. The VECTOR instructions of a tile program (R117, R129, R131 to R136, R475). -/

namespace Sys2Proof.Machine

/-- Write the vector register that DST names. -/
def setLanes (s : State) (t : Nat) (i : Ins) (l : List Word) : State := onTile s t fun x => x.setVreg (opIndex i.dst) l

/-- Lane j of an operand. -/
def Tile.lane (x : Tile) (b j : Nat) : Word := (x.lanes b).getD j 0

/-- The free payload of a NaN in lane j of a result: a function of the operation and the operands' lanes (R117, R146). -/
def Tile.laneNan (x : Tile) (i : Ins) (j : Nat) : Word :=
  Config.nanBits [i.op, (x.lane i.src1 j).toNat, (x.lane i.src2 j).toNat, (x.lane i.src3 j).toNat]

/-- The free payload of a NaN that an element widens to. -/
def elemNan (fmt raw scale : Nat) : Word := Config.nanBits [fmt, raw, scale]

/-- A lane-wise operation on values, rounded once to FP32 (R117). -/
def arithLanes (s : State) (t : Nat) (i : Ins) (f : Nat → Val) : Did :=
  .done (setLanes s t i ((List.range 64).map fun j => laneOf ((getTile s t).laneNan i j) (f j)))

/-- Lane j of an operand, as a value. -/
def Tile.laneV (x : Tile) (b j : Nat) : Val := laneVal (x.lane b j)

/-- A lane-wise operation on bits. -/
def bitLanes (s : State) (t : Nat) (i : Ins) (f : Nat → Word) : Did := .done (setLanes s t i ((List.range 64).map f))

/-! ### VLD and VST -/

/-- The address of an access to 64 lanes is good (R75, R129): a multiple of 16, in SRAM, and for a block format with the scales in
SRAM at the address in a scalar that SRC3 names. -/
def lanesAddrOk (x : Tile) (i : Ins) (a : Nat) : Bool :=
  decide (a % 16 = 0) && inSram a (laneBytes i.fmt) &&
    (!isBlock i.fmt || (isScalar i.src3 && inSram (x.scal i.src3).toNat 2))

/-- Trace the access of a VLD or VST, and of its scales (R365, R369). -/
def traceLanes (s : State) (t dir a : Nat) (i : Ins) (l : List Byte) (b : Nat) (scales : List Byte) : State :=
  let s1 := traceData s t a l.length dir 1 l
  if isBlock i.fmt then traceData s1 t b 2 dir 2 (scales ++ [0, 0]) else s1

/-- VLD (R117, R129, R131): DST ← 64 elements widened to FP32. -/
def execVld (t : Nat) (s : State) : Out :=
  issue s t 4 0x00 fun s i =>
    let x := getTile s t
    let a := x.localAddr i.src1 i
    if !lanesAddrOk x i a then .fault 2
    else
      let l := readBytes x.sram a (laneBytes i.fmt)
      let b := (x.scal i.src3).toNat
      let sc := readBytes x.sram b 2
      let area := leNat l
      let q := (List.range 64).map fun j =>
        let e := elemAt (elemWidth i.fmt) area j
        let b := (sc.getD (j / 32) 0).toNat
        widenLane (elemNan i.fmt e b) i.fmt e b
      let s1 := noteNum (setLanes s t i (q.map (·.1))) t false false (q.any (·.2)) false
      .done (traceLanes s1 t 0 a i l b sc)

/-- The lanes of an operand narrowed to the instruction's format and mode (R132 to R136). -/
def Tile.narrowed (x : Tile) (i : Ins) (b : Nat) : NarrowedLanes :=
  narrowLanes i.fmt i.mode ((x.lanes b).map laneVal) (x.draws64 i)

/-- What a narrowing leaves in TILE_NUM_STATUS and the counts. -/
def noteNarrowed (s : State) (t : Nat) (n : NarrowedLanes) (ovf : Bool) : State :=
  noteSat (noteNum s t (decide (n.sat ≠ 0)) n.nanLost ovf n.mxNan) t n.sat

/-- VST (R117, R129, R132 to R136): the 64 lanes of SRC1 narrowed into SRAM, with the scale bytes of a block format. -/
def execVst (t : Nat) (s : State) : Out :=
  issue s t 4 0x01 fun s i =>
    let x := getTile s t
    let a := x.localAddr i.src2 i
    if !lanesAddrOk x i a then .fault 2
    else
      let n := x.narrowed i i.src1
      let l := leBytes (laneBytes i.fmt) (packElems (elemWidth i.fmt) n.codes)
      let b := (x.scal i.src3).toNat
      let sc := n.scales.map (BitVec.ofNat 8)
      let s1 := onTile s t fun x => (x.writeSram a l).writeSram b sc
      .done (traceLanes (noteNarrowed (afterDraws s1 t i) t n false) t 1 a i l b sc)

/-- VCVT (R117, R136): each lane rounded to a format and widened back to FP32. -/
def execVcvt (t : Nat) (s : State) : Out :=
  issue s t 4 0x10 fun s i =>
    let n := (getTile s t).narrowed i i.src1
    let q := (indexed 0 n.codes).map fun c =>
      let b := n.scales.getD (c.1 / 32) 0
      widenLane (elemNan i.fmt c.2 b) i.fmt c.2 b
    .done (noteNarrowed (afterDraws (setLanes s t i (q.map (·.1))) t i) t n (q.any (·.2)))

/-! ### Arithmetic -/

/-- VADD (R117). -/
def execVadd (t : Nat) (s : State) : Out :=
  issue s t 4 0x02 fun s i =>
    let x := getTile s t
    arithLanes s t i fun j => (x.laneV i.src1 j).add (x.laneV i.src2 j)

/-- VSUB (R117). -/
def execVsub (t : Nat) (s : State) : Out :=
  issue s t 4 0x03 fun s i =>
    let x := getTile s t
    arithLanes s t i fun j => (x.laneV i.src1 j).add (x.laneV i.src2 j).neg

/-- VMUL (R117). -/
def execVmul (t : Nat) (s : State) : Out :=
  issue s t 4 0x04 fun s i =>
    let x := getTile s t
    arithLanes s t i fun j => (x.laneV i.src1 j).mul (x.laneV i.src2 j)

/-- VFMA (R117): SRC1 × SRC2 + SRC3 with one rounding. -/
def execVfma (t : Nat) (s : State) : Out :=
  issue s t 4 0x05 fun s i =>
    let x := getTile s t
    arithLanes s t i fun j => ((x.laneV i.src1 j).mul (x.laneV i.src2 j)).add (x.laneV i.src3 j)

/-- VMAX (R475). -/
def execVmax (t : Nat) (s : State) : Out :=
  issue s t 4 0x06 fun s i =>
    let x := getTile s t
    bitLanes s t i fun j => maxLane true (x.lane i.src1 j) (x.lane i.src2 j)

/-- VMIN (R475). -/
def execVmin (t : Nat) (s : State) : Out :=
  issue s t 4 0x07 fun s i =>
    let x := getTile s t
    bitLanes s t i fun j => maxLane false (x.lane i.src1 j) (x.lane i.src2 j)

/-- VABS (R117): IEEE 754 abs, which clears the sign bit. -/
def execVabs (t : Nat) (s : State) : Out :=
  issue s t 4 0x08 fun s i =>
    let x := getTile s t
    bitLanes s t i fun j => x.lane i.src1 j &&& 0x7FFFFFFF#32

/-- VRSQRT (R117). -/
def execVrsqrt (t : Nat) (s : State) : Out :=
  issue s t 4 0x09 fun s i =>
    let x := getTile s t
    arithLanes s t i fun j => (x.laneV i.src1 j).rsqrt

/-- VRCP (R117). -/
def execVrcp (t : Nat) (s : State) : Out :=
  issue s t 4 0x0A fun s i =>
    let x := getTile s t
    arithLanes s t i fun j => (Val.fin 1 0).div (x.laneV i.src1 j)

/-- VSQRT (R117). -/
def execVsqrt (t : Nat) (s : State) : Out :=
  issue s t 4 0x0B fun s i =>
    let x := getTile s t
    arithLanes s t i fun j => (x.laneV i.src1 j).sqrt

/-- VDIV (R117). -/
def execVdiv (t : Nat) (s : State) : Out :=
  issue s t 4 0x0C fun s i =>
    let x := getTile s t
    arithLanes s t i fun j => (x.laneV i.src1 j).div (x.laneV i.src2 j)

/-! ### Selection -/

/-- A lane is a zero of either sign. -/
def isZeroLane (w : Word) : Bool := decide (w &&& 0x7FFFFFFF#32 = 0)

/-- VSEL (R117): SRC1 ≠ 0 ? SRC2 : SRC3. -/
def execVsel (t : Nat) (s : State) : Out :=
  issue s t 4 0x0D fun s i =>
    let x := getTile s t
    bitLanes s t i fun j => if isZeroLane (x.lane i.src1 j) then x.lane i.src3 j else x.lane i.src2 j

/-- VCMPLT (R117): SRC1 < SRC2 ? 1.0 : 0.0. -/
def execVcmplt (t : Nat) (s : State) : Out :=
  issue s t 4 0x0E fun s i =>
    let x := getTile s t
    bitLanes s t i fun j => if (x.laneV i.src1 j).lt (x.laneV i.src2 j) then 0x3F800000 else 0

/-- VSPLAT (R117): SRC1, or IMM[31:0], in all lanes. -/
def execVsplat (t : Nat) (s : State) : Out :=
  issue s t 4 0x0F fun s i =>
    let x := getTile s t
    bitLanes s t i fun _ => if i.src1 = 0 then i.immWord else x.scal i.src1

/-! ### Reductions -/

/-- Put a lane into a list that a key orders. -/
def insertLane (key : Nat → Nat) (j : Nat) : List Nat → List Nat
  | [] => [j]
  | k :: l => if key j < key k then j :: k :: l else k :: insertLane key j l

/-- The order in which the lanes stand at the leaves of VSUM's tree, which the spec fixes without stating. -/
def sumOrder : List Nat := (List.range 64).foldl (fun l j => insertLane Config.vsumOrder j l) []

/-- VSUM (R117): the sum of the 64 lanes in a fixed pairwise tree into a scalar. -/
def execVsum (t : Nat) (s : State) : Out :=
  issue s t 4 0x11 fun s i =>
    let x := getTile s t
    let l := sumOrder.map fun j => x.lane i.src1 j
    .done (onTile s t fun y => y.setDst i (sumTree 6 (Config.nanBits (l.map (·.toNat))) l))

/-- VMAXR (R117, R475): the largest lane, the canonical NaN when any lane is NaN. -/
def execVmaxr (t : Nat) (s : State) : Out :=
  issue s t 4 0x12 fun s i =>
    let l := (getTile s t).lanes i.src1
    .done (onTile s t fun y => y.setDst i ((l.drop 1).foldl (maxLane true) (l.headD 0)))

end Sys2Proof.Machine
end

