-- ==== Sys2Proof/Machine/TileTensor.lean ====
section
/-! DEFINITION. The TENSOR instructions of a tile program (R118, R130, R146) and the choice of a TMMA for a dense audit (R235):
TMMA, TMMA_COMPLETE, TCLR, TRD, TWR. -/

namespace Sys2Proof.Machine

/-! ### TMMA -/

/-- K of a TMMA. -/
def Ins.k (i : Ins) : Nat := bitsOf i.imm 15 0

/-- K is one that R118 allows. -/
def Ins.kOk (i : Ins) : Bool := decide (i.k % 32 = 0) && decide (32 ≤ i.k) && decide (i.k ≤ 1024)

/-- TMMA (R118): the multiplication begins. DESIGN CHOICE: a K outside R118's range faults with ILLEGAL. -/
def execTmma (t : Nat) (s : State) : Out :=
  issue s t 5 0x00 fun s i =>
    let x := getTile s t
    let a := (x.scal i.src1).toNat
    let b := (x.scal i.src2).toNat
    let n := tmmaBytes i.k i.fmt
    if !i.kOk then .fault 1
    else if inSram a n = false ∨ inSram b n = false then .fault 2
    else
      let seq := s.denseSeq.get 0 t
      .later (onTile { s with denseSeq := s.denseSeq.put 0 t (seq + 1) } t fun x =>
        { x with tmma := some ⟨a, b, i.k, i.fmt, i.done, x.pc⟩ })

/-- Element codes of a TMMA operand (R130): n elements from element e, each with its scale byte. -/
def operandElems (x : Tile) (base k fmt e n : Nat) : List (Nat × Nat) :=
  let w := elemWidth fmt
  let area := leNat (readBytes x.sram base (64 * k * w / 8))
  let plane := base + 64 * k * w / 8
  (List.range n).map fun j =>
    (elemAt w area (e + j), if isBlock fmt then (x.sram.get 0 (plane + (e + j) / 32)).toNat else 0)

/-- Row r of A, or column r of B: K values. -/
def operandRow (x : Tile) (base k fmt r : Nat) : List (Nat × Nat) := operandElems x base k fmt (r * k) k

/-- The values of operand elements. -/
def elemVals (fmt : Nat) (l : List (Nat × Nat)) : List Val := l.map fun q => elemVal fmt q.1 q.2

/-- One output of a TMMA (R146): chunks of 32 in ascending order, each added with one rounding. -/
def tmmaOutput : Nat → Word → Word → List Val → List Val → Word
  | 0, _, acc, _, _ => acc
  | n + 1, nan, acc, xs, ys =>
    tmmaOutput n nan (tmmaChunk nan acc (xs.take 32) (ys.take 32)) (xs.drop 32) (ys.drop 32)

/-- The free payload of a NaN that an output becomes: a function of the operands and of the accumulator before (R146). -/
def outputNan (acc : Word) (fmt : Nat) (row col : List (Nat × Nat)) : Word :=
  Config.nanBits (acc.toNat :: fmt :: (row ++ col).flatMap fun q => [q.1, q.2])

/-- The tensor accumulators after a TMMA. -/
def tmmaResult (x : Tile) (m : Tmma) : Tbl Word :=
  let rows := (List.range 64).map fun r => operandRow x m.a m.k m.fmt r
  let cols := (List.range 64).map fun c => operandRow x m.b m.k m.fmt c
  (indexed 0 rows).foldl (fun acc r =>
    (indexed 0 cols).foldl (fun acc c =>
      let n := 64 * r.1 + c.1
      let before := x.tacc.get 0 n
      acc.put 0 n (tmmaOutput (m.k / 32) (outputNan before m.fmt r.2 c.2) before (elemVals m.fmt r.2) (elemVals m.fmt c.2))) acc) x.tacc

/-- The bound sessions of a tile whose profiles audit TMMAs (R235): their rates, each with the newest live epoch of its binding, if it
has one. -/
def denseSessions (s : State) (t : Nat) : List (Nat × Option Nat × Nat) :=
  (getTile s t).binds.cells.filterMap fun c =>
    let x := getSes s c.2.sid
    let k := fieldOf (x.prof s 4) 3 0
    if c.2.valid && x.audited && decide (k ≠ 0) then some (c.2.sid, c.2.newest.map (·.2.epoch), k) else none

/-- Copy flits of 128 B that an audit takes (R235). DEDUCED (log 148): for a row and a column of k elements, their scales, and two
accumulators of 4 B; at most 33. -/
def auditFlits (k fmt : Nat) : Nat := min 33 ((2 * ((k * elemWidth fmt + 7) / 8 + (if isBlock fmt then k / 32 else 0)) + 8 + 127) / 128)

/-- A TMMA is audited (R235): one in 2^(k−1) at the highest rate among the tile's bound sessions. DESIGN CHOICE: which one of them
is told by the count of the tile's TMMAs; the output is a free choice. -/
def chooseAudit (s : State) (t : Nat) (m : Tmma) (after : Tbl Word) : State :=
  let h := tileHalf t
  let l := denseSessions s t
  let k := l.foldl (fun k q => min k q.2.2) 16
  if l = [] ∨ (s.denseSeq.get 0 t - 1) % 2 ^ (k - 1) ≠ 0 ∨ pageIsOn s .wv (halfIdx h) = false then s
  else
    match takeSlot s h with
    | none => satReg s .wv (halfIdx h) 0x04C 1
    | some key =>
      let d := s.draw Config.entropy
      let i := d.1 % 64
      let j := d.1 / 64 % 64
      let x := getTile s t
      let row := operandRow x m.a m.k m.fmt i
      let col := operandRow x m.b m.k m.fmt j
      let a : DenseAudit :=
        { tile := t, sr := key / 128, fmt := m.fmt, row := row.map (·.1), col := col.map (·.1), rowScales := row.map (·.2),
          colScales := col.map (·.2), before := x.tacc.get 0 (64 * i + j), after := after.get 0 (64 * i + j),
          epochs := l.filterMap fun q => q.2.1.map fun n => (q.1, n), slot := key % 128, left := auditFlits m.k m.fmt }
      let f : WvFlit := ⟨key / 128, key % 128, copyLst d.2 h, .audit⟩
      let s1 := (List.range a.left).foldl (fun u _ => flitToReducer u t (tileOwner s t) f) { d.2 with audits := d.2.audits ++ [a] }
      nextTurn s1 h (key / 128)

/-- The SRAM ranges of a TMMA's operands. -/
def Tmma.ranges (m : Tmma) : List (Nat × Nat) := [(m.a, tmmaBytes m.k m.fmt), (m.b, tmmaBytes m.k m.fmt)]

/-- TMMA_COMPLETE (R118, R146): the accumulators take A × B. The tensor array retries while a bank serves another (R73), and an
uncorrectable operand word faults the program with the accumulators as they were (R74). -/
def execTmmaComplete (t : Nat) (s : State) : Out :=
  waitOut s t (
    match (getTile s t).tmma with
    | none => s
    | some m =>
      let banks := banksOfAll m.ranges
      if banksTaken s t banks then loseBanks s t bankTensor banks
      else
        let s0 := serveBanks s t bankTensor banks
        match sramRead s0 t m.ranges with
        | none => sramFault (onTile s0 t fun x => { x with tmma := none }) t m.index
        | some s2 =>
          let r := tmmaResult (getTile s2 t) m
          let s1 := chooseAudit s2 t m r
          semIncOpt (onTile s1 t fun x => { x with tmma := none, tacc := r }) t m.sem)

/-- TCLR (R118). -/
def execTclr (t : Nat) (s : State) : Out := issue s t 5 0x01 fun s _ => .done (onTile s t fun x => { x with tacc := .empty })

/-- The accumulator row that IMM[5:0] names. -/
def Ins.row (i : Ins) : Nat := bitsOf i.imm 5 0

/-- TRD (R118): DST vector ← accumulator row. -/
def execTrd (t : Nat) (s : State) : Out :=
  issue s t 5 0x02 fun s i =>
    let x := getTile s t
    bitLanes s t i fun j => x.tacc.get 0 (64 * i.row + j)

/-- TWR (R118): accumulator row ← SRC1 vector. -/
def execTwr (t : Nat) (s : State) : Out :=
  issue s t 5 0x03 fun s i =>
    .done (onTile s t fun x => { x with tacc := putSeq 0 x.tacc (64 * i.row) (x.lanes i.src1) })

end Sys2Proof.Machine
end

