-- ==== Sys2Proof/Machine/Tile.lean ====
section
/-! DEFINITION. The tile as the rim runs it (chapter 4, R80 to R94): arriving payloads, Lull, loading a program, and what a tile
page's start and stop do: RX_SLOT_FILL, LULL_DECISION, LULL_ENTRY_DONE, LULL_DEEPEN, PLANNED_WAKE, WAKE, LULL_WAKE_DONE,
PROGRAM_LOAD, TILE_SRAM_FILL_DONE, LULL_GATE_ACTION. -/

namespace Sys2Proof.Machine

/-- A command to a physical tile. -/
def tileOut (s : State) (t : Nat) (r : State) : Out :=
  if 1088 ≤ t then .fault .noSuchUnit else if !tileFitted s t then .fault .absentUnit else .next r

/-! ### Arriving payloads (R80) -/

/-- A DATA payload stands in its slot (R111, R183): it joins the arrival queue of its binding, or is freed unreduced. -/
def fillData (s : State) (t slot : Nat) (r : RxSlot) : State :=
  let x := getSes s r.sid
  let e := x.ep r.parity
  let accepted := e.live && decide (e.num = r.epoch) && decide (e.fate r.cidx r.part r.seg = fateAccepted)
  if accepted && decide (e.st = .opened) && tileTakes s t then
    let s1 := onEp s r.sid r.parity fun e => e.setFate r.cidx r.part r.seg fateFilled
    pushEntry s1 t x.bindIndex ⟨false, false, false, false, r.parity, r.seg, slot, false, 0, 0⟩
  else
    let s1 := if accepted then onEp s r.sid r.parity fun e => e.setFate r.cidx r.part r.seg fateDiscSettled else s
    freeRxSlot s1 t slot

/-- A RESULT payload stands in its slot (R203): it joins the queue before the part's outcome marker, or is freed. -/
def fillResult (s : State) (t slot : Nat) (r : RxSlot) : State :=
  let x := getSes s r.sid
  let e := x.ep r.parity
  if e.live && decide (e.num = r.epoch) && tileTakes s t && !e.outParts.contains r.part && e.failed.isNone then
    pushEntry s t x.bindIndex ⟨false, false, false, false, r.parity, r.seg, slot, false, 0, 0⟩
  else freeRxSlot s t slot

/-- RX_SLOT_FILL (R80): the payload that a port accepted reaches its slot. A cell that finds no slot reserved is dropped, counted
and sets RX_NOSLOT. The arrival wakes the tile (R84). -/
def execRxSlotFill (t : Nat) (slot : Nat) (s : State) : Out :=
  if 64 ≤ slot then .fault .noSuchUnit
  else
    let r := (getTile s t).slot slot
    tileOut s t (
      if r.st = .free then wakeTile (raiseK (satReg s .tile t 0x070 1) .tile t 23) t
      else if decide (r.st ≠ .filled) || !r.flight || flitLeft s (fun w => decide (w = .rx t slot)) then s
      else
        let s1 := onTile s t fun x => x.setSlot slot { r with flight := false }
        let s2 := wakeTile (if r.kind = 1 then fillData s1 t slot r else fillResult s1 t slot r) t
        react s2 r.sid)

/-! ### Lull (R81 to R88) -/

/-- Entry and exit times of a level in cycles (R81). -/
def lullEntryCyc (level : Nat) : Nat := if level = 1 then 8 else if level = 2 then 360 else 1800
def lullExitCyc (level : Nat) : Nat := if level = 1 then 16 else if level = 2 then 3600 else 36000

/-- Whole nanoseconds of a number of cycles (R13). DESIGN CHOICE (log 138): TILE_LULL_NS, TILE_WAKE_LAST and EXIT_NS round a span
of cycles down. -/
def cycNs (n : Nat) : Nat := n * 5 / 9

/-- LULL_MAX, SEM_DEEP and IDLE of a tile. -/
def lullMax (s : State) (t : Nat) : Nat := fieldOf (kreg s .tile t 0x048) 2 0
def semDeep (s : State) (t : Nat) : Bool := bitOf (kreg s .tile t 0x048) 6
def idleCycles (s : State) (t : Nat) : Nat := fieldOf (kreg s .tile t 0x048) 31 16

/-- The Lull gate of a tile's partition forbids entry (R85). -/
def gateForbids (s : State) (t : Nat) : Bool := s.gates.get false (64 * halfIdx (tileHalf t) + tileOwner s t)

/-- No program is loaded. -/
def Tile.noProgram (x : Tile) : Bool := decide (x.prog = .none)

/-- The program is halted. -/
def Tile.isHalted (x : Tile) : Bool := decide (x.prog = .halted)

/-- The conditions of R82 that do not depend on the level. -/
def lullClear (s : State) (t : Nat) : Bool :=
  let x := getTile s t
  let waits := match x.wait with
    | .sem _ _ _ => true
    | .ft _ => true
    | _ => false
  pageRuns s .tile t && (waits || x.noProgram || x.isHalted) && decide (x.moves.cells = []) && x.tmma.isNone && !x.anyFilled &&
    !tileCalm s t && !gateForbids s t

/-- No session binding is present. -/
def Tile.unbound (x : Tile) : Bool := !x.anyBind (·.valid)

/-- A level's entry and exit and the guard of 256 ns fit before an FT (R83). -/
def lullFits (s : State) (h : Half) (level target : Nat) : Bool :=
  hasTime s h &&
    decide (countOf s h + cyc2304 (lullEntryCyc level + lullExitCyc level) + 256 * 2304 ≤ target * 2304)

/-- The planned wake for an FT (R83), in whole ns: the target less the exit time and 256 ns. -/
def planFor (level target : Nat) : Nat := target - (lullExitCyc level * 5 + 8) / 9 - 256

/-- The FT at which a wait must find the tile awake: the target of an FT wait, or the limit at which a semaphore wait completes
(R106, R107; DEDUCED, log 50). -/
def Tile.waitTarget (x : Tile) : Option Nat :=
  match x.wait with
  | .ft f => some f
  | .sem _ _ limit => limit
  | _ => none

/-- The planned wake of a level for what the tile waits for. -/
def Tile.planOf (x : Tile) (level : Nat) : Option Nat := x.waitTarget.map (planFor level)

/-- A level fits what the tile waits for. -/
def levelFits (s : State) (t level : Nat) : Bool :=
  match (getTile s t).waitTarget with
  | some f => lullFits s (tileHalf t) level f
  | none => true

/-- The level an awake tile decides to enter now (R83), if any. -/
def lullChoice (s : State) (t : Nat) : Option Nat :=
  let x := getTile s t
  let top := lullMax s t
  if !lullClear s t || decide (top = 0) then none
  else
    match x.wait with
    | .ft _ => [2, 1].find? fun k => decide (k ≤ top) && levelFits s t k
    | _ =>
      let idle := idleCycles s t
      if decide (idle ≠ 0) && decide (x.idleCyc + idle ≤ s.cyc) then some 1 else none

/-- The level a tile enters from Lull 1 (R83), if any: 1 ms after it reached Lull 1, while the conditions of R82 still hold. -/
def deepChoice (s : State) (t : Nat) : Option Nat :=
  let x := getTile s t
  let top := lullMax s t
  if !lullClear s t || decide (idleCycles s t = 0) || decide (s.cyc < x.lullAtCyc + 1800000) then none
  else
    match x.wait with
    | .sem _ _ _ => if semDeep s t && decide (2 ≤ top) then some 2 else none
    | .ft _ => none
    | _ =>
      if x.noProgram then (if decide (3 ≤ top) && x.unbound then some 3 else none)
      else if 2 ≤ top then some 2 else none

/-- The LULL packet in each stream of a tile, whose records go to the drain (R88). -/
def lullPacket (s : State) (t level : Nat) : State :=
  let one (u : State) (owner : Bool) : State :=
    let key := tileKey t owner
    let u1 := genRecord u key true fun timed at16 => BitVec.ofNat 8 (0x60 + level) :: fracByte timed at16 :: leBytes 8 (at16 / 16)
    if (keyChan u key).isSome then putStream u1 key { getStream u1 key with ask := true } else u1
  one (one s false) true

/-- LULL_DECISION (R82, R83, R88): the rim decides to enter a level. -/
def execLullDecision (t : Nat) (s : State) : Out :=
  tileOut s t (
    if (getTile s t).lull = .awake then
      match lullChoice s t with
      | none => s
      | some k =>
        lullPacket (onTile s t fun x =>
          { x with lull := .entering k, lullDecCyc := s.cyc, lullAtCyc := s.cyc, wakeReq := false, wakeFt := x.planOf k }) t k
    else s)

/-- What Lull 3 loses (R87). -/
def Tile.sleep3 (x : Tile) : Tile :=
  { x with
    sram := .empty, flaws := .empty, sramOn := false, vregs := .empty, tacc := .empty, racc := .empty, ibuf := .empty, slots := .empty,
    codeWords := 0 }

/-- LULL_ENTRY_DONE (R81, R84): the tile reaches its level. One that a wake event met on its way wakes at once. -/
def execLullEntryDone (t : Nat) (s : State) : Out :=
  tileOut s t (
    match (getTile s t).lull with
    | .entering k =>
      let x := getTile s t
      if x.lullAtCyc + lullEntryCyc k ≤ s.cyc then
        let s1 := onTile s t fun x =>
          { (if k = 3 then x.sleep3 else x) with lull := .asleep k, lullAtCyc := s.cyc, wakeReq := false }
        let s2 := incReg s1 .tile t (0x054 + 4 * k) 1
        if x.wakeReq then wakeTile s2 t else s2
      else s
    | _ => s)

/-- LULL_DEEPEN (R83): the tile enters Lull 2 or Lull 3 from Lull 1. -/
def execLullDeepen (t : Nat) (s : State) : Out :=
  tileOut s t (
    if (getTile s t).lull = .asleep 1 then
      match deepChoice s t with
      | none => s
      | some k =>
        lullPacket (onTile s t fun x =>
          { x with lull := .entering k, lullAtCyc := s.cyc, wakeReq := false, wakeFt := x.planOf k }) t k
    else s)

/-- PLANNED_WAKE (R83, R84, R86): held without time, and during a Calm. -/
def execPlannedWake (t : Nat) (s : State) : Out :=
  let h := tileHalf t
  tileOut s t (
    match (getTile s t).lull, (getTile s t).wakeFt with
    | .asleep k, some f =>
      if ftPassed s h f && !calmOn s h then
        onTile s t fun x => { x with lull := .waking k, wakeCyc := s.cyc, wakeFt := none }
      else s
    | _, _ => s)

/-- WAKE (R84): a write of 1 to WAKE of TILE_LULL_CTRL. -/
def execWake (port : Half) (t : Nat) (s : State) : Out :=
  mgmtWriteK s port .tile t fun s => okay (wakeTile s t) port

/-- Seed the stochastic-rounding generator (R135): from the staged seed, or by the entropy source where that is 0. -/
def seedTile (s : State) (t : Nat) : State :=
  let w := fieldOf (kregF s .tile t 0x188) 15 0
  if w ≠ 0 then onTile s t fun x => { x with sr := w }
  else
    let d := s.draw Config.entropy
    onTile d.2 t fun x => { x with sr := if d.1 % 65536 = 0 then 1 else d.1 % 65536 }

/-- The WAKE packet in each stream of a tile, and then a SYNC with full FT (R88). -/
def wakePacket (s : State) (t level ns : Nat) : State :=
  let one (u : State) (owner : Bool) : State :=
    let key := tileKey t owner
    if (keyChan u key).isSome then
      syncNow (genRecord u key false fun _ _ => BitVec.ofNat 8 (0x70 + level) :: leBytes 3 ns) key 2
    else u
  one (one s false) true

/-- LULL_WAKE_DONE (R81, R84, R88): the tile is awake again. -/
def execLullWakeDone (t : Nat) (s : State) : Out :=
  tileOut s t (
    match (getTile s t).lull with
    | .waking k =>
      let x := getTile s t
      if x.wakeCyc + lullExitCyc k ≤ s.cyc then
        let ns := cycNs (s.cyc - x.wakeCyc)
        let s1 := onTile s t fun x =>
          { x with
            lull := .awake, wakeReq := false, wakeFt := none, idleCyc := s.cyc, sramOn := true }
        let s2 := if k = 3 then seedTile s1 t else s1
        let s3 := incReg64 s2 .tile t 0x050 (cycNs (s.cyc - x.lullDecCyc))
        let s4 := setKreg s3 .tile t 0x064 (BitVec.ofNat 32 ns)
        let late := match x.wait with
          | .ft f => decide (f * 2304 < countOf s (tileHalf t))
          | _ => false
        wakePacket (if late then raiseK s4 .tile t 22 else s4) t k ns
      else s
    | _ => s)

/-- The tiles of a partition in a half. -/
def tilesOfHalf (s : State) (q : Nat) (h : Half) : List Nat :=
  (s.tiles.cells.map (·.1)).filter fun t => decide (tileHalf t = h) && decide (tileOwner s t = q)

/-- A tile that a forbidding gate wakes (R85): in Lull 1 or Lull 2, or on its way there. -/
def gateWakes (s : State) (t : Nat) : Bool :=
  match (getTile s t).lull with
  | .asleep k => decide (k < 3)
  | .entering k => decide (k < 3)
  | _ => false

/-- LULL_GATE_ACTION (R59, R60, R85). -/
def execLullGateAction (h : Half) (entry : Nat) (s : State) : Out :=
  schedOut s h entry actLullGate (fun _ => true) fun s e =>
    let q := e.target % 64
    let forbid := decide (e.arg % 2 = 1)
    let s1 := { s with gates := s.gates.put false (64 * halfIdx h + q) forbid }
    if forbid then ((tilesOfHalf s1 q h).filter (gateWakes s1)).foldl wakeTile s1 else s1

/-! ### Loading a program (R91 to R93) -/

/-- Take words from bytes, least significant byte first. -/
def wordAt (l : List Byte) (n : Nat) : Nat := leNat ((l.drop (4 * n)).take 4)

/-- A program image: its sixteen header words, its code and its data. -/
structure Image where
  head : List Byte
  code : List Byte
  data : List Byte
deriving DecidableEq, Repr

def Image.word (m : Image) (n : Nat) : Nat := wordAt m.head n
def Image.codeWords (m : Image) : Nat := m.word 2
def Image.entry (m : Image) : Nat := m.word 3
def Image.dataBytes (m : Image) : Nat := m.word 4
def Image.dataOff (m : Image) : Nat := m.word 5

/-- The sizes of a header and its reserved bits (R92, R93). -/
def Image.sizesOk (m : Image) : Bool :=
  decide (1 ≤ m.codeWords) && decide (m.codeWords ≤ 1024) && decide (m.entry < m.codeWords) && decide (m.dataBytes % 64 = 0) &&
    decide (m.dataOff % 64 = 0) && decide (0x40 + 16 * m.codeWords ≤ m.dataOff) && decide (m.dataOff + m.dataBytes ≤ 0x80000) &&
    decide (m.word 1 / 2 ^ 17 = 0) && ((List.range 9).all fun i => decide (m.word (6 + i) = 0))

/-- Why an image does not load, in the order of R93; `whole` says that its source gives its length (R92), and `readable` that every
byte could be read. -/
def Image.reject (m : Image) (tensor whole readable : Bool) : Option Nat :=
  if m.word 0 ≠ 0x4B4E4B31 then some 0x10
  else if 1 < m.word 1 % 65536 then some 0x11
  else if (m.word 1).testBit 16 && !tensor then some 0x12
  else if !m.sizesOk || !whole then some 0x13
  else if !readable || decide (crcOn 0 (m.head.take 60 ++ m.code ++ m.data) ≠ m.word 15) then some 0x14
  else none

/-- The image in a tile's SRAM (R93). -/
def sramImage (x : Tile) : Image :=
  let head := readBytes x.sram 0 64
  let cw := min 1024 (wordAt head 2)
  let n := min 0x80000 (wordAt head 4)
  ⟨head, readBytes x.sram 64 (16 * cw), readBytes x.sram (wordAt head 5) n⟩

/-- The image that a list of bytes holds: header, code and data, one after another. -/
def bytesImage (l : List Byte) : Image :=
  let head := l.take 64
  let cw := min 1024 (wordAt head 2)
  ⟨head, (l.drop 64).take (16 * cw), l.drop (64 + 16 * cw)⟩

/-- Some line of a range reads as uncorrectable (R288). -/
def rangeBad (s : State) (pid addr len : Nat) : Bool :=
  (List.range ((len + 63) / 64)).any fun i =>
    match translate s pid (addr + 64 * i) with
    | some (prn, off) => decide (lineMark s prn (off / 64) ≠ 0)
    | none => false

/-- The instruction words of a code area. -/
def codeList (l : List Byte) (n : Nat) : List (BitVec 128) :=
  (List.range n).map fun i => BitVec.ofNat 128 (leNat ((l.drop (16 * i)).take 16))

/-- An image is installed (R93): SRAM holds it and zeros, and the instruction buffer its code. -/
def Tile.install (x : Tile) (m : Image) : Tile :=
  { x with
    sram := writeBytes (writeBytes .empty 0 (m.head ++ m.code)) m.dataOff m.data, flaws := .empty
    sramOn := true, fillEnd := none, prog := .loaded, pc := m.entry, codeWords := m.codeWords
    ibuf := putSeq 0 .empty 0 (codeList m.code m.codeWords) }

/-- PROGRAM_LOAD (R92, R93): the loader of a tile whose page is in STARTING takes its image from memory or from SRAM, checks it and
installs it, or ends the start. DEDUCED: a source that the partition does not have fails with LOAD_SIZE, and an uncorrectable
line with LOAD_CRC. -/
def execProgramLoad (t : Nat) (s : State) : Out :=
  tileOut s t (
    let x := getTile s t
    if pageSt s .tile t ≠ .starting ∨ x.prog ≠ .none then s
    else
      let src := kregFN s .tile t 0x080 + 2 ^ 32 * kregFN s .tile t 0x084
      let len := kregFN s .tile t 0x07C
      let q := tileOwner s t
      let fromMem := decide (src ≠ 0)
      let headed := decide (src % 64 = 0) && rangeMapped s q src 64
      let mapped := headed && decide (64 ≤ len) && decide (len ≤ 0x80000) && rangeMapped s q src len
      let m := if fromMem then bytesImage ((readPart s q src (if mapped then (len + 63) / 64 else 1)).take (if mapped then len else 64))
        else sramImage x
      let whole := !fromMem || (mapped && decide (len = 64 + 16 * m.codeWords + m.dataBytes))
      let flawed := !fromMem && decide (x.flawed 2 [(0, 0x80000)] ≠ [])
      let code := if fromMem && !headed then some 0x13
        else m.reject s.cfg.tensor whole (!(fromMem && rangeBad s q src len) && !flawed)
      match code with
      | none => onTile (if fromMem then s else (sramRead s t [(0, 0x80000)]).getD s) t fun x => x.install m
      | some c =>
        let s0 := if flawed then raiseK (wearAdd s 2 t 1) .tile t 18 else s
        let s1 := onTile s0 t fun x => { x with sram := .empty, sramOn := true, fillEnd := none, flaws := .empty }
        failStart (setKreg s1 .tile t 0x074 (BitVec.ofNat 32 c)) (pageNo .tile t) 0)

/-- TILE_SRAM_FILL_DONE (R89): the zero-fill of an OFF tile's SRAM completes. -/
def execTileSramFillDone (t : Nat) (s : State) : Out :=
  tileOut s t (
    match (getTile s t).fillEnd with
    | some c => if c ≤ s.cyc then onTile s t fun x => { x with fillEnd := none } else s
    | none => s)

/-! ### What a tile page's states do -/

/-- Window target 0x07 opens on a tile (R84, R89): the SRAM of an OFF tile is powered and zero-filled in 512 cycles, and a tile in
Lull wakes. -/
def sramOpened (s : State) (t : Nat) : State :=
  let x := getTile s t
  if pageSt s .tile t = .off then
    if x.sramOn then s else onTile s t fun x => { x with sram := .empty, flaws := .empty, sramOn := true, fillEnd := some (s.cyc + 512) }
  else wakeTile s t

/-- The registers of R95 at zero. -/
def Tile.zeroed (x : Tile) : Tile :=
  { x with
    sregs := .empty, fz := false, fn := false, fc := false, ft := false, fl := false, fm := false, vregs := .empty,
    tacc := .empty, racc := .empty }

/-- A tile page enters STARTING (R93, R119, R135): the generator is seeded and the records of the last run are cleared. -/
def tileStarting (s : State) (t : Nat) : State :=
  let s1 := onTile s t fun x =>
    { x.zeroed with
      prog := .none, wait := .none, waitFt := allOnes64, pc := 0, codeWords := 0, ibuf := .empty, lull := .awake, ctrLatch := .empty }
  setKreg (setKreg (seedTile s1 t) .tile t 0x074 0) .tile t 0x184 0

/-- A tile page reaches ON (R95): a loaded program begins at ENTRY. -/
def tileStarted (s : State) (t : Nat) : State :=
  onTile s t fun x =>
    { x.zeroed with
      prog := if x.prog = .loaded then .running else x.prog, idleCyc := s.cyc, sramOn := true, bucketCyc := s.cyc, bucket := 0 }

/-- A tile page enters STOPPING (R84, R90). -/
def tileStopping (s : State) (t : Nat) : State :=
  let s1 := onTile s t fun x =>
    { x with prog := if x.prog = .faulted then x.prog else .halted, wait := .none, waitFt := allOnes64 }
  wakeTile (failTile s1 t true) t

/-- The stop of a tile page may complete (R90): every MOVE has completed and every receive slot is FREE. -/
def tileMayStop (s : State) (t : Nat) : Bool :=
  let x := getTile s t
  decide (x.moves.cells = []) && decide (x.rxHeld = 0)

/-- The stop of a tile page completes (R90): the program is gone. -/
def tileStopDone (s : State) (t : Nat) : State :=
  onTile s t fun x =>
    { x.zeroed with
      prog := .none, wait := .none, waitFt := allOnes64, pc := 0, codeWords := 0, ibuf := .empty, tmma := none, lull := .awake,
      wakeReq := false, stopped := false, wakeFt := none }

/-- A tile page reaches OFF from STOPPING (R87, R89): the tile is in the power state of Lull 3, and its SRAM loses what it held. -/
def tileStopped (s : State) (t : Nat) : State :=
  onTile (tileStopDone s t) t fun x => { x with sram := .empty, flaws := .empty, sramOn := false, fillEnd := none }

end Sys2Proof.Machine
end

