-- ==== Sys2Proof/Machine/Fabric.lean ====
section
/-! DEFINITION. Fabric time (chapter 3): the beat, the lock states of each FTU, what gaining and losing time do, trigger inputs, the
bypass sideband, and what becomes of schedule entries: FT_BEAT, BEAT_STUCK, ACQUIRE_GAP, COASTING, TIME_LOST, SCHEDULE_COMMIT,
SCHEDULE_MISSED, TRIG_IN_EDGE, TRIG_STUCK, TRIG_STUCK_CLEAR, BYPASS_ACTION, BYP_STAT_CHANGE. -/

namespace Sys2Proof.Machine

/-- An FTU's page. -/
def ftuPage (h : Half) : Nat := pageNo .ftu (halfIdx h)

/-- Change an FTU. -/
def onFtu (s : State) (h : Half) (f : Ftu → Ftu) : State := { s with ftu := s.ftu.put h (f (s.ftu.get h)) }

/-- Codes of R52. -/
def lockCode : LockSt → Nat
  | .acquiring => 0
  | .locked => 1
  | .coasting => 2
  | .timeLost => 3

/-- The fitted halves. -/
def fittedHalves (c : BlockCfg) : List Half := if c.halfB then [.a, .b] else [.a]

/-! ### Gaining and losing time -/

/-- A half without time drops its epochs (R195): starts not yet made are UNCOMMITTED, OPEN epochs fail with TIME_LOST. -/
def sessionLosesTime (s : State) (sid : Nat) : State :=
  let one (u : State) (par : Nat) : State :=
    match ((getSes u sid).ep par).st with
    | .armed => uncommit u sid par
    | .committed => uncommit u sid par
    | .opened => failEpoch u sid par rsnTimeLost
    | _ => u
  react (one (one s 0) 1) sid

/-- The sessions whose home is a half. -/
def sessionsOf (s : State) (h : Half) : List Nat :=
  (s.sessions.cells.filter fun c => decide (c.2.st ≠ .empty) && decide (c.2.home = h)).map (·.1)

/-- A half loses time (R54, R67, R195): BYP_WIN falls, send stamps keep the last valid FT, and its sessions' epochs end. `b` is the
state before. -/
def loseTime (b s : State) (h : Half) : State :=
  let s1 := onFtu s (timeHalf s h) fun f => { f with lastValid := ftNs b h }
  let s2 := { s1 with bypWin := s1.bypWin.put h 0 }
  (sessionsOf s2 h).foldl sessionLosesTime s2

/-- What becomes of an armed entry whose FT passed while its half was without time (R63, R66), and how many firings were
missed. -/
def Entry.overtaken (e : Entry) (now : Nat) : Entry × Nat :=
  match e.st, e.due with
  | .armed, some d =>
    if now ≤ d then (e, 0)
    else if e.trig then (if e.rearm then { e with due := none } else { e with st := .missed, due := none }, 1)
    else if e.period = 0 then ({ e with st := .missed, due := none }, 1)
    else
      let n := (now - d + e.period * 1000 - 1) / (e.period * 1000)
      ({ e with due := some (d + n * (e.period * 1000)) }, n)
  | _, _ => (e, 0)

/-- Retire and skip what a half's schedule missed (R63). -/
def settleSchedule (s : State) (h : Half) : State :=
  let now := ftNs s h
  let hit := s.sched.cells.filter fun c => decide (c.1 / 1024 = halfIdx h)
  let r := hit.foldl (fun (u : State × Nat) c =>
    let q := c.2.overtaken now
    (putEntry u.1 h (c.1 % 1024) q.1, u.2 + q.2)) (s, 0)
  countMissed r.1 h r.2

/-- READY slot tables of a half count from the return of time (R272, R273). -/
def settlePorts (s : State) (h : Half) : State :=
  let now := ftNs s h
  { s with ports := s.ports.mapVals fun p x =>
      if portHalf p = h ∧ x.ready.isSome then
        { x with
          after := some (match x.after with | some a => max a now | none => now + ftuLead s h)
          fired := x.fired.map fun f => max f now }
      else x }

/-- Epochs that wait for an outcome count the timers of R193 from the return of time (R195). -/
def settleOrphans (s : State) (h : Half) : State :=
  let now := ftNs s h
  let f (e : Epoch) : Epoch := if e.sent ∧ e.live = true then { e with doneAt := now, doneCount := 1 } else e
  { s with sessions := s.sessions.mapVals fun _ x =>
      if x.st ≠ .empty ∧ x.home = h then { x with eps := ⟨f x.eps.a, f x.eps.b⟩ } else x }

/-- The command that ends a Calm is late where its FT passed while the half was without time (R421). -/
def settleCalm (s : State) (h : Half) : State :=
  let c := s.calm.get h
  match c.cmd with
  | some (_, f) => if f < ftNs s h then { s with calm := s.calm.put h { c with late := true } } else s
  | none => s

/-- A half has time again. -/
def gainTime (s : State) (h : Half) : State := settleCalm (settleOrphans (settlePorts (settleSchedule s h) h) h) h

/-- The effects of a change in who has time, from `b` to `s`. -/
def retimed (b s : State) : State :=
  (fittedHalves s.cfg).foldl (fun u h =>
    if hasTime b h && !hasTime s h then loseTime b u h
    else if !hasTime b h && hasTime s h then gainTime u h
    else u) s

/-- An FTU enters a lock state, and reports it (R52, R369). -/
def enterLock (s : State) (h : Half) (l : LockSt) : State :=
  let i := halfIdx h
  let s1 := onFtu s h fun f => { f with lock := l }
  let s2 := if l = .timeLost then
      flagParts (raiseK (setKreg64 s1 .ftu i 0x078 (nsOf (s.ftu.get h).count)) .ftu i 20) 3
    else s1
  unitEvent s2 i none 7 (lockCode l) (ftuPage h) (if l = .timeLost then kreg64 s2 .ftu i 0x078 else 0)

/-- An FTU's page leaves ON or starts afresh (R52, R70). -/
def ftuStops (s : State) (h : Half) : State :=
  retimed s (onFtu s h fun f => { f with lock := .acquiring, run := 0, goodCyc := none })

/-! ### The beat (R51, R52, R55) -/

/-- Whole microseconds from the last good beat on the FTU's count, rounded to the nearest (R51). -/
def beatsSince (f : Ftu) : Nat := (f.count - f.goodCount + 1152000) / 2304000

/-- The beat fails the low time, the spacing, or a word condition of R51. -/
def beatFaults (s : State) (f : Ftu) (word : Nat) (valid : Bool) (lowNs : Nat) : Bool × Bool × Bool :=
  (decide (lowNs < 100),
   (match f.edgeCyc with
    | some c => !cycAgo s c 909
    | none => false),
   !valid || decide (word % 1000 ≠ 0) || (decide (f.lock = .locked) && decide (word ≠ f.goodWord + 1000 * beatsSince f)))

/-- An ignored beat (R51, R52). -/
def badBeat (s : State) (h : Half) (fast word : Bool) : State :=
  let i := halfIdx h
  let s1 := incReg s .ftu i 0x05C 1
  let s2 := if fast then raiseK s1 .ftu i 17 else s1
  let s3 := if word then raiseK s2 .ftu i 18 else s2
  onFtu s3 h fun f => if f.lock = .acquiring then { f with run := 0 } else f

/-- The error of the count against a word, in 1/2304 ns. -/
def beatError (f : Ftu) (word : Nat) : Int := ((word * 2304 : Nat) : Int) - (f.count : Int)

/-- FTU_PHASE in 1/256 ns, the host's word minus the count. DESIGN CHOICE: that sign (log 129), and an error that does not fit the
register is a free value. -/
def notePhase (s : State) (h : Half) (err : Int) : State :=
  let v := err / 9
  if -(2 ^ 31 : Int) ≤ v ∧ v < (2 ^ 31 : Int) then setKreg s .ftu (halfIdx h) 0x054 (BitVec.ofInt 32 v)
  else
    let d := s.draw Config.ftuPhase
    setKreg d.2 .ftu (halfIdx h) 0x054 d.1

/-- The beat is a good one: what stands of it. -/
def markGood (s : State) (h : Half) (word : Nat) : State :=
  onFtu s h fun f => { f with goodCyc := some s.cyc, goodWord := word, goodCount := f.count }

/-- CLK_CORE cycles between two beats of the nominal 1 MHz. -/
def beatCycles : Nat := 1800

/-- The rates that bring the count within 20 ns of the host's time at the next beat (R53), from a lowest one; the drawn value picks
one of them. -/
def rateFor (f : Ftu) (word draw : Nat) : Nat :=
  let goal := (word + 1000) * 2304
  let lo := (goal - 20 * 2304 - f.count + beatCycles - 1) / beatCycles
  let hi := (goal + 20 * 2304 - f.count) / beatCycles
  lo + draw % (hi - lo + 1)

/-- The corrected rate after a good beat (before R52, R53): a free value among those that keep the half LOCKED to the host. -/
def retune (s : State) (h : Half) (word : Nat) : State :=
  let d := s.draw Config.ftuRate
  onFtu d.2 h fun f => { f with rate := rateFor f word d.1 }

/-- The FTU adopts the host's word (R52, R55): every trace source emits a SYNC before any other record. -/
def adopt (s : State) (h : Half) (word : Nat) : State :=
  let s1 := retune (onFtu s h fun f => { f with count := word * 2304, everLocked := true, run := 0 }) h word
  enterLock ((fittedHalves s.cfg).foldl (fun u g => if timeHalf u g = h then askSyncHalf u g 3 else u) s1) h .locked

/-- A good beat (R52). -/
def goodBeat (s : State) (h : Half) (word : Nat) : State :=
  let i := halfIdx h
  let f := s.ftu.get h
  let err := beatError f word
  let near := decide (err.natAbs ≤ 250 * 2304)
  let s1 := notePhase (incReg s .ftu i 0x058 1) h err
  match f.lock with
  | .acquiring =>
    let follows := decide (1 ≤ f.run) && decide (word = f.goodWord + 1000) &&
      match f.goodCyc with
      | some c => decide (cyc2304 (s.cyc - c) ≤ 1100 * 2304)
      | none => false
    let run := if follows then f.run + 1 else 1
    if 16 ≤ run then markGood (adopt s1 h word) h word else markGood (onFtu s1 h fun f => { f with run := run }) h word
  | .locked =>
    if near then markGood (retune s1 h word) h word else markGood (enterLock (raiseK s1 .ftu i 19) h .timeLost) h word
  | .coasting =>
    if near then markGood (enterLock (retune s1 h word) h .locked) h word
    else markGood (enterLock (raiseK s1 .ftu i 19) h .timeLost) h word
  | .timeLost => markGood (enterLock (onFtu s1 h fun f => { f with run := 1 }) h .acquiring) h word

/-- The standby FTU compares its count with the distributed one (after R57). -/
def checkSkew (s : State) (h : Half) : State :=
  let g := timeHalf s h
  if decide (g ≠ h) &&
      decide (20 * 2304 < (((s.ftu.get h).count : Int) - ((s.ftu.get g).count : Int)).natAbs) then
    raiseK s .ftu (halfIdx h) 24
  else s

/-- What the edge of a beat may replace (R51). -/
def undoOf (s : State) (h : Half) : FtuUndo :=
  let f := s.ftu.get h
  ⟨s.cyc, f.lock, f.count, f.rate, f.run, f.goodCyc, f.goodWord, f.goodCount, f.everLocked, kreg s .ftu (halfIdx h) 0x054⟩

/-- One edge at the FTU of a half whose page is ON. -/
def beatAt (s : State) (h : Half) (word : Nat) (valid : Bool) (lowNs : Nat) : State :=
  if !pageIsOn s .ftu (halfIdx h) then onFtu s h fun f => { f with edgeCyc := some s.cyc }
  else
    let q := beatFaults s (s.ftu.get h) word valid lowNs
    let s1 := onFtu s h fun f => { f with edgeCyc := some s.cyc }
    if q.1 || q.2.1 || q.2.2 then badBeat s1 h q.2.1 q.2.2 else onFtu (checkSkew (goodBeat s1 h word) h) h fun f => { f with undo := some (undoOf s h) }

/-- FT_BEAT (R51, R52, R55, R70): a rising edge of FT_BEAT with its word, whether FT_WORD_VALID is high, and how long the line was
low before it. -/
def execFtBeat (word : Nat) (valid : Bool) (lowNs : Nat) (s : State) : Out :=
  let w := word % 2 ^ 64
  .next (retimed s ((fittedHalves s.cfg).foldl (fun u h => beatAt u h w valid lowNs) s))

/-- An FTU as it would stand had the edge of its last good beat been ignored (R51): what it knew at the edge, with its count run on
at the rate of then. A half that has begun to coast since stays COASTING. -/
def Ftu.undone (f : Ftu) (u : FtuUndo) (cyc : Nat) : Ftu :=
  { f with
    lock := if u.lock = .locked ∧ f.lock = .coasting then .coasting else u.lock
    count := (u.count + (cyc - u.cyc) * u.rate) % (2 ^ 72 * 9)
    rate := u.rate, run := if u.lock = .acquiring then 0 else u.run, goodCyc := u.goodCyc, goodWord := u.goodWord,
    goodCount := u.goodCount, everLocked := u.everLocked, undo := none }

/-- The beat that the line has been high since is ignored from its edge on (R51): where it was taken as a good one it counts as bad
instead, and the FTU goes on as if it had not come. The PAGE_ERR bits and the records that it left stay. -/
def stuckAt (s : State) (h : Half) : State :=
  let i := halfIdx h
  let f := s.ftu.get h
  if !pageIsOn s .ftu i then s
  else
    let s1 := raiseK s .ftu i 16
    match f.undo with
    | some u =>
      if f.edgeCyc = some u.cyc then
        let s2 := setKreg (setKreg (incReg s1 .ftu i 0x05C 1) .ftu i 0x058 (kreg s1 .ftu i 0x058 - 1)) .ftu i 0x054 u.phase
        onFtu s2 h fun f => f.undone u s.cyc
      else s1
    | none => s1

/-- BEAT_STUCK (R51): FT_BEAT has been high for 2 µs. -/
def execBeatStuck (s : State) : Out := .next (retimed s ((fittedHalves s.cfg).foldl stuckAt s))

/-- The last good beat lies so many ns back. -/
def beatGone (s : State) (h : Half) (ns : Nat) : Bool :=
  match (s.ftu.get h).goodCyc with
  | some c => cycAgo s c ns
  | none => false

/-- A lock state of a half's FTU ends for want of beats. -/
def lockTimer (s : State) (h : Half) (l : LockSt) (ns : Nat) (f : State → State) : Out :=
  needHalf s h (.next (
    if pageIsOn s .ftu (halfIdx h) && decide ((s.ftu.get h).lock = l) && beatGone s h ns then f s else s))

/-- ACQUIRE_GAP (R52). -/
def execAcquireGap (h : Half) (s : State) : Out :=
  lockTimer s h .acquiring 1100 fun s => onFtu s h fun f => { f with run := 0 }

/-- COASTING (R52). -/
def execCoasting (h : Half) (s : State) : Out := lockTimer s h .locked 1100 fun s => enterLock s h .coasting

/-- TIME_LOST (R52, R54, R67): 10 ms have passed since the last good beat. -/
def execTimeLost (h : Half) (s : State) : Out :=
  lockTimer s h .coasting 10000000 fun s => retimed s (enterLock s h .timeLost)

/-! ### The schedule window (R58, R60, R62) -/

/-- The words of an entry as it stands (R58). -/
def Entry.words (e : Entry) : List Word :=
  let st := match e.st with
    | .empty => 0
    | .armed => 1
    | .fired => 2
    | .missed => 3
    | .cancelled => 4
    | .held => 5
  [BitVec.ofNat 32 e.ft, BitVec.ofNat 32 (e.ft / 2 ^ 32),
   BitVec.ofNat 32 (e.action * 2 ^ 24 + e.pid * 2 ^ 16 + b2n e.trig * 128 + e.line * 32 + b2n e.rearm * 16),
   BitVec.ofNat 32 e.target, BitVec.ofNat 32 e.arg, BitVec.ofNat 32 e.period, BitVec.ofNat 32 (st + 256 * e.fires), 0]

/-- Word i of entry n as a transfer leaves it: what was written, or the present word. -/
def newWord (ws : List (Nat × Word)) (e : Entry) (n i : Nat) : Word :=
  match ws.find? fun x => decide (x.1 = 8 * n + i) with
  | some x => x.2
  | none => e.words.getD i 0

/-- The entry that a transfer writes at n, ARMED. -/
def newEntry (ws : List (Nat × Word)) (e : Entry) (n : Nat) : Entry :=
  let w (i : Nat) := newWord ws e n i
  let c := w 2
  let ft := (w 0).toNat + 2 ^ 32 * (w 1).toNat
  { st := .armed, fires := 0, ft := ft, action := fieldOf c 31 24, pid := fieldOf c 21 16, trig := bitOf c 7,
    line := fieldOf c 6 5, rearm := bitOf c 4, target := (w 3).toNat, arg := (w 4).toNat, period := (w 5).toNat,
    due := if bitOf c 7 then none else some ft }

/-- A page that the map covers and the block fits. -/
def pageFitted (s : State) (pg : Nat) : Option (PageKind × Nat) :=
  match pageOf pg with
  | some (k, i) => if kindBeyond s.cfg k i || !kindFitted s.cfg k i then none else some (k, i)
  | none => none

/-- An entry names an absent or unfitted target (reason 1). -/
def targetBad (s : State) (h : Half) (e : Entry) : Bool :=
  let pg := pageFitted s e.page
  let is (f : PageKind → Nat → Bool) : Bool := match pg with
    | some (k, i) => f k i
    | none => false
  if e.action = actCalm then !is fun k _ => decide (k = .calm)
  else if e.action = actSnapshot then pg.isNone
  else if e.action = actInterval then !is fun k _ => decide (k = .bank)
  else if e.action = actSlotSwitch then !is fun k _ => decide (k = .port)
  else if e.action = actPageCtrl then !is fun k _ => !keptOn k
  else if e.action = actReport then
    !is fun k i => (decide (k = .wv) || decide (k = .funnel)) && decide (i = halfIdx h)
  else false

/-- The kind of a REPORT (R60). -/
def Entry.reportKind (e : Entry) : Nat := e.arg % 256

/-- The channel of a Gust (R60). -/
def Entry.gustChan (e : Entry) : Nat := bitsOf e.arg 13 8

/-- The entry names the funnel page of its half. -/
def Entry.atFunnel (e : Entry) : Bool :=
  match pageOf e.page with
  | some (.funnel, _) => true
  | _ => false

/-- A target that does not belong to the entry's PID (reason 2). -/
def ownerBad (s : State) (e : Entry) : Bool :=
  if e.action = actCalm ∨ e.action = actSlotSwitch ∨ e.action = actPageCtrl ∨ e.action = actBypass then decide (e.pid ≠ 0)
  else if e.action = actSnapshot then decide (e.pid ≠ 0) && decide (pageOwner s e.page ≠ e.pid)
  else if e.action = actInterval then decide (pageOwner s e.page ≠ e.pid)
  else if e.action = actEpochStart then true
  else if e.action = actLullGate then decide (e.target % 64 ≠ e.pid)
  else if e.action = actReport then
    if e.atFunnel && decide (e.reportKind = 2) then decide (pageOwner s (pageNo .chan e.gustChan) ≠ e.pid) else decide (e.pid ≠ 0)
  else false

/-- A reserved code or bit (reason 3), given word 2 as written. -/
def codeBad (e : Entry) (w2 : Word) : Bool :=
  decide (9 < e.action) || decide (fieldOf w2 23 22 ≠ 0) || decide (fieldOf w2 15 8 ≠ 0) || decide (fieldOf w2 3 0 ≠ 0) ||
    (!e.trig && (decide (e.line ≠ 0) || e.rearm)) || (e.trig && (decide (e.ft / 2 ^ 32 ≠ 0) || decide (e.period ≠ 0))) ||
    (if e.action = 0 then false
     else if e.action = actEpochStart then decide (e.target / 2 ^ 12 ≠ 0)
     else if e.action = actLullGate then decide (e.target / 2 ^ 6 ≠ 0)
     else if e.action = actBypass then decide (e.target / 2 ^ 2 ≠ 0)
     else decide (e.target / 2 ^ 14 ≠ 0)) ||
    (decide (e.action = actCalm) && decide (bitsOf e.arg 7 2 ≠ 0)) ||
    (decide (e.action = actReport) &&
      !(decide (e.reportKind = 1) || (e.atFunnel && decide (e.reportKind = 2))))

/-- An FT is less than FTU_LEAD ahead of the count, fraction included (R62). -/
def tooSoon (s : State) (h : Half) (ft : Nat) : Bool := decide (ft * 2304 < countOf s h + ftuLead s h * 2304)

/-- The window's leads (reason 5): of the new FT, of a trigger's offset, and of the armed entry that is replaced. -/
def leadBad (s : State) (h : Half) (old e : Entry) : Bool :=
  let known := (s.ftu.get h).everLocked && (s.ftu.get (timeHalf s h)).everLocked
  let fresh := if e.trig then decide (e.ft < ftuLead s h)
    else !known || tooSoon s h e.ft
  let replaced := decide (old.st = .armed) &&
    (!known || ((decide (e.action = 0) || decide (e.ft ≠ old.ft) || decide (e.trig ≠ old.trig)) &&
      match old.due with
      | some d => tooSoon s h d
      | none => false))
  fresh || replaced

/-- A Calm plan that R410 forbids (reason 6). -/
def planBad (e : Entry) : Bool :=
  decide (e.action = actCalm) &&
    (let r := bitsOf e.arg 31 16
     let c := bitsOf e.arg 15 8
     decide (r ≠ 0) && decide (r < if c = 0 then 20 else c))

/-- Why a written entry is rejected (R62): reserve first, else the lowest code. -/
def entryReject (s : State) (h : Half) (n : Nat) (old e : Entry) (w2 : Word) : Option Nat :=
  if reserveFrom s h ≤ n then some 4
  else if targetBad s h e then some 1
  else if ownerBad s e then some 2
  else if codeBad e w2 then some 3
  else if leadBad s h old e then some 5
  else if planBad e then some 6
  else none

/-- The entries that a transfer writes, in ascending order. -/
def writtenEntries (ws : List (Nat × Word)) : List Nat :=
  (List.range 1024).filter fun n => ws.any fun x => decide (x.1 / 8 = n) && decide (x.1 % 8 < 6)

/-- Put an accepted entry in place; ACTION NONE cancels what it replaces (R62). DEDUCED (log 33): the entry's words stay then, and of its
states only ARMED and HELD change. -/
def acceptEntry (s : State) (h : Half) (n : Nat) (e : Entry) : State :=
  if e.action = 0 then
    let o := getEntry s h n
    putEntry s h n (if o.st = .armed ∨ o.st = .held then { o with st := .cancelled, due := none } else o)
  else putEntry s h n e

/-- SCHEDULE_COMMIT (R58, R60, R62, R64): the entries that a closed write window holds are armed, or the whole transfer is
rejected. -/
def execScheduleCommit (mgmt : Half) (w : Nat) (s : State) : Out :=
  let x := getWin s mgmt w
  if !x.awaits 6 then .next s
  else
    let h := halfOf x.inst
    let l := writtenEntries x.staged
    let why (n : Nat) : Option Nat :=
      let o := getEntry s h n
      entryReject s h n o (newEntry x.staged o n) (newWord x.staged o n 2)
    match l.find? fun n => (why n).isSome with
    | some n =>
      let r := (why n).getD 0
      .next (decideWin (setKreg s .ftu (halfIdx h) 0x070 (BitVec.ofNat 32 (n + 4096 * r))) mgmt w false)
    | none =>
      .next (decideWin (l.foldl (fun u n => acceptEntry u h n (newEntry x.staged (getEntry u h n) n)) s) mgmt w true)

/-- SCHEDULE_MISSED (R63, R66): a repetition, or a trigger's firing under REARM 1, whose FT has passed while the half is without
time is skipped and counted. -/
def execScheduleMissed (h : Half) (entry : Nat) (s : State) : Out :=
  needHalf s h (.next (
    let e := getEntry s h entry
    if !hasTime s h && e.ready (countOf s h) && (decide (e.period ≠ 0) || (e.trig && e.rearm)) then
      let d := e.due.getD 0
      countMissed (putEntry s h entry { e with due := if e.trig then none else some (nextRep e d) }) h 1
    else s))

/-! ### Trigger inputs (R65, R66) -/

/-- The key of a line of a half. -/
def trigKey (line : Nat) (h : Half) : Nat := 2 * line + halfIdx h

/-- Arm the entries of a line that wait for its edge (R66). -/
def armTriggers (s : State) (h : Half) (line ft : Nat) : State :=
  { s with sched := s.sched.mapVals fun k e =>
      if k / 1024 = halfIdx h ∧ e.st = .armed ∧ e.trig = true ∧ e.line = line ∧ e.due = none then
        { e with due := some (ft + e.ft) }
      else e }

/-- A line's overrun count. -/
def overrunOf (s : State) (h : Half) (line : Nat) : Nat := bitsOf (kregN s .ftu (halfIdx h) 0x074) (8 * line + 7) (8 * line)

/-- An edge that is not acted on. -/
def overrun (s0 : State) (h : Half) (line : Nat) : State :=
  let i := halfIdx h
  let s := { s0 with trigCyc := s0.trigCyc.drop (8 + trigKey line h) }
  let n := overrunOf s h line
  if n = 255 then s
  else raiseK (setKreg s .ftu i 0x074 (putField (kreg s .ftu i 0x074) (8 * line + 7) (8 * line) (n + 1))) .ftu i 22

/-- An edge of a line at one half. -/
def trigAt (line : Nat) (s : State) (h : Half) : State :=
  let spaced := match s.trigCyc.find (trigKey line h) with
    | some c => decide (c + 64 ≤ s.cyc)
    | none => true
  if hasTime s h && spaced then
    let ft := ftNs s h
    let s1 := setKreg64 { s with trigCyc := (s.trigCyc.set (trigKey line h) s.cyc).set (8 + trigKey line h) 1 } .ftu (halfIdx h) (0x080 + 8 * line) ft
    armTriggers (unitEvent s1 (2 + halfIdx h) none 0 line (ftuPage h) (overrunOf s h line)) h line ft
  else overrun s h line

/-- TRIG_IN_EDGE (R65, R66): a filtered rising edge of a line; the sideband's inputs read low while its power-good is low (R461). -/
def execTrigInEdge (line : Nat) (s : State) : Out :=
  if 4 ≤ line then .fault .noSuchUnit
  else if !s.pgSb then .next s
  else .next ((fittedHalves s.cfg).foldl (trigAt line) { s with trigHigh := s.trigHigh ||| 2 ^ line })

/-- TRIG_STUCK (R65): the line has stayed high for 1 ms after an acted edge. -/
def execTrigStuck (line : Nat) (s : State) : Out :=
  if 4 ≤ line then .fault .noSuchUnit
  else if !(s.pgSb && s.trigHigh.testBit line) then .next s
  else
    .next ((fittedHalves s.cfg).foldl (fun u h =>
      let i := halfIdx h
      let w := kreg u .ftu i 0x040
      match u.trigCyc.find (trigKey line h) with
      | some c =>
        if (u.trigCyc.find (8 + trigKey line h)).isSome && cycAgo u c 1000000 && !bitOf w (8 + line) then raiseK (setKreg u .ftu i 0x040 (setBit w (8 + line))) .ftu i 21 else u
      | none => u) s)

/-- A line falls: its TRIG_STUCK bits clear. -/
def lineFalls (s : State) (line : Nat) : State :=
  (fittedHalves s.cfg).foldl (fun u h =>
    setKreg u .ftu (halfIdx h) 0x040 (clearBit (kreg u .ftu (halfIdx h) 0x040) (8 + line)))
    { s with
      trigHigh := s.trigHigh &&& (15 - 2 ^ line), trigCyc := (s.trigCyc.drop (8 + trigKey line .a)).drop (8 + trigKey line .b) }

/-- TRIG_STUCK_CLEAR (R65). -/
def execTrigStuckClear (line : Nat) (s : State) : Out :=
  if 4 ≤ line then .fault .noSuchUnit else .next (lineFalls s line)

/-! ### The bypass sideband (R67) -/

/-- BYPASS_ACTION (R59, R67): one BYP_WIN output rises or falls, as the half that gives time drives it (R56). -/
def execBypassAction (h : Half) (entry : Nat) (s : State) : Out :=
  schedOut s h entry actBypass (fun _ => true) fun s e =>
    let g := timeHalf s h
    let line := e.target % 4
    let old := s.bypWin.get g
    { s with bypWin := s.bypWin.put g (if e.arg % 2 = 1 then old ||| 2 ^ line else old &&& (15 - 2 ^ line)) }

/-- BYP_STAT_CHANGE (R67): the inputs now read `lines`; each changed line is emitted. -/
def execBypStatChange (lines : Nat) (s : State) : Out :=
  let new := lines % 16
  if !s.pgSb then .next s
  else
    let h := mainHalf s
    .next ((List.range 4).foldl (fun u n =>
      if s.bypStat.testBit n = new.testBit n then u
      else unitEvent u (2 + halfIdx h) none 1 n (ftuPage h) (b2n (new.testBit n) + 2 * b2n ((u.bypWin.get h).testBit n)))
      { s with bypStat := new })

end Sys2Proof.Machine
end

