-- ==== Sys2Proof/Machine/Weathervane.lean ====
section
/-! DEFINITION. The commands of Weathervane (chapter 10): SHADOW_COPY, GROUP_TIMEOUT, WV_MEASURE, DENSE_AUDIT, and the report
record of a retired epoch (R233, R234). -/

namespace Sys2Proof.Machine

/-- The half of a shadow reducer by page index. -/
def srHalf (c : BlockCfg) (sr : Nat) : Half := (kindHalf c .wvSr sr).getD .a

/-- A command to a shadow reducer, by page index. -/
def srOut (s : State) (sr : Nat) (r : State) : Out :=
  if 64 ≤ sr then .fault .noSuchUnit else if s.cfg.srPages ≤ sr then .fault .absentUnit else .next r

/-- Groups of an epoch, by slot. -/
def groupsOfEpoch (s : State) (sid epoch : Nat) : List (Nat × WvGroup) :=
  s.wvGroups.cells.filter fun c => decide (c.2.sid = sid) && decide (c.2.epoch = epoch)

/-- The epoch is live at this block. -/
def epochLive (s : State) (sid epoch : Nat) : Bool :=
  let e := (getSes s sid).ep (epoch % 2)
  e.live && decide (e.num = epoch)

/-- An epoch that has retired keeps its entry only while a group of it holds a slot. -/
def tidyWv (s : State) (sid epoch : Nat) : State :=
  if epochLive s sid epoch || decide (groupsOfEpoch s sid epoch ≠ []) then s else dropWvEp s sid epoch

/-! ### Copies and groups -/

/-- The flit that a shadow reducer takes next: the oldest on its way to it, with its place. -/
def nextWvFlit : Nat → Nat → List WvFlit → Option (Nat × WvFlit)
  | _, _, [] => none
  | sr, n, f :: l => if f.sr = sr then some (n, f) else nextWvFlit sr (n + 1) l

/-- A group takes a flit. -/
def WvGroup.takes (g : WvGroup) (cyc : Nat) : WvWhat → WvGroup
  | .copy fmt scale op raws => g.copied fmt scale op raws
  | .state i accs sent => g.stated cyc i accs sent
  | .audit => g

/-- Non-finite elements of a group. -/
def WvGroup.odds (g : WvGroup) : Nat := (g.elems.filter (·.odd)).length

/-- A group completes (R225, R393): it is counted. -/
def groupCompletes (s : State) (key : Nat) (g : WvGroup) : State :=
  let h := srHalf s.cfg (key / 128)
  let s1 := onWvEp { s with wvGroups := s.wvGroups.set key { g with complete := true } } g.sid g.epoch fun e =>
    { e with completed := e.completed + 1, nonfinite := min 255 (e.nonfinite + g.odds) }
  countBlk s1 h 0x0F [0] (halfIdx h) (some (getSes s g.sid).pid) 1

/-- A copy flit of a dense audit has come (R235). -/
def tookAudit (s : State) (sr slot : Nat) : State :=
  { s with audits := s.audits.map fun a => if a.sr = sr ∧ a.slot = slot then { a with left := a.left - 1 } else a }

/-- SHADOW_COPY (R221, R224, R225, R235): a shadow reducer takes one copy or state flit, or one of a dense audit. -/
def execShadowCopy (sr : Nat) (s : State) : Out :=
  srOut s sr (
    match nextWvFlit sr 0 s.wvFlits with
    | none => s
    | some (n, f) =>
      let s1 := incReg { s with wvFlits := s.wvFlits.eraseIdx n } .wvSr sr 0x048 1
      let key := 128 * sr + f.slot
      if f.what = .audit then tookAudit s1 sr f.slot
      else match s1.wvGroups.find key with
      | none => s1
      | some g =>
        let g1 := g.takes s.cyc f.what
        if g1.ready then groupCompletes s1 key g1 else { s1 with wvGroups := s1.wvGroups.set key g1 })

/-- GROUP_TIMEOUT (R225): a group that has not completed WV_GROUP_TIMEOUT after its state flits is voided. -/
def execGroupTimeout (sr : Nat) (group : Nat) (s : State) : Out :=
  srOut s sr (
    let key := 128 * sr + group % 128
    let h := srHalf s.cfg sr
    match s.wvGroups.find key with
    | none => s
    | some g =>
      if decide (g.states = 4) && !g.complete && cycAgo s g.stateCyc (kregFN s .wv (halfIdx h) 0x048) then
        tidyWv (voidGroup s key) g.sid g.epoch
      else s)

/-! ### Measures -/

/-- Every group that an epoch still holds is complete, and there is one (R225, R226). -/
def measurable (s : State) (sid epoch : Nat) : Bool :=
  let l := groupsOfEpoch s sid epoch
  decide (l ≠ []) && l.all fun c => c.2.complete

/-- WV_MEASURE (R226 to R232): the measures of an epoch are formed from its completed groups, whose slots become free. A valid
measure joins the session's. -/
def execWvMeasure (sid : Nat) (epoch : Nat) (s : State) : Out :=
  match wvEp s sid epoch with
  | none => .next s
  | some w =>
    if !measurable s sid epoch then .next s
    else
      let x := getSes s sid
      let l := groupsOfEpoch s sid epoch
      let m := measure s x (l.map (·.2))
      let s1 := { m.2 with wvGroups := l.foldl (fun t c => t.drop c.1) m.2.wvGroups }
      let s2 := onWvEp s1 sid epoch fun e => { e with codes := some m.1, ft := ftOrOnes s x.home }
      let s3 := if x.measureValid s w.completed then
          onSes s2 sid fun y => y.withMeasure ⟨epoch, m.1.total, m.1.narrow, m.1.outMax, false⟩
        else s2
      .next (tidyWv s3 sid epoch)

/-! ### Dense audits (R235) -/

/-- The exact value of an audited output: the accumulator before and every product, with no rounding. -/
def DenseAudit.exact (a : DenseAudit) : Val :=
  let xs := elemVals a.fmt (List.zip a.row a.rowScales)
  let ys := elemVals a.fmt (List.zip a.col a.colScales)
  (List.zip xs ys).foldl (fun v p => v.add (p.1.mul p.2)) (laneVal a.before)

/-- The replica of R146's fixed procedure. -/
def DenseAudit.replica (a : DenseAudit) : Word :=
  tmmaOutput (a.row.length / 32) 0 a.before (elemVals a.fmt (List.zip a.row a.rowScales))
    (elemVals a.fmt (List.zip a.col a.colScales))

/-- The replica differs from the tile's result. The payload of a NaN is open (chapter 6): two NaNs agree. -/
def DenseAudit.differs (a : DenseAudit) : Bool :=
  decide (a.replica ≠ a.after) && !(isNanW a.replica && isNanW a.after)

/-- The code of the relative difference between replica and exact value (R228); none where one is not finite. -/
def DenseAudit.code (a : DenseAudit) : Option Nat :=
  match absDiff (laneVal a.replica) a.exact, absDiff a.exact (.zero false) with
  | some p, some q =>
    let r := alignMag p q
    some (codeOf r.1 r.2)
  | _, _ => none

/-- DENSE_AUDIT (R235): audit i, whose copy flits have all come, is recomputed: a mismatch is counted, or its difference enters the DENSE code of every session's
epoch it was taken in. -/
def execDenseAudit (i : Nat) (s : State) : Out :=
  match s.audits[i]? with
  | none => .next s
  | some a =>
    if a.left ≠ 0 then .next s
    else
    let h := tileHalf a.tile
    let n := halfIdx h
    let s1 := { s with audits := s.audits.eraseIdx i }
    if a.differs then
      let s2 := setKreg (satReg (wearAdd s1 3 a.tile 1) .wv n 0x054 1) .wv n 0x060 (BitVec.ofNat 32 (2 ^ 31 + a.tile))
      .next (raiseK (a.epochs.foldl (fun u q => onWvEp u q.1 q.2 fun e =>
        { e with denseN := min 255 (e.denseN + 1), denseBad := min 255 (e.denseBad + 1) }) s2) .wv n 16)
    else
      let c := a.code
      .next (a.epochs.foldl (fun u q => onWvEp u q.1 q.2 fun e =>
        { e with
          denseN := min 255 (e.denseN + 1)
          dense := match c, e.dense with
            | some k, some d => some (min k d)
            | some k, none => some k
            | none, d => d }) s1)

/-! ### Report records (R233, R234) -/

/-- A record's code that no measure gave is a free value. -/
def openCode (s : State) (c : Option Nat) : Nat × State :=
  match c with
  | some n => (n, s)
  | none =>
    let d := s.draw Config.wvCode
    (d.1 % 65536, d.2)

/-- Open codes of a list, one after another. -/
def openCodes : State → List (Option Nat) → List Nat × State
  | s, [] => ([], s)
  | s, c :: l =>
    let a := openCode s c
    let r := openCodes a.2 l
    (a.1 :: r.1, r.2)

/-- The sixteen words of the report record of an epoch (R233); LOST is filled in as the record leaves (R234). -/
def wvWords (x : Session) (sid : Nat) (e : Epoch) (w : WvEpoch) (c : List Nat) : List Word :=
  let k (i : Nat) : Nat := c.getD i 0
  let d : Decision := e.dec.getD ⟨0, 0, 0, w.fmt, 0, []⟩
  let advised := if x.isRoot && decide (d.code ≠ 0) then d.fmt else w.fmt
  let advice := if x.isRoot then d.advice else 0
  let kids := w.kids.getD (minCode ((x.childCodes e).map (·.1)), minCode ((x.childCodes e).map (·.2)))
  let two (a b : Nat) : Word := BitVec.ofNat 32 (a + 2 ^ 16 * b)
  let four (a b c d : Nat) : Word := BitVec.ofNat 32 (min 255 a + 2 ^ 8 * min 255 b + 2 ^ 16 * min 255 c + 2 ^ 24 * min 255 d)
  [BitVec.ofNat 32 (sid % 4096 + 2 ^ 12 * (e.num % 2) + 2 ^ 13 * b2n x.isRoot + 2 ^ 14 * x.pid + 2 ^ 20 * w.fmt + 2 ^ 24 * advised +
     2 ^ 28 * advice + 2 ^ 30 * d.code),
   BitVec.ofNat 32 e.num, BitVec.ofNat 32 w.ft, BitVec.ofNat 32 (w.ft / 2 ^ 32), two (k 0) (k 1), two (k 2) (k 3),
   two (k 4) (k 5), four w.chosen w.completed w.voided w.skipped, two kids.1 kids.2,
   BitVec.ofNat 32 (w.run % 256 + 2 ^ 8 * w.nonfinite + 2 ^ 16 * b2n w.breach), four 0 0 w.denseN w.denseBad + BitVec.ofNat 32 (k 6), 0,
   0, 0, 0, 0]

/-- An epoch of an audited session retires: its record joins the buffer of its half, or is dropped (R233, R234). One that has never
opened has sampled nothing. -/
def wvRetire (s : State) (sid par : Nat) : State :=
  let x := getSes s sid
  let e := x.ep par
  if !x.audited || x.isRelay then s
  else
    let w := (wvEp s sid e.num).getD (WvEpoch.fresh sid e.num (rungFmt (x.prof s 1) e.rung))
    let i := x.page
    let c := w.codes
    let r := openCodes s [c.map (·.acc), c.map (·.out), c.map (·.wire), c.map (·.total), c.map (·.narrow), c.map (·.outMax), w.dense]
    let l := r.2.reports.get x.home
    if 512 ≤ l.length then
      let s1 := raiseK (satReg s .wv i 0x058 1) .wv i 18
      { s1 with repLost := s1.repLost.put 0 x.pid (s1.repLost.get 0 x.pid + 1) }
    else
      let rec' : WvRec := ⟨x.pid, fieldOf (x.prof s 4) 13 8, wvWords x sid e w r.1⟩
      { r.2 with reports := r.2.reports.put x.home (l ++ [rec']) }

end Sys2Proof.Machine
end

