-- ==== Sys2Proof/Machine/SecOps.lean ====
section
/-! DEFINITION. Operations of the security subsystem that several families share (chapter 15): an RTP's outbound mailbox, its
attestation log, key exchanges that a session opens, and the room of a half's key store. -/

namespace Sys2Proof.Machine

/-! ### The outbound mailbox (R320) -/

/-- The words of a response whose encoding the spec does not give: free, and at most half of a mailbox (log entry 166). -/
def freeWords (code : Nat) (l : List Nat) : List Word := (Config.responseWords code l).take 32768

/-- Words that an outbound mailbox holds: 256 KiB. -/
def outCapacity : Nat := 65536

/-- The outbound mailbox has room for so many words. -/
def rtpRoom (s : State) (h : Half) (n : Nat) : Bool := decide ((s.rtp.get h).out.length + n ≤ outCapacity)

/-- Change an RTP. -/
def onRtp (s : State) (h : Half) (f : Rtp → Rtp) : State := { s with rtp := s.rtp.put h (f (s.rtp.get h)) }

/-- A response (R320): four words, then what it carries. -/
def response (tag status code : Nat) (body : List Word) : List Word :=
  [0x52535031, BitVec.ofNat 32 (tag % 65536 + 65536 * (status % 256)), BitVec.ofNat 32 (4 + body.length), BitVec.ofNat 32 code] ++ body

/-- Queue words in an outbound mailbox; a mailbox without room sets OUT_FULL. -/
def rtpSay (s : State) (h : Half) (l : List Word) : State :=
  if rtpRoom s h l.length then onRtp s h fun r => { r with out := r.out ++ l } else raiseK s .rtp (halfIdx h) 18

/-- Answer a command. -/
def rtpAnswer (s : State) (h : Half) (tag status code : Nat) (body : List Word) : State :=
  rtpSay s h (response tag status code body)

/-- Status codes of R320. -/
def stOk : Nat := 0
def stBusy : Nat := 1
def stBadSig : Nat := 2
def stPolicy : Nat := 3
def stState : Nat := 4
def stFormat : Nat := 5
def stNotMember : Nat := 6
def stNoKeys : Nat := 7

/-! ### The attestation log (R335) -/

/-- Leave out the oldest entries until the log fits its region. -/
def pruneLog (r : Rtp) : Rtp :=
  let n := r.log.length - Config.logCapacity
  { r with log := r.log.drop n, logPruned := r.logPruned + n }

/-- An RTP logs an act. -/
def rtpLog (s : State) (h : Half) (kind : Nat) (body : List Nat) : State :=
  let ft := ftOrOnes s h
  onRtp s h fun r =>
    pruneLog { r with
      log := r.log ++ [⟨kind, ft, body⟩], logCount := r.logCount + 1, logHead := Config.chainHead r.logHead kind ft body }

/-! ### Keys of sessions (R327 to R330) -/

/-- A contributor entry holds its edge key. -/
def ctKeyed : CtSt → Bool
  | .active => true
  | .suspect => true
  | .failed => true
  | _ => false

/-- Edges of a session that hold keys. -/
def Session.keys (x : Session) : Nat :=
  b2n x.parentKey + b2n x.relayKey + (x.cst.cells.filter fun c => ctKeyed c.2.1).length

/-- Session keys that a half's key store holds. -/
def keysHeld (s : State) (h : Half) : Nat :=
  ((s.sessions.cells.filter fun c => decide (c.2.home = h)).map fun c => c.2.keys).foldl (· + ·) 0

/-- A half's key store has room for one more session key. -/
def keyRoom (s : State) (h : Half) : Bool := decide (keysHeld s h < 65536)

/-- KEYS_FULL (R327). -/
def keysFull (s : State) : State :=
  raiseK (setKreg s .sec 0 0x040 (setBit (kreg s .sec 0 0x040) 29)) .sec 0 18

/-- A partition has its owner key (R328); PID 0's is the operator key (R467). -/
def ownerKeyed (s : State) (q : Nat) : Bool := decide (q = 0) || (s.ownerKeys.find q).isSome

/-- A partition holds a secret Z with the peer at a PFA. -/
def peerKnown (s : State) (q pfa : Nat) : Bool := s.peers.contains (q, pfa)

/-- Contributors of a session's newest bank that wait for an edge key. -/
def Session.keyless (x : Session) : List (Nat × Contrib) :=
  (x.enabled x.newest).filter fun c => decide ((x.ctst c.1).1 = .keying) || decide ((x.ctst c.1).1 = .remapped)

/-- Open an exchange toward one contributor: KEX_INIT leaves through the outbound mailbox (R329). -/
def openKex (s : State) (sid c : Nat) : State :=
  let x := getSes s sid
  let k : Kex := ⟨sid, .contrib c, s.cyc⟩
  let body := freeWords 5 [sid, c, 0]
  rtpAnswer { s with kexs := s.kexs ++ [k] } x.home 0 stOk 5 body

/-- Open the exchanges that a session needs (R328, R329): toward every contributor that waits for a key, where its partition
holds no Z for the peer yet and no exchange is open. -/
def openKexes (s : State) (sid : Nat) : State :=
  let x := getSes s sid
  if x.st = .empty ∨ ownerKeyed s x.pid = false ∨ (s.rtp.get x.home).booted = false then s
  else
    x.keyless.foldl (fun u c =>
      if peerKnown u x.pid c.2.pfa || u.kexs.any (fun k => decide (k.sid = sid) && decide (k.edge = .contrib c.1)) then u
      else openKex u sid c.1) s

/-- The exchanges of a session end. -/
def dropKexes (s : State) (sid : Nat) : State := { s with kexs := s.kexs.filter fun k => decide (k.sid ≠ sid) }

end Sys2Proof.Machine
end

