-- ==== Sys2Proof/Machine/Trace.lean ====
section
/-! DEFINITION. Trace (chapter 17): the drain, frames and their routes, channels, Gust, and the REPORT actions that ask for
a drain, fire a Gust or send the report records of Weathervane (R234). -/

namespace Sys2Proof.Machine

/-! ### Streams -/

/-- A stream's number is one of a tile's, of a unit's or of a half's report records. -/
def streamKnown (key : Nat) : Bool :=
  decide (key < 2176) || (decide (4096 ≤ key) && decide (key < 4096 + 128 * 24)) ||
    (decide (65536 ≤ key) && decide (key < 65536 + 8192))

/-- The half of a channel (R363). -/
def chanHalf (c : Nat) : Half := if c < 32 then .a else .b

/-- The partition a stream's flits carry (R373): the tile's, or the one a unit's owner stream reports to. -/
def streamPid (s : State) (key : Nat) : Nat :=
  if 65536 ≤ key then key / 64 % 64
  else if key < 4096 then tileOwner s (key / 2)
  else (key - 4096) % 128 - 1

/-- The input of its half's funnel that a stream uses (R373): a tile's column pair, or the unit queue. -/
def streamInput (key : Nat) : Nat := if key < 4096 then key / 2 % 544 % 32 / 2 else 16

/-- The source ID of a stream's flits (R239). -/
def streamSrc (s : State) (key : Nat) : Nat := if key < 4096 then key / 2 else 0x4C6 + halfIdx (keyHalf s key)

/-- The TAG packet of a stream (R371). -/
def tagBytes (s : State) (key : Nat) : List Byte :=
  let id := if 65536 ≤ key then 0x00A + (key - 65536) / 4096 else if key < 4096 then key / 2 else (key - 4096) / 128
  let owner := if 65536 ≤ key then true else if key < 4096 then key % 2 == 1 else decide ((key - 4096) % 128 ≠ 0)
  0xF0#8 :: leBytes 3 (id + 2 ^ 12 * b2n (decide (4096 ≤ key)) + 2 ^ 13 * b2n owner + 2 ^ 14 * streamPid s key)

/-- Change a stream. -/
def onStream (s : State) (key : Nat) (f : Stream → Stream) : State := putStream s key (f (getStream s key))

/-- Change a channel. -/
def onChan (s : State) (c : Nat) (f : Channel → Channel) : State := putChan s c (f (getChan s c))

/-- The trace streams of tiles that go to a channel: of tiles whose page is not OFF, and those that hold anything. -/
def chanTileStreams (s : State) (c : Nat) : List Nat :=
  (List.range 2176).filter fun k =>
    tileFitted s (k / 2) && (decide (pageSt s .tile (k / 2) ≠ .off) || (s.streams.find k).isSome) && decide (keyChan s k = some c)

/-- The streams of a half that exist (R363): of its tiles, the operator streams of its units, and every stream that has held
anything. -/
def halfStreams (s : State) (h : Half) : List Nat :=
  let tiles := (List.range 2176).filter fun k => tileFitted s (k / 2) && decide (pageSt s .tile (k / 2) ≠ .off)
  let units := (List.range 24).map fun u => unitKey u none
  let held := (s.streams.cells.map (·.1)).filter fun k => !tiles.contains k && !units.contains k
  (tiles ++ units ++ held).filter fun k => decide (keyHalf s k = h) && (keyChan s k).isSome

/-- The stream of a tile that has never held anything begins in capture where its channel captures (R382). -/
def beginCapture (s : State) (key : Nat) : State := putStream s key (nextStream s key)

/-- Of some streams, each tile stream that goes elsewhere than before takes the capture state of the channel it now goes to
(R382). -/
def recapture (before after : State) (keys : List Nat) : State :=
  keys.foldl (fun u k =>
    if k < 4096 ∧ (u.streams.find k).isSome ∧ keyChan before k ≠ keyChan u k then
      let on := match keyChan u k with
        | some c => captures u c
        | none => false
      onStream u k fun x => { x with cap := if on then .capturing else .streaming }
    else u) after

/-- A channel has started or stopped: tile streams may go elsewhere than before. -/
def rechannel (before after : State) : State := recapture before after (after.streams.cells.map (·.1))

/-- A tile has changed its owner or its logical number: its streams may go elsewhere than before. -/
def retile (before after : State) (t : Nat) : State := recapture before after [tileKey t false, tileKey t true]

/-- Generate a record; a unit record that is dropped sets UNIT_LOSS (R372, R386). -/
def emit (s : State) (key : Nat) (base : Bool) (mk : Bool → Nat → List Byte) : State :=
  let h := keyHalf s key
  let s1 := genRecord s key base mk
  if unitLost s h < unitLost s1 h then raiseK s1 .funnel (halfIdx h) 16 else s1

/-- Every stream of a half emits CALM (R385): ACT, the FT of the act in ns, and the plan. On a resume SYNC with reason RESUME
stands before the next record. -/
def calmPackets (s : State) (h : Half) (act ft plan : Nat) : State :=
  (halfStreams s h).foldl (fun u k =>
    let u1 := emit u k true fun timed at16 =>
      BitVec.ofNat 8 (0xA0 + act) :: fracByte timed at16 :: (leBytes 8 ft ++ leBytes 4 plan)
    if act = 1 then askSync u1 k 6 else u1) s

/-! ### Frames -/

/-- Bytes that a frame's packets may take (R375). -/
def frameRoom : Nat := 232

/-- Seal the open frame of a channel (R375): the rest of its bytes is PAD. -/
def sealFrame (s : State) (c : Nat) : State :=
  let x := getChan s c
  match x.cur with
  | none => s
  | some f =>
    let body := f.body ++ List.replicate (frameRoom - f.body.length) 0
    let fr : Frame := ⟨x.seq, body, f.body.length, x.lostSince, f.records, ftNs s (chanHalf c)⟩
    putChan s c { x with frames := x.frames ++ [fr], cur := none, seq := x.seq + 1, lostSince := 0 }

/-- Put one packet of a stream into a channel's open frame: a TAG at the start of a frame and at a change of stream, and a seal
where it does not fit (R374, R375). None while the channel has no free frame. -/
def putPacket (s : State) (c key : Nat) (p : TPkt) : Option State :=
  let tag := tagBytes s key
  let count (u : State) : State := incReg64 u .chan c 0x070 (b2n p.isRec)
  let begin_ (u : State) : Option State :=
    if (getChan u c).frames.length < 64 then
      some (count (onChan u c fun x => { x with cur := some ⟨tag ++ p.bytes, b2n p.isRec, u.cyc, key⟩ }))
    else none
  match (getChan s c).cur with
  | none => begin_ s
  | some f =>
    let l := if f.lastStream = key then p.bytes else tag ++ p.bytes
    if f.body.length + l.length ≤ frameRoom then
      some (count (onChan s c fun x => { x with
        cur := some { f with body := f.body ++ l, records := f.records + b2n p.isRec, lastStream := key } }))
    else begin_ (sealFrame s c)

/-- Words that name the key and the vector of a frame (R376). -/
def frameKey (s : State) (c : Nat) (f : Frame) : List Nat :=
  let q := pageOwner s (pageNo .chan c)
  [q, (getPart s q).gen, c, (getChan s c).keyEpoch, f.seq]

/-- Bytes 0 to 15 of a frame (R375). -/
def frameHead (s : State) (c : Nat) (f : Frame) : List Byte :=
  leBytes 8 f.seq ++ leBytes 1 c ++ leBytes 1 (pageOwner s (pageNo .chan c)) ++ leBytes 2 f.used ++ leBytes 4 f.lostBefore

/-- The TAG of a frame (R375, R376): zero for a channel of PID 0. -/
def frameTag (s : State) (c : Nat) (f : Frame) : Nat :=
  if pageOwner s (pageNo .chan c) = 0 then 0 else Config.traceTag (frameKey s c f) (frameHead s c f) f.body

/-- Bytes 24 to 255 of a frame as it leaves the block: encrypted for a tenant (R376). -/
def frameBody (s : State) (c : Nat) (f : Frame) : List Byte :=
  if pageOwner s (pageNo .chan c) = 0 then f.body else takeBytes frameRoom (Config.traceCipher (frameKey s c f) f.body)

/-- The 256 bytes of a frame (R375). -/
def frameBytes (s : State) (c : Nat) (f : Frame) : List Byte :=
  frameHead s c f ++ leBytes 8 (frameTag s c f) ++ frameBody s c f

/-- Records a channel holds (R381, R388). -/
def Channel.held (x : Channel) : Nat :=
  (x.frames.map (·.records)).foldl (· + ·) 0 + x.cur.elim 0 (·.records)

/-- A COLLECTOR cell of a channel waits for its port, or is partly sent. -/
def cellOf (c : Nat) (e : Cell) : Bool := decide (e.kind = cellTrace) && decide (e.handle % 64 = c)

/-- A COLLECTOR cell of a channel has begun to leave. -/
def cellBegun (s : State) (c : Nat) : Bool :=
  anyReq s fun r => match r.what with
    | .cell e => cellOf c e && decide (0 < r.done)
    | _ => false

/-- The RING frame of a channel has begun to be written, or is all written. -/
def ringBegun (s : State) (c : Nat) : Bool :=
  (getChan s c).asked && !anyReq s fun r => match r.what with
    | .mem l => decide (r.done = 0) && l.any fun q => decide (q.1.use = .ring c)
    | _ => false

/-- Withdraw the COLLECTOR cell of a channel that waits at a port, and the RING frame that waits at a stack. -/
def withdrawCell (s : State) (c : Nat) : State :=
  let keep (r : Req) : Bool := match r.what with
    | .cell e => !cellOf c e || decide (0 < r.done)
    | _ => true
  withdrawUse { s with arbs := s.arbs.mapVals fun _ a => { a with reqs := a.reqs.filter keep } } fun u => decide (u = .ring c)

/-- A channel discards the frames it holds: their records are counted lost there, and DISCARD is set (R377, R381). A frame whose
cell or whose write has begun to leave is delivered (R244). -/
def discardFrames (s : State) (c : Nat) : State :=
  let x := getChan s c
  let begun := ringBegun s c
  let stays := if cellBegun s c || begun then x.frames.take 1 else []
  let n := x.held - (stays.map (·.records)).foldl (· + ·) 0
  let s1 := onChan (withdrawCell s c) c fun x => { x with frames := stays, cur := none, lostSince := x.lostSince + n, winRead := 0, asked := begun }
  if n = 0 then s1
  else
    let s2 := countBlk (incReg64 s1 .chan c 0x080 n) (chanHalf c) 0x11 [0] c (some (pageOwner s (pageNo .chan c))) n
    raiseK s2 .chan c 16

/-- An uncorrectable error meets a frame in its bank (R432 kind 6, R436): the oldest that has not begun to leave is discarded, and its
records are counted lost at the channel. -/
def frameFails (s : State) (c : Nat) : State :=
  let n := if cellBegun s c || ringBegun s c then 1 else 0
  match (getChan s c).frames[n]? with
  | none => s
  | some f =>
    let s1 := onChan (if n = 0 then withdrawCell s c else s) c fun x => { x with
      frames := x.frames.eraseIdx n, lostSince := x.lostSince + f.records
      winRead := if n = 0 then 0 else x.winRead, asked := decide (n ≠ 0) && x.asked }
    let s2 := countBlk (incReg64 s1 .chan c 0x080 f.records) (chanHalf c) 0x11 [0] c (some (pageOwner s (pageNo .chan c))) f.records
    wearAdd (raiseK s2 .chan c 16) 6 c 1

/-! ### The stack share (R380) -/

/-- What the bucket of the stack share holds, in 1/75 B: a cycle adds TRC_STACK_SHARE × N × 128. -/
def obsFill (s : State) : Nat :=
  let depth := fieldOf (kregF s .egress 0 0x044) 11 0 * 256 * 75
  min depth (s.obsBucket + (s.cyc - s.obsCyc) * (fieldOf (kregF s .egress 0 0x040) 4 0 * s.cfg.stackCount * 128))

/-- The bucket covers an observation write of so many bytes. -/
def obsCovers (s : State) (n : Nat) : Bool := decide (n * 75 ≤ obsFill s)

/-- Draw an observation write from the bucket and count its bytes (R380, R387). -/
def obsDraw (s : State) (n : Nat) : State :=
  incReg64 { s with obsBucket := obsFill s - n * 75, obsCyc := s.cyc } .egress 0 0x048 n

/-! ### Channels -/

/-- The route of a channel: 0 NONE, 1 RING, 2 COLLECTOR, 3 WINDOW (R378). -/
def chanRoute (s : State) (c : Nat) : Nat := fieldOf (kregF s .chan c 0x040) 1 0

/-- The port of a COLLECTOR channel. -/
def chanPort (s : State) (c : Nat) : Nat := fieldOf (kregF s .chan c 0x040) 7 2

/-- A ring: its base, its frames. -/
def ringBase (s : State) (c : Nat) : Nat := kregFN s .chan c 0x050 + 2 ^ 32 * kregFN s .chan c 0x054
def ringFrames (s : State) (c : Nat) : Nat := kregFN s .chan c 0x058

/-- A ring lies inside regions of its owner and of its channel's half. -/
def ringInside (s : State) (c base len : Nat) : Bool :=
  let q := pageOwner s (pageNo .chan c)
  decide (base + len ≤ 2 ^ 40) &&
    (List.range ((base + len - 1) / 2 ^ 21 + 1 - base / 2 ^ 21)).all fun i =>
      match translate s q ((base / 2 ^ 21 + i) * 2 ^ 21) with
      | some (prn, _) => decide (regionHalf s.cfg prn = chanHalf c)
      | none => false

/-- The staged configuration of a channel is valid (R377, R388), read as its STARTING takes it. -/
def chanConfigOk (s : State) (c : Nat) : Bool :=
  let r (off : Nat) : Word := kreg s .chan c off
  let route := fieldOf (r 0x040) 1 0
  let port := fieldOf (r 0x040) 7 2
  let base := (r 0x050).toNat + 2 ^ 32 * (r 0x054).toNat
  let frames := (r 0x058).toNat
  let portOk := portFitted s port && decide (portHalf port = chanHalf c)
  let ringOk := decide (base % 2048 = 0) && decide (frames % 8 = 0) && decide (8 ≤ frames) && decide (frames ≤ 16777216) &&
    ringInside s c base (256 * frames)
  let fltOk := (List.range 4).all fun n =>
    let lo := fieldOf (r (0x100 + 0x10 * n)) 18 0
    let hi := fieldOf (r (0x104 + 0x10 * n)) 19 0
    !bitOf (r (0x108 + 0x10 * n)) 31 || (decide (lo ≤ hi) && decide (hi ≤ 524288))
  let count := fieldOf (r 0x048) 20 10
  let tilesOk := decide (count ≤ 1024) && decide (fieldOf (r 0x048) 9 0 + count ≤ 512 * s.cfg.halves)
  (decide (route ≠ 2) || portOk) && (decide (route ≠ 1) || ringOk) && fltOk && tilesOk && decide ((r 0x064).toNat ≤ 1000000)

/-- The exchange that a channel waits for, among the open exchanges: no session has its number. -/
def chanKexId (c : Nat) : Nat := 4096 + c

/-- The peer of a channel's trace key (R376). -/
def chanPeer (s : State) (c : Nat) : Nat := kregFN s .chan c 0x04C

/-- A channel enters STARTING (R375 to R377): its key epoch advances, its frames count from 0, and a tenant's channel opens an
exchange with its peer where its partition holds no secret with it. -/
def chanStarting (s : State) (c : Nat) : State :=
  let q := pageOwner s (pageNo .chan c)
  let s1 := onChan s c fun x => { x with
    keyEpoch := x.keyEpoch + 1, keyed := false, seq := 0, routeDown := false, gust := none, frozen := false, winRead := 0, asked := false }
  let open_ := s1.kexs.any fun k => decide (k.sid = chanKexId c)
  if q ≠ 0 ∧ peerKnown s1 q (chanPeer s1 c) = false ∧ open_ = false then
    { s1 with kexs := s1.kexs ++ [⟨chanKexId c, .parent, s1.cyc⟩] }
  else s1

/-- A channel has reached ON (R377, R382): its streams put a SYNC with reason CHANNEL before their next record, and its tile
streams go into capture under GUST EN. `before` is the state in which it was not ON. -/
def chanStarted (before s : State) (c : Nat) : State :=
  let s1 := rechannel before s
  let keys := chanTileStreams s1 c ++ (List.range 24).map (fun u => unitKey u none) ++ s1.streams.cells.map (·.1)
  (keys.filter fun k => decide (keyChan s1 k = some c)).foldl (fun u k => askSync u k 7) s1

/-- A channel enters STOPPING (R375, R377): its open frame is sealed; its key is destroyed when it has stopped. -/
def chanStopping (before s : State) (c : Nat) : State :=
  let s1 := sealFrame (rechannel before s) c
  { onChan s1 c fun x => { x with gust := none, frozen := false } with
    kexs := s1.kexs.filter fun k => decide (k.sid ≠ chanKexId c) }

/-- A channel's stop may complete: it holds no frame (R377). -/
def chanMayStop (s : State) (c : Nat) : Bool :=
  let x := getChan s c
  decide (x.frames = []) && x.cur.isNone

/-- A channel has stopped: its key is destroyed (R376). -/
def chanStopped (s : State) (c : Nat) : State := onChan s c fun x => { x with keyed := false, routeDown := false }

/-! ### Gust -/

/-- A Gust fires on a channel (R383): its freeze FT is fixed, or waits for the resume of a Calm. A fire that finds the channel
frozen, draining or already fired is counted. -/
def fireGust (s : State) (c cause fire : Nat) : State :=
  if !captures s c then s
  else
    let h := chanHalf c
    let x := getChan s c
    if x.frozen || x.gust.isSome then raiseK (satReg s .funnel (halfIdx h) 0x04C 1) .funnel (halfIdx h) 17
    else if calmOn s h then putChan s c { x with gust := some ⟨cause, fire, 0, true⟩ }
    else
      let at_ := max (fire + kregFN s .chan c 0x064) (ftNs s h + ftuLead s h)
      putChan s c { x with gust := some ⟨cause, fire, at_, false⟩ }

/-- The fires that waited for the resume of a half's Calm are decided (R383). -/
def resumeGusts (s : State) (h : Half) : State :=
  (s.channels.cells.map (·.1)).foldl (fun u c =>
    let x := getChan u c
    match x.gust with
    | some g =>
      if g.held && decide (chanHalf c = h) then
        putChan u c { x with gust := some { g with
          freeze := max (g.fire + kregFN u .chan c 0x064) (ftNs u h + ftuLead u h), held := false } }
      else u
    | none => u) s

/-- The CLASS of an EVENT packet. -/
def eventClass (p : TPkt) : Option Nat :=
  match p.bytes with
  | b :: _ => if b.toNat / 16 = 5 then some (b.toNat % 16) else none
  | [] => none

/-- An EVENT that reaches a channel may fire a Gust there (R383). -/
def gustOn (s : State) (c : Nat) (p : TPkt) : State :=
  match eventClass p with
  | some k => if bitOf (kregF s .chan c 0x060) (8 + k) && decide (k < 8) then fireGust s c 1 (p.stamp / 16) else s
  | none => s

/-- A capturing stream freezes (R384): LOSS, GUST, SYNC with the stamp of its oldest retained record, and the retained records. -/
def Stream.freeze (x : Stream) (g : GustFire) (timed : Bool) (now16 : Nat) : Stream :=
  let kept := x.pkts.dropWhile fun p => !p.isRec
  let held := pktBytes (kept.filter (·.isRec))
  let loss := lossPkt 1 x.displaced (if x.displaced = 0 then x.gen else x.dispFirst) now16
  let gust : TPkt := ⟨BitVec.ofNat 8 (0x90 + g.cause) :: (leBytes 8 g.fire ++ leBytes 4 (g.freeze - g.fire) ++ leBytes 2 held), true, now16⟩
  let sync : List TPkt := match kept with
    | p :: _ => [syncPkt timed 5 p.stamp (x.gen + 2)]
    | [] => []
  { x with
    pkts := loss :: gust :: (sync ++ kept), gen := x.gen + 2 + sync.length, cap := .frozen, displaced := 0, dispFirst := 0,
    drop := none, ask := true, started := true }

/-- The burst of a frozen stream has left (R384): LOSS and SYNC, and back to capture or to streaming. -/
def Stream.thaw (x : Stream) (rearm timed : Bool) (now16 : Nat) : Stream :=
  let d := x.drop.getD (0, x.gen)
  { x with
    pkts := [lossPkt 1 d.1 d.2 now16, syncPkt timed 4 now16 (x.gen + 1)], gen := x.gen + 2, drop := none, sync := none,
    time := now16, sinceBase := 0, baseAt := now16, ask := false, cap := if rearm then .capturing else .streaming }

/-- Records a change of a tile stream generates are counted (R393). -/
def regen (s : State) (key : Nat) (f : Stream → Stream) : State :=
  let x := getStream s key
  let y := f x
  let s1 := putStream s key y
  if key < 4096 then countTile s1 (key / 2) 0x0E [0] (y.gen - x.gen) else s1

/-! ### The commands -/

/-- REPORT_WV_ACTION (R234): the waiting report records of the half leave, in retirement order, to the channels of their
profiles. A record whose channel is not there, or does not admit it, generates nothing (R363, R364). -/
def sendReports (s : State) (h : Half) : State :=
  (s.reports.get h).foldl (fun u r =>
    let key := wvKey h r.pid r.chan
    if kindAdmitted u key 3 then
      let lost := u.repLost.get 0 r.pid
      let words := (r.words.set 11 (BitVec.ofNat 32 lost))
      let body := words.flatMap fun w => leBytes 4 w.toNat
      let v := emit u key false fun _ _ => 0xB1#8 :: BitVec.ofNat 8 words.length :: body
      if unitLost u h < unitLost v h then v else { v with repLost := v.repLost.put 0 r.pid 0 }
    else u) { s with reports := s.reports.put h [] }

/-- REPORT_WV_ACTION (R59, R234). -/
def execReportWvAction (h : Half) (entry : Nat) (s : State) : Out :=
  schedOut s h entry actReport (fun e => !e.atFunnel && decide (e.reportKind = 1)) fun s _ => sendReports s h

/-- Every stream of a half that holds packets asks to be drained (R372). -/
def askDrains (s : State) (h : Half) : State :=
  { s with streams := s.streams.mapVals fun k x =>
      if keyHalf s k = h ∧ x.pkts ≠ [] then { x with ask := true } else x }

/-- REPORT_DRAIN_ACTION (R59, R372): every stream of the half asks to be drained. -/
def execReportDrainAction (h : Half) (entry : Nat) (s : State) : Out :=
  schedOut s h entry actReport (fun e => e.atFunnel && decide (e.reportKind = 1)) fun s _ => askDrains s h

/-- GUST_FIRE (R59, R383): F is the action's FT. -/
def execGustFire (h : Half) (entry : Nat) (s : State) : Out :=
  schedOut s h entry actReport (fun e => e.atFunnel && decide (e.reportKind = 2)) fun s e =>
    fireGust s e.gustChan 0 (e.due.getD 0)

/-- TRACE_DRAIN_REQUEST (R372, R373): a stream that asks to be drained raises its flit's request at its funnel input. -/
def execTraceDrainRequest (stream : Nat) (s : State) : Out :=
  if !streamKnown stream then .fault .noSuchUnit
  else
    let h := keyHalf s stream
    let x := getStream s stream
    let drainNs := kregFN s .funnel (halfIdx h) 0x040
    let asks := x.ask || x.asks (shareOf s stream) drainNs (sixteenths (countOf s h))
    let out := x.granted || anyReq s fun r => decide (r.what = .drain stream)
    needHalf s h <|
      match x.pkts with
      | [] => .next s
      | p :: _ =>
        if asks && decide (x.cap ≠ .capturing) && !out && (keyChan s stream).isSome && pageRuns s .funnel (halfIdx h) then
          let lst := lstOf (p.stamp / 16 + kregFN s .funnel (halfIdx h) 0x044)
          .next (raiseReq (putStream s stream { x with ask := true }) (arbKey .arbFunnel (halfIdx h) (streamInput stream))
            (Req.fresh (streamSrc s stream) lst (streamPid s stream) false 1 s.cyc (.drain stream)))
        else .next s

/-- Move packets of a stream into its channel's frames, as many as one flit holds and at least one (R373 to R375). A packet for
which there is no room stays, and the open frame, which it would not fit, is sealed. -/
def movePackets (c key : Nat) : Nat → Nat → List TPkt → State → List TPkt × State
  | _, _, [], s => ([], s)
  | 0, _, l, s => (l, s)
  | n + 1, used, p :: l, s =>
    if used ≠ 0 ∧ 128 < used + p.bytes.length then (p :: l, s)
    else
      match putPacket s c key p with
      | none => (p :: l, sealFrame s c)
      | some s1 => movePackets c key n (used + p.bytes.length) l (gustOn s1 c p)

/-- DRAIN_FLIT (R373, R374): the granted flit of a stream enters the funnel and its channel's frames. An EVENT it carries may fire
a Gust (R383). -/
def execDrainFlit (stream : Nat) (s : State) : Out :=
  if !streamKnown stream then .fault .noSuchUnit
  else
    needHalf s (keyHalf s stream) <|
      let x := getStream s stream
      if !x.granted then .next s
      else
        match keyChan s stream with
        | none => .next (putStream s stream { x with granted := false })
        | some c =>
          if !chanTakes s c then .next (putStream s stream { x with granted := false })
          else
            let m := movePackets c stream 128 0 x.pkts s
            .next (onStream m.2 stream fun y => { y with
              pkts := m.1, granted := false, ask := decide (m.1 ≠ []) && y.ask })

/-- FRAME_SEAL (R375): the open frame's first packet has waited TRC_DRAIN_NS, or its channel is STOPPING. -/
def execFrameSeal (ch : Nat) (s : State) : Out :=
  if kindCount .chan ≤ ch then .fault .noSuchUnit
  else
    let h := chanHalf ch
    let x := getChan s ch
    needHalf s h <|
      match x.cur with
      | none => .next s
      | some f =>
        if cycAgo s f.firstAt (kregFN s .funnel (halfIdx h) 0x040) || decide (pageSt s .chan ch = .stopping) then
          .next (sealFrame s ch)
        else .next s

/-- The oldest frame of a RING channel that has yet to ask for its place in the ring, and that place (R378); none during a Calm
(R385). -/
def ringWants (s : State) (c : Nat) : Option (Frame × Nat × Nat) :=
  match (getChan s c).frames with
  | [] => none
  | f :: _ =>
    match translate s (pageOwner s (pageNo .chan c)) (ringBase s c + 256 * (f.seq % (max 1 (ringFrames s c)))) with
    | none => none
    | some q => if (getChan s c).asked || decide (chanRoute s c ≠ 1) || calmOn s (regionHalf s.cfg q.1) then none else some (f, q)

/-- It asks once the stack share covers it (R380): two write flits from the funnel of the ring's half. -/
def askRing (s : State) (c : Nat) : State :=
  match ringWants s c with
  | none => s
  | some (f, prn, off) =>
    if !obsCovers s 256 then s
    else
      askStack (obsDraw (onChan s c fun x => { x with asked := true }) 256) (0x4C4 + halfIdx (regionHalf s.cfg prn))
        (lstOf (f.sealFt + kregFN s .funnel (halfIdx (chanHalf c)) 0x044)) (pageOwner s (pageNo .chan c)) true
        (writeAsks (.ring c) prn 2 off (frameBytes s c f))

/-- Every RING channel with a frame asks, once a cycle. -/
def ringTick (s : State) : State := (s.channels.cells.map (·.1)).foldl askRing s

/-- FRAME_RING_WRITE (R378): the memory controller has accepted the last line of a RING channel's oldest frame, which is delivered. -/
def execFrameRingWrite (ch : Nat) (s : State) : Out :=
  if kindCount .chan ≤ ch then .fault .noSuchUnit
  else
    needHalf s (chanHalf ch) <|
      match (getChan s ch).frames with
      | [] => .next s
      | f :: _ =>
        if !(getChan s ch).asked || useWaits s (.ring ch) then .next s
        else
          let s1 := incReg s .chan ch 0x05C 1
          let s2 := if ringFrames s ch ≤ f.seq then incReg s1 .chan ch 0x098 1 else s1
          .next (deliverFrame s2 ch)

/-- FRAME_COLLECTOR_SEND (R378, R379): the oldest frame of a COLLECTOR channel asks its port's egress as one OBS cell; it is
delivered when the port has sent the cell. While the port is not ON the channel holds it and sets ROUTE_DOWN. -/
def execFrameCollectorSend (ch : Nat) (s : State) : Out :=
  if kindCount .chan ≤ ch then .fault .noSuchUnit
  else
    needHalf s (chanHalf ch) <|
      let x := getChan s ch
      let p := chanPort s ch
      match x.frames with
      | [] => .next s
      | f :: _ =>
        if chanRoute s ch ≠ 2 ∨ anyCell s (cellOf ch) = true then .next s
        else if pageIsOn s .port p then
          let lst := lstOf (f.sealFt + kregFN s .funnel (halfIdx (chanHalf ch)) 0x044)
          let cell : Cell :=
            { kind := cellTrace, cls := 3, pid := pageOwner s (pageNo .chan ch), sid := 0, edge := .parent, dst := 0,
              toChild := false, key := [], pfa := chanPeer s ch, epoch := 0, cidx := 0, part := 0, seg := 0, fmt := 0, msg := 0, ft := 0, arg := frameTag s ch f, ranges := [],
              more := false, credits := [], handle := ch + 64 * (f.seq % 1024), payload := frameBytes s ch f, lst := lst,
              queued := s.cyc, heads := true, grant := 0, tile := none }
          .next (queueCell (putChan s ch { x with routeDown := false }) p (0x4C4 + halfIdx (chanHalf ch)) cell)
        else if x.routeDown then .next s
        else .next (raiseK (putChan s ch { x with routeDown := true }) .chan ch 18)

/-- TRACE_KEY_REPORT (R376, R377): the RTP reports the trace key of a tenant's channel that waits in STARTING, and the channel
reaches ON. Its partition's owner key must be known (R328). -/
def execTraceKeyReport (ch : Nat) (s : State) : Out :=
  if kindCount .chan ≤ ch then .fault .noSuchUnit
  else
    needHalf s (chanHalf ch) <|
      let q := pageOwner s (pageNo .chan ch)
      if decide (q ≠ 0) && decide (pageSt s .chan ch = .starting) && ownerKeyed s q && (s.rtp.get (chanHalf ch)).booted then
        let peer := (q, chanPeer s ch)
        let s1 := onChan { s with
          kexs := s.kexs.filter fun k => decide (k.sid ≠ chanKexId ch)
          peers := if s.peers.contains peer then s.peers else s.peers ++ [peer] } ch fun x => { x with keyed := true }
        .next (chanStarted s1 (setPageSt s1 (pageNo .chan ch) .on) ch)
      else .next s

/-- DISCARD (R377): a management write of TRC_CH_CMD. -/
def execDiscard (port : Half) (ch : Nat) (s : State) : Out :=
  mgmtWriteK s port .chan ch fun s =>
    if pageSt s .chan ch = .stopping then okay (discardFrames s ch) port else okay (accessErr s .chan ch) port

/-- GUST_FREEZE (R383, R384): the freeze FT of a channel's fire has come: its capturing streams freeze. -/
def execGustFreeze (ch : Nat) (s : State) : Out :=
  if kindCount .chan ≤ ch then .fault .noSuchUnit
  else
    let h := chanHalf ch
    let x := getChan s ch
    needHalf s h <|
      match x.gust with
      | none => .next s
      | some g =>
        if !g.held && hasTime s h && decide (g.freeze * 2304 ≤ countOf s h) then
          let s1 := (chanTileStreams s ch).foldl beginCapture s
          let keys := (chanTileStreams s1 ch).filter fun k => decide ((getStream s1 k).cap = .capturing)
          let s2 := keys.foldl (fun u k =>
            regen u k fun y => y.freeze g (hasTime u (keyHalf u k)) (sixteenths (countOf u (keyHalf u k)))) s1
          .next (onChan s2 ch fun x => { x with gust := none, frozen := decide (keys ≠ []) })
        else .next s

/-- GUST_DRAIN_END (R384): the burst of a frozen stream has left it. The channel is frozen while any of its streams is. -/
def execGustDrainEnd (stream : Nat) (s : State) : Out :=
  if !streamKnown stream then .fault .noSuchUnit
  else
    let h := keyHalf s stream
    let x := getStream s stream
    needHalf s h <|
      match keyChan s stream with
      | none => .next s
      | some c =>
        if decide (x.cap = .frozen) && decide (x.pkts = []) && !x.granted then
          let rearm := bitOf (kregF s .chan c 0x060) 1
          let s1 := regen s stream fun y => y.thaw rearm (hasTime s h) (sixteenths (countOf s h))
          let more := s1.streams.cells.any fun k => decide (k.2.cap = .frozen) && decide (keyChan s1 k.1 = some c)
          .next (onChan s1 c fun y => { y with frozen := more })
        else .next s

end Sys2Proof.Machine
end

