-- ==== Sys2Proof/Machine/Profile.lean ====
section
/-! DEFINITION. Counters and sampling (chapter 18): interval boundaries and their drains (R395 to R401), program-counter
samples (R402, R403), Mitten copies (R405), a bank page's start and stop (R406), and the events that count cycles. -/

namespace Sys2Proof.Machine

/-- The half of a bank (R390). -/
def bankHalf (b : Nat) : Half := if b < 32 then .a else .b

/-- Change a bank. -/
def onBank (s : State) (b : Nat) (f : Bank → Bank) : State := putBank s b (f (getBank s b))

/-- The owner of a bank. -/
def bankOwner (s : State) (b : Nat) : Nat := pageOwner s (pageNo .bank b)

/-- ROUTE of a bank: 0 NONE, 1 RING, 2 REPORT. -/
def bankRoute (s : State) (b : Nat) : Nat := fieldOf (kregF s .bank b 0x044) 1 0

/-- The logical numbers of a bank's range. -/
def bankRange (s : State) (b : Nat) : List Nat :=
  let w := kregF s .bank b 0x040
  (List.range (fieldOf w 20 10)).map fun i => fieldOf w 9 0 + i

/-- The tiles a bank governs, as logical and physical number, in logical order (R391): no lower-numbered ON bank of its owner
covers them. -/
def governed (s : State) (b : Nat) : List (Nat × Nat) :=
  let q := bankOwner s b
  (bankRange s b).filterMap fun lt =>
    match physOf s lt with
    | none => none
    | some t =>
      let lower := (List.range b).any fun c => bankOpen s c && decide (bankOwner s c = q) && (bankRange s c).contains lt
      if tileOwner s t = q ∧ lower = false then some (lt, t) else none

/-- The sixteen counters of a table. -/
def sixteen (m : Tbl Nat) : List Nat := (List.range 16).map fun k => m.get 0 k

/-! ### Boundaries -/

/-- The closed parity has not retired (R397): with ROUTE NONE it retires in the cycle after it closes. -/
def bankPending (s : State) (b : Nat) : Bool :=
  match (getBank s b).closed with
  | none => false
  | some c => decide (bankRoute s b ≠ 0) || decide (c.cyc = s.cyc)

/-- Clear the counters of some tiles. -/
def clearTileCtrs (s : State) (l : List Nat) : State :=
  l.foldl (fun u t => onTile u t fun x => { x with ctrs := .empty }) s

/-- A tile leaves the bank that governs it: the counts of the open interval stay with that bank, and the tile counts from zero
(R29, R391). `skip` is a bank that is not asked. -/
def leaveBank (s : State) (skip : Option Nat) (t : Nat) : State :=
  match logicalOf s t with
  | none => s
  | some lt =>
    let q := tileOwner s t
    match (List.range 64).find? fun b => bankOpen s b && decide (some b ≠ skip) && decide (bankOwner s b = q) && (bankRange s b).contains lt with
    | none => s
    | some b =>
      let x := getTile s t
      clearTileCtrs (onBank s b fun y => { y with former := y.former ++ [(lt, t, decide (x.lull ≠ .awake), sixteen x.ctrs)] }) [t]

/-- FT in ns of the next cycle of a half. -/
def nextCycleFt (s : State) (h : Half) : Nat := nsOf (countOf s h + (s.ftu.get (timeHalf s h)).rate)

/-- Open an interval: its opening FT is that of its first cycle (R395, R398). -/
def openInterval (s : State) (b iseq : Nat) : State :=
  let h := bankHalf b
  let s1 := setKreg64 (setKreg s .bank b 0x054 (BitVec.ofNat 32 iseq)) .bank b 0x058 (nextCycleFt s h)
  onBank s1 b fun x => { x with ctrs := .empty, timeless := !hasTime s h, refusedHere := 0, former := [] }

/-- Tile blocks in logical order (R400); those of one tile stay in the order they arose in. -/
def inLogicalOrder (l : List (Nat × Nat × Bool × List Nat)) : List (Nat × Nat × Bool × List Nat) :=
  let put (x : Nat × Nat × Bool × List Nat) (m : List (Nat × Nat × Bool × List Nat)) :=
    m.takeWhile (fun y => decide (y.1 ≤ x.1)) ++ x :: m.dropWhile fun y => decide (y.1 ≤ x.1)
  l.foldl (fun m x => put x m) []

/-- A boundary of a bank (R395): the open interval closes with its counts, and the next begins from zero. -/
def boundary (s : State) (b : Nat) (final : Bool) : State :=
  let h := bankHalf b
  let x := getBank s b
  let gov := governed s b
  let now (g : Nat × Nat) := (g.1, g.2, decide ((getTile s g.2).lull ≠ .awake), sixteen (getTile s g.2).ctrs)
  let blocks := inLogicalOrder (x.former ++ gov.map now)
  let c : ClosedInt :=
    { iseq := kregN s .bank b 0x054, ftOpen := kreg64 s .bank b 0x058, ftClose := ftNs s h,
      timeless := x.timeless || !hasTime s h, refused := x.refusedHere, cyc := s.cyc, written := 0,
      tiles := blocks, ctrs := sixteen x.ctrs, final := final }
  let s1 := onBank s b fun y => { y with par := 1 - y.par, closed := some c, kept := some c }
  openInterval (clearTileCtrs s1 (gov.map (·.2))) b (c.iseq + 1)

/-- A boundary is refused and counted (R397). -/
def refuseBoundary (s : State) (b : Nat) : State :=
  raiseK (satReg (onBank s b fun x => { x with refusedHere := x.refusedHere + 1 }) .bank b 0x064 1) .bank b 16

/-- INTERVAL_ACTION (R59, R69, R395 to R397): the open interval of the named bank closes at the end of this cycle, with the cycle's
events; a second one in the cycle, or one while the closed parity has not retired or the bank is STOPPING, is refused. -/
def execIntervalAction (h : Half) (entry : Nat) (s : State) : Out :=
  schedOut s h entry actInterval (fun _ => true) fun s e =>
    match pageOf e.page with
    | some (.bank, b) =>
      if pageIsOn s .bank b then
        (if bankPending s b || s.ends.contains (e.page, true) then refuseBoundary s b else { s with ends := s.ends ++ [(e.page, true)] })
      else if pageSt s .bank b = .stopping then refuseBoundary s b else s
    | _ => s

/-! ### A bank page's start and stop (R406) -/

/-- Bytes of an interval record over so many tile blocks (R400), and the stride of its slot. -/
def recordLen (tiles : Nat) : Nat := 192 + 136 * tiles
def slotStride (tiles : Nat) : Nat := (recordLen tiles + 2047) / 2048 * 2048

/-- The unit that INST names is fitted and of a half (R393, R406). -/
def instOk (s : State) (h : Half) (ev qual inst : Nat) : Bool :=
  let stackOk := decide (inst < 8) && s.cfg.hasHalf (stackHalf inst) && decide (stackHalf inst = h)
  let portOk := decide (portHalf inst = h) && portFitted s inst
  let halfOk := decide (inst = halfIdx h)
  let arbOk (kind i : Nat) : Bool :=
    match kind with
    | 1 => decide (i < 8) && decide (stackHalf i = h)
    | 2 => decide (i < 64)
    | 3 => decide (i < 16) && s.cfg.halfB
    | _ => decide (i = halfIdx h)
  if 0x02 ≤ ev ∧ ev ≤ 0x06 then portOk
  else if ev = 0x07 ∨ ev = 0x08 ∨ ev = 0x09 ∨ ev = 0x0F ∨ ev = 0x12 then halfOk
  else if ev = 0x0A ∨ ev = 0x0B then arbOk qual inst
  else if ev = 0x0C then arbOk (if inst / 16 = 0 then 4 else inst / 16) (inst % 16)
  else if ev = 0x0D ∨ ev = 0x0E then stackOk
  else if ev = 0x11 then decide (chanHalf inst = h)
  else true

/-- A range of a partition's memory lies inside its regions, and in a half. -/
def memInside (s : State) (q : Nat) (h : Half) (base len : Nat) : Bool :=
  decide (base + len ≤ 2 ^ 40) &&
    (List.range ((base + len - 1) / 2 ^ 21 + 1 - base / 2 ^ 21)).all fun i =>
      match translate s q ((base / 2 ^ 21 + i) * 2 ^ 21) with
      | some (prn, _) => decide (regionHalf s.cfg prn = h)
      | none => false

/-- The staged configuration of a bank is valid (R406), read as its STARTING takes it. -/
def bankConfigOk (s : State) (b : Nat) : Bool :=
  let r (off : Nat) : Word := kreg s .bank b off
  let q := bankOwner s b
  let h := bankHalf b
  let first := fieldOf (r 0x040) 9 0
  let count := fieldOf (r 0x040) 20 10
  let route := fieldOf (r 0x044) 1 0
  let base := (r 0x048).toNat + 2 ^ 32 * (r 0x04C).toNat
  let slots := (r 0x050).toNat
  let tilesOk := decide (count ≤ 1024) && (List.range count).all fun i =>
    match physOf s (first + i) with
    | some t => decide (tileOwner s t = q)
    | none => false
  let selOk := (List.range 16).all fun k =>
    let w := r (0x100 + 4 * k)
    let ev := fieldOf w 7 0
    !bitOf w 31 || ((bitOf w 22 || instOk s h ev (fieldOf w 15 8) (fieldOf w 21 16)) && (decide (q = 0) || decide (ev ≠ 0x12)))
  let ringOk := decide (base % 2048 = 0) && decide (1 ≤ slots) && decide (slots ≤ 65536) && memInside s q h base (slots * slotStride count)
  let reportOk := (List.range 64).any fun c => decide (pageOwner s (pageNo .chan c) = q)
  tilesOk && selOk && (decide (route ≠ 1) || ringOk) && (decide (route ≠ 2) || reportOk) && decide (route ≠ 3)

/-- A bank page has reached ON (R396, R406): ISEQ 0 opens with every counter at zero. The tiles it now governs leave the
higher-numbered banks that did (R391). -/
def bankStarted (s0 : State) (b : Nat) : State :=
  let s := ((governed s0 b).map (·.2)).foldl (fun u t => leaveBank u (some b) t) s0
  let s1 := onBank (withdrawUse s fun u => decide (u = .drain b)) b fun x => { x with closed := none, kept := none, par := 0, stopping := false }
  openInterval (clearTileCtrs s1 ((governed s b).map (·.2))) b 0

/-- A bank page enters STOPPING (R406): the final boundary comes at the end of this cycle, or once the closed parity has retired. `wasOn`
says whether an interval is open. -/
def bankStopping (s : State) (b : Nat) (wasOn : Bool) : State :=
  if !wasOn then onBank s b fun x => { x with stopping := true }
  else if bankPending s b then refuseBoundary s b
  else if s.ends.contains (pageNo .bank b, true) then s
  else { s with ends := s.ends ++ [(pageNo .bank b, true)] }

/-- A bank's stop may complete (R406). -/
def bankMayStop (s : State) (b : Nat) : Bool := (getBank s b).stopping && !bankPending s b

/-- The forced boundary of a teardown (R396, R401): the next interval opens, both parities read zero, and a pending drain is
abandoned. -/
def bankTeardown (s : State) (b : Nat) : State :=
  let s1 := clearTileCtrs s ((governed s b).map (·.2))
  let s2 := onBank (withdrawUse s1 fun u => decide (u = .drain b)) b fun x => { x with closed := none, kept := none, mitten := .empty }
  openInterval s2 b (kregN s .bank b 0x054 + 1)

/-- A retired parity may leave the final boundary of a stop to be made (R406). -/
def afterRetire (s : State) (b : Nat) : State :=
  if pageSt s .bank b = .stopping ∧ (getBank s b).stopping = false then bankStopping s b true else s

/-! ### Interval records and their drain (R400) -/

/-- One counter entry of a record: the value, and SAT. -/
def ctrEntry (v : Nat) : List Byte := leBytes 8 (v + 2 ^ 48 * b2n (decide (v = ctrMax)))

/-- Some counter of a closed interval saturated. -/
def ClosedInt.sat (c : ClosedInt) : Bool :=
  c.ctrs.contains ctrMax || c.tiles.any fun t => t.2.2.2.contains ctrMax

/-- The 64 B head of a record. -/
def recordHead (s : State) (b : Nat) (c : ClosedInt) : List Byte :=
  let q := bankOwner s b
  let tear := decide ((getPart s q).st = .scrubbing)
  leBytes 4 0x50524631 ++
    leBytes 4 (b + 2 ^ 8 * q + 2 ^ 16 * b2n c.timeless + 2 ^ 17 * b2n c.sat + 2 ^ 18 * b2n tear) ++
    leBytes 4 c.iseq ++ leBytes 4 c.tiles.length ++ leBytes 8 c.ftOpen ++ leBytes 8 c.ftClose ++ leBytes 4 c.refused ++
    List.replicate 28 0

/-- The bytes of a closed interval's record. -/
def recordBytes (s : State) (b : Nat) (c : ClosedInt) : List Byte :=
  recordHead s b c ++ c.ctrs.flatMap ctrEntry ++
    c.tiles.flatMap fun t => leBytes 8 (t.1 + 2 ^ 16 * t.2.1 + 2 ^ 32 * b2n t.2.2.1) ++ t.2.2.2.flatMap ctrEntry

/-- Where a closed interval's record goes: its slot of the ring (R400). -/
def recordSlot (s : State) (b : Nat) (c : ClosedInt) : Nat :=
  let slots := max 1 (kregFN s .bank b 0x050)
  kregFN s .bank b 0x048 + 2 ^ 32 * kregFN s .bank b 0x04C + c.iseq % slots * slotStride (fieldOf (kregF s .bank b 0x040) 20 10)

/-- 64 B lines of a closed interval's record. -/
def recordLines (s : State) (b : Nat) (c : ClosedInt) : Nat := ((recordBytes s b c).length + 63) / 64

/-- The drain DMA of a half asks a stack channel for the next lines of a bank's record (R239, R400, R401): those of one span that the
stack share covers, and none while earlier ones wait. -/
def askDrain (s : State) (b : Nat) : State :=
  match (getBank s b).closed with
  | none => s
  | some c =>
    let q := bankOwner s b
    let h := bankHalf b
    match translate s q (recordSlot s b c + 64 * c.written) with
    | none => s
    | some (prn, off) =>
      let n := min (min (recordLines s b c - c.written) (32 - off / 64 % 32)) (obsFill s / 4800)
      if bankRoute s b ≠ 1 ∨ n = 0 ∨ useWaits s (.drain b) = true ∨ calmOn s h = true then s
      else
        let bytes := takeBytes (64 * n) ((recordBytes s b c).drop (64 * c.written))
        let s1 := onBank (obsDraw s (64 * n)) b fun x => { x with closed := some { c with written := c.written + n } }
        askStack s1 (0x4C6 + halfIdx h) (lstOf (ftNs s h + kregFN s .funnel (halfIdx h) 0x044)) q true
          (writeAsks (.drain b) prn 16 off bytes)

/-- Every bank with a record to write asks, once a cycle. -/
def drainTick (s : State) : State := (s.banks.cells.map (·.1)).foldl askDrain s

/-- A closed interval whose record the memory has accepted to its last line retires (R400). -/
def drainRing (s : State) (b : Nat) (c : ClosedInt) : State :=
  if c.written < recordLines s b c ∨ useWaits s (.drain b) = true then s
  else
    let s1 := incReg (onBank s b fun x => { x with closed := none }) .bank b 0x068 1
    afterRetire (if max 1 (kregFN s .bank b 0x050) ≤ c.iseq then incReg s1 .bank b 0x06C 1 else s1) b

/-- Drain a closed interval as a REPORT packet of kind 2. -/
def drainReport (s : State) (b : Nat) (c : ClosedInt) : State :=
  let q := bankOwner s b
  let key := unitKey 0x00D (if q = 0 then none else some q)
  let body := (recordHead s b c).take 32 ++ c.ctrs.flatMap ctrEntry
  let s1 := if kindAdmitted s key 3 then
      incReg (emit s key false fun _ _ => 0xB2#8 :: BitVec.ofNat 8 (body.length / 4) :: body) .bank b 0x068 1
    else s
  afterRetire (onBank s1 b fun x => { x with closed := none }) b

/-- COUNTER_DRAIN_DONE (R397, R400, R401): a closed interval leaves by its bank's ROUTE, and its parity retires. -/
def execCounterDrainDone (bank : Nat) (s : State) : Out :=
  if kindCount .bank ≤ bank then .fault .noSuchUnit
  else
    needHalf s (bankHalf bank) <|
      match (getBank s bank).closed with
      | none => .next s
      | some c =>
        if bankRoute s bank = 1 then .next (drainRing s bank c)
        else if bankRoute s bank = 2 then .next (drainReport s bank c)
        else if c.cyc = s.cyc then .next s
        else .next (afterRetire (onBank s bank fun x => { x with closed := none }) bank)

/-! ### Sampling (R402, R403) -/

/-- PROG of TILE_STATUS (R82); CALM while a Calm stops the tile (R121, R413). -/
def progCode (s : State) (t : Nat) : Nat :=
  if tileCalm s t then 7
  else match (getTile s t).prog with
  | .none => 0
  | .loaded => 1
  | .running => 2
  | .waitSem => 3
  | .waitFt => 4
  | .halted => 5
  | .faulted => 6

/-- The Lull level a tile has reached, or leaves. -/
def lullLevel (x : Tile) : Nat :=
  match x.lull with
  | .asleep l => l
  | .waking l => l
  | _ => 0

/-- A PC packet of a tile (R369): synthetic in Lull. -/
def pcBytes (s : State) (t : Nat) : List Byte :=
  let x := getTile s t
  let lv := lullLevel x
  let stall := if lv = 0 then stallCode s t else 0x3F
  BitVec.ofNat 8 (0x30 + progCode s t) :: (leBytes 2 (x.pc % 1024 + 1024 * stall) ++ leBytes 1 (b2n (decide (lv ≠ 0)) + 2 * lv))

/-- Sample one tile into each of its streams whose channel admits PC. -/
def sampleTile (s : State) (t : Nat) : State :=
  let one (u : State) (key : Nat) : State := if kindAdmitted u key 0 then emit u key false fun _ _ => pcBytes s t else u
  one (one s (tileKey t true)) (tileKey t false)

/-- Tiles of a half whose page is not OFF. -/
def tilesUp (s : State) (h : Half) : List Nat :=
  s.pages.cells.filterMap fun c =>
    match pageOf c.1 with
    | some (.tile, t) => if tileHalf t = h ∧ c.2.st ≠ .off then some t else none
    | _ => none

/-- The latest FT in ns of a phase and a period that has come, if any. -/
def lastInstant (now phase period : Nat) : Option Nat :=
  if period = 0 ∨ now < phase then none else some (now - (now - phase) % period)

/-- The sample instant that a half has reached and not sampled. -/
def pcDue (s : State) (h : Half) : Option Nat :=
  let n := halfIdx h
  let phase := kregFN s .prf n 0x044 + 2 ^ 32 * kregFN s .prf n 0x048
  match lastInstant (ftNs s h) phase (kregFN s .prf n 0x040) with
  | some at_ => if pageIsOn s .prf n ∧ at_ ≠ s.pcLast.get h then some at_ else none
  | none => none

/-- PC_SAMPLE (R402): at a sample FT one PC record of every tile of the half that is not OFF; without time the instant is
skipped and counted. -/
def execPcSample (h : Half) (s : State) : Out :=
  needHalf s h <|
    match pcDue s h with
    | none => .next s
    | some at_ =>
      let s1 := { s with pcLast := s.pcLast.put h at_ }
      if hasTime s h then .next (incReg64 ((tilesUp s h).foldl sampleTile s1) .prf (halfIdx h) 0x050 1)
      else .next (raiseK (satReg s1 .prf (halfIdx h) 0x058 1) .prf (halfIdx h) 16)

/-! ### Mitten (R404, R405) -/

/-- A stored register that Mitten coarsens for the operator, by page and offset: PORT meter colours and PORT_MON counts of a tenant,
and PART_E_CEIL_HELD of a tenant. -/
def mittened (s : State) (pg off : Nat) : Bool :=
  match pageOf pg with
  | some (.port, p) =>
    (decide (0xA0C ≤ off) && decide (off ≤ 0xCFC)) ||
      (decide (0x090 ≤ off) && decide (off ≤ 0x098) && decide (4 ≤ fieldOf (kreg s .port p 0x08C) 7 0))
  | some (.partMap, i) => decide (0x100 ≤ off) && decide (rowOff .partMap off = 0x0BC) && decide (partEntryPid i off ≠ 0)
  | _ => false

/-- The key of the Mitten copy of PWR_PART_HELD for a partition in a half. -/
def mitHeldKey (h : Half) (q : Nat) : Nat := 2 ^ 32 + 64 * halfIdx h + q

/-- Mitten copies of a half's registers (R405). -/
def mittenRegs (s : State) (h : Half) : Tbl Nat :=
  let mine (a : Nat) : Bool := if a < 2 ^ 32 then decide (pageHalf s (a / 4096) = h) else decide ((a - 2 ^ 32) / 64 = halfIdx h)
  let kept := s.mitRegs.keep fun a _ => !mine a
  let l1 := s.regs.cells.foldl (fun m c =>
    if mittened s (c.1 / 4096) (c.1 % 4096) && mine c.1 then m.put 0 c.1 c.2.toNat else m) kept
  s.gateHeld.cells.foldl (fun m c => if c.1 / 64 = halfIdx h then m.put 0 (mitHeldKey h (c.1 % 64)) c.2 else m) l1

/-- Mitten copies of the tile counters of a half's tenant tiles. -/
def mittenTiles (s : State) (h : Half) : Tbl Nat :=
  let kept := s.mitTile.keep fun k _ => decide (tileHalf (k / 16) ≠ h)
  s.tiles.cells.foldl (fun m c =>
    if tileHalf c.1 = h ∧ tileOwner s c.1 ≠ 0 then putSeq 0 m (16 * c.1) (sixteen c.2.ctrs) else m) kept

/-- MITTEN_COPY (R405): at a multiple of PRF_MITTEN_NS the copy of each Mittened counter is taken: its open count, or its running
value. -/
def execMittenCopy (h : Half) (s : State) : Out :=
  needHalf s h <|
    match lastInstant (ftNs s h) 0 (kregFN s .prf (halfIdx h) 0x04C) with
    | none => .next s
    | some at_ =>
      if hasTime s h && pageIsOn s .prf (halfIdx h) && decide (at_ ≠ s.mitLast.get h) then
        let copies := s.banks.mapVals fun b x => if bankHalf b = h then { x with mitten := x.ctrs } else x
        .next { s with
          mitLast := s.mitLast.put h at_, banks := copies, mitRegs := mittenRegs s h, mitTile := mittenTiles s h }
      else .next s

/-- A value as Mitten shows it: four significant bits (R405). -/
def mittenOf (v : Nat) : Nat :=
  if v < 16 then 0
  else
    let q := 2 ^ (Nat.log2 v - 3)
    v / q * q

/-- The staged configuration of a PRF control page is in its registers' ranges (R407). -/
def prfConfigOk (s : State) (n : Nat) : Bool :=
  let p := kregN s .prf n 0x040
  let phase := kreg64 s .prf n 0x044
  let m := kregN s .prf n 0x04C
  (decide (p = 0) || (decide (1000 ≤ p) && decide (p ≤ 1000000000) && decide (phase < p))) &&
    decide (1000000 ≤ m) && decide (m ≤ 1000000000)

/-- A PRF control page has reached ON: instants that have passed are not taken. -/
def prfStarted (s : State) (n : Nat) : State :=
  let h := halfOf n
  let phase := kregFN s .prf n 0x044 + 2 ^ 32 * kregFN s .prf n 0x048
  let now := ftNs s h
  { s with
    pcLast := s.pcLast.put h ((lastInstant now phase (kregFN s .prf n 0x040)).getD 0)
    mitLast := s.mitLast.put h ((lastInstant now 0 (kregFN s .prf n 0x04C)).getD 0) }

/-! ### Events that count cycles (R387, R393, R394) -/

/-- CYCLES in every bank that selects it. -/
def countCycle (s : State) : State :=
  (List.range 64).foldl (fun u b =>
    if bankOpen u b then
      let x := getBank u b
      let y := addBankCtrs u 0x01 [0] 0 (some (bankOwner u b)) 1 b x
      let v := putBank u b y
      if fullCtrs x.ctrs < fullCtrs y.ctrs then bankSat v b else v
    else u) s

/-- The tile waits for a MOVE's ranges or for a place among its MOVEs (R403, R425). -/
def waitsForMove (s : State) (t : Nat) : Bool := heldAt s t = some 0x06 || heldAt s t = some 0x07

/-- What one cycle counts of a tile that is not OFF, and the start of a wait that issue itself makes (R425). -/
def tileCycle (s : State) (t : Nat) : State :=
  let h := tileHalf t
  let x := getTile s t
  if lullLevel x ≠ 0 then s
  else
    let code := stallCode s t
    let s1 := if pageIsOn s .tile t then countTile s t 0x01 [0] 1 else s
    let s2 := countTile s1 t 0x03 [code] 1
    let s3 := if x.tmma.isSome then countTile s2 t 0x04 [0] 1 else s2
    let q := tileOwner s t
    let s4 := if code = 0x05 then
        let k := 64 * halfIdx h + q
        let u := countBlk (countTile s3 t 0x0A [0] 1) h 0x10 [0] 0 (some q) 1
        { u with gateHeld := u.gateHeld.put 0 k (u.gateHeld.get 0 k + 1) }
      else s3
    if x.wait ≠ .none then s4
    else if waitsForMove s t then
      (if x.waitFt = allOnes64 then onTile s4 t fun y => { y with waitFt := ftOrOnes s h } else s4)
    else if x.waitFt ≠ allOnes64 then onTile s4 t fun y => { y with waitFt := allOnes64 } else s4

/-- Some observation write waits on the bucket of the stack share (R387). -/
def obsWaits (s : State) : Bool :=
  ((s.channels.cells.any fun c => (ringWants s c.1).isSome) && !obsCovers s 256) ||
    ((s.banks.cells.any fun c => c.2.closed.isSome && decide (bankRoute s c.1 = 1)) && !obsCovers s 64)

/-- What one cycle counts. -/
def profileTick (s : State) : State :=
  let s1 := countCycle s
  let s2 := (tilesUp s1 .a ++ tilesUp s1 .b).foldl tileCycle s1
  if obsWaits s then incReg s2 .egress 0 0x050 1 else s2

end Sys2Proof.Machine
end

