-- ==== Sys2Proof/Machine/CalmOps.lean ====
section
/-! DEFINITION. What a Calm keeps of arriving cells (R415, R416): the send time of a cell (R68), channel records, and the
control store. -/

namespace Sys2Proof.Machine

/-- The send time that a receiver reconstructs from a stamp (R68): the largest FT that the conditions allow, if there is one. -/
def sendTime (now stamp : Nat) : Option Nat :=
  let r := stamp % 2 ^ 24 * 16
  let m := now + 4096
  if r ≤ m then some (r + (m - r) / 2 ^ 28 * 2 ^ 28) else none

/-- The send time of a cell that arrives at a port now. -/
def sentAt (s : State) (p stamp : Nat) : Option Nat := sendTime (ftNs s (portHalf p)) stamp

/-- Change what a Calm keeps in a half. -/
def onCalm (s : State) (h : Half) (f : Calm → Calm) : State := { s with calm := s.calm.put h (f (s.calm.get h)) }

/-- The channel record of a cell, before its FT, send time and port are known (R420). -/
def CalmRec.blank (kind cls handle : Nat) : CalmRec := ⟨0, 0, 0, kind, cls, handle, 0, 0, 0, 0, 0⟩

/-- A cell that a port receives during a capture leaves one channel record: IN_CUT where it was sent before T, else OUTSIDE
(R415). A cell without a send time is OUTSIDE with SEND zero (R68). -/
def noteArrival (s : State) (p : Nat) (t : Option Nat) (r : CalmRec) : State :=
  let h := portHalf p
  let c := s.calm.get h
  if c.st ≠ .capture then s
  else
    let r1 := { r with ft := ftNs s h, send := t.getD 0, port := p }
    let inside := match t with
      | some u => decide (u < c.t)
      | none => false
    onCalm s h fun c => if inside then { c with inCut := c.inCut ++ [r1] } else { c with outside := c.outside ++ [r1] }

/-- The half whose Calm keeps a control message from being acted on (R416): that of the port, or of the session's home. -/
def ctrlHeldBy (s : State) (p sid : Nat) : Option Half :=
  if calmOn s (portHalf p) then some (portHalf p)
  else if calmOn s (getSes s sid).home then some (getSes s sid).home
  else none

/-- A control message waits in a half's control store of 1,024 cells, or in its port's ingress buffer while the store is full
(R416): true where the store took it. -/
def holdCtrl (s : State) (h : Half) (p : Nat) (m : Instr) : State × Bool :=
  if (s.calm.get h).store.length < 1024 then (onCalm s h fun c => { c with store := c.store ++ [m] }, true)
  else
    let x := getPort s p
    let s1 := putPort s p { x with ctrlWait := x.ctrlWait ++ [m] }
    (raiseK (onCalm s1 h fun c => { c with ctrlFull := true }) .calm (halfIdx h) 16, false)

end Sys2Proof.Machine
end

