-- ==== Sys2Proof/Machine/Session.lean ====
section
/-! DEFINITION. Sessions as the host and the schedule drive them (chapter 7): DESCRIPTOR_COMMIT, CONTRIBUTOR_TABLE_COMMIT,
SES_START, SES_STOP, SES_ARM_GO, EDGE_KEY_REPORT, EPOCH_START_ACTION, ACC_CLEAR_DONE, GRANT_BATCH_FLUSH, EPOCH_RETIRE. -/

namespace Sys2Proof.Machine

/-! ### Descriptors (R151, R152, R179, R202, R222) -/

/-- Reasons of R152. -/
def rejField : Nat := 1
def rejPid : Nat := 2
def rejPlacement : Nat := 3
def rejHalf : Nat := 4
def rejState : Nat := 5
def rejTiming : Nat := 6
def rejPlane : Nat := 7
def rejTable : Nat := 8
def rejBanks : Nat := 9

/-- The session with a new descriptor. -/
def Session.withDesc (x : Session) (ws : List (Nat × Word)) : Session := { x with desc := (List.range 16).map (tableWord ws) }

/-- Codes and reserved bits of word 0. -/
def Session.word0Bad (x : Session) : Bool :=
  decide (9 < x.op) || decide (x.operator = 3) || decide (x.policy = 3) || decide (fieldOf (x.word 0) 31 18 ≠ 0)

/-- Reserved bits of the other words (R151). -/
def Session.reservedBad (x : Session) : Bool :=
  let f (n hi lo : Nat) : Bool := decide (fieldOf (x.word n) hi lo ≠ 0)
  f 1 15 14 || f 1 31 27 || f 2 15 13 || f 2 31 29 || f 3 15 14 || f 3 31 30 || f 4 31 24 || f 10 31 25 || f 12 31 25 ||
    f 14 31 18 || f 15 15 14 || f 15 31 29

/-- Formats whose bit of WIRE_FORMATS is set. -/
def Session.wireList (x : Session) : List Nat := (List.range 14).filter fun c => x.wireFmts.testBit c

/-- Ranges of the fields of a MEMBER descriptor. -/
def Session.rangeBad (x : Session) : Bool :=
  decide (x.parts = 0) || decide (1024 < x.parts) || decide (x.partElems = 0) || decide (4096 < x.partElems) ||
    decide (x.lastElems = 0) || decide (x.partElems < x.lastElems) || !x.wireList.contains x.startFmt || !isElemFmt x.upFmt ||
    !isElemFmt x.resultFmt || decide (x.resultRound = 3) || decide (x.creditWindow = 0) || decide (64 < x.creditWindow) ||
    decide (x.failLimit = 0)

/-- The conditions of R202 of a MEMBER descriptor; a table already accepted tells the contributors' types. -/
def Session.shapeBad (x : Session) : Bool :=
  let oneFormat := decide (x.wireList.length ≠ 1) || decide (x.upFmt ≠ x.startFmt) || decide (x.resultFmt ≠ x.startFmt) ||
    decide (512 < x.segsOf x.startFmt 0)
  if x.op = opAllgather then oneFormat
  else if x.op = opAlltoall then oneFormat || decide (x.segsOf x.startFmt 0 % x.parts ≠ 0)
  else if x.op = opBarrier then
    decide (x.parts ≠ 1) || decide (x.partElems ≠ 1) || decide (x.lastElems ≠ 1) || decide (x.operator ≠ 0)
  else if x.op = opBroadcast then x.tableOk && (x.bank x.newest).any fun c => decide (c.type = 1)
  else if x.op = opRub then decide (x.operator ≠ 0)
  else false

/-- In a RELAY descriptor words 1 to 4, 14 and 15 are zero but for CONTRIBS, and the operation is not RUB or PROGRAM. -/
def Session.relayBad (x : Session) : Bool :=
  decide ((x.word 1).toNat ≠ x.contribs) || [2, 3, 4, 14, 15].any (fun n => decide (x.word n ≠ 0)) || decide (x.op = opRub) ||
    decide (x.op = opProgram)

/-- FIELD (R149, R151, R202, R222). -/
def fieldBad (s : State) (x : Session) : Bool :=
  x.word0Bad || x.reservedBad || decide (x.contribs = 0) || decide (8192 < x.contribs) ||
    (!x.isRoot && decide (planeOf x.parentPfa = 15)) || decide (planeOf x.relayPfa = 15) ||
    (if x.isRelay then x.relayBad else x.rangeBad || x.shapeBad || wvRefuses s x)

/-- A partition's range of session IDs holds one (R307). -/
def rangeCovers (s : State) (q sid : Nat) : Bool :=
  let w := partReg s q 0x004
  decide (fieldOf w 11 0 ≤ sid) && decide (sid < fieldOf w 11 0 + fieldOf w 28 16)

/-- The PID owns the session ID: a LIVE partition by its range, and PID 0 what no other partition that exists owns. -/
def ownsSid (s : State) (q sid : Nat) : Bool :=
  if q = 0 then
    (List.range 63).all fun i => decide ((getPart s (i + 1)).st = .free) || !rangeCovers s (i + 1) sid
  else decide ((getPart s q).st = .live) && rangeCovers s q sid

/-- A binding of another session stands in the way at a tile: the same index, or an overlapping accumulator range. -/
def bindClash (s : State) (sid : Nat) (x : Session) (t : Nat) : Bool :=
  (getTile s t).binds.cells.any fun c =>
    c.2.valid && decide (c.2.sid ≠ sid) &&
      (decide (c.1 = x.bindIndex) || overlaps x.accBase (2 * x.partElems) c.2.accBase (2 * c.2.accCount))

/-- A part has no tile of the session's partition, or its tile's bindings are in the way. -/
def partMisplaced (s : State) (sid : Nat) (x : Session) (p : Nat) : Bool :=
  match x.tileOf s p with
  | none => true
  | some t => decide (tileOwner s t ≠ x.pid) || bindClash s sid x t

/-- PLACEMENT. -/
def placementBad (s : State) (sid : Nat) (x : Session) : Bool :=
  !x.isRelay && (decide (1024 < x.tileBase + x.parts) || decide (8192 < x.accBase + 2 * x.partElems) ||
    x.partList.any (partMisplaced s sid x))

/-- Some part lies on a tile of the other half. -/
def partsCross (s : State) (x : Session) : Bool :=
  x.partList.any fun p =>
    match x.tileOf s p with
    | some t => decide (tileHalf t ≠ x.home)
    | none => false

/-- A session keeps to its home half (R156): LOCAL_PORTS with every part there. -/
def staysHome (s : State) (x : Session) : Bool := x.localPorts && !partsCross s x

/-- The state forbids a descriptor (R152, R179). -/
def descStateBad (s : State) (old x : Session) : Bool :=
  decide (old.st = .active) || decide (old.st = .draining) || decide (old.st = .frozen) || !engineOn s x.home

/-- The plane that RELAY_PFA must not lie in (R151): the parent's, or the block's own at the root. -/
def barredPlane (s : State) (x : Session) : Nat := if x.isRoot then planeOf (kregN s .blk 0 0x060) else planeOf x.parentPfa

/-- PLANE; at a root whose own PFA has not been written every RELAY_PFA is refused (R468). -/
def planeBad (s : State) (x : Session) : Bool :=
  decide (planeOf x.relayPfa = barredPlane s x) || decide (barredPlane s x = 15)

/-- Why a descriptor is rejected: the first reason of R152, for one with OP NONE as for any other. -/
def descReject (s : State) (sid : Nat) (old x : Session) : Option Nat :=
  if fieldBad s x then some rejField
  else if !ownsSid s x.pid sid then some rejPid
  else if placementBad s sid x then some rejPlacement
  else if !s.cfg.hasHalf x.home || (x.localPorts && partsCross s x) then some rejHalf
  else if descStateBad s old x then some rejState
  else if x.guardNs < ftuLead s x.home ∨ x.marginNs < 2 * x.guardNs then some rejTiming
  else if planeBad s x then some rejPlane
  else none

/-- The half whose SES page reports a rejection: the home half, or half A where that is not fitted. -/
def rejectHalf (s : State) (x : Session) : Half := if s.cfg.hasHalf x.home then x.home else .a

/-- A commit is rejected with a reason and an entry (R152, R178). -/
def rejectSes (s : State) (mgmt : Half) (w : Nat) (h : Half) (reason entry : Nat) : State :=
  let s1 := setKreg s .ses (halfIdx h) 0x05C (BitVec.ofNat 32 (reason + 2 ^ 8 * (entry % 8192)))
  decideWin (raiseK s1 .ses (halfIdx h) 17) mgmt w false

/-- A session without its keys: every enabled contributor waits for one (R152, R177). -/
def Session.rekeyed (x : Session) : Session :=
  (x.enabled x.newest).foldl (fun y c => y.setCt c.1 .keying 0) { x with parentKey := false, relayKey := false }

/-- DEFINED once descriptor and table are both accepted (R156); the credit counts begin as the session leaves EMPTY. -/
def Session.defines (x : Session) : Session :=
  if x.desc ≠ [] ∧ x.tableOk = true then
    if x.st = .empty then { x with st := .defined, issued := 0, returned := 0 } else x
  else x

/-- Every key that READY needs is held (R156): the parent's but at the root, the relay's, and every enabled contributor's. -/
def Session.allKeyed (x : Session) : Bool :=
  (x.isRoot || x.parentKey) && x.relayKey &&
    (x.enabled x.newest).all fun c => ctKeyed (x.ctst c.1).1

/-- A DEFINED session with its keys is READY. -/
def Session.readies (x : Session) : Session :=
  if x.st = .defined ∧ x.tableOk = true ∧ x.allKeyed = true then { x with st := .ready } else x

/-- An enabled entry overlaps an earlier one. -/
def overlapsEarlier (l : List Contrib) (n : Nat) (c : Contrib) : Bool :=
  c.enabled && (l.take n).any fun d => d.enabled && overlaps c.first c.count d.first d.count

/-- The table in hand still meets R154 under the descriptor: it has CONTRIBS entries, and a MEMBER's ranges do not overlap. -/
def Session.tableFits (x : Session) : Bool :=
  let l := x.bank x.newest
  decide (l.length = x.contribs) && (x.isRelay || (indexed 0 l).all fun c => !overlapsEarlier l c.1 c.2)

/-- An accepted descriptor replaces the one before; a table that it leaves in breach of R154 must be written again. -/
def acceptDesc (s : State) (sid : Nat) (x : Session) : State :=
  let y := { x with tableOk := x.tableOk && x.tableFits }
  let z := y.rekeyed.defines
  openKexes (putSes (dropKexes s sid) sid (if z.st = .ready then { z with st := .defined } else z)) sid

/-- DESCRIPTOR_COMMIT (R151, R152): a descriptor that a closed write window holds is accepted or rejected. OP NONE deletes the
session and its keys (R156, R330). -/
def execDescriptorCommit (mgmt : Half) (w : Nat) (s : State) : Out :=
  let win := getWin s mgmt w
  if !win.awaits 3 then .next s
  else
    let sid := win.inst
    let old := getSes s sid
    let x := old.withDesc win.staged
    match descReject s sid old x with
    | some r => .next (rejectSes s mgmt w (rejectHalf s x) r 0)
    | none =>
      let s1 := if x.op = 0 then dropKexes (putSes s sid .fresh) sid else acceptDesc s sid x
      .next (decideWin s1 mgmt w true)

/-! ### Contributor tables (R150, R153, R154) -/

/-- Entry n of a written table. -/
def contribOf (ws : List (Nat × Word)) (n : Nat) : Contrib :=
  let w (i : Nat) := tableWord ws (4 * n + i)
  { first := fieldOf (w 0) 16 0, type := fieldOf (w 0) 19 17, enabled := bitOf (w 0) 20, count := fieldOf (w 1) 17 0,
    peerSid := fieldOf (w 1) 29 18, pfa := (w 2).toNat, window := fieldOf (w 3) 7 0, expectAdd := fieldOf (w 3) 27 8 }

/-- Entries a written table holds. -/
def tableCount (ws : List (Nat × Word)) : Nat := (ws.map fun x => x.1 / 4 + 1).foldl max 0

/-- FIELD in an entry: a reserved bit or code, or a rank count out of its range. -/
def entryFieldBad (ws : List (Nat × Word)) (n : Nat) : Bool :=
  let c := contribOf ws n
  decide (fieldOf (tableWord ws (4 * n)) 31 21 ≠ 0) || decide (fieldOf (tableWord ws (4 * n + 1)) 31 30 ≠ 0) ||
    decide (2 < c.type) || decide (c.count = 0) || decide (131072 < c.count) || (decide (c.type = 0) && decide (c.count ≠ 1))

/-- An entry breaks R154 by itself. -/
def Contrib.breaks (c : Contrib) : Bool :=
  decide (131072 < c.first + c.count) || decide (planeOf c.pfa = 15) || decide (64 < c.window)

/-- Why a table is rejected, with its entry. -/
def tableReject (s : State) (x : Session) (ws : List (Nat × Word)) (bank : Option Nat) : Option (Nat × Nat) :=
  let n := tableCount ws
  let l := (List.range n).map (contribOf ws)
  match (List.range n).find? (entryFieldBad ws) with
  | some i => some (rejField, i)
  | none =>
    if x.op = opBroadcast ∧ (l.any fun c => decide (c.type = 1)) = true then
      some (rejField, l.findIdx fun c => decide (c.type = 1))
    else if !engineOn s x.home then some (rejState, 0)
    else if n ≠ x.contribs ∨ n = 0 then some (rejTable, n)
    else
      match (indexed 0 l).find? fun c => c.2.breaks || (!x.isRelay && overlapsEarlier l c.1 c.2) with
      | some c => some (rejTable, c.1)
      | none => if bank.isNone then some (rejBanks, 0) else none

/-- A live epoch of the session uses a bank. -/
def Session.bankBusy (x : Session) (b : Nat) : Bool :=
  (x.eps.a.live && decide (x.eps.a.bank = b)) || (x.eps.b.live && decide (x.eps.b.bank = b))

/-- The bank that a written table goes into (R150): one that no live epoch uses, the older before the newest. -/
def Session.freeBank (x : Session) : Option Nat :=
  if !x.tableOk then some 0
  else if !x.bankBusy (1 - x.newest) then some (1 - x.newest)
  else if !x.bankBusy x.newest then some x.newest
  else none

/-- A contributor's state as a new bank comes into use (R177). -/
def Session.nextCt (x : Session) (c : Nat) (new : Contrib) : CtSt × Nat :=
  let old := x.ctst c
  if !new.enabled then (.disabled, 0)
  else
    match old.1 with
    | .disabled => (.keying, 0)
    | .failed => if (match (x.bank x.newest)[c]? with | some d => decide (d.pfa ≠ new.pfa) | none => false) then (.remapped, 0) else old
    | _ => old

/-- An accepted table comes into use. -/
def Session.withTable (x : Session) (b : Nat) (l : List Contrib) : Session :=
  let cst := (indexed 0 l).foldl (fun t c => t.put (CtSt.disabled, 0) c.1 (x.nextCt c.1 c.2)) (Tbl.empty : Tbl (CtSt × Nat))
  { x with banks := x.banks.put (halfOf b) l, newest := b, tableOk := true, cst := cst }

/-- CONTRIBUTOR_TABLE_COMMIT (R150, R153, R154, R156): a table accepted in READY leaves the session READY, and one that leaves no key
missing brings a DEFINED session to READY. -/
def execContributorTableCommit (mgmt : Half) (w : Nat) (s : State) : Out :=
  let win := getWin s mgmt w
  if !win.awaits 4 then .next s
  else
    let sid := win.inst
    let x := getSes s sid
    match tableReject s x win.staged x.freeBank with
    | some r => .next (rejectSes s mgmt w (rejectHalf s x) r.1 r.2)
    | none =>
      let l := (List.range (tableCount win.staged)).map (contribOf win.staged)
      let y := (x.withTable (x.freeBank.getD 0) l).defines.readies
      .next (decideWin (openKexes (putSes s sid y) sid) mgmt w true)

/-! ### Keys (R156, R177, R330) -/

/-- The edge waits for its key. -/
def Session.edgeWaits (x : Session) : Edge → Bool
  | .contrib c => (x.enabled x.newest).any (fun e => decide (e.1 = c)) &&
      (decide ((x.ctst c).1 = .keying) || decide ((x.ctst c).1 = .remapped))
  | .parent => !x.isRoot && !x.parentKey
  | .relay => !x.relayKey

/-- The session with the key of an edge. -/
def Session.withKey (x : Session) : Edge → Session
  | .contrib c => x.setCt c .active 0
  | .parent => { x with parentKey := true }
  | .relay => { x with relayKey := true }

/-- EDGE_KEY_REPORT (R156, R177, R327, R328, R330): the RTP reports the key of an edge whose peer shares a secret with the
partition. -/
def execEdgeKeyReport (sid : Nat) (edge : Edge) (s : State) : Out :=
  let x := getSes s sid
  if 4096 ≤ sid then .fault .noSuchUnit
  else if x.st = .empty ∨ x.edgeWaits edge = false ∨ ownerKeyed s x.pid = false ∨ (s.rtp.get x.home).booted = false ∨
      peerKnown s x.pid (x.pfaOf x.newest edge) = false then .next s
  else if !keyRoom s x.home then .next (keysFull s)
  else .next (react (putSes s sid (x.withKey edge).readies) sid)

/-! ### START and STOP (R155, R156, R179, R211) -/

/-- Words of a partition's program area as little-endian words. -/
def areaWord (s : State) (q addr n : Nat) : Nat := leNat (((readPart s q addr 1).drop (4 * n)).take 4)

/-- What the placement of a PROGRAM session finds (R211): 0 PLACED, 1 NO_IMAGE, 2 SIZE, 3 TENSOR. -/
def placeStatus (s : State) (x : Session) : Nat :=
  let base := x.bindIndex * 0x100000
  let q := x.pid
  let pl := base + 0x80000
  if !rangeMapped s q base 64 || !rangeMapped s q pl 64 || rangeBad s q base 64 || rangeBad s q pl 64 then 1
  else if areaWord s q pl 2 % 2 = 0 then 1
  else
    let n := areaWord s q pl 0
    if n < 64 ∨ 524288 < n ∨ n % 64 ≠ 0 then 2
    else if (areaWord s q base 1).testBit 16 && !s.cfg.tensor then 3
    else 0

/-- Write the program registers of every tile of a PROGRAM session (R211). -/
def placeTiles (s : State) (x : Session) : State :=
  let base := x.bindIndex * 0x100000
  let pl := base + 0x80000
  let len := areaWord s x.pid pl 0
  let seed := areaWord s x.pid pl 1 % 65536
  x.partList.foldl (fun u p =>
    match x.tileOf u p with
    | some t => setKreg (setKreg (setKreg64 u .tile t 0x080 base) .tile t 0x07C (BitVec.ofNat 32 len)) .tile t 0x188 (BitVec.ofNat 32 seed)
    | none => u) s

/-- Place the image of a PROGRAM session: the state, and whether START may go on. -/
def placeImage (s : State) (sid : Nat) : State × Bool :=
  let x := getSes s sid
  if x.op ≠ opProgram then (s, true)
  else
    let st := placeStatus s x
    let s1 := setKreg s .ses x.page 0x0C8 (BitVec.ofNat 32 (sid + 2 ^ 16 * st + 2 ^ 31))
    if st = 0 then (placeTiles s1 x, true) else (s1, false)

/-- START and ARRIVE of a binding. -/
def bindSems (b : Nat) : Nat × Nat := if b = 0 then (0, 1) else (Config.bindSem (2 * b) % 64, Config.bindSem (2 * b + 1) % 64)

/-- The binding of a part (R155). -/
def Session.bindingOf (x : Session) (sid p : Nat) : Binding :=
  let m := bindSems x.bindIndex
  { Binding.unused with
    valid := true, sid := sid, semStart := m.1, semArrive := m.2, accBase := x.accBase, accCount := x.elemsOf p }

/-- The session enters ACTIVE (R155, R231): its bindings are written, and the advice begins at the rung of START_FORMAT. -/
def enterActive (s : State) (sid : Nat) : State :=
  let x := getSes s sid
  let s1 := x.partList.foldl (fun u p =>
    match x.tileOf u p with
    | some t => onTile u t fun y => y.setBind x.bindIndex (x.bindingOf sid p)
    | none => u) s
  onSes s1 sid fun y =>
    { y with
      st := .active, restart := false, wvRun := 0, wvRung := (rungOf (x.prof s 0) (x.prof s 1) x.startFmt).getD 0
      wvLock := false, wvFrom := 0, wvMeas := [] }

/-- Clear a session's bindings (R122). -/
def clearBindings (s : State) (sid : Nat) : State :=
  let x := getSes s sid
  x.partList.foldl (fun u p =>
    match x.tileOf u p with
    | some t => onTile u t fun y => if (y.bind x.bindIndex).sid = sid then y.setBind x.bindIndex .unused else y
    | none => u) s

/-- Write SES_CMD_STATUS (R178). -/
def cmdStatus (s : State) (h : Half) (sid : Nat) (refused : Bool) : State :=
  let s1 := setKreg s .ses (halfIdx h) 0x058 (BitVec.ofNat 32 (sesCode (getSes s sid).st + 256 * b2n refused + 2 ^ 31))
  if refused then accessErr s1 .ses (halfIdx h) else s1

/-- The entry into ACTIVE that a START asks for: the parts' tiles are the partition's and free, and a PROGRAM session's image is placed
(R211); the state, and whether the session entered. In SPLIT no session that crosses the halves starts (R444). -/
def tryActive (s : State) (sid : Nat) : State × Bool :=
  let x := getSes s sid
  if (x.partList.any (partMisplaced s sid x)) = true ∨ (inSplit s && !staysHome s x) = true then (s, false)
  else
    let r := placeImage s sid
    if r.2 then (enterActive r.1 sid, true) else r

/-- A DRAINING session with both parities IDLE is READY, or ACTIVE again (R156): the pending START is refused as any other is (R211). -/
def drainCheck (s : State) (sid : Nat) : State :=
  let x := getSes s sid
  if x.st = .draining ∧ x.idle = true then
    let s1 := onSes (clearBindings s sid) sid fun y => { y with st := .ready, restart := false }
    if x.restart then
      let r := tryActive s1 sid
      if r.2 then r.1 else cmdStatus r.1 x.home sid true
    else s1
  else s

/-- START at the engine of a half. In SPLIT neither half starts a session that crosses the halves (R444). -/
def actStart (s : State) (h : Half) (sid : Nat) : State :=
  let x := getSes s sid
  if x.home ≠ h ∨ engineOn s h = false then cmdStatus s h sid true
  else if x.st = .draining then cmdStatus (onSes s sid fun y => { y with restart := true }) h sid false
  else if x.st ≠ .ready then cmdStatus s h sid true
  else
    let r := tryActive s sid
    cmdStatus r.1 h sid !r.2

/-- STOP at the engine of a half. -/
def actStop (s : State) (h : Half) (sid : Nat) : State :=
  let x := getSes s sid
  if x.home ≠ h ∨ engineOn s h = false then cmdStatus s h sid true
  else if x.st = .active then cmdStatus (drainCheck (onSes s sid fun y => { y with st := .draining, restart := false }) sid) h sid false
  else if x.st = .draining then cmdStatus (onSes s sid fun y => { y with restart := false }) h sid false
  else cmdStatus s h sid true

/-- A GO during a Calm of the half is acted on in the resume cycle (R414). -/
def goOrHold (s : State) (h : Half) (c : Instr) (act : State → State) : State :=
  if calmOn s h then onCalm s h fun k => { k with gos := k.gos ++ [c] } else act s

/-- SES_START (R156): START with GO written to SES_CMD. -/
def execSesStart (port : Half) (h : Half) (sid : Nat) (s : State) : Out :=
  mgmtWriteK s port .ses (halfIdx h) fun s =>
    let s1 := setKreg s .ses (halfIdx h) 0x054 (BitVec.ofNat 32 (sid % 4096 + 2 ^ 16))
    okay (goOrHold s1 h (.sesStart port h sid) fun u => actStart u h (sid % 4096)) port

/-- SES_STOP (R156). -/
def execSesStop (port : Half) (h : Half) (sid : Nat) (s : State) : Out :=
  mgmtWriteK s port .ses (halfIdx h) fun s =>
    let s1 := setKreg s .ses (halfIdx h) 0x054 (BitVec.ofNat 32 (sid % 4096 + 2 ^ 17))
    okay (goOrHold s1 h (.sesStop port h sid) fun u => actStop u h (sid % 4096)) port

/-! ### Arming (R168) -/

/-- The start FT and the epoch that SES_ARM_FT and SES_ARM_EPOCH name. -/
def armFt (s : State) (h : Half) : Nat := kreg64 s .ses (halfIdx h) 0x044
def armEpoch (s : State) (h : Half) : Nat := kregN s .ses (halfIdx h) 0x04C

/-- Why GO is refused: the engine of the half must run the session, and the block must be its root. -/
def goRefusal (s : State) (h : Half) (sid n ft : Nat) : Option Nat :=
  let x := getSes s sid
  if engineOn s h = false ∨ x.st = .empty ∨ x.home ≠ h then some 4
  else if x.isRelay || !x.isRoot then some 7
  else armRefusal s x n ft x.marginNs

/-- SES_ARM_STATUS; a GO without effect sets ACCESS (R34). -/
def armStatus (s : State) (h : Half) (code : Nat) : State :=
  let s1 := setKreg s .ses (halfIdx h) 0x050 (BitVec.ofNat 32 (code + 2 ^ 31))
  if code = 0 then s1 else accessErr s1 .ses (halfIdx h)

/-- A GO in SES_ARM_CTRL is acted on. -/
def actArm (s : State) (h : Half) (sid : Nat) : State :=
  let n := armEpoch s h
  let ft := armFt s h
  match goRefusal s h sid n ft with
  | some c => armStatus (noteRefusal s (getSes s sid) c) h c
  | none => armStatus (acceptArm s sid n ft) h 0

/-- SES_ARM_GO (R168, R178): GO clears DONE, and the arm request is answered in SES_ARM_STATUS. -/
def execSesArmGo (port : Half) (h : Half) (sid : Nat) (s : State) : Out :=
  mgmtWriteK s port .ses (halfIdx h) fun s =>
    let s1 := setKreg s .ses (halfIdx h) 0x040 (BitVec.ofNat 32 (sid % 4096))
    let s2 := setKreg s1 .ses (halfIdx h) 0x050 0
    okay (goOrHold s2 h (.sesArmGo port h sid) fun u => actArm u h (sid % 4096)) port

/-! ### Opening and crediting (R110, R164, R173) -/

/-- EPOCH_START_ACTION (R59, R110, R173): a committed epoch opens at its start FT. -/
def execEpochStartAction (h : Half) (entry : Nat) (s : State) : Out :=
  schedOut s h entry actEpochStart (fun _ => true) fun s e => openEpoch s (e.target % 4096) (e.arg % 2) 0

/-- ACC_CLEAR_DONE (R110): the accumulators of a part's parity are clear: its START semaphore is incremented and its first credits
go out. During a Calm of the home half both wait (R413). -/
def execAccClearDone (sid : Nat) (parity : Nat) (part : Nat) (s : State) : Out :=
  if 4096 ≤ sid ∨ 2 ≤ parity then .fault .noSuchUnit
  else
    let x := getSes s sid
    let e := x.ep parity
    match x.tileOf s part with
    | none => .next s
    | some t =>
      let v := (getTile s t).bind x.bindIndex
      if x.isRelay || decide (x.parts ≤ part) || !e.opened || !e.live || e.started.contains part || !v.valid ||
          decide (v.sid ≠ sid) || !(v.ep parity).live || calmOn s x.home then .next s
      else
        let s1 := onEp (semInc s t v.semStart 1) sid parity fun e => { e with started := part :: e.started }
        .next (react s1 sid)

/-- GRANT_BATCH_FLUSH (R164, R275): 256 cycles after the first credit of a batch, the GRANT leaves with what there is, up to 28
credits, unless a meter holds the edge's GRANTs back. -/
def execGrantBatchFlush (sid : Nat) (parity : Nat) (edge : Edge) (s : State) : Out :=
  if 4096 ≤ sid ∨ 2 ≤ parity then .fault .noSuchUnit
  else
    let x := getSes s sid
    let e := x.ep parity
    match x.batchOf edge e.num with
    | some b =>
      let l := b.2.2.1
      if b.2.2.2 + 256 ≤ s.cyc ∧ calmOn s x.home = false ∧ grantRefused s x edge = false then
        let s1 := sendGrant (putSes s sid (x.dropBatch edge e.num)) sid e.bank e.num edge (l.take 28)
        .next (if l.length ≤ 28 then s1
          else onSes s1 sid fun z => { z with batches := z.batches ++ [(edge, e.num, l.drop 28, b.2.2.2)] })
      else .next s
    | none => .next s

/-! ### Retirement (R166, R173, R181, R182) -/

/-- A closing epoch can retire (R173). -/
def mayRetire (s : State) (sid par : Nat) : Bool :=
  let x := getSes s sid
  let e := x.ep par
  decide (e.st = .closing) && e.outcomeSent && tilesReported s x par && !calmOn s x.home &&
    !(x.outSegs.any fun o => decide (o.epoch = e.num) && o.down) && !cellWaits s sid e.num 2 && !cellWaits s sid e.num 3

/-- A slot is held for a session's epoch. -/
def RxSlot.holds (r : RxSlot) (sid par n : Nat) : Bool :=
  decide (r.sid = sid) && decide (r.parity = par) && decide (r.epoch = n)

/-- RESULT credits of an epoch that are still RESERVED. -/
def resultsReserved (s : State) (sid par n : Nat) : Nat :=
  let x := getSes s sid
  (x.partList.map fun p =>
    match x.tileOf s p with
    | some t => ((getTile s t).slots.cells.filter fun c =>
        decide (c.2.st = .reserved) && decide (c.2.kind = 2) && c.2.holds sid par n).length
    | none => 0).foldl (· + ·) 0

/-- The sweep at one tile (R166): slots held for the epoch are freed, an entry left in the queue for one is marked retired, and
the binding's parity is no longer live. A payload still on its way is freed as it arrives. -/
def sweepTile (x : Tile) (b sid par n : Nat) : Tile :=
  let hit (r : RxSlot) : Bool := r.holds sid par n && decide (r.st ≠ .free) && !r.flight
  let gone := (x.slots.cells.filter fun c => hit c.2).map (·.1)
  let v := x.bind b
  let q := v.queue.map fun e => if !e.mark && gone.contains e.slot then { e with retired := true } else e
  let y := { x with slots := x.slots.mapVals fun _ r => if hit r then { r with st := .free, payload := [] } else r }
  if v.sid = sid ∧ (v.ep par).epoch = n then
    y.setBind b ({ v with queue := q }.setEp par ⟨false, false, n, (v.ep par).start⟩)
  else y

/-- The sweep at every tile of a session. -/
def sweep (s : State) (sid par n : Nat) : State :=
  let x := getSes s sid
  x.partList.foldl (fun u p =>
    match x.tileOf u p with
    | some t => onTile u t fun y => sweepTile y x.bindIndex sid par n
    | none => u) s

/-- Contributions of an epoch with one of some fates. -/
def Epoch.count (e : Epoch) (fs : List Nat) : Nat := (e.fates.cells.filter fun c => fs.contains c.2).length

/-- Contributions an epoch expects (R181). -/
def Session.expects (x : Session) (e : Epoch) : Nat :=
  ((x.enabled e.bank).flatMap fun c => (List.range x.parts).map fun p => (x.owedSegs e.fmt c.2 p).length).foldl (· + ·) 0

/-- Segments of a contributor that were REDUCED. -/
def Epoch.reducedOf (e : Epoch) (c : Nat) : Nat :=
  (e.fates.cells.filter fun f => decide (f.2 = fateReduced) && decide (f.1 / (1024 * 4096) = c)).length

/-- The record of an epoch that retires (R181, R182). -/
def Session.recordFor (x : Session) (e : Epoch) : EpRecord :=
  let d := e.dec.getD ⟨0, 0, 0, 0, 0, []⟩
  let exp := x.expects e
  let red := e.count [fateReduced]
  let settled := e.count [fateDiscSettled, fateAccepted, fateFilled]
  let rec' := e.count [fateReclaimed, fateCredited]
  let failed := e.count [fateDiscFailed]
  let tile := e.count [fateDiscTile]
  { num := e.num, outcome := d.code, reason := d.reason, expected := exp, reduced := red, discFailed := failed,
    discTile := tile, discSettled := settled, reclaimed := rec', uncredited := exp - (red + settled + rec' + failed + tile),
    retiredUe := e.retiredUe, resultLost := e.resultLost, lateAfter := 0
    excluded := e.excluded.map fun c => (c, e.reducedOf c), dec := d }

/-- The session after an epoch has retired. -/
def Session.retired (x : Session) (par back : Nat) : Session :=
  let e := x.ep par
  let r := x.recordFor e
  let y := x.setEp par { Epoch.fresh with num := e.num }
  { y with
    records := (r :: x.records).take 2, lastOutcome := r.outcome, lastReason := r.reason, reduced := r.reduced
    discarded := r.expected - r.reduced, returned := x.returned + back
    sendCredits := x.sendCredits.filter fun c => decide (c.epoch ≠ e.num)
    outSegs := x.outSegs.filter fun o => decide (o.epoch ≠ e.num)
    batches := x.batches.filter fun b => decide (b.2.1 ≠ e.num) }

/-- An epoch retires: the sweep, its record, and Weathervane's. -/
def retire (s : State) (sid par : Nat) : State :=
  let x := getSes s sid
  let e := x.ep par
  let back := e.count [fateCredited] + resultsReserved s sid par e.num
  let s1 := wvRetire (sweep s sid par e.num) sid par
  let s2 := { putSes s1 sid ((getSes s1 sid).retired par back) with
    heldStarts := s1.heldStarts.filter fun q =>
      !(decide (q.2.1 = x.bindIndex) && decide (q.2.2 = par) && (x.partAt q.1).isSome) }
  react (drainCheck (tidyWv { s2 with retireCyc := s2.retireCyc.set x.pid s2.cyc } sid e.num) sid) sid

/-- EPOCH_RETIRE (R166, R173, R182). -/
def execEpochRetire (sid : Nat) (parity : Nat) (s : State) : Out :=
  if 4096 ≤ sid ∨ 2 ≤ parity then .fault .noSuchUnit
  else .next (if mayRetire s sid parity then retire s sid parity else s)

end Sys2Proof.Machine
end

