-- ==== Sys2Proof/Machine/Partition.lean ====
section
/-! DEFINITION. Partitions (chapter 14): the commands of PART_CMD (R303 to R308), the end of a creation, the scrub and its
certificate (R310 to R312), service events (R315), and ISOLATED (R313). -/

namespace Sys2Proof.Machine

/-! ### What a partition holds -/

/-- Bit n of the words of a partition entry from an offset. -/
def partBit (s : State) (q off n : Nat) : Bool := bitOf (partReg s q (off + 4 * (n / 32))) (n % 32)

/-- Logical tiles that a partition's entry names. -/
def partTiles (s : State) (q : Nat) : List Nat := (List.range 1024).filter (partBit s q 0x028)

/-- Trace channels and counter banks that the entry names. -/
def partChans (s : State) (q : Nat) : List Nat := (List.range 64).filter (partBit s q 0x018)
def partBanks (s : State) (q : Nat) : List Nat := (List.range 64).filter (partBit s q 0x020)

/-- ALLOW_SHARE of a partition. -/
def shareOfPart (s : State) (q : Nat) : Nat := fieldOf (partReg s q 0x008) 10 0

/-- Partitions of PID 1 to 63 that are not FREE. -/
def partsPresent (s : State) : List Nat := ((List.range 63).map (· + 1)).filter fun q => decide ((getPart s q).st ≠ .free)

/-- ALLOW_SHARE summed over partitions that are not FREE (R303, R307). -/
def shareSum (s : State) : Nat := ((partsPresent s).map (shareOfPart s)).foldl (· + ·) 0

/-- A page takes an owner and its GENERATION (R304). A tile's streams may go to another channel with it (R363, R382), and its
counts of the open interval stay with the bank that governed it (R29). -/
def ownPage (s : State) (q pg : Nat) : State :=
  let give (u : State) : State := putPage u pg { getPage u pg with owner := q, gen := (getPart u q).gen }
  match pageOf pg with
  | some (.tile, t) => let u := leaveBank s none t; retile u (give u) t
  | _ => give s

/-- The physical tiles of logical tiles. -/
def physTiles (s : State) (l : List Nat) : List Nat := l.filterMap (physOf s)

/-- Every session of a partition's range is EMPTY. -/
def rangeEmpty (s : State) (q : Nat) : Bool :=
  s.sessions.cells.all fun c => !rangeCovers s q c.1 || decide (c.2.st = .empty)

/-! ### Regions (R306) -/

/-- A channel may give regions under EXCL_CH: no region of it is in use by another partition. -/
def channelOnly (s : State) (q k ch : Nat) : Bool :=
  s.regions.cells.all fun c =>
    !(decide (stackOf s.cfg c.1 = k) && decide (channelOf s.cfg c.1 = ch) && decide (c.2.pid ≠ q) &&
      (decide (c.2.st = .owned) || decide (c.2.st = .allocating) || decide (c.2.st = .migrating)))

/-- A channel holds no region of another partition: of the states in which a region names one, FREE and RETIRED are none (R301, R313). -/
def channelAlone (s : State) (q k ch : Nat) : Bool :=
  s.regions.cells.all fun c =>
    !(decide (stackOf s.cfg c.1 = k) && decide (channelOf s.cfg c.1 = ch) && decide (c.2.pid ≠ q) &&
      decide (c.2.st ≠ .free) && decide (c.2.st ≠ .retired))

/-- A region may be taken for a partition (R297, R299, R306). DEDUCED (log 158): the pool takes regions only of a stack that is ON, since
nothing could zero those of another. -/
def mayTake (s : State) (q arg prn : Nat) : Bool :=
  let k := stackOf s.cfg prn
  let ch := channelOf s.cfg prn
  let half := bitsOf arg 22 21
  decide ((getRegion s prn).st = .free) && decide ((getCh s k ch).st = .inService) && pageIsOn s .mem k &&
    (decide (half = 0) || decide (half = 3) || decide (stackHalf k = halfOf (half - 1))) &&
    (!arg.testBit 20 || channelOnly s q k ch)

/-- The first n regions that may be taken, in ascending PRN order; fewer where the block has no more. -/
def takeRegions (s : State) (q arg : Nat) : Nat → Nat → Nat → List Nat
  | 0, _, _ => []
  | fuel + 1, prn, n =>
    if n = 0 then []
    else if mayTake s q arg prn then prn :: takeRegions s q arg fuel (prn + 1) (n - 1)
    else takeRegions s q arg fuel (prn + 1) n

/-- The regions that CREATE or GROW takes. -/
def regionsFor (s : State) (q arg : Nat) : List Nat := takeRegions s q arg s.cfg.regions 0 (bitsOf arg 18 0)

/-- Take regions FREE → ALLOCATING for a partition (R304). -/
def allocRegions (s : State) (q : Nat) (l : List Nat) : State :=
  l.foldl (fun u r => putRegion u r { getRegion u r with st := .allocating, pid := q, gen := (getPart u q).gen }) s

/-! ### Refusals (R303) -/

/-- The first reason of a list that applies. -/
def firstReason : List (Nat × Bool) → Option Nat
  | [] => none
  | (n, b) :: l => if b then some n else firstReason l

/-- A logical tile that PID 0 owns and whose page is OFF. -/
def tileIdle (s : State) (q lt : Nat) : Bool :=
  match physOf s lt with
  | some t => decide (tileOwner s t = q) && decide (pageSt s .tile t = .off)
  | none => false

/-- Two ranges of session IDs overlap. -/
def sesOverlap (s : State) (q r : Nat) : Bool :=
  let a := partReg s q 0x004
  let b := partReg s r 0x004
  overlaps (fieldOf a 11 0) (fieldOf a 28 16) (fieldOf b 11 0) (fieldOf b 28 16)

/-- The session range of a partition cannot be used (R303). -/
def sessionsBad (s : State) (q : Nat) : Bool :=
  let w := partReg s q 0x004
  ((partsPresent s).any fun r => decide (r ≠ q) && sesOverlap s q r) || !rangeEmpty s q ||
    decide (4096 < fieldOf w 11 0 + fieldOf w 28 16)

/-- A channel or a bank that the entry names is owned by another partition, or absent (R303, R363). -/
def channelsBad (s : State) (q : Nat) : Bool :=
  (partChans s q).any (fun c => !s.cfg.hasHalf (chanHalf c) || decide (pageOwner s (pageNo .chan c) ≠ 0)) ||
    (partBanks s q).any fun b => !s.cfg.hasHalf (bankHalf b) || decide (pageOwner s (pageNo .bank b) ≠ 0)

/-- Why CREATE is refused. -/
def createRefusal (s : State) (q arg : Nat) : Option Nat :=
  let p := getPart s q
  firstReason
    [(1, decide (p.st = .scrubbing) || (decide (p.st = .free) && !p.cert)),
     (2, decide (q = 0)),
     (3, decide (p.st ≠ .free)),
     (4, (partTiles s q).any fun lt => !tileIdle s 0 lt),
     (5, decide ((regionsFor s q arg).length < bitsOf arg 18 0)),
     (6, sessionsBad s q),
     (7, channelsBad s q),
     (8, decide (1024 < shareSum s + shareOfPart s q))]

/-- The logical tiles of a tile command (R307). -/
def argTiles (arg : Nat) : List Nat := (List.range (bitsOf arg 20 10)).map fun i => bitsOf arg 9 0 + i

/-- Why another command is refused. -/
def partRefusal (s : State) (code q arg : Nat) : Option Nat :=
  let p := getPart s q
  let live := decide (p.st = .live)
  match code with
  | 1 => createRefusal s q arg
  | 2 => firstReason [(2, decide (q = 0)), (3, !live), (5, decide ((regionsFor s q arg).length < bitsOf arg 18 0))]
  | 3 => firstReason [(2, decide (q = 0)), (3, !live), (10, decide (p.regions.length < 8 + bitsOf arg 18 0))]
  | 4 => firstReason [(2, decide (q = 0)), (3, !live), (4, (argTiles arg).any fun lt => !tileIdle s 0 lt)]
  | 5 => firstReason [(2, decide (q = 0)), (3, !live), (4, (argTiles arg).any fun lt => !tileIdle s q lt)]
  | _ => firstReason
      [(2, decide (q = 0)), (3, !live && decide (p.st ≠ .unavailable)),
       (9, !rangeEmpty s q || (partTiles s q).any fun lt => !tileIdle s q lt)]

/-- PART_STATUS (R307). -/
def partStatus (s : State) (code reason q : Nat) : State :=
  setKreg s .partCtrl 0 0x048 (BitVec.ofNat 32 (code + 256 * reason + 2 ^ 16 * q))

/-- A management write of PART_CMD with GO (R303, R308, R444): STATE while a command is in progress or the halves are in SPLIT; a refused command changes nothing but
PART_STATUS. -/
def partCommand (s : State) (port : Half) (code q : Nat) (go : State → Nat → State) : Out :=
  mgmtWriteK s port .partCtrl 0 fun s =>
    if s.partCmd.isSome || inSplit s then turnAway s port (pageNo .partCtrl 0) respState
    else
      let q := q % 64
      let arg := kregN s .partCtrl 0 0x044
      let s1 := setKreg s .partCtrl 0 0x040 (BitVec.ofNat 32 (code + 256 * q))
      match partRefusal s1 code q arg with
      | some r => okay (accessErr (partStatus s1 3 r q) .partCtrl 0) port
      | none => okay (go s1 arg) port

/-! ### The commands -/

/-- CREATE (R303, R304). -/
def execCreate (port : Half) (pid : Nat) (s : State) : Out :=
  partCommand s port 1 pid fun s arg =>
    let q := pid % 64
    let p := getPart s q
    let l := regionsFor s q arg
    let s1 := putPart s q { p with
      st := .creating, gen := (p.gen + 1) % 65536, cert := false, regions := [], work := l, scrub := none, flags := 0, keys := ⟨false, false⟩ }
    let pages := (physTiles s1 (partTiles s1 q)).map (pageNo .tile ·) ++ (partChans s1 q).map (pageNo .chan ·) ++
      (partBanks s1 q).map (pageNo .bank ·)
    let s2 := allocRegions (pages.foldl (fun u pg => ownPage u q pg) s1) q l
    partStatus { s2 with partCmd := some (1, q, arg) } 1 0 q

/-- PART_CREATE_DONE (R304): keys made, resources assigned and regions zeroed: the partition is LIVE. -/
def execPartCreateDone (pid : Nat) (s : State) : Out :=
  if 64 ≤ pid then .fault .noSuchUnit
  else
    let p := getPart s pid
    let h := mainHalf s
    if decide (p.st = .creating) && decide (p.work = []) && (s.rtp.get h).booted then
      let s1 := putPart s pid { p with st := .live, keys := ⟨s.ready.a, s.cfg.halfB && s.ready.b⟩ }
      .next (rtpLog (partDone s1 pid) h 11 [pid, p.gen])
    else .next s

/-- GROW (R305, R306). -/
def execGrow (port : Half) (pid : Nat) (s : State) : Out :=
  partCommand s port 2 pid fun s arg =>
    let q := pid % 64
    let l := regionsFor s q arg
    let s1 := allocRegions (putPart s q { getPart s q with work := l }) q l
    if l = [] then partDone s1 q else partStatus { s1 with partCmd := some (2, q, arg) } 1 0 q

/-- SHRINK (R305): regions leave the tail of the list, OWNED → TEARDOWN. -/
def execShrink (port : Half) (pid : Nat) (s : State) : Out :=
  partCommand s port 3 pid fun s arg =>
    let q := pid % 64
    let p := getPart s q
    let keep := p.regions.length - bitsOf arg 18 0
    let l := p.regions.drop keep
    let s1 := putPart s q { p with regions := p.regions.take keep, work := l }
    let s2 := l.foldl (fun u r => putRegion u r { getRegion u r with st := .teardown }) s1
    if l = [] then partDone s2 q else partStatus { s2 with partCmd := some (3, q, arg) } 1 0 q

/-- Set or clear the bit of a logical tile in an entry. -/
def setPartTile (s : State) (q lt : Nat) (on : Bool) : State :=
  let off := 0x028 + 4 * (lt / 32)
  let w := partReg s q off
  let w' := if on then setBit w (lt % 32) else w &&& ~~~(setBit 0 (lt % 32))
  setPartReg s q off w'

/-- ASSIGN_TILES (R305). -/
def execAssignTiles (port : Half) (pid : Nat) (s : State) : Out :=
  partCommand s port 4 pid fun s arg =>
    let q := pid % 64
    let l := argTiles arg
    let s1 := l.foldl (fun u lt => setPartTile u q lt true) s
    partDone ((physTiles s1 l).foldl (fun u t => ownPage u q (pageNo .tile t)) s1) q

/-- Drop what a stream holds, counted lost (R310, R381). The records, and the state. -/
def dropStream (s : State) (key : Nat) : Nat × State :=
  match s.streams.find key with
  | none => (0, s)
  | some x =>
    let n := pktRecs x.pkts
    (n, putStream s key { x with pkts := [], lost := x.lost + n, ask := false, granted := false, cap := .streaming })

/-- Drop what several streams hold. -/
def dropStreams (s : State) (l : List Nat) : Nat × State :=
  l.foldl (fun p k => let r := dropStream p.2 k; (p.1 + r.1, r.2)) (0, s)

/-- Clear one physical tile (step 3 of R310): what it holds of a program, its program registers, its counters. -/
def clearTile (s : State) (t : Nat) : State :=
  let x := getTile s t
  let y : Tile := { Tile.fresh with bucketCyc := x.bucketCyc, idleCyc := x.idleCyc, moveSeq := x.moveSeq }
  let s1 := putTile s t y
  [0x07C, 0x080, 0x084, 0x188].foldl (fun u off => setKreg u .tile t off 0) s1

/-- Tiles of a partition leave it: cleared, and given to PID 0. The records lost at the sources, and the state. -/
def releaseTiles (s : State) (l : List Nat) : Nat × State :=
  let d := dropStreams s (l.flatMap fun t => [tileKey t false, tileKey t true])
  (d.1, l.foldl (fun u t => clearTile (ownPage u 0 (pageNo .tile t)) t) d.2)

/-- RELEASE_TILES (R305). -/
def execReleaseTiles (port : Half) (pid : Nat) (s : State) : Out :=
  partCommand s port 5 pid fun s arg =>
    let q := pid % 64
    let l := argTiles arg
    let phys := physTiles s l
    let s1 := l.foldl (fun u lt => setPartTile u q lt false) s
    partDone (releaseTiles s1 phys).2 q

/-- A partition enters SCRUBBING at step 1 (R310, R312). A scrub that a reset meets starts again. -/
def startScrub (s : State) (q cause : Nat) : State :=
  let p := getPart s q
  let again := match p.scrub with
    | some c => c.restarts + 1
    | none => 0
  let first := match p.scrub with
    | some c => c.cause
    | none => cause
  putPart s q { p with st := .scrubbing, scrub := some ⟨1, 0, 0, 0, [], 0, first, again⟩ }

/-- A partition that leaves UNAVAILABLE for SCRUBBING ends the command in progress on it, which can no longer complete. -/
def endCommand (s : State) (q : Nat) : State :=
  if s.partCmd.any (fun c => decide (c.2.1 = q)) then partStatus { s with partCmd := none } 0 0 0 else s

/-- TEARDOWN (R310). -/
def execTeardown (port : Half) (pid : Nat) (s : State) : Out :=
  partCommand s port 6 pid fun s _ => partDone (startScrub s (pid % 64) 0) (pid % 64)

/-! ### The scrub (R310) -/

/-- A partition holds resources of a half (R302, R304): tiles, regions, trace channels or counter banks. -/
def scrubIn (s : State) (q : Nat) (h : Half) : Bool :=
  (physTiles s (partTiles s q)).any (fun t => decide (tileHalf t = h)) ||
    ((getPart s q).regions ++ (getPart s q).work).any (fun r => decide (regionHalf s.cfg r = h)) ||
    (partChans s q).any (fun c => decide (chanHalf c = h)) || (partBanks s q).any fun b => decide (bankHalf b = h)

/-- The half whose RTP drives a scrub: the half in charge, and in SPLIT the one that holds the partition (R310, R444). -/
def scrubHalf (s : State) (q : Nat) : Half :=
  if inSplit s then (if scrubIn s q .b then .b else if scrubIn s q .a then .a else mainHalf s) else mainHalf s

/-- A Calm holds the scrub (R312), and SPLIT one of a partition that is in both halves (R444). -/
def scrubHeld (s : State) (q : Nat) : Bool :=
  calmOn s .a || (s.cfg.halfB && calmOn s .b) || (inSplit s && scrubIn s q .a && scrubIn s q .b)

/-- A fill and patrol engine is moving a region. -/
def moving (s : State) (prn : Nat) : Bool :=
  [Half.a, .b].any fun h =>
    let f := s.fill.get h
    (decide (f.op = some 3) && (decide (f.src = prn) || decide (f.dst = prn))) || f.late.any fun p => decide (p.1 = prn)

/-- Regions that name a partition, in any state of use. -/
def regionsOf (s : State) (q : Nat) : List Nat :=
  (s.regions.cells.filter fun c => decide (c.2.pid = q) && decide (c.2.st ≠ .free) && decide (c.2.st ≠ .retired)).map (·.1)

/-- Gloves being opened into a partition end with STATE as its keys go: the incarnation that they were opened into is over. -/
def dropOpenings (s : State) (q : Nat) : State :=
  (s.openings.filter fun o => decide (o.pid = q)).foldl (fun u o =>
    rtpAnswer (withdrawUse u (MemUse.ofGlove o.hdr.gloveId)) o.half o.tag stState 6 [])
    { s with openings := s.openings.filter fun o => decide (o.pid ≠ q) }

/-- Step 1 completes: the keys are destroyed, and the regions become TEARDOWN. -/
def scrubErase (s : State) (q : Nat) (c : Scrub) : State :=
  let l := regionsOf s q
  if l.any (moving s) then s
  else
    let p := getPart s q
    let s1 := l.foldl (fun u r => putRegion u r { getRegion u r with st := .teardown }) s
    let c' := { c with step := 2, eraseFt := ftOrOnes s (scrubHalf s q), regions := l.length }
    let s2 := dropOpenings (putPart s1 q { p with keys := ⟨false, false⟩, regions := [], work := l, scrub := some c' }) q
    { s2 with
      peers := s1.peers.filter fun x => decide (x.1 ≠ q)
      ownerKeys := s1.ownerKeys.drop q
      gloveIds := s1.gloveIds.drop q
      channels := s1.channels.mapVals fun k x => if pageOwner s (pageNo .chan k) = q then { x with keyed := false } else x }

/-- Step 2 completes: every region is FREE, and the tiles' trace buffers are handed to the drain. -/
def scrubZeroed (s : State) (q : Nat) (c : Scrub) : State :=
  let p := getPart s q
  if !p.work.all (fun r => decide ((getRegion s r).st = .free)) then s
  else
    let tiles := physTiles s (partTiles s q)
    let s1 := putPart s q { p with work := [], scrub := some { c with step := 3 } }
    tiles.foldl (fun u t => [tileKey t false, tileKey t true].foldl (fun v k =>
      if (v.streams.find k).isSome then onStream v k fun x => { x with ask := true } else v) u) s1

/-- A partition's port leaves and meters return to their reset values (R310). -/
def resetShares (s : State) (q : Nat) : State :=
  let leaf (p off : Nat) : Bool := match pageOf p with
    | some (.port, _) =>
      (decide (0x400 + 16 * q ≤ off) && decide (off < 0x410 + 16 * q)) ||
        (decide (0x800 + 8 * q ≤ off) && decide (off < 0x808 + 8 * q)) ||
        (decide (0xA00 + 12 * q ≤ off) && decide (off < 0xA0C + 12 * q))
    | _ => false
  { s with
    regs := s.regs.keep fun a _ => !leaf (a / 4096) (a % 4096)
    buckets := s.buckets.keep fun k _ => !(decide (k < 64 * 256) && decide (k % 256 / 4 = q))
    meters := s.meters.keep fun k _ => decide (k % 64 ≠ q) }

/-- Weathervane profiles that name a partition lose VALID, and its waiting report records are dropped (R310). -/
def dropReports (s : State) (q : Nat) : State :=
  [Half.a, .b].foldl (fun u h =>
    let i := halfIdx h
    let u1 := ((List.range 63).map (· + 1)).foldl (fun v k =>
      let off := 0x100 + 0x20 * k
      let w := kreg v .wv i off
      if fieldOf w 13 8 = q then setKreg v .wv i off (w &&& 0xFFFFFFFE) else v) u
    let l := u1.reports.get h
    let mine := l.filter fun r => decide (r.pid = q)
    if mine = [] then u1
    else raiseK (satReg { u1 with reports := u1.reports.put h (l.filter fun r => decide (r.pid ≠ q)) } .wv i 0x058 mine.length) .wv i 18)
    { s with repLost := s.repLost.put 0 q 0 }

/-- Streams of units that report to a partition (R362). -/
def ownerStreams (s : State) (q : Nat) : List Nat :=
  (s.streams.cells.map (·.1)).filter fun k => decide (4096 ≤ k) && decide (streamPid s k = q) &&
    (decide (65536 ≤ k) || decide ((k - 4096) % 128 ≠ 0))

/-- Step 3 completes: tiles, channels, banks, leaves, meters, profiles and reports are cleared, and every page goes to PID 0. -/
def scrubClear (s : State) (q : Nat) (c : Scrub) : State :=
  let lts := partTiles s q
  let tiles := physTiles s lts
  let chans := (List.range 64).filter fun k => decide (pageOwner s (pageNo .chan k) = q)
  let banks := (List.range 64).filter fun k => decide (pageOwner s (pageNo .bank k) = q)
  let r := releaseTiles s tiles
  let s1 := banks.foldl bankTeardown r.2
  let d := dropStreams s1 (ownerStreams s1 q)
  let held := (chans.map fun k => (getChan d.2 k).held).foldl (· + ·) 0
  let s2 := chans.foldl discardFrames d.2
  let s3 := dropReports (resetShares s2 q) q
  let s4 := (chans.map (pageNo .chan ·) ++ banks.map (pageNo .bank ·)).foldl (fun u pg => ownPage u 0 pg) s3
  let c' := { c with
    step := 4, doneFt := ftOrOnes s (scrubHalf s q), tiles := if c.tiles = [] then lts.filterMap (fun lt => (physOf s lt).map fun t => (lt, t)) else c.tiles,
    lost := r.1 + d.1 + held }
  putPart s4 q { getPart s4 q with scrub := some c' }

/-- SCRUB_STEP_DONE (R310, R312): the step in progress completes, and the next one starts. A Calm holds it, and
load holds steps 2 and 3 (R319, R449). -/
def execScrubStepDone (pid : Nat) (s : State) : Out :=
  if 64 ≤ pid then .fault .noSuchUnit
  else
    let p := getPart s pid
    match p.scrub with
    | none => .next s
    | some c =>
      let r := s.rtp.get (scrubHalf s pid)
      if p.st ≠ .scrubbing ∨ scrubHeld s pid = true ∨ r.booted = false then .next s
      else
        match c.step with
        | 1 => .next (scrubErase s pid c)
        | 2 => .next (if r.deferring then s else scrubZeroed s pid c)
        | 3 => .next (if r.deferring then s else scrubClear s pid c)
        | _ => .next s

/-- The body of a certificate's log entry (R311, R335). -/
def certBody (q gen : Nat) (c : Scrub) : List Nat :=
  [q, gen, c.eraseFt, c.doneFt, c.regions, c.tiles.length, c.lost, c.cause, c.restarts] ++ c.tiles.flatMap fun t => [t.1, t.2]

/-- SCRUB_CERTIFICATE (R310, R311): the RTP writes the certificate into its attestation log, sets CERT and sets the entry FREE. -/
def execScrubCertificate (pid : Nat) (s : State) : Out :=
  if 64 ≤ pid then .fault .noSuchUnit
  else
    let p := getPart s pid
    let h := scrubHalf s pid
    match p.scrub with
    | none => .next s
    | some c =>
      if p.st ≠ .scrubbing ∨ c.step ≠ 4 ∨ scrubHeld s pid = true ∨ (s.rtp.get h).booted = false then .next s
      else
        let s1 := putPart s pid { p with st := .free, cert := true, scrub := none, regions := [], work := [], flags := 0 }
        .next (rtpLog { s1 with certLog := (pid, p.gen, (s1.rtp.get h).logCount + 1, c) :: s1.certLog } h 5 (certBody pid p.gen c))

/-! ### Service events and ISOLATED -/

/-- SERVICE_EVENT (R315): at a whole second a LIVE partition receives one event with the flags set since the previous one, where
at least one is set. -/
def execServiceEvent (pid : Nat) (s : State) : Out :=
  if 64 ≤ pid then .fault .noSuchUnit
  else
    let p := getPart s pid
    let h := mainHalf s
    match lastInstant (ftNs s h) 0 1000000000 with
    | none => .next s
    | some at_ =>
      if decide (pid ≠ 0) && decide (p.st = .live) && hasTime s h && decide (at_ ≠ p.served) then
        let s1 := putPart s pid { p with flags := 0, served := at_ }
        if p.flags % 32 = 0 then .next s1
        else .next (tenantEvent s1 0x00D pid 6 0 (pageNo .partMap (pid / 8)) (p.flags % 32))
      else .next s

/-- An ARB page is ON with STATIC set and has a VALID slot for a partition. -/
def slottedFor (s : State) (k : PageKind) (i q : Nat) : Bool :=
  arbStatic s k i && (List.range 64).any fun ph => decide (slotPid s k i ph = some q)

/-- ISOLATED of a partition (R313). -/
def isolated (s : State) (q : Nat) : Bool :=
  let p := getPart s q
  let halves := [Half.a, .b].filter fun h => (physTiles s (partTiles s q)).any fun t => decide (tileHalf t = h)
  let arbs := halves.all fun h =>
    ((List.range 64).filter fun i => decide (portHalf i = h)).all (fun i => slottedFor s .arbPort i q) &&
      (!s.cfg.halfB || (List.range 16).all fun i => slottedFor s .arbBridge i q) &&
      slottedFor s .arbFunnel (halfIdx h) q
  let apart := p.regions.all fun r =>
    let k := stackOf s.cfg r
    channelAlone s q k (channelOf s.cfg r) && slottedFor s .arbStack k q
  let nodeb := partReg s q 0x0AC
  let classes := [0, 1, 2].all fun k => !bitOf (partReg s q (0x0B0 + 4 * k)) 31
  decide (p.st = .live) && arbs && apart && !bitOf nodeb 31 && !bitOf nodeb 30 && classes

end Sys2Proof.Machine
end

