-- ==== Sys2Proof/Machine/Security.lean ====
section
/-! DEFINITION. The root-of-trust processors, firmware, attestation, key exchanges, Gloves and debug (chapter 15, R465). -/

namespace Sys2Proof.Machine

/-! ### The mailbox (R320) -/

/-- A message of the window that waits, if one does, is refused, and a response gives its status (R320). -/
def rtpReject (s : State) (h : Half) (tag status code : Nat) : State := rtpAnswer (decideRtp s h false) h tag status code []

/-- A message is taken, and answered OK with a body. -/
def rtpAccept (s : State) (h : Half) (tag code : Nat) (body : List Word) : State :=
  rtpAnswer (decideRtp s h true) h tag stOk code body

/-- First words of the messages that are not commands (R320). -/
def codeImage : Nat := 0x46574D31
def codeHeader : Nat := 0x474C5631
def codeChunk : Nat := 0x474C4331

/-- A message to an RTP (R320, R321, R323): an RTP that is not running takes nothing; a full outbound mailbox turns the message away;
in SWITCHING an attestation is answered BUSY and other work waits; in RECOVERY the ROM takes only what R321 names. -/
def rtpMessage (s : State) (h : Half) (tag code : Nat) (inRecovery : Bool) (f : State → State) : Out :=
  needHalf s h (.next (
    let r := s.rtp.get h
    if !r.booted && !r.recovery && decide (r.fw ≠ .switching) then s
    else if !rtpRoom s h 4 then raiseK (decideRtp s h false) .rtp (halfIdx h) 18
    else if r.fw = .switching then
      (if code = 1 then onRtp (rtpReject s h tag stBusy code) h fun q => { q with attBusy := satAdd 65535 q.attBusy 1 } else s)
    else if r.recovery && !inRecovery then rtpReject s h tag stState code
    else f s))

/-- A source of security events that are an RTP's own, and its page. -/
def rtpEvent (s : State) (h : Half) (kind tag : Nat) : State := secEvent s kind (halfIdx h) (pageNo .rtp (halfIdx h)) tag

/-! ### Booting (R321) -/

/-- The slot that is not running. -/
def Rtp.other (r : Rtp) : Nat := 1 - r.running

/-- A slot of the image store. -/
def Rtp.slot (r : Rtp) (n : Nat) : Option FwSlot := r.slots.get (halfOf n)

/-- Write a slot of the image store. -/
def Rtp.setSlot (r : Rtp) (n : Nat) (x : Option FwSlot) : Rtp := { r with slots := r.slots.put (halfOf n) x }

/-- The SVN and the key of an image pass step 4 of R321; its signature was checked as it was staged. -/
def slotOk (s : State) (x : Option FwSlot) : Bool :=
  match x with
  | some f => !s.cfg.revoke.testBit f.key && decide (s.minSvn ≤ f.svn)
  | none => false

/-- The halves hold each other's heartbeat (R327, R442). -/
def hbHeld (s : State) : Bool := s.charge.a.rxOk && s.charge.b.rxOk

/-- Partitions whose keys the returning half lost (R302, R327): copied from the other half where it kept them and the RTP confirms
them, else scrubbed. The keys of a partition that stayed LIVE, with nothing in the half, are copied too. -/
def returnParts (s : State) (h : Half) : State :=
  let other := if h = .a then Half.b else Half.a
  if !s.cfg.halfB || !s.ready.a || !s.ready.b || !hbHeld s || !(s.rtp.get h).booted then s
  else
    (partsPresent s).foldl (fun u q =>
      let p := getPart u q
      if p.st ≠ .unavailable then
        (if p.st = .live ∧ p.keys.get other = true ∧ p.keys.get h = false then putPart u q { p with keys := ⟨true, true⟩ } else u)
      else if p.keys.get other then putPart u q { p with st := .live, keys := ⟨true, true⟩ }
      else endCommand (startScrub u q 2) q) s

/-- The body of a RESET entry (R30, R335, R336): the FT of the last entry before the reset and its cause; then, as the rest of the
report of broken accounts, the counts still held and the live epochs. DESIGN CHOICE: the spec fixes no layout (log 132). -/
def resetBody (s : State) (h : Half) : List Nat :=
  let last := ((s.rtp.get h).log.getLast?.map (·.ft)).getD 0
  match s.broken.get h with
  | none => [last, 0]
  | some b => [last, b.cause, b.credits, b.slots, b.contribs, b.records, b.events] ++ b.live.flatMap fun e => [e.1, e.2]

/-- RTP_BOOT (R321, R336, R463): after READY, the ROM starts the first slot that passes, or stays in RECOVERY. The key exchanges of the
half's sessions open. -/
def execRtpBoot (h : Half) (s : State) : Out :=
  needHalf s h (.next (
    let r := s.rtp.get h
    if !s.ready.get h || r.booted || r.recovery || decide (r.fw = .switching) then s
    else
      let pick := [r.active, 1 - r.active].find? fun n => slotOk s (r.slot n)
      let s0 := { s with entropyOk := true }
      match pick with
      | none => raiseK (onRtp s0 h fun q => { q with recovery := true, running := q.active, fw := .normal }) .rtp (halfIdx h) 17
      | some n =>
        let st := if (r.slot (1 - n)).isSome then FwSt.staged else .normal
        let s1 := onRtp s0 h fun q => { q with booted := true, running := n, fw := st, confirmed := false, back := false }
        let s2 := returnParts (rtpLog s1 h 10 (resetBody s h)) h
        (s2.sessions.cells.filter fun c => decide (c.2.home = h)).foldl (fun u c => openKexes u c.1) s2))

/-! ### Firmware (R322 to R325) -/

/-- FIRMWARE_IMAGE (R322, R323): checked, and staged in the slot that is not running. -/
def execFirmwareImage (h : Half) (img : FwImage) (s : State) : Out :=
  rtpMessage s h 0 codeImage true fun s =>
    let r := s.rtp.get h
    let status :=
      if !(decide (r.fw = .normal) || decide (r.fw = .staged)) then stState
      else if !img.magicOk || decide (8388608 < img.bytes) || decide (4 ≤ img.keyIndex) then stFormat
      else if !img.sigOk then stBadSig
      else if s.cfg.revoke.testBit img.keyIndex || decide (img.svn < s.minSvn) then stPolicy
      else stOk
    if status = stOk then
      let s1 := onRtp s h fun q => { q.setSlot q.other (some ⟨img.svn % 65536, img.keyIndex, img.digest⟩) with fw := .staged }
      rtpAccept (rtpLog s1 h 1 [img.svn, img.digest]) h 0 codeImage []
    else
      let s1 := if status = stState then s else rtpEvent s h 3 0
      rtpReject s1 h 0 status codeImage

/-- FW_ACTIVATE (R323, R325). -/
def execFwActivate (h : Half) (tag : Nat) (s : State) : Out :=
  rtpMessage s h tag 2 true fun s =>
    let r := s.rtp.get h
    let other := s.rtp.get (if h = .a then .b else .a)
    if r.fw ≠ .staged ∨ (s.cfg.halfB = true ∧ other.fw = .switching) then rtpReject s h tag stState 2
    else
      let s1 := rtpAccept (rtpLog s h 2 [r.other]) h tag 2 []
      onRtp s1 h fun q => { q with fw := .switching, back := false, booted := false }

/-- A trial ends in failure (R323): the failed slot is erased, and the earlier image runs, or the ROM waits in RECOVERY where there
is none. -/
def trialFails (s : State) (h : Half) (failed : Nat) : State :=
  let earlier := 1 - failed
  let s1 := raiseK (rtpLog s h 4 [failed]) .rtp (halfIdx h) 16
  let ok := slotOk s ((s.rtp.get h).slot earlier)
  let s2 := onRtp s1 h fun q =>
    { q.setSlot failed none with
      running := earlier, fw := .normal, confirmed := false, back := false, booted := ok, recovery := !ok }
  if ok then s2 else raiseK s2 .rtp (halfIdx h) 17

/-- FW_SWITCH_RESTART (R323): the RTP restarts from the staged slot into TRIAL, or back on the earlier image into NORMAL. -/
def execFwSwitchRestart (h : Half) (s : State) : Out :=
  needHalf s h (.next (
    let r := s.rtp.get h
    if r.fw ≠ .switching then s
    else if !slotOk s (r.slot r.other) then trialFails s h r.other
    else if r.back then
      onRtp s h fun q => { q with running := q.other, fw := .normal, back := false, booted := true, confirmed := false }
    else
      onRtp s h fun q =>
        { q with running := q.other, fw := .trial, booted := true, recovery := false, confirmed := false, trialCyc := s.cyc }))

/-- The trial's 1,000 ms have passed. -/
def trialOver (s : State) (h : Half) : Bool := cycAgo s (s.rtp.get h).trialCyc 1000000000

/-- TRIAL_CONFIRM (R323). -/
def execTrialConfirm (h : Half) (s : State) : Out :=
  needHalf s h (.next (
    if (s.rtp.get h).fw = .trial ∧ trialOver s h = false then onRtp s h fun q => { q with confirmed := true } else s))

/-- TRIAL_TIMEOUT (R323). -/
def execTrialTimeout (h : Half) (s : State) : Out :=
  needHalf s h (.next (
    let r := s.rtp.get h
    if r.fw = .trial ∧ r.confirmed = false ∧ trialOver s h = true then trialFails s h r.running else s))

/-- FW_COMMIT (R323, R324). -/
def execFwCommit (h : Half) (tag : Nat) (svnBurn : Bool) (sigOk : Bool) (s : State) : Out :=
  rtpMessage s h tag 3 false fun s =>
    let r := s.rtp.get h
    if r.fw ≠ .trial ∨ r.confirmed = false then rtpReject s h tag stState 3
    else if svnBurn && !sigOk then rtpReject (rtpEvent s h 8 tag) h tag stBadSig 3
    else
      let svn := ((r.slot r.running).map (·.svn)).getD 0
      let s1 := { s with minSvn := if svnBurn then max s.minSvn (min svn 64) else s.minSvn }
      let s2 := onRtp s1 h fun q =>
        { q.setSlot q.other none with active := q.running, fw := .normal, confirmed := false }
      rtpAccept (rtpLog s2 h 3 [svn, b2n svnBurn]) h tag 3 []

/-- FW_DISCARD (R323). -/
def execFwDiscard (h : Half) (tag : Nat) (s : State) : Out :=
  rtpMessage s h tag 4 false fun s =>
    let r := s.rtp.get h
    if r.fw = .staged then
      rtpAccept (onRtp s h fun q => { q.setSlot q.other none with fw := .normal }) h tag 4 []
    else if r.fw = .trial ∧ r.confirmed = true then
      onRtp (rtpAccept s h tag 4 []) h fun q => { q with fw := .switching, back := true, confirmed := false, booted := false }
    else rtpReject s h tag stState 4

/-! ### Attestation (R331 to R334) -/

/-- Debug is restricted (R346). -/
def debugRestricted (s : State) : Bool := s.cfg.prodLock || bitOf (kreg s .sec 0 0x044) 0

/-- BLK_CAP (R7). -/
def blkCap (c : BlockCfg) : Nat :=
  c.variant % 16 + 2 ^ 4 * b2n c.halfB + 2 ^ 5 * b2n c.halfB + 2 ^ 6 * b2n c.tensor + 2 ^ 8 * (c.halves * c.srPerHalf) +
    2 ^ 16 * (512 * c.halves) + 2 ^ 28 * c.stackCount

/-- Bytes as words, the last one filled with zeros. -/
def wordsOf : List Byte → List Word
  | a :: b :: c :: d :: r => BitVec.ofNat 32 (leNat [a, b, c, d]) :: wordsOf r
  | [] => []
  | l => [BitVec.ofNat 32 (leNat l)]

/-- The FW_STATE code of R323. -/
def FwSt.code : FwSt → Nat
  | .normal => 0
  | .staged => 1
  | .switching => 2
  | .trial => 3

/-- A firmware record (R334): zero for a half in reset, and for one that is not fitted. -/
def fwRecord (s : State) (h : Half) : List Byte :=
  let r := s.rtp.get h
  if !s.cfg.hasHalf h || !s.ready.get h then List.replicate 104 0
  else
    let run : Option FwSlot := if r.recovery then none else r.slot r.running
    let held := r.slot r.other
    leBytes 48 (run.elim 0 (·.digest)) ++ leBytes 48 (held.elim 0 (·.digest)) ++ leBytes 2 (run.elim 0 (·.svn)) ++
      leBytes 2 (held.elim 0 (·.svn)) ++ leBytes 1 r.fw.code ++ leBytes 1 r.running ++ leBytes 2 0

/-- The code of a partition's state (R302). -/
def PartSt.code : PartSt → Nat
  | .free => 0
  | .creating => 1
  | .live => 2
  | .scrubbing => 3
  | .unavailable => 4

/-- A partition has a tile or a region in a half (R333). -/
def partIn (s : State) (q : Nat) (h : Half) : Bool :=
  (physTiles s (partTiles s q)).any (fun t => decide (tileHalf t = h)) || (getPart s q).regions.any fun r => decide (regionHalf s.cfg r = h)

/-- A half that is fitted and in reset. -/
def resetHalf (s : State) : Option Half := (fittedHalves s.cfg).find? fun h => !s.ready.get h

/-- A partition record (R333, R334). -/
def partRecord (s : State) (q : Nat) : List Byte :=
  let p := getPart s q
  let hidden := match resetHalf s with
    | some h => partIn s q h
    | none => false
  if hidden then leBytes 1 q ++ leBytes 1 (PartSt.code .unavailable) ++ List.replicate 94 0
  else
    let alone := p.regions.all fun r => channelAlone s q (stackOf s.cfg r) (channelOf s.cfg r)
    let ses := partReg s q 0x004
    leBytes 1 q ++ leBytes 1 p.st.code ++ leBytes 1 (b2n (isolated s q) + 2 * b2n alone) ++ leBytes 1 0 ++ leBytes 2 p.gen ++
      leBytes 2 (shareOfPart s q) ++ leBytes 2 (partTiles s q).length ++ leBytes 2 (fieldOf ses 11 0) ++
      leBytes 2 (fieldOf ses 28 16) ++ leBytes 2 0 ++ leBytes 4 p.regions.length ++ leBytes 4 0 ++
      leBytes 48 ((s.ownerKeys.find q).getD 0) ++ leBytes 16 ((s.gloveIds.find q).getD 0) ++ leBytes 8 0

/-- The fixed part of a scrub certificate (R337). -/
def certRecord (c : Nat × Nat × Nat × Scrub) : List Byte :=
  let d := c.2.2.2
  let list := d.tiles.flatMap fun t => leBytes 4 (t.1 + 2 ^ 16 * t.2)
  leBytes 4 0x53435231 ++ leBytes 1 c.1 ++ leBytes 1 d.cause ++ leBytes 2 d.restarts ++ leBytes 2 c.2.1 ++
    leBytes 2 d.tiles.length ++ leBytes 4 0 ++ leBytes 4 d.regions ++ leBytes 4 0 ++ leBytes 8 d.lost ++ leBytes 8 d.eraseFt ++
    leBytes 8 d.doneFt ++ leBytes 48 Config.deviceDigest ++ leBytes 48 (Config.sha384 list) ++ leBytes 8 c.2.2.1 ++ leBytes 8 0

/-- STATE of a report (R333). -/
def reportState (s : State) (h : Half) : Nat :=
  if (resetHalf s).isSome then 2
  else if (fittedHalves s.cfg).any (fun g => decide ((s.rtp.get g).fw ≠ .normal)) then 1
  else if (s.rtp.get h).recovery then 3
  else 0

/-- The report of one request before its certificates and signature (R333, R334). -/
def reportHead (s : State) (h : Half) (scope nonce total : Nat) (parts certs others omitted : Nat) : List Byte :=
  let a := s.rtp.a
  let b := s.rtp.b
  let flags := b2n (inSplit s) + 2 * b2n (!s.ready.a) + 4 * b2n (s.cfg.halfB && !s.ready.b) + 8 * b2n (!hasTime s h) +
    16 * b2n (decide (h = .b))
  let locks := b2n s.cfg.prodLock + 2 * b2n (debugRestricted s) + 4 * (s.cfg.revoke % 16) + 256 * (s.minSvn % 256)
  leBytes 4 0x41545331 ++ leBytes 1 1 ++ leBytes 1 (reportState s h) ++ leBytes 1 flags ++ leBytes 1 scope ++ leBytes 4 total ++
    leBytes 4 s.attSeq ++ leBytes 48 nonce ++ leBytes 8 (ftOrOnes s h) ++ leBytes 8 s.cfg.serial ++ leBytes 4 (blkCap s.cfg) ++
    leBytes 4 locks ++ leBytes 48 Config.deviceDigest ++ leBytes 48 Config.romDigest ++ leBytes 48 Config.operatorDigest ++
    fwRecord s .a ++ fwRecord s .b ++ leBytes 48 a.logHead ++ leBytes 48 (if s.cfg.halfB then b.logHead else 0) ++
    leBytes 4 a.logCount ++ leBytes 4 (if s.cfg.halfB then b.logCount else 0) ++ leBytes 2 parts ++ leBytes 2 certs ++
    leBytes 2 others ++ leBytes 2 omitted ++ List.replicate 24 0

/-- The partitions that a report lists and counts (R331, R333): listed, others, omitted. -/
def reportParts (s : State) (h : Half) (scope : Nat) : List Nat × Nat × Nat :=
  let all := partsPresent s
  if (s.rtp.get h).recovery then ([], 0, 0)
  else
    let want := if scope = 0 then all else all.filter fun q => decide (q = scope)
    let others := if scope = 0 then 0 else (all.filter fun q => decide (q ≠ scope)).length
    if inSplit s then
      let far := if h = .a then Half.b else .a
      let l := want.filter fun q => !scrubIn s q far
      (l, others, want.length - l.length)
    else (want, others, 0)

/-- A certificate in a report: its length in 4 bytes, and its bytes, free and at most 16,384 of them (R334, log entry 166). -/
def certBytes (h : Half) (k : Nat) : List Byte :=
  let c := (Config.certificate (halfIdx h) k).take 16384
  leBytes 4 c.length ++ c

/-- The bytes of a report (R334). -/
def reportBytes (s : State) (h : Half) (scope nonce : Nat) : List Byte :=
  let r := s.rtp.get h
  let p := reportParts s h scope
  let latest := (List.range 64).filterMap fun q => s.certLog.find? fun c => decide (c.1 = q)
  let certs := if r.recovery then [] else if scope = 0 then latest else latest.filter fun c => decide (c.1 = scope)
  let rest := p.1.flatMap (partRecord s) ++ certs.flatMap certRecord ++ certBytes h 0 ++ certBytes h 1
  let total := 576 + rest.length + 4627
  let body := reportHead s h scope nonce total p.1.length certs.length p.2.1 p.2.2 ++ rest
  body ++ takeBytes 4627 (Config.signature (halfIdx h) r.recovery body)

/-- ATTEST (R331, R332): a request is queued, or answered at once where it cannot be. -/
def execAttest (h : Half) (tag : Nat) (scope : Nat) (nonce : Nat) (sigOk : Bool) (s : State) : Out :=
  rtpMessage s h tag 1 true fun s =>
    if 64 ≤ scope then rtpReject s h tag stFormat 1
    else if scope ≠ 0 ∧ ((getPart s scope).st = .free ∨ (s.ownerKeys.find scope).isNone = true) then rtpReject s h tag stState 1
    else if scope ≠ 0 ∧ sigOk = false then rtpReject (rtpEvent s h 8 tag) h tag stBadSig 1
    else if 64 ≤ s.attQueue.length then
      onRtp (rtpReject s h tag stBusy 1) h fun q => { q with attBusy := satAdd 65535 q.attBusy 1 }
    else
      let s1 := decideRtp s h true
      { s1 with attQueue := s1.attQueue ++ [⟨h, tag, scope, nonce, s.cyc⟩] }

/-- A request has waited 10 ms (R332). -/
def attestLate (s : State) (q : AttReq) : Bool := cycAgo s q.cyc 10000000

/-- ATTEST_ANSWER (R332, R334): the report of a queued request goes into the mailbox of the RTP that took it. -/
def execAttestAnswer (i : Nat) (s : State) : Out :=
  match s.attQueue[i]? with
  | none => .next s
  | some q =>
    let r := s.rtp.get q.half
    if attestLate s q || !(r.booted || r.recovery) || decide (r.fw = .switching) then .next s
    else
      let s1 := { s with attQueue := s.attQueue.eraseIdx i }
      let l := wordsOf (reportBytes s1 q.half q.scope q.nonce)
      if rtpRoom s1 q.half (4 + l.length) then
        let s2 := rtpAnswer s1 q.half q.tag stOk 1 l
        .next { s2 with attSeq := (s2.attSeq + 1) % 2 ^ 32 }
      else .next (raiseK s .rtp (halfIdx q.half) 18)

/-- ATTEST_TIMEOUT (R320, R332): a request that was not answered in time is answered BUSY, as soon as the mailbox has room. -/
def execAttestTimeout (i : Nat) (s : State) : Out :=
  match s.attQueue[i]? with
  | none => .next s
  | some q =>
    if attestLate s q && !rtpRoom s q.half 4 then .next (raiseK s .rtp (halfIdx q.half) 18)
    else if attestLate s q then
      let s1 := rtpAnswer { s with attQueue := s.attQueue.eraseIdx i } q.half q.tag stBusy 1 []
      .next (onRtp s1 q.half fun r => { r with attBusy := satAdd 65535 r.attBusy 1 })
    else .next s

/-- LOG_READ (R320, R335): the count pruned, and entries of a log from a number, whose words are free (log entry 166). An answer that the
mailbox has no room for is turned away as by a full mailbox. -/
def execLogRead (h : Half) (tag : Nat) (log : Half) (first : Nat) (s : State) : Out :=
  rtpMessage s h tag 9 false fun s =>
    if !s.cfg.hasHalf log then rtpReject s h tag stFormat 9
    else
      let r := s.rtp.get log
      let l := (r.log.drop (first - 1 - r.logPruned)).flatMap fun e => [e.kind, e.ft] ++ e.body
      let body := BitVec.ofNat 32 r.logPruned :: freeWords 9 (first :: l)
      if rtpRoom s h (4 + body.length) then rtpAccept s h tag 9 body else raiseK (decideRtp s h false) .rtp (halfIdx h) 18

/-! ### Key exchanges (R328 to R330, R467) -/

/-- The detail word of an event about an edge: session and CIDX (R338, R369). -/
def edgeDetail (sid : Nat) (e : Edge) : Nat :=
  match e with
  | .contrib c => sid % 4096 + 4096 * (c % 8192)
  | .parent => sid % 4096
  | .relay => sid % 4096

/-- A partition gains a secret with a peer (R329). -/
def addPeer (s : State) (q pfa : Nat) : State :=
  if peerKnown s q pfa then s else { s with peers := s.peers ++ [(q, pfa)] }

/-- The exchange toward a contributor that is open, and no other. -/
def dropKex (s : State) (sid : Nat) (e : Edge) : State :=
  { s with kexs := s.kexs.filter fun k => !(decide (k.sid = sid) && decide (k.edge = e)) }

/-- An exchange of a session fails: a KEX_FAIL event (R329). -/
def kexFails (s : State) (h : Half) (sid : Nat) (e : Edge) : State :=
  secEvent s 5 (edgeDetail sid e + 2 ^ 26 * (1 + halfIdx h)) (pageNo .rtp (halfIdx h)) (edgeDetail sid e)

/-- KEX (R328, R329, R467): a message relayed from a peer advances an exchange. A contributor's KEX_RESP completes the exchange that
Farhel opened; a KEX_INIT of the parent or the relay is answered. -/
def execKex (h : Half) (tag : Nat) (sid : Nat) (edge : Edge) (kstep : KexStep) (sigOk : Bool) (chainOk : Bool) (s : State) : Out :=
  rtpMessage s h tag 5 false fun s =>
    let x := getSes s sid
    let isChild := match edge with
      | .contrib _ => true
      | .parent => false
      | .relay => false
    let wants := match kstep with
      | .resp => isChild && s.kexs.any fun k => decide (k.sid = sid) && decide (k.edge = edge)
      | .init => !isChild
    if 4096 ≤ sid then rtpReject s h tag stFormat 5
    else if decide (x.st = .empty) || decide (x.home ≠ h) || !ownerKeyed s x.pid || !wants then rtpReject s h tag stState 5
    else if !sigOk || !chainOk then rtpReject (kexFails s h sid edge) h tag stBadSig 5
    else if !keyRoom s h then rtpReject (keysFull s) h tag stNoKeys 5
    else
      let s1 := addPeer (dropKex s sid edge) x.pid (x.pfaOf x.newest edge)
      let body := match kstep with
        | .init => freeWords 5 [sid, edgeDetail sid edge, 1]
        | .resp => []
      rtpAccept s1 h tag 5 body

/-- KEX_TIMEOUT (R329, R377): an exchange that has not completed within 1,000,000,000 ns is abandoned, logged and retried. -/
def execKexTimeout (i : Nat) (s : State) : Out :=
  match s.kexs[i]? with
  | none => .next s
  | some k =>
    if !cycAgo s k.cyc 1000000000 then .next s
    else
      let s1 := { s with kexs := s.kexs.eraseIdx i }
      if 4096 ≤ k.sid then
        let c := k.sid - 4096
        let s2 := secEvent s1 5 k.sid (pageNo .chan c) c
        .next (raiseK { s2 with kexs := s2.kexs ++ [{ k with cyc := s.cyc }] } .chan c 17)
      else
        let h := (getSes s k.sid).home
        .next (openKexes (kexFails s1 h k.sid k.edge) k.sid)

/-! ### Gloves (R339 to R344) -/

/-- A header's fields are in their ranges (R340). -/
def headerOk (g : GloveHdr) : Bool :=
  decide (g.version = 1) && decide (1 ≤ g.quorum) && decide (g.quorum ≤ 15) && decide (1 ≤ g.members) && decide (g.members ≤ 32) && decide (g.quorum ≤ g.members)

/-- A header that an RTP has taken. -/
def headerOf (s : State) (id : Nat) : Option GloveHdr := s.gloveHdrs.find? fun g => decide (g.gloveId = id)

/-- GLOVE_HEADER (R320, R340): the header is taken. -/
def execGloveHeader (h : Half) (g : GloveHdr) (s : State) : Out :=
  rtpMessage s h 0 codeHeader false fun s =>
    if !headerOk g then rtpReject s h 0 stFormat codeHeader
    else
      let s1 := { s with gloveHdrs := (s.gloveHdrs.filter fun x => decide (x.gloveId ≠ g.gloveId)) ++ [g] }
      rtpAccept s1 h 0 codeHeader []

/-- SVN of the firmware that runs. -/
def runningSvn (s : State) (h : Half) : Nat :=
  let r := s.rtp.get h
  ((r.slot r.running).map (·.svn)).getD 0

/-- Why GLOVE_OPEN fails (R339, R342, R343), before its chunks: OK where it does not. A spare needs QUORUM valid endorsements from
distinct member indices, each of a member whose FT it can vouch for. -/
def openStatus (s : State) (h : Half) (pid : Nat) (g : GloveHdr) (endorsed : List Endorsement) : Nat :=
  let p := getPart s pid
  let owner := s.ownerKeys.find pid
  let valid := (((endorsed.filter fun e => e.valid && e.ftVouched && decide (1 ≤ e.index) && decide (e.index ≤ g.members)).map (·.index)).eraseDups).length
  if p.st ≠ .live ∨ p.regions.length ≤ g.highRegion then stState
  else if !g.sigOk then stBadSig
  else if owner.isSome && decide (owner ≠ some g.ownerKey) then stPolicy
  else if !g.isMember && !(g.spareAdmit && decide (g.quorum ≤ valid)) then stNotMember
  else if g.requireLock && !(s.cfg.prodLock && debugRestricted s) then stPolicy
  else if runningSvn s h < g.minSvn then stPolicy
  else if !g.keyCheckOk then stPolicy
  else stOk

/-- An opening ends (R341, R342): the answer goes to the RTP and the tag of GLOVE_OPEN; a failure is a GLOVE_REJECT event. -/
def openingFails (s : State) (o : Opening) (status : Nat) : State :=
  let s1 := rtpEvent (withdrawUse s (MemUse.ofGlove o.hdr.gloveId)) o.half 4 o.tag
  rtpAnswer { s1 with openings := s1.openings.filter fun x => decide (x ≠ o) } o.half o.tag status 6 []

/-- An opening succeeds (R342): the partition takes the owner key if it has none, and records the GLOVE_ID. -/
def openingDone (s : State) (o : Opening) : State :=
  let g := o.hdr
  let s1 := { s with
    openings := s.openings.filter fun x => decide (x ≠ o)
    ownerKeys := if (s.ownerKeys.find o.pid).isSome then s.ownerKeys else s.ownerKeys.set o.pid g.ownerKey
    gloveIds := s.gloveIds.set o.pid g.gloveId }
  let s2 := rtpAnswer (rtpLog s1 o.half 6 [o.pid, g.gloveId]) o.half o.tag stOk 6 []
  (s2.sessions.cells.filter fun c => decide (c.2.pid = o.pid)).foldl (fun u c => openKexes u c.1) s2

/-- An opening has every chunk: the digest decides (R342). -/
def openingCloses (s : State) (o : Opening) : State :=
  if o.got.length < o.hdr.chunks then s else if o.digestOk then openingDone s o else openingFails s o stPolicy

/-- GLOVE_OPEN (R339, R342 to R344). -/
def execGloveOpen (h : Half) (tag : Nat) (pid : Nat) (gloveId : Nat) (endorsements : List Endorsement) (digestOk : Bool) (s : State) : Out :=
  rtpMessage s h tag 6 false fun s =>
    match headerOf s gloveId with
    | none => rtpReject s h tag stState 6
    | some g =>
      if 64 ≤ pid then rtpReject s h tag stFormat 6
      else if s.openings.any (fun o => decide (o.hdr.gloveId = gloveId) || decide (o.pid = pid)) then rtpReject s h tag stState 6
      else
        let status := openStatus s h pid g endorsements
        if status ≠ stOk then
          rtpReject (if status = stState then s else rtpEvent s h 4 tag) h tag status 6
        else
          let o : Opening := ⟨h, tag, pid, g, [], [], digestOk, !g.isMember⟩
          let s1 := if g.isMember then s else rtpLog s h 8 [pid, gloveId]
          let s2 := decideRtp { s1 with openings := s1.openings ++ [o] } h true
          openingCloses s2 o

/-- The RTP asks the stack channels for the lines of a chunk (R239, R339): its source ID, the slack MEM_FE_SLACK, one burst for each span.
The half's register is the one its fill engine reads. -/
def askChunk (s : State) (h : Half) (pid : Nat) (c : GloveChunk) : State :=
  let lst := lstOf (ftNs s h + kregN s .memFill (halfIdx h) 0x054)
  (cutAt 2048 (c.bytes.length / 64 + 1) c.dest c.bytes.length).foldl (fun u q =>
    match translate u pid q.1 with
    | some (prn, off) =>
      askStack u (0x4C8 + halfIdx h) lst pid true (writeAsks (.chunk c.gloveId c.index) prn 16 off ((c.bytes.drop (q.1 - c.dest)).take q.2))
    | none => u) s

/-- Chunks whose lines have all been accepted are done, and the RTP answers them (R339, R341, R342). -/
def settleChunks (s : State) : State :=
  (s.openings.flatMap fun o => o.writes.map fun n => (o.hdr.gloveId, n)).foldl (fun u q =>
    match u.openings.find? fun o => decide (o.hdr.gloveId = q.1) with
    | some o =>
      if useWaits u (.chunk q.1 q.2) then u
      else
        let o' := { o with got := o.got ++ [q.2], writes := o.writes.filter fun n => decide (n ≠ q.2) }
        let u1 := { u with openings := u.openings.map fun x => if x = o then o' else x }
        openingCloses (rtpAccept u1 o.half 0 codeChunk []) o'
    | none => u) s

/-- GLOVE_CHUNK (R339, R341): the plaintext is written under the partition's keys, and answered once the memory has accepted it; a
duplicate is ignored; a failed tag ends the opening, and so does a partition that is no longer LIVE. A Calm holds the write. -/
def execGloveChunk (h : Half) (c : GloveChunk) (s : State) : Out :=
  rtpMessage s h 0 codeChunk false fun s =>
    let n := c.bytes.length
    match s.openings.find? fun o => decide (o.hdr.gloveId = c.gloveId) with
    | none => rtpReject s h 0 stState codeChunk
    | some o =>
      let bad := decide (o.hdr.chunks ≤ c.index) || decide (c.dest % 64 ≠ 0) || decide (n % 64 ≠ 0) || decide (n < 64) ||
        decide (1048576 < n) || !rangeMapped s o.pid c.dest n
      if calmOn s .a || (s.cfg.halfB && calmOn s .b) then s
      else if (getPart s o.pid).st ≠ .live then openingFails (rtpReject s h 0 stState codeChunk) o stState
      else if bad then rtpReject s h 0 stFormat codeChunk
      else if o.got.contains c.index || o.writes.contains c.index then rtpAccept s h 0 codeChunk []
      else if !c.tagOk then openingFails (rtpReject s h 0 stPolicy codeChunk) o stPolicy
      else
        let o' := { o with writes := o.writes ++ [c.index] }
        askChunk { s with openings := s.openings.map fun x => if x = o then o' else x } h o.pid c

/-- ADMIT_PREP (R343): a spare answers a header with its ADMIT_REQ: the header's digest, its scope-0 report with that digest as its
nonce, and its Glove keys and signature, which are free words. An answer that the mailbox has no room for is turned away as by a full
mailbox. -/
def execAdmitPrep (h : Half) (tag : Nat) (pid : Nat) (g : GloveHdr) (s : State) : Out :=
  rtpMessage s h tag 7 false fun s =>
    if 64 ≤ pid ∨ headerOk g = false then rtpReject s h tag stFormat 7
    else
      let s1 := { s with
        gloveHdrs := (s.gloveHdrs.filter fun x => decide (x.gloveId ≠ g.gloveId)) ++ [g], attSeq := (s.attSeq + 1) % 2 ^ 32 }
      let d := Config.headerDigest g.gloveId
      let body := wordsOf (leBytes 48 d ++ reportBytes s h 0 d) ++ freeWords 7 [g.gloveId, s.attSeq]
      if rtpRoom s h (4 + body.length) then rtpAccept s1 h tag 7 body else raiseK (decideRtp s h false) .rtp (halfIdx h) 18

/-- Why a member does not endorse (R343, R344): OK where it does. -/
def endorseStatus (s : State) (h : Half) (g : GloveHdr) (r : AdmitReq) : Nat :=
  let now := ftNs s h
  let fresh := hasTime s h && decide (r.reportFt ≤ now + 1000000000) && decide (now ≤ r.reportFt + 1000000000)
  if !g.isMember || !r.isMember then stNotMember
  else if !r.sigOk || !r.reportOk then stBadSig
  else if !g.spareAdmit || !r.stateNormal || !r.prodLock || !r.debugRestricted || decide (r.svn < g.minSvn) || !fresh ||
      r.spareIsMember then stPolicy
  else stOk

/-- ADMIT_REQ (R343, R344): a member checks a spare's request and endorses it with its share. -/
def execAdmitReq (h : Half) (tag : Nat) (r : AdmitReq) (s : State) : Out :=
  rtpMessage s h tag 8 false fun s =>
    match headerOf s r.gloveId with
    | none => rtpReject s h tag stState 8
    | some g =>
      let status := endorseStatus s h g r
      if status = stOk then rtpAccept (rtpLog s h 7 [r.gloveId]) h tag 8 (freeWords 8 [r.gloveId])
      else rtpReject (if status = stBadSig then rtpEvent s h 8 tag else s) h tag status 8

/-! ### Debug and entropy -/

/-- SEC_DEBUG_LOCK (R346): a management write of the register; what is set stays set until a reset of the block. -/
def execSecDebugLock (port : Half) (data : Word) (s : State) : Out :=
  mgmtWriteK s port .sec 0 fun s =>
    okay (if bitOf data 0 then setKreg s .sec 0 0x044 (setBit (kreg s .sec 0 0x044) 0) else s) port

/-- An instrument may be used while the block is in service (R465): one that is allowed only in reset may not. -/
def instrumentAllowed (s : State) : Instrument → Bool
  | .boundaryScan => true
  | .bistStatus => true
  | .laneLoopback p => !debugRestricted s && portFitted s p && decide (pageSt s .port p = .off)
  | .rtpDebug => !debugRestricted s
  | .fuseProgram => !debugRestricted s
  | .bistRun => false
  | .scanChains => false
  | .hbmTest => false
  | .readKeys => false

/-- The source of an instrument's event. -/
def instrumentCode : Instrument → Nat
  | .boundaryScan => 0
  | .bistStatus => 1
  | .bistRun => 2
  | .scanChains => 3
  | .laneLoopback p => 16 + p
  | .hbmTest => 4
  | .rtpDebug => 5
  | .fuseProgram => 6
  | .readKeys => 7

/-- TEST_ACCESS (R346, R465): an access that is allowed changes nothing the spec gives the machine; another raises DEBUG_DENIED. -/
def execTestAccess (i : Instrument) (s : State) : Out :=
  if instrumentAllowed s i then .next s else .next (secEvent s 6 (instrumentCode i) (pageNo .sec 0) (instrumentCode i))

/-- ENTROPY_FAIL (R318, R345): a health test of the entropy source fails. -/
def execEntropyFail (s : State) : Out := .next (raiseK { s with entropyOk := false } .sec 0 17)

end Sys2Proof.Machine
end

