-- ==== Sys2Proof/Machine/PageCtl.lean ====
section
/-! DEFINITION. The page state machine (R40 to R46): what each kind of page checks and does as it starts, reaches ON, stops and
goes OFF, and the commands that move it: ENABLE_SET, ENABLE_CLEAR, FREEZE_WRITE, START_COMPLETE, START_FAIL, STOP_COMPLETE,
PAGE_ERR_CLEAR, PAGE_CTRL_ACTION. -/

namespace Sys2Proof.Machine

/-- Change a page header. -/
def onPage (s : State) (pg : Nat) (f : Page → Page) : State := putPage s pg (f (getPage s pg))

/-! ### Staged configuration (R46) -/

/-- The page a staged register follows: its own, but SPR_LANE follows the page of the port it names (R437). -/
def stagedPage (k : PageKind) (i off : Nat) : Nat :=
  if k = .spr ∧ 0x100 ≤ off then pageNo .port (32 * i + (off - 0x100) / 4) else pageNo k i

/-- A register address is staged and takes effect at a page's STARTING. -/
def stagedFor (pg addr : Nat) : Bool :=
  match pageOf (addr / 4096) with
  | none => false
  | some (k, i) =>
    decide (stagedPage k i (addr % 4096) = pg) &&
      match regRow k (addr % 4096) with
      | some r => decide (r.acc = .staged) || decide (r.acc = .program)
      | none => false

/-- STARTING takes the staged registers of a page into force (R46). -/
def stage (s : State) (pg : Nat) : State :=
  let kept := s.inForce.keep fun a _ => !stagedFor pg a
  let new := s.regs.cells.filter fun c => stagedFor pg c.1
  { s with inForce := new.foldl (fun u c => u.set c.1 c.2) kept }

/-- A value lies in a range. -/
def inRange (n lo hi : Nat) : Bool := decide (lo ≤ n) && decide (n ≤ hi)

/-- The staged configuration of a page is valid: the ranges that the register tables give, and the checks of R277, R377 and
R406. -/
def configOk (s : State) (k : PageKind) (i : Nat) : Bool :=
  let r (off : Nat) : Nat := kregN s k i off
  match k with
  | .ftu => inRange (r 0x060) 2000 1000000 && inRange (r 0x064) 64 960
  | .pwr => inRange (bitsOf (r 0x05C) 7 0) 60 120 && inRange (bitsOf (r 0x05C) 15 8) 1 20
  | .port => inRange (bitsOf (r 0x048) 4 0) 0 30
  | .wv => inRange (r 0x044) 10000 100000000 && inRange (r 0x048) 100000 1000000000
  | .funnel => inRange (r 0x040) 500 1000000 && inRange (r 0x044) 1000 10000000
  | .egress => inRange (bitsOf (r 0x040) 4 0) 0 20
  | .chan => chanConfigOk s i
  | .prf => prfConfigOk s i
  | .bank => bankConfigOk s i
  | .spr => inRange (r 0x050) 100000 100000000 && inRange (r 0x054) 1000 1000000
  | _ => true

/-! ### What a page does as its state changes -/

/-- The lanes that a port's STARTING replaces (R437). -/
def takeLanes (s : State) (p : Nat) : State :=
  { s with laneMap := s.laneMap.put 0 p (kreg s .spr (p / 32) (0x100 + 4 * (p % 32))) }

/-- A page enters STARTING with a valid configuration. -/
def starting (s : State) (k : PageKind) (i : Nat) : State :=
  match k with
  | .tile => tileStarting s i
  | .chan => chanStarting s i
  | .port => { takeLanes s i with meters := s.meters.keep fun key _ => decide (key / 64 ≠ i) }
  | .ftu => onFtu s (halfOf i) fun f => { f with lock := .acquiring, run := 0, goodCyc := none }
  | _ => s

/-- A page goes from OFF, or from STOPPING with a restart pending, into STARTING (R45): its staged configuration is checked, and an
invalid one returns it to OFF with CONFIG. A port's observation bucket has filled at the share in force until now (R262). -/
def enterStarting (s : State) (k : PageKind) (i : Nat) : State :=
  let pg := pageNo k i
  let s0 := if k = .port then putBucket s (obsKey i) (obsLevel s i) else s
  let s1 := setPageSt s0 pg .starting
  if configOk s1 k i then starting (stage s1 pg) k i else failStart s1 pg 1

/-- The unit sources whose own page this is (R371). -/
def sourceUnit (k : PageKind) (i : Nat) : Option Nat := if k = .sesStat then none else pageUnit k i

/-- A trace source emits SYNC with reason START before its next record (R45, R368). -/
def syncStart (s : State) (k : PageKind) (i : Nat) : State :=
  if k = .tile then
    let s1 := askSync s (tileKey i true) 1
    if tileOwner s i = 0 then s1 else askSync s1 (tileKey i false) 1
  else
    match sourceUnit k i with
    | none => s
    | some u =>
      let keys := (s.streams.cells.map (·.1)).filter fun key =>
        decide (unitKey u none ≤ key) && decide (key < unitKey (u + 1) none)
      keys.foldl (fun t key => askSync t key 1) (askSync s (unitKey u none) 1)

/-- Cells that waited because no port of their set was ON look for a port again (R259). -/
def retryStranded (s : State) : State :=
  let go (u : State) (c : Cell) : State :=
    let x := getSes u c.sid
    match choosePort u (x.lastPort.find (edgeCode c.edge)) (if x.localPorts then some x.home else none) c.pfa with
    | some p => queueCell u p (sesSrc x) c
    | none => { u with stranded := u.stranded ++ [c] }
  s.stranded.foldl go { s with stranded := [] }

/-- The region table of a stack, as its reserve mirrors it (R299). -/
def loadRegions (s : State) (k : Nat) : State :=
  let mine (prn : Nat) : Bool := decide (stackOf s.cfg prn = k)
  let rest := s.regions.keep fun p _ => !mine p
  { s with regions := (s.reserve.cells.filter fun c => mine c.1).foldl (fun m c => m.put Region.fresh c.1 c.2) rest }

/-- A page has reached ON; `before` is the state in which it was STARTING. -/
def started (before s : State) (k : PageKind) (i : Nat) : State :=
  match k with
  | .tile => tileStarted s i
  | .chan => chanStarted before s i
  | .bank => bankStarted s i
  | .prf => prfStarted s i
  | .port => retryStranded (grantIngress s i)
  | .mem => loadRegions s i
  | .arbStack => { s with arbOn := s.arbOn.put 0 (pageNo k i) s.cyc }
  | .arbPort => { s with arbOn := s.arbOn.put 0 (pageNo k i) s.cyc }
  | .arbBridge => { s with arbOn := s.arbOn.put 0 (pageNo k i) s.cyc }
  | .arbFunnel => { s with arbOn := s.arbOn.put 0 (pageNo k i) s.cyc }
  | _ => s

/-- A page reaches ON (R45). -/
def enterOn (s : State) (k : PageKind) (i : Nat) : State :=
  let s1 := setPageSt s (pageNo k i) .on
  started s (syncStart s1 k i) k i

/-- A page enters STOPPING (R45); `before` is the state it was in. -/
def stopping (before s : State) (k : PageKind) (i : Nat) : State :=
  match k with
  | .tile => tileStopping s i
  | .chan => chanStopping before s i
  | .bank => bankStopping s i (decide (pageSt before k i = .on))
  | .ftu => retimed before (onFtu s (halfOf i) fun f => { f with lock := .acquiring, run := 0, goodCyc := none, undo := none })
  | _ => s

/-- A page goes from STARTING or ON into STOPPING. -/
def enterStopping (s : State) (k : PageKind) (i : Nat) : State :=
  let s1 := setPageSt s (pageNo k i) .stopping
  stopping s s1 k i

/-- Every channel of a stack holds no entry (R299). -/
def stackEmpty (s : State) (i : Nat) : Bool :=
  (List.range 32).all fun t => decide (waiting s (arbKey .arbStack i t) = 0) && decide (entriesAt s i t = [])

/-- No region of a stack is OWNED, MIGRATING or ALLOCATING (R299). -/
def stackUnused (s : State) (i : Nat) : Bool :=
  s.regions.cells.all fun c =>
    decide (stackOf s.cfg c.1 ≠ i) ||
      !(decide (c.2.st = .owned) || decide (c.2.st = .migrating) || decide (c.2.st = .allocating))

/-- A stop may complete: of a tile R90, of a session engine chapter 7, of a port R276, of a stack R299, of a channel R377, of a
bank R406, of a CALM page R424; an engine page and a spares page first finish what they hold (R29). -/
def mayStop (s : State) (k : PageKind) (i : Nat) : Bool :=
  match k with
  | .tile => tileMayStop s i
  | .ses => decide (sessionsOf s (halfOf i) = [])
  | .port => decide ((getPort s i).held = 0) && decide (waiting s (arbKey .arbPort i 0) = 0) && !cellComes s i
  | .mem => stackUnused s i && stackEmpty s i
  | .chan => chanMayStop s i
  | .bank => bankMayStop s i
  | .calm => !calmOn s (halfOf i)
  | .memFill => (s.fill.get (halfOf i)).op.isNone && !useLeft s (.patrol (halfOf i))
  | .spr => (s.swaps.get (halfOf i)).isNone
  | _ => true

/-- What a page does as its stop completes, going OFF, or with a restart pending straight to STARTING (R45, R89). -/
def stopped (s : State) (k : PageKind) (i : Nat) (restart : Bool) : State :=
  match k with
  | .tile => if restart then tileStopDone s i else tileStopped s i
  | .chan => chanStopped s i
  | _ => s

/-- A stop completes (R45): OFF, or STARTING where a restart is pending. -/
def enterOff (s : State) (k : PageKind) (i : Nat) : State :=
  let pg := pageNo k i
  if (getPage s pg).restart then enterStarting (onPage (stopped s k i true) pg fun p => { p with restart := false }) k i
  else stopped (setPageSt s pg .off) k i false

/-! ### Writes of PAGE_CTRL -/

/-- FREEZE is written (R45). -/
def setFreeze (s : State) (pg : Nat) (freeze : Bool) : State := onPage s pg fun p => { p with freeze := freeze }

/-- ENABLE is written 1 (R45). -/
def enableOne (s : State) (k : PageKind) (i : Nat) : State :=
  let pg := pageNo k i
  let s1 := onPage s pg fun p => { p with enable := true }
  match (getPage s pg).st with
  | .off => enterStarting s1 k i
  | .starting => s1
  | .on => s1
  | .stopping => onPage s1 pg fun p => { p with restart := true }

/-- ENABLE of a page that R40 does not keep ON is written 0 (R45). -/
def enableZero (s : State) (k : PageKind) (i : Nat) : State :=
  let pg := pageNo k i
  let s1 := onPage s pg fun p => { p with enable := false }
  match (getPage s pg).st with
  | .off => s1
  | .starting => enterStopping s1 k i
  | .on => enterStopping s1 k i
  | .stopping => onPage s1 pg fun p => { p with restart := false }

/-- Both bits of PAGE_CTRL are written. -/
def writeCtrl (s : State) (k : PageKind) (i : Nat) (enable freeze : Bool) : State :=
  let s1 := setFreeze s (pageNo k i) freeze
  if enable then enableOne s1 k i else enableZero s1 k i

/-- Do something with the row and number of a page of the map. -/
def withPage (s : State) (pg : Nat) (f : PageKind → Nat → State) : State :=
  match pageOf pg with
  | some (k, i) => f k i
  | none => s

/-- ENABLE_SET (R45): a write of PAGE_CTRL with ENABLE 1. -/
def execEnableSet (port : Half) (page : Nat) (freeze : Bool) (s : State) : Out :=
  mgmtWrite s port page fun s => okay (withPage s page fun k i => writeCtrl s k i true freeze) port

/-- ENABLE_CLEAR (R40, R45): a write of PAGE_CTRL with ENABLE 0, DENIED on the pages that R40 keeps ON. -/
def execEnableClear (port : Half) (page : Nat) (freeze : Bool) (s : State) : Out :=
  mgmtWrite s port page fun s =>
    match pageOf page with
    | some (k, i) => if keptOn k then turnAway s port page respDenied else okay (writeCtrl s k i false freeze) port
    | none => s

/-- FREEZE_WRITE (R45): a write of PAGE_CTRL that keeps ENABLE as it is. -/
def execFreezeWrite (port : Half) (page : Nat) (freeze : Bool) (s : State) : Out :=
  mgmtWrite s port page fun s => okay (setFreeze s page freeze) port

/-- PAGE_CTRL_ACTION (R59): a schedule entry writes its argument to PAGE_CTRL of the page it names. A page that cannot be reached,
or that R40 keeps ON, is left as it is. -/
def firePageCtrl (s : State) (h : Half) (e : Entry) : State :=
  if (pageRefuses s h e.page).isSome then s
  else withPage s e.page fun k i => if keptOn k then s else writeCtrl s k i (e.arg.testBit 0) (e.arg.testBit 1)

/-- PAGE_CTRL_ACTION. -/
def execPageCtrlAction (h : Half) (entry : Nat) (s : State) : Out :=
  schedOut s h entry actPageCtrl (fun _ => true) fun s e => firePageCtrl s h e

/-! ### Starts and stops that end -/

/-- A command of a page's own: the page must exist and be fitted. -/
def pageOut (s : State) (pg : Nat) (f : PageKind → Nat → State) : Out :=
  match pageOf pg with
  | none => .fault .noSuchUnit
  | some (k, i) =>
    if kindBeyond s.cfg k i then .fault .noSuchUnit
    else if !kindFitted s.cfg k i then .fault .absentUnit
    else .next (f k i)

/-- What a start still waits for: a tile's loader, where there is an image to load (R93), and the trace key of a tenant's
channel (R377). -/
def startWaits (s : State) (k : PageKind) (i : Nat) : Bool :=
  match k with
  | .tile =>
    let x := getTile s i
    decide (x.prog = .none) && (decide (kregF s .tile i 0x080 ≠ 0) || decide (kregF s .tile i 0x084 ≠ 0) || decide (x.sram.cells ≠ []))
  | .chan => decide (pageOwner s (pageNo .chan i) ≠ 0) && !(getChan s i).keyed
  | _ => false

/-- START_COMPLETE (R45). -/
def execStartComplete (page : Nat) (s : State) : Out :=
  pageOut s page fun k i =>
    if (getPage s page).st = .starting ∧ startWaits s k i = false then enterOn s k i else s

/-- What a start that faults leaves (R89, R93, R299, R377): a tile's SRAM stays powered and zero-filled; a stack sets TRAIN; a
channel drops its exchange. -/
def startFaults (s : State) (k : PageKind) (i : Nat) : State :=
  match k with
  | .tile => onTile s i fun x =>
      { x.zeroed with prog := .none, pc := 0, codeWords := 0, ibuf := .empty, sram := .empty, flaws := .empty, sramOn := true, fillEnd := none }
  | .mem => raiseK s .mem i 20
  | .chan => { onChan s i fun x => { x with keyed := false } with kexs := s.kexs.filter fun k => decide (k.sid ≠ chanKexId i) }
  | _ => s

/-- START_FAIL (R45). -/
def execStartFail (page : Nat) (s : State) : Out :=
  pageOut s page fun k i =>
    if (getPage s page).st = .starting then startFaults (failStart s page 0) k i else s

/-- STOP_COMPLETE (R45): the stop completes once nothing holds it. -/
def execStopComplete (page : Nat) (s : State) : Out :=
  pageOut s page fun k i =>
    if (getPage s page).st = .stopping ∧ mayStop s k i = true then enterOff s k i else s

/-! ### PAGE_ERR -/

/-- The bits of PAGE_ERR that hardware sets: [31:16] and [3:0]. -/
def errBits : Word := 0xFFFF000F

/-- PAGE_ERR_CLEAR (R41): the bits written 1 are cleared; those that hardware sets in the same cycle stay set, and each counts. -/
def clearErr (s : State) (pg : Nat) (bits hwSet : Word) : State :=
  let s1 := onPage s pg fun p => { p with err := p.err &&& ~~~bits }
  ((List.range 32).filter fun b => bitOf (hwSet &&& errBits) b).foldl (fun u b => raiseErr u pg b) s1

/-- PAGE_ERR_CLEAR. -/
def execPageErrClear (port : Half) (page : Nat) (bits : Word) (hwSet : Word) (s : State) : Out :=
  mgmtWrite s port page fun s => okay (clearErr s page bits hwSet) port

end Sys2Proof.Machine
end

