-- ==== Sys2Proof/Machine/SessionMsg.lean ====
section
/-! DEFINITION. Cells and control messages as a port receives them (chapters 7 and 8): ARM_REQ, ARM, ARM_ACK, COMMIT, DISARM,
GRANT, NACK, DONE, OUTCOME, DATA_CELL, RESULT_CELL, MALFORMED_CELL. -/

namespace Sys2Proof.Machine

/-! ### Arrival at a port -/

/-- A cell that a port receives: one that finds no ingress credit is dropped (R257); otherwise its slot of the ingress buffer is
held, and the cell is counted for the session it names (R393). -/
def portReceives (s : State) (p : Nat) (pid : Option Nat) (go : State → State) : Out :=
  if 64 ≤ p then .fault .noSuchUnit
  else if !portFitted s p then .fault .absentUnit
  else
    match takeIngress s p with
    | none => .next (dropNoCredit s p)
    | some u => .next (go (countBlk u (portHalf p) 0x02 [0] p pid 1))

/-- Count a cell's class (R165, R393) at the engine of a half. -/
def countClass (s : State) (h : Half) (row : Nat) (pid : Option Nat) : State := countBlk s h 0x07 [row] (halfIdx h) pid 1

/-- AUTH_BAD (R183, R184, R338): the counts, AUTH, and the events, of which Squall lets one per edge out in 1,000,000 ns. -/
def authBad (s : State) (sid : Nat) (edge : Edge) (cidx : Nat) : State :=
  let x := getSes s sid
  let pg := pageNo .ses x.page
  let src := sid * 16384 + edgeCode edge
  let detail := sid + 2 ^ 12 * cidx
  let open_ := secOpen s 1 src
  let s1 := onSes (sesCount s x 0x068) sid fun y => { y with authBad := y.authBad + 1 }
  let s2 := raiseErr (secEvent s1 1 src pg detail) pg 16
  if open_ then tenantEvent s2 (sesUnit x) x.pid 5 1 pg detail else s2

/-- The port on which an edge's newest accepted cell came (R259). -/
def sawPort (s : State) (sid : Nat) (edge : Edge) (p : Nat) : State :=
  onSes s sid fun x => { x with lastPort := x.lastPort.set (edgeCode edge) p }

/-! ### Control messages -/

/-- The edge is one that the session has, keyed, and named by the message (R153, R160). -/
def edgeKnown (x : Session) (edge : Edge) (cidx : Nat) : Bool :=
  match edge with
  | .contrib c => (x.enabled 0 ++ x.enabled 1).any (fun e => decide (e.1 = c)) && ctKeyed (x.ctst c).1
  | .parent => !x.isRoot && x.parentKey && decide (cidx = x.parentCidx)
  | .relay => !x.isRoot && x.relayKey && decide (cidx = x.relayCidx)

/-- A message on the edge comes from above, toward this child (DIR of R160). -/
def fromAbove : Edge → Bool
  | .contrib _ => false
  | .parent => true
  | .relay => true

/-- What a verified control message does: a repeated SEQ is dropped and counted on the engine's page (R162). -/
def ctrlTake (s : State) (m : CtrlIn) (edge : Edge) (act : State → State) : State :=
  let x := getSes s m.sid
  let key := (edgeCode edge, m.epoch, m.seq)
  if x.seen.contains key then sesCount s x 0x06C
  else act (putSes s m.sid { x with seen := key :: x.seen })

/-- A control message arrives (R158, R160, R161, R183, R416): it is checked, metered, and acted on, or held by a Calm. -/
def ctrlIn (m : CtrlIn) (msg ft arg : Nat) (edge : Edge) (self : Instr) (act : State → State) (s : State) : Out :=
  let x := getSes s m.sid
  let crcOk := ctrlCrcOk m (ctrlHead m msg ft arg (fromAbove edge))
  let named := decide (x.st ≠ .empty)
  let p := m.port
  let h := portHalf p
  let home := if named then x.home else h
  let attr := if named && crcOk then some x.pid else none
  portReceives s p attr fun u =>
    if !crcOk then freeIngress (countClass (satReg (noteArrival u p (sentAt u p m.stamp) (.blank 3 1 0)) .ses (halfIdx h) 0x060 1) h 1 none) p
    else if !named || (sentAt u p m.stamp).isNone || !edgeKnown x edge m.cidx then
      freeIngress (countClass (satReg (noteArrival u p (sentAt u p m.stamp) (.blank 3 2 0)) .ses (halfIdx home) 0x064 1) home 2 none) p
    else
      let r (cls : Nat) : CalmRec := ⟨0, 0, 0, 3, cls, 0, m.sid, m.cidx, m.epoch, msg, m.seq⟩
      if !m.authOk then
        freeIngress (countClass (authBad (noteArrival u p (sentAt u p m.stamp) (r 4)) m.sid edge m.cidx) home 4 (some x.pid)) p
      else
        let u1 := sawPort (meterCell u p x.pid) m.sid edge p
        match ctrlHeldBy u1 p m.sid with
        | some g =>
          let q := holdCtrl (noteArrival u1 p (sentAt u1 p m.stamp) (r 0)) g p self
          if q.2 then freeIngress q.1 p else q.1
        | none => freeIngress (ctrlTake u1 m edge act) p

/-! ### ARM_REQ, ARM and ARM_ACK (R168, R169) -/

/-- A contributor covers the armer's rank. -/
def coversArmer (x : Session) (c : Nat) : Bool :=
  match (x.bank x.newest)[c]? with
  | some ct => rangeHas ct.first ct.count x.armerRank
  | none => false

/-- ARM_REQ is acted on: the root accepts it or refuses it; another member forwards it up. -/
def actArmReq (m : CtrlIn) (ft : Nat) (s : State) : State :=
  let x := getSes s m.sid
  let refuse (u : State) (c : Nat) : State :=
    sendCtrl u m.sid x.newest m.epoch (.contrib m.cidx) (.plain msgArmAck 0 c) true
  if x.isRelay then s
  else if !x.isRoot then sendCtrl s m.sid x.newest m.epoch .parent (.plain msgArmReq ft 0) false
  else if !x.armerEn || !coversArmer x m.cidx then refuse s 7
  else
    match armRefusal s x m.epoch ft x.marginNs with
    | some c => refuse (noteRefusal s x c) c
    | none => acceptArm s m.sid m.epoch ft

/-- ARM_REQ (R168). -/
def execArmReq (m : CtrlIn) (ft : Nat) (s : State) : Out :=
  ctrlIn m msgArmReq ft 0 (.contrib m.cidx) (.armReq m ft) (actArmReq m ft) s

/-- ARM is acted on: it is accepted, or its refusal goes to the parent at once. -/
def actArmMsg (m : CtrlIn) (ft : Nat) (s : State) : State :=
  let x := getSes s m.sid
  if x.isRelay then s
  else
    match armRefusal s x m.epoch ft (x.guardNs + ftuLead s x.home) with
    | some c => sendAck (noteRefusal s x c) m.sid m.epoch c
    | none => acceptArm s m.sid m.epoch ft

/-- ARM (R169, R181, R188). -/
def execArm (m : CtrlIn) (ft : Nat) (s : State) : Out := ctrlIn m msgArm ft 0 .parent (.arm m ft) (actArmMsg m ft) s

/-- ARM_ACK is acted on: an OK is recorded, and the last one, or the first refusal, goes to the parent. -/
def actArmAck (m : CtrlIn) (status : Nat) (s : State) : State :=
  let x := getSes s m.sid
  let par := m.epoch % 2
  let e := x.ep par
  if e.num ≠ m.epoch ∨ e.st ≠ .armed then s
  else if status % 256 = 0 then
    tryAck (onEp s m.sid par fun e => { e with acked := m.cidx :: e.acked }) m.sid par
  else
    let s1 := onEp s m.sid par fun e => if e.refusal = 0 then { e with refusal := status % 256 } else e
    if x.isRoot ∨ e.ackSent = true then s1
    else onEp (sendAck s1 m.sid m.epoch (status % 256)) m.sid par fun e => { e with ackSent := true }

/-- ARM_ACK (R169). -/
def execArmAck (m : CtrlIn) (status : Nat) (s : State) : Out :=
  ctrlIn m msgArmAck 0 status (.contrib m.cidx) (.armAck m status) (actArmAck m status) s

/-! ### COMMIT and DISARM (R170, R171) -/

/-- The block holds, or held last in its parity, an epoch that it was armed with. -/
def Session.armed (x : Session) (n : Nat) : Bool := decide ((x.ep (n % 2)).num = n) && decide ((x.ep (n % 2)).start ≠ 0)

/-- Where a COMMIT or a DISARM of an epoch is forwarded: the contributors that its ARM went to, or those of the newest table where
this block has not been armed with it. -/
def Session.orderTo (x : Session) (n : Nat) : List Nat := if x.armed n then (x.ep (n % 2)).awaited else x.presentAt

/-- The session after the first copy of an order: an epoch that it was armed with knows it, and a DISARM spends the number. -/
def Session.ordered (x : Session) (n : Nat) (commit : Bool) : Session :=
  let y := { x with
    orders := (n, commit) :: x.orders
    next := if commit then x.next else some (max (n + 1) (x.next.getD 0)) }
  if x.armed n then
    let e := x.ep (n % 2)
    y.setEp (n % 2) (if commit then { e with gotCommit := true } else { e with gotDisarm := true })
  else y

/-- The first copy of COMMIT or DISARM of an epoch is forwarded down (R170); none for a second copy. -/
def takeOrder (s : State) (sid n : Nat) (commit : Bool) (m : Msg) : Option State :=
  let x := getSes s sid
  if x.orders.contains (n, commit) then none
  else some (sendAll (putSes s sid (x.ordered n commit)) sid (if x.armed n then x.bankOfEpoch n else x.newest) n (x.orderTo n) m false)

/-- The start FT less GUARD_NS has not come. -/
def beforeGuard (s : State) (x : Session) (e : Epoch) : Bool := decide (sesNow s x + x.guardNs < e.base)

/-- COMMIT is acted on: one that comes at or after start FT less GUARD_NS finds the member UNCOMMITTED (R171). -/
def actCommit (m : CtrlIn) (ft : Nat) (s : State) : State :=
  let x := getSes s m.sid
  let par := m.epoch % 2
  let e := x.ep par
  match takeOrder s m.sid m.epoch true (.plain msgCommit ft 0) with
  | none => s
  | some u =>
    if x.isRelay || !x.armed m.epoch then u
    else if e.st = .armed then
      if beforeGuard s x e then onEp u m.sid par fun e => { e with st := .committed, since := sesNow s x }
      else react (uncommit u m.sid par) m.sid
    else if e.st = .idle ∧ e.gotDisarm = true ∧ beforeGuard s x e = true then react (uncommit u m.sid par) m.sid
    else u

/-- COMMIT (R170, R171, R173). -/
def execCommit (m : CtrlIn) (ft : Nat) (viaRelay : Bool) (s : State) : Out :=
  ctrlIn m msgCommit ft 0 (if viaRelay then .relay else .parent) (.commit m ft viaRelay) (actCommit m ft) s

/-- An armed epoch is disarmed: its start is cancelled and its number is spent (R170). -/
def disarmEpoch (s : State) (sid par : Nat) : State :=
  let s1 := onEp (cancelStart s sid par) sid par fun e => { e with st := .idle }
  drainCheck s1 sid

/-- DISARM is acted on: one that comes at or after start FT less GUARD_NS finds a member that holds no COMMIT UNCOMMITTED (R171). -/
def actDisarm (m : CtrlIn) (ft status : Nat) (s : State) : State :=
  let x := getSes s m.sid
  let par := m.epoch % 2
  let e := x.ep par
  match takeOrder s m.sid m.epoch false (.plain msgDisarm ft (status % 256)) with
  | none => s
  | some u =>
    if x.isRelay || !x.armed m.epoch then u
    else if e.st = .armed then
      if beforeGuard s x e then disarmEpoch u m.sid par else react (uncommit u m.sid par) m.sid
    else if e.st = .committed ∧ beforeGuard s x e = true then react (uncommit u m.sid par) m.sid
    else u

/-- DISARM (R170, R171, R173). -/
def execDisarm (m : CtrlIn) (ft : Nat) (status : Nat) (viaRelay : Bool) (s : State) : Out :=
  ctrlIn m msgDisarm ft status (if viaRelay then .relay else .parent) (.disarm m ft status viaRelay) (actDisarm m ft status) s

/-! ### GRANT and NACK (R163, R185, R194) -/

/-- Send a kept DATA segment again by a handle of a GRANT, with the LST of its SEND (R185, R267). -/
def resend (s : State) (sid par : Nat) (k : SentSeg) (handle grant : Nat) (reminded : Bool) : State :=
  let x := getSes s sid
  let e := x.ep par
  let o : OutSeg := ⟨e.num, false, k.part, k.seg, k.payload, k.lst, [0], false, k.tile⟩
  let s1 := onEp s sid par fun e => { e with
    kept := e.kept.map fun q => if q.part = k.part ∧ q.seg = k.seg then
      { q with handle := handle, grant := grant, reminded := reminded } else q }
  sendCell s1 sid (dataCell s1 x sid e.bank .parent o ⟨.parent, e.num, k.part, k.seg, handle, grant⟩)

/-- The entry that repeats a reminder's credit has come (R174, R185). -/
def tookRepeat (s : State) (sid par : Nat) (k : SentSeg) : State :=
  onEp s sid par fun e => { e with
    kept := e.kept.map fun q => if q.part = k.part ∧ q.seg = k.seg then { q with reminded := false } else q }

/-- One credit of a GRANT: one already held changes nothing; a second credit for a segment that has been sent sends it again (R185).
DEDUCED (log 145): the entry that follows a reminder's NACK, by the same handle, is the credit already used. -/
def takeCredit (s : State) (sid par : Nat) (edge : Edge) (grant : Nat) (c : Credit) : State :=
  let x := getSes s sid
  let e := x.ep par
  let k := e.kept.find? fun q => decide (edge = .parent) && decide (q.part = c.part) && decide (q.seg = c.seg)
  match k with
  | some q =>
    if q.handle = c.handle ∧ q.reminded = true then tookRepeat s sid par q else resend s sid par q c.handle grant false
  | none =>
    if x.sendCredits.any fun q => decide (q.edge = edge) && decide (q.epoch = e.num) && decide (q.part = c.part) && decide (q.seg = c.seg) &&
        decide (q.handle = c.handle) then s
    else onSes s sid fun x => { x with sendCredits := x.sendCredits ++ [⟨edge, e.num, c.part, c.seg, c.handle, grant⟩] }

/-- The name of a GRANT among those of its edge and epoch: its SEQ, and the cycle it came in. -/
def grantNo (s : State) (m : CtrlIn) : Nat := 4096 * s.cyc + m.seq % 4096

/-- GRANT is acted on: its credits are recorded, and cells that waited for them leave. Credits of an epoch are void once its
OUTCOME is held (R166). -/
def actGrant (m : CtrlIn) (fromParent : Bool) (credits : List Credit) (s : State) : State :=
  let x := getSes s m.sid
  let par := m.epoch % 2
  let e := x.ep par
  if x.isRelay || !e.live || decide (e.num ≠ m.epoch) || (fromParent && e.dec.isSome) then s
  else
    let edge : Edge := if fromParent then .parent else .contrib m.cidx
    let s1 := (credits.take 28).foldl (fun u c => takeCredit u m.sid par edge (grantNo s m) c) s
    react s1 m.sid

/-- GRANT (R163). -/
def execGrant (m : CtrlIn) (fromParent : Bool) (credits : List Credit) (s : State) : Out :=
  ctrlIn m msgGrant 0 credits.length (if fromParent then .parent else .contrib m.cidx) (.grant m fromParent credits) (actGrant m fromParent credits) s

/-- NACK is acted on. The parent's has a kept segment sent once more by its handle, until the epoch's OUTCOME is held (R166, R185); a
contributor's names a RESULT handle, and is counted and ignored (R194). -/
def actNack (m : CtrlIn) (fromParent : Bool) (handle cause : Nat) (s : State) : State :=
  let e := (getSes s m.sid).ep (m.epoch % 2)
  if !fromParent then onSes s m.sid fun x => { x with resultNacks := x.resultNacks + 1 }
  else if !e.live || decide (e.num ≠ m.epoch) || e.dec.isSome then s
  else
    match e.kept.find? fun q => decide (q.handle = handle % 65536) with
    | some q => resend s m.sid (m.epoch % 2) q q.handle q.grant (q.reminded || decide (cause % 256 = 2))
    | none => s

/-- NACK (R185, R194). -/
def execNack (m : CtrlIn) (handle : NackRef) (cause : Nat) (s : State) : Out :=
  ctrlIn m msgNack 0 (handle.handle % 65536 + 2 ^ 16 * cause) (if handle.fromParent then .parent else .contrib m.cidx)
    (.nack m handle cause) (actNack m handle.fromParent handle.handle cause) s

/-! ### DONE and OUTCOME (R171, R189, R190, R192, R193) -/

/-- What a block keeps of a child's DONE after one more message. -/
def Epoch.tookDone (e : Epoch) (d : ChildDone) : Epoch :=
  let base := match e.doneOf d.cidx with
    | some o => if o.complete then [] else o.ranges
    | none => []
  { e with childDone := { d with ranges := base ++ d.ranges } :: e.childDone.filter fun o => decide (o.cidx ≠ d.cidx) }

/-- A repeated DONE changes nothing, but a failure after a good DONE is news. -/
def Epoch.doneNews (e : Epoch) (d : ChildDone) : Bool :=
  match e.doneOf d.cidx with
  | some o => !o.complete || (decide (o.status ≤ 1) && decide (2 ≤ d.status))
  | none => true

/-- A member below has failed the epoch or holds it UNCOMMITTED (R171, R175): it fails here now, or as it opens. -/
def childFails (s : State) (sid par reason : Nat) : State :=
  let e := (getSes s sid).ep par
  if e.st = .armed ∨ e.st = .committed then
    onEp s sid par fun e => { e with failed := some (e.failed.getD reason) }
  else failEpoch s sid par reason

/-- A DONE for an epoch that has retired is answered from its record; one for a spent or unknown epoch is counted (R193). -/
def lateDone (s : State) (m : CtrlIn) : State :=
  let x := getSes s m.sid
  match x.recordOf m.epoch with
  | some r =>
    if r.dec.code = 0 then s else sendOutcome s m.sid x.newest m.epoch m.cidx r.dec true
  | none => sesCount s x 0x070

/-- DONE is acted on. -/
def actDone (m : CtrlIn) (d : ChildDone) (s : State) : State :=
  let x := getSes s m.sid
  let par := m.epoch % 2
  let e := x.ep par
  if x.isRelay then s
  else if !e.live || decide (e.num ≠ m.epoch) then lateDone s m
  else if !e.doneNews d then s
  else
    let s1 := onEp s m.sid par fun e => e.tookDone d
    let s2 := if d.complete && decide (2 ≤ d.status) then
        childFails s1 m.sid par (if d.status = 3 then rsnUncommitted else d.reason)
      else s1
    react s2 m.sid

/-- ARG of a DONE (R161, R230). -/
def doneArgOf (status reason lag total narrow : Nat) : Nat :=
  packed [(status % 256, 0), (reason % 256, 8), (lag % 256, 16), (total % 65536, 32), (narrow % 65536, 48)]

/-- DONE (R171, R189, R190, R192, R230). -/
def execDone (m : CtrlIn) (ft : Nat) (status : Nat) (reason : Nat) (ranges : List RankRange) (more : Bool) (total : Nat)
    (narrow : Nat) (lag : Nat) (s : State) : Out :=
  ctrlIn m msgDone ft (doneArgOf status reason lag total narrow) (.contrib m.cidx) (.done m ft status reason ranges more total narrow lag)
    (actDone m ⟨m.cidx, status % 256, reason % 256, ranges.take 27, !more, total % 65536, narrow % 65536, lag % 256⟩) s

/-- The OUTCOME of an epoch takes effect at a member (R173, R190, R194). -/
def outcomeTakes (s : State) (sid par : Nat) (d : Decision) : State :=
  let e := (getSes s sid).ep par
  let lost := resultsReserved s sid par e.num
  let s1 := onEp (cancelStart s sid par) sid par fun e => { e with resultLost := lost }
  react (takeOutcome s1 sid par d) sid

/-- OUTCOME is acted on: it takes effect once its set of ranges is complete. -/
def actOutcome (m : CtrlIn) (d : Decision) (more : Bool) (s : State) : State :=
  let x := getSes s m.sid
  let par := m.epoch % 2
  let e := x.ep par
  if x.isRelay || !e.live || decide (e.num ≠ m.epoch) || e.dec.isSome then s
  else
    let l := e.rangesIn ++ d.ranges
    if more then onEp s m.sid par fun e => { e with rangesIn := l } else outcomeTakes s m.sid par { d with ranges := l }

/-- OUTCOME (R173, R175, R190, R194, R203). -/
def execOutcome (m : CtrlIn) (ft : Nat) (code : Nat) (reason : Nat) (format : Nat) (advice : Nat) (ranges : List RankRange)
    (more : Bool) (s : State) : Out :=
  ctrlIn m msgOutcome ft (Decision.arg ⟨code, ft, reason, format, advice, []⟩) .parent (.outcome m ft code reason format advice ranges more)
    (actOutcome m ⟨code % 4, ft, reason % 256, format % 16, advice % 4, ranges.take 27⟩ more) s

/-! ### DATA and RESULT cells (R165, R183) -/

/-- The identity of the credit that a slot is reserved for. -/
def RxSlot.ident (r : RxSlot) : CellId := ⟨r.sid, r.epoch, r.cidx, r.part, r.seg⟩

/-- I of R165: the kind and identity of the credit now reserved against a slot. -/
def RxSlot.now (r : RxSlot) : Option (Nat × CellId) := if r.st = .free then none else some (r.kind, r.ident)

/-- P of R165: those of the credit before; of the last one where the slot is FREE. -/
def RxSlot.before (r : RxSlot) : Option (Nat × CellId) :=
  if r.st = .free then (if r.kind = 0 then none else some (r.kind, r.ident))
  else r.prior.map fun q => (q.1, ⟨q.2.1, q.2.2.1, q.2.2.2.1, q.2.2.2.2.1, q.2.2.2.2.2⟩)

/-- The row of R165 that a cell of a kind meets, 1 to 7. -/
def classify (s : State) (kind : Nat) (c : CellIn) (r : RxSlot) (known : Bool) : Nat :=
  let t := sentAt s c.port c.stamp
  let fits (o : Option (Nat × CellId)) : Bool := match o, c.auth with
    | some q, some a => decide (q.1 = kind) && decide (q.2 = a)
    | _, _ => false
  if !cellCrcOk kind c then 1
  else if !known || decide (r.kind = 0) || t.isNone then 2
  else if decide (r.st = .reserved) && decide (r.issued ≤ t.getD 0 + 1000) then (if fits r.now then 3 else 4)
  else if r.st = .filled ∧ fits r.now = true then 5
  else if fits r.before then
    match r.before with
    | some q => if epochLive s q.2.sid q.2.epoch then 5 else 6
    | none => 7
  else 7

/-- Send a NACK to the holder of a credit (R174, R183). -/
def sendNack (s : State) (sid epoch c handle cause : Nat) : State :=
  let x := getSes s sid
  sendCtrl s sid (x.bankOfEpoch epoch) epoch (.contrib c) (.plain msgNack 0 (handle % 65536 + 2 ^ 16 * cause)) false

/-- CRC_BAD of a cell whose handle names a slot reserved for a DATA credit draws a NACK, at most one in 10,000 ns (R183). -/
def crcNack (s : State) (t slot handle : Nat) (r : RxSlot) : State :=
  let x := getSes s r.sid
  let now := sesNow s x
  let ok := match r.nackAt with
    | some k => decide (k + 10000 ≤ now)
    | none => true
  if decide (r.st = .reserved) && decide (r.kind = 1) && ok && !calmOn s x.home then
    sendNack (onTile s t fun y => y.setSlot slot { r with nackAt := some now }) r.sid r.epoch r.cidx handle 1
  else s

/-- The edge of a slot's credit. -/
def RxSlot.edge (r : RxSlot) : Edge := if r.kind = 2 then .parent else .contrib r.cidx

/-- The cell's format is one the session takes (R165). -/
def formatTaken (x : Session) (kind fmt : Nat) : Bool := if kind = 1 then x.wireFmts.testBit fmt else decide (fmt = x.resultFmt)

/-- The fate that an accepted DATA cell goes toward (R183): of an excluded contributor or a settled epoch it is discarded. -/
def acceptFate (e : Epoch) (c : Nat) : Nat :=
  if e.st = .opened ∧ e.excluded.contains c = false then fateAccepted else fateDiscSettled

/-- ACCEPT (R165, R166, R183): the slot is FILLED, the credit is returned, and the payload enters the mesh toward its tile. -/
def acceptCell (s : State) (c : CellIn) (t slot : Nat) (r : RxSlot) : State :=
  let x := getSes s r.sid
  let par := r.parity
  let s1 := onTile s t fun y => y.setSlot slot
    { r with st := .filled, flight := true, fmt := c.format % 16, payload := [] }
  let s2 := onSes s1 r.sid fun y =>
    let e := y.ep par
    let e1 := if r.kind = 1 then e.setFate r.cidx r.part r.seg (acceptFate e r.cidx) else e
    { y.setEp par { e1 with returned := e1.returned + 1 } with returned := y.returned + 1 }
  let f := Flit.fresh (portRouter c.port) t .tile (0x480 + c.port) (lstOf (ftNs s (portHalf c.port))) x.pid [] (.rx t slot)
  sawPort (sendCellFlits s2 f (headBytes c.tag c.crc (cellInLow r.kind c)) (takeBytes 256 c.payload)) r.sid r.edge c.port

/-- An ACCEPT whose format is not taken (R165, R183): the slot stays RESERVED and a DATA cell draws a NACK of cause FORMAT. -/
def refuseFormat (s : State) (c : CellIn) (r : RxSlot) : State :=
  let x := getSes s r.sid
  let s1 := sesCount s x 0x078
  if r.kind = 1 ∧ calmOn s x.home = false then sendNack s1 r.sid r.epoch r.cidx c.handle 3 else s1

/-- A cell counted LATE (R182, R183). -/
def lateCell (s : State) (q : CellId) : State :=
  let x := getSes s q.sid
  onSes (sesCount s x 0x070) q.sid fun y => { y with
    late := y.late + 1
    records := y.records.map fun r => if r.num = q.epoch then { r with lateAfter := satAdd (2 ^ 32 - 1) r.lateAfter 1 } else r }

/-- What follows each class (R183). -/
def classAction (s : State) (kind : Nat) (c : CellIn) (t slot row : Nat) (r : RxSlot) : State :=
  let h := portHalf c.port
  let held := decide (r.st ≠ .free)
  let x := getSes s r.sid
  let at_ := if held then halfIdx x.home else halfIdx h
  let old : CellId := (r.before.getD (0, r.ident)).2
  match row with
  | 1 =>
    let s1 := satReg s .ses at_ 0x060 1
    if held then crcNack (onSes s1 r.sid fun y => { y with crcBad := y.crcBad + 1 }) t slot c.handle r else s1
  | 2 => satReg s .ses at_ 0x064 1
  | 3 =>
    let s1 := meterCell s c.port x.pid
    if formatTaken x kind (c.format % 16) then react (acceptCell s1 c t slot r) r.sid else refuseFormat s1 c r
  | 4 => authBad s r.sid r.edge r.cidx
  | 5 =>
    let sid := if c.auth = some r.ident ∧ held = true then r.sid else old.sid
    let y := getSes s sid
    onSes (sesCount (meterCell s c.port y.pid) y 0x06C) sid fun z => { z with dup := z.dup + 1 }
  | 6 => lateCell (meterCell s c.port (getSes s old.sid).pid) old
  | _ => satReg s .ses at_ 0x074 1

/-- The channel record of a DATA or RESULT cell (R420): what its slot's credit supplies, and nothing for a cell that fails CRC or
is malformed. -/
def cellRecord (kind row : Nat) (c : CellIn) (r : RxSlot) : CalmRec :=
  if row ≤ 2 then .blank kind row (c.handle % 65536)
  else
    let q := if r.st = .free ∨ row = 6 then (r.before.getD (0, r.ident)).2 else r.ident
    ⟨0, 0, 0, kind, row, c.handle % 65536, q.sid, q.cidx, q.epoch, q.part, q.seg⟩

/-- An arriving DATA or RESULT cell is met in a row of R165: it is counted and recorded, and what follows its class is done. -/
def meetCell (kind : Nat) (c : CellIn) (row : Option Nat) (s : State) : Out :=
  let lt := c.handle / 64 % 1024
  let slot := c.handle % 64
  let pt := physOf s lt
  let t := pt.getD 0
  let r := (getTile s t).slot slot
  let row := row.getD (classify s kind c r pt.isSome)
  let names := pt.isSome && decide (r.st ≠ .free)
  let pid := if row = 6 then some (getSes s (r.before.getD (0, r.ident)).2.sid).pid
    else if names then some (getSes s r.sid).pid else none
  portReceives s c.port pid fun u =>
    let u1 := countClass (noteArrival u c.port (sentAt u c.port c.stamp) (cellRecord kind row c r)) (if names then (getSes s r.sid).home else portHalf c.port)
      row pid
    freeIngress (classAction u1 kind c t slot row (if pt.isSome then r else RxSlot.unused)) c.port

/-- A DATA or RESULT cell arrives (R165, R183, R257, R415). -/
def cellArrives (kind : Nat) (c : CellIn) (s : State) : Out := meetCell kind c none s

/-- DATA_CELL (R165, R183). -/
def execDataCell (c : CellIn) (s : State) : Out := cellArrives 1 c s

/-- RESULT_CELL (R165, R183, R203). -/
def execResultCell (c : CellIn) (s : State) : Out := cellArrives 2 c s

/-- MALFORMED_CELL (R157, R158, R161, R165): a cell of a reserved KIND, or a CTRL cell whose type or version is not known, by its header
and its payload; one whose CRC fails is CRC_BAD. A cell that is not malformed is no such command. -/
def execMalformedCell (p : Nat) (cell : RawCell) (s : State) : Out :=
  let head := cell.head
  let body := cell.body
  if !malformed head body then .next s
  else
    let h := portHalf p
    let row := if bitsOf head 63 48 = cellCrc (bitsOf head 127 64) (bitsOf head 47 0) body then 2 else 1
    let kind := if bitsOf head 23 20 = 3 then 3 else 0
    portReceives s p none fun u =>
      let u1 := satReg (noteArrival u p (sentAt u p (bitsOf head 47 24)) (.blank kind row 0)) .ses (halfIdx h) (if row = 1 then 0x060 else 0x064) 1
      freeIngress (countClass u1 h row none) p

end Sys2Proof.Machine
end

