-- ==== Sys2Proof/Machine/SessionFault.lean ====
section
/-! DEFINITION. What time brings to a session's epochs, and what fails under them (chapter 8): COMMIT_DEADLINE, GUARD_TIME,
EXPECTED_ARRIVAL, DEADLINE, WAIT_EXPIRED, CTRL_SECOND_COPY, DONE_REPEAT, ORPHAN_TIMEOUT, SES_MARK, CONTRIB_UE. -/

namespace Sys2Proof.Machine

/-- A command about one parity of a session. -/
def epochOut (s : State) (sid par : Nat) (f : Session → Epoch → State) : Out :=
  if 4096 ≤ sid ∨ 2 ≤ par then .fault .noSuchUnit
  else
    let x := getSes s sid
    .next (f x (x.ep par))

/-! ### The start (R170, R171) -/

/-- COMMIT_DEADLINE (R170): at start FT less COMMIT_MARGIN_NS the root sends COMMIT if every awaited contributor has answered OK,
and DISARM otherwise, to its contributors and to its relay. -/
def execCommitDeadline (sid : Nat) (parity : Nat) (s : State) : Out :=
  epochOut s sid parity fun x e =>
    if !x.isRoot || decide (e.st ≠ .armed) || !timerDue s x (e.base - x.marginNs) then s
    else if e.allAcked && decide (e.refusal = 0) then
      let m := Msg.plain msgCommit e.start 0
      let s1 := sendCtrl (sendAll s sid e.bank e.num e.awaited m false) sid e.bank e.num .relay m false
      onEp s1 sid parity fun e => { e with gotCommit := true, st := .committed }
    else
      let m := Msg.plain msgDisarm e.start e.refusal
      let s1 := sendCtrl (sendAll s sid e.bank e.num e.awaited m false) sid e.bank e.num .relay m false
      disarmEpoch (onEp s1 sid parity fun e => { e with gotDisarm := true }) sid parity

/-- GUARD_TIME (R171): at start FT less GUARD_NS a member that is ARMED and holds no COMMIT is UNCOMMITTED. -/
def execGuardTime (sid : Nat) (parity : Nat) (s : State) : Out :=
  epochOut s sid parity fun x e =>
    if decide (e.st ≠ .armed) || e.gotCommit || x.isRoot || !timerDue s x (e.base - x.guardNs) then s
    else react (uncommit s sid parity) sid

/-! ### Arrivals and deadlines (R174, R187) -/

/-- The contributor's entry in the bank of an epoch, if it is enabled. -/
def Session.entryOf (x : Session) (e : Epoch) (c : Nat) : Option Contrib :=
  ((x.enabled e.bank).find? fun q => decide (q.1 = c)).map (·.2)

/-- The slots of a session's parts that are reserved for DATA credits of a contributor in an epoch: tile, slot and handle. -/
def reservedFor (s : State) (sid par c : Nat) : List (Nat × Nat × RxSlot) :=
  let x := getSes s sid
  let e := x.ep par
  x.partList.flatMap fun p =>
    match x.tileOf s p with
    | some t => ((getTile s t).slots.cells.filter fun q =>
        decide (q.2.st = .reserved) && decide (q.2.kind = 1) && decide (q.2.cidx = c) && q.2.holds sid par e.num).map
          fun q => (p, q.1, q.2)
    | none => []

/-- EXPECTED_ARRIVAL (R174, R185): each credit of the contributor that is still RESERVED draws a NACK of cause REMIND, with the
GRANT entry of the same credit again. -/
def execExpectedArrival (sid : Nat) (parity : Nat) (cidx : Nat) (s : State) : Out :=
  epochOut s sid parity fun x e =>
    match x.entryOf e cidx with
    | none => s
    | some ct =>
      if decide (e.st ≠ .opened) || e.reminded.contains cidx || !timerDue s x (x.expected e ct) then s
      else
        let s1 := onEp s sid parity fun e => { e with reminded := cidx :: e.reminded }
        (reservedFor s sid parity cidx).foldl (fun u q =>
          let handle := handleOf (x.tileBase + q.1) q.2.1
          let u1 := sendNack u sid e.num cidx handle 2
          sendGrant u1 sid e.bank e.num (.contrib cidx) [⟨q.2.2.part, q.2.2.seg, handle⟩]) s1

/-- A contributor is at its deadline and still owes cells (R187). -/
def overdue (s : State) (x : Session) (e : Epoch) (c : Nat × Contrib) : Bool :=
  !e.missing.contains c.1 && !e.excluded.contains c.1 && x.stillOwes e c.1 c.2 &&
    timerDue s x (x.expected e c.2 + x.deadlineNs)

/-- DEADLINE (R174, R187): at expected arrival plus DEADLINE_NS a contributor that still owes cells is missing. Where that ends the epoch,
under ABORT_EPOCH, every contributor at its deadline is missing with it. -/
def execDeadline (sid : Nat) (parity : Nat) (cidx : Nat) (s : State) : Out :=
  epochOut s sid parity fun x e =>
    match x.entryOf e cidx with
    | none => s
    | some ct =>
      if decide (e.st ≠ .opened) || !overdue s x e (cidx, ct) then s
      else
        let others := if x.policy = polAbort then
            (x.enabled e.bank).filter fun c => decide (c.1 ≠ cidx) && overdue s x e c
          else []
        let s1 := others.foldl (fun u c => missOnce (onEp u sid parity fun e => { e with missing := c.1 :: e.missing }) sid c.1) s
        react (goesMissing s1 sid parity cidx) sid

/-- WAIT_EXPIRED (R187): WAIT_MAX_NS after its deadline a contributor is still missing, and the epoch fails. -/
def execWaitExpired (sid : Nat) (parity : Nat) (cidx : Nat) (s : State) : Out :=
  epochOut s sid parity fun x e =>
    match x.entryOf e cidx with
    | none => s
    | some ct =>
      if decide (e.st ≠ .opened) || !e.waiting.contains cidx || !x.stillOwes e cidx ct ||
          !timerDue s x (x.expected e ct + x.deadlineNs + x.waitMaxNs) then s
      else react (failEpoch s sid parity rsnWaitExpired) sid

/-! ### Repeated messages (R193) -/

/-- CTRL_SECOND_COPY (R193): 4,000 ns after the first, the second copy of a message leaves with the same SEQ; none leaves during a
Calm (R413). -/
def execCtrlSecondCopy (i : Nat) (s : State) : Out :=
  match s.copies[i]? with
  | none => .next s
  | some q =>
    let x := getSes s q.2.sid
    if timerDue s x q.1 then .next (sendCell { s with copies := s.copies.eraseIdx i } q.2.sid q.2) else .next s

/-- The member waits for an OUTCOME after its first DONE. -/
def awaitsOutcome (x : Session) (e : Epoch) : Bool :=
  e.sent && !x.isRoot && e.dec.isNone &&
    (decide (e.st = .waitOutcome) || decide (e.st = .uncommitted) || decide (e.st = .settled))

/-- DONE_REPEAT (R193): every 100,000 ns without an OUTCOME the DONE is sent again, with a new SEQ. -/
def execDoneRepeat (sid : Nat) (parity : Nat) (s : State) : Out :=
  epochOut s sid parity fun x e =>
    if awaitsOutcome x e && timerDue s x (e.doneAt + 100000 * e.doneCount) then sendDone s sid parity true else s

/-- ORPHAN_TIMEOUT (R193): SES_ORPHAN_NS after its first DONE a member takes outcome NONE with reason PARENT_LOST. -/
def execOrphanTimeout (sid : Nat) (parity : Nat) (s : State) : Out :=
  epochOut s sid parity fun x e =>
    if awaitsOutcome x e && timerDue s x (e.doneAt + kregN s .ses x.page 0x0C4) then
      outcomeTakes s sid parity ⟨0, sesNow s x, rsnParentLost, 0, 0, []⟩
    else s

/-! ### SES_MARK (R191) -/

/-- Mark a contributor missing in one OPEN epoch in which it still owes cells. Under WAIT the deadline moves as R187 moves it. -/
def markIn (s : State) (sid par c : Nat) : State :=
  let x := getSes s sid
  let e := x.ep par
  match x.entryOf e c with
  | none => s
  | some ct =>
    if decide (e.st = .opened) && !e.missing.contains c && !e.excluded.contains c && x.stillOwes e c ct then
      applyPolicy (onEp s sid par fun e => { e with missing := c :: e.missing }) sid par c
    else s

/-- SES_MARK is acted on (R191, R198): a contributor that the newest table enables is FAILED at once; one that is already FAILED
stays as it is. -/
def actMark (s : State) (h : Half) (sid c : Nat) : State :=
  let x := getSes s sid
  let valid := decide (x.st ≠ .empty) && decide (x.home = h) && (x.enabled x.newest).any fun q => decide (q.1 = c)
  if valid then
    if (x.ctst c).1 = .failed then s
    else
      let s1 := onSes s sid fun x => x.setCt c .failed (x.ctst c).2
      react (markIn (markIn s1 sid 0 c) sid 1 c) sid
  else accessErr s .ses (halfIdx h)

/-- SES_MARK (R191): GO written with a session and a contributor; one that names nothing valid sets ACCESS. -/
def execSesMark (port : Half) (h : Half) (sid : Nat) (cidx : Nat) (s : State) : Out :=
  mgmtWriteK s port .ses (halfIdx h) fun s =>
    let s1 := setKreg s .ses (halfIdx h) 0x0C0 (BitVec.ofNat 32 (sid % 4096 + 2 ^ 12 * (cidx % 8192)))
    okay (goOrHold s1 h (.sesMark port h sid cidx) fun u => actMark u h (sid % 4096) (cidx % 8192)) port

/-! ### CONTRIB_UE (R186) -/

/-- A group of 32 elements lies in a segment of a part in a format (R127, R128, R223). -/
def groupIn (fmt seg group : Nat) : Bool := decide (32 * group / cellElems fmt = seg)

/-- A contribution is owed again: its fate is open, and the groups that it covers are voided (R225). -/
def oweAgain (s : State) (sid par : Nat) (l : List (Nat × Nat × Nat)) : State :=
  let e := (getSes s sid).ep par
  let s1 := onEp s sid par fun e =>
    l.foldl (fun e q => { e.setFate q.1 q.2.1 q.2.2 0 with retiredUe := e.retiredUe + 1 }) e
  voidGroups s1 fun g => decide (g.sid = sid) && decide (g.epoch = e.num) && l.any fun q => decide (q.2.1 = g.part) && groupIn e.fmt q.2.2 g.group

/-- A FILLED slot's copy is retired (R186): the slot is freed, the queue entry pushed for it stays and is marked RETIRED, and the
segment is owed again, or once its epoch has settled the epoch fails. A payload that has not reached its slot yet is written whole, and nothing is lost. -/
def slotRetired (s : State) (t slot : Nat) (r : RxSlot) : State :=
  let x := getSes s r.sid
  let b := x.bindIndex
  if r.flight then s
  else
    let v := (getTile s t).bind b
    let q := v.queue.map fun e => if !e.mark && decide (e.slot = slot) then { e with retired := true } else e
    let s1 := freeRxSlot (onTile s t fun y => y.setBind b { v with queue := q }) t slot
    if r.kind = 1 ∧ epochLive s r.sid r.epoch = true ∧ ((x.ep r.parity).fate r.cidx r.part r.seg = fateFilled) then
      if (x.ep r.parity).st = .opened then react (oweAgain s1 r.sid r.parity [(r.cidx, r.part, r.seg)]) r.sid
      else react (failEpoch s1 r.sid r.parity rsnContribUe) r.sid
    else s1

/-- Contributors whose cell of a segment has been reduced. -/
def reducedInto (x : Session) (e : Epoch) (p seg : Nat) : List Nat :=
  ((x.enabled e.bank).filter fun c => decide (e.fate c.1 p seg = fateReduced)).map (·.1)

/-- Accumulators of a segment of a part are lost (R186). -/
def accumulatorsLost (s : State) (sid par p seg : Nat) : State :=
  let x := getSes s sid
  let e := x.ep par
  if e.st = .opened then
    let s1 := match x.tileOf s p with
      | some t => onTile s t fun y =>
          let v := y.bind x.bindIndex
          let n := cellElems e.fmt
          y.clearAcc (v.accOf par + seg * n) (min n (v.accCount - seg * n))
      | none => s
    react (oweAgain s1 sid par ((reducedInto x e p seg).map fun c => (c, p, seg))) sid
  else if e.live && e.opened then react (failEpoch s sid par rsnContribUe) sid
  else s

/-- A shadow reducer has an uncorrectable storage error (R225, R236, R237, R432): it is counted, and every group in it is voided. -/
def reducerFails (s : State) (sr : Nat) : State :=
  let s1 := wearAdd (raiseK (satReg s .wvSr sr 0x04C 1) .wv (halfIdx (srHalf s.cfg sr)) 17) 5 sr 1
  let gone := s1.wvGroups.cells.filter fun c => decide (c.1 / 128 = sr)
  gone.foldl (fun u c => tidyWv (voidGroup u c.1) c.2.sid c.2.epoch) s1

/-- CONTRIB_UE (R186): an uncorrectable error under a contribution, decided by where it is found. In the ingress buffer the cell is
treated as CRC_BAD, and BUF_UE is set (R279). An error in a word of a tile's SRAM under which no contribution lies stands there until
the word is read or written (R74); an error in a shadow reducer voids its groups (R225); one in a
frame bank discards the frame (R436). -/
def execContribUe (place : UePlace) (s : State) : Out :=
  match place with
  | .ingress p kind handle =>
    let u := if portFitted s p then raiseK s .port p 17 else s
    if kind = 1 ∨ kind = 2 then
      meetCell kind { port := p, tag := 0, crc := 0, format := 0, handle := handle, stamp := 0, body := [], auth := none, payload := [] }
        (some 1) u
    else
      portReceives u p none fun v =>
        freeIngress (countClass (satReg (noteArrival v p none (.blank 3 1 0)) .ses (halfIdx (portHalf p)) 0x060 1) (portHalf p) 1 none) p
  | .slot lt slot =>
    match physOf s lt with
    | none => .fault .absentUnit
    | some t =>
      let r := (getTile s t).slot (slot % 64)
      .next (if r.st = .filled then slotRetired s t (slot % 64) r else s)
  | .sram t a ue =>
    tileOut s t (
      let w := a % 0x80000 / 8
      if !(getTile s t).sramOn then s
      else onTile s t fun x => { x with flaws := x.flaws.put 0 w (if ue || decide (x.flaws.get 0 w = 2) then 2 else 1) })
  | .reducer sr => srOut s sr (reducerFails s sr)
  | .frame ch =>
    if kindCount .chan ≤ ch then .fault .noSuchUnit else needHalf s (chanHalf ch) (.next (frameFails s ch))
  | .accumulators sid par p seg => epochOut s sid par fun _ _ => accumulatorsLost s sid par p seg

end Sys2Proof.Machine
end

