-- ==== Sys2Proof/Machine/Service.lean ====
section
/-! DEFINITION. Spares and wear (chapter 20): lane errors, row repairs, the swaps of tiles, shadow reducers and frame banks, repair
fuses and the RTP's load: LANE_ERROR, WEAR_DAY_RESET, SRAM_ROW_REPAIR, TILE_SWAP, SR_SWAP, FRAME_SWAP, SWAP_WINDOW, NO_WINDOW,
SWAP_COMMIT, SR_SWAP_COMMIT, FRAME_BANK_SWAP, REPAIR_FUSE_WRITE, RTP_LOAD. -/

namespace Sys2Proof.Machine

/-! ### Wear (R432, R456) -/

/-- LANE_ERROR (R456): a lane word error counts in its lane's wear. An uncorrectable one also makes its cell CRC_BAD, which the
cell's own command says. -/
def execLaneError (p : Nat) (lane : Nat) (_correctable : Bool) (s : State) : Out :=
  if 64 ≤ p ∨ 19 ≤ lane then .fault .noSuchUnit
  else if !portFitted s p then .fault .absentUnit
  else .next (wearAdd s 7 (32 * p + lane) 1)

/-- One day of FT in ns. -/
def dayNs : Nat := 86400000000000

/-- WEAR_DAY_RESET (R432): at each whole day of FT the per-day counts of the half restart from zero. -/
def execWearDayReset (h : Half) (s : State) : Out :=
  needHalf s h (.next (
    let day := ftNs s h / dayNs
    if hasTime s h && decide (day ≠ s.wearDayNo.get h) then
      { s with
        wearDay := s.wearDay.keep fun k _ => decide (wearHalf s (k / 2 ^ 40) (k % 2 ^ 40) ≠ h)
        wearDayNo := s.wearDayNo.put h day }
    else s))

/-- A repair is committed (R433): the RTP has an entry to write into the half's fuse bank. -/
def repaired (s : State) (h : Half) : State := { s with fuseQueue := s.fuseQueue.put h (s.fuseQueue.get h + 1) }

/-- SRAM_ROW_REPAIR (R432, R434): in a cycle in which the bank serves no request, a row of it moves to one of its four spare rows, which
holds the bank for two cycles; nothing that a program reads changes. A bank without a spare row asks for a tile swap under AUTO. -/
def execSramRowRepair (t : Nat) (bank : Nat) (row : Nat) (s : State) : Out :=
  if 1088 ≤ t ∨ 16 ≤ bank ∨ 512 ≤ row then .fault .noSuchUnit
  else if !tileFitted s t then .fault .absentUnit
  else
    let n := s.rowsUsed.get 0 (16 * t + bank)
    let h := tileHalf t
    if n < 4 then
      if banksTaken s t [bank] then .next s
      else
        .next (repaired { s with
          rowsUsed := s.rowsUsed.put 0 (16 * t + bank) (n + 1)
          bankUse := s.bankUse.set (16 * t + bank) (8 * (s.cyc + 1) + bankRepair) } h)
    else
      let s1 := raiseK s .spr (halfIdx h) 17
      .next (if autoOn s h 1 then { s1 with autoQueue := s1.autoQueue ++ [(1, t)] } else s1)

/-- REPAIR_FUSE_WRITE (R433): the RTP writes a committed repair into the fuse bank of 256 entries; a full bank sets FUSE_FULL. -/
def execRepairFuseWrite (h : Half) (s : State) : Out :=
  needHalf s h (.next (
    if s.fuseQueue.get h = 0 ∨ (s.rtp.get h).booted = false then s
    else
      let s1 := { s with fuseQueue := s.fuseQueue.put h (s.fuseQueue.get h - 1) }
      if s.fuseUsed.get h < 256 then { s1 with fuseUsed := s1.fuseUsed.put h (s.fuseUsed.get h + 1) }
      else raiseK { s1 with fuseFull := s1.fuseFull.put h true } .spr (halfIdx h) 18))

/-! ### The status of a swap (R450) -/

/-- SPR_STATUS: IDLE 0, PENDING 1, COPYING 2, DONE 3, ABANDONED 4, REFUSED 5. -/
def sprStatus (s : State) (h : Half) (code reason lt : Nat) : State :=
  setKreg s .spr (halfIdx h) 0x048 (BitVec.ofNat 32 (code + 2 ^ 8 * reason + 2 ^ 16 * lt))

/-- Reasons of R450. -/
def sprNoWindow : Nat := 1
def sprNoSpare : Nat := 2
def sprBusy : Nat := 3
def sprCalm : Nat := 4
def sprReset : Nat := 5
def sprArg : Nat := 6

/-- A command is refused: it has no effect (R34), and NO_SPARE is set where no spare was found. -/
def sprRefuse (s : State) (h : Half) (reason lt : Nat) : State :=
  let s1 := if reason = sprNoSpare then raiseK s .spr (halfIdx h) 17 else s
  accessErr (sprStatus s1 h 5 reason lt) .spr (halfIdx h)

/-! ### Tile swaps (R438 to R440) -/

/-- Spare tiles of a half. -/
def spareTiles (s : State) (h : Half) : List Nat :=
  ((List.range 544).map (544 * halfIdx h + ·)).filter fun t => decide ((tileMap s t).role = 1)

/-- The distance of two columns. -/
def colDist (t u : Nat) : Nat := (routerCol t - routerCol u) + (routerCol u - routerCol t)

/-- The spare that R78 chooses for a tile: the nearest in column, and of two the one of the lower column. -/
def spareFor (s : State) (h : Half) (old : Nat) : Option Nat :=
  (spareTiles s h).foldl (fun o t => match o with
    | some b => if colDist old t < colDist old b then some t else some b
    | none => some t) none

/-- The session whose epoch a held start belongs to, and its part. -/
def heldPart (s : State) (lt b : Nat) : Option (Nat × Nat) :=
  match physOf s lt with
  | none => none
  | some t =>
    let v := (getTile s t).bind b
    match (getSes s v.sid).partAt lt with
    | some p => if v.valid then some (v.sid, p) else none
    | none => none

/-- Held starts of a logical tile are released (R438, R439): the part opens where its epoch is still OPEN; `fails` is a swap that
discards, whose held epochs fail with TILE_FAULT. -/
def releaseStarts (s : State) (lt : Nat) (fails : Bool) : State :=
  let mine := s.heldStarts.filter fun q => decide (q.1 = lt)
  mine.foldl (fun u q =>
    match heldPart u lt q.2.1 with
    | none => u
    | some (sid, p) =>
      if ((getSes u sid).ep q.2.2).st ≠ .opened then u
      else if fails then react (failEpoch u sid q.2.2 rsnTileFault) sid
      else react (openPart u sid q.2.2 p) sid) { s with heldStarts := s.heldStarts.filter fun q => decide (q.1 ≠ lt) }

/-- A swap is abandoned (R438, R440): the old tile goes on, and held starts are released. -/
def abandonSwap (s : State) (h : Half) (reason : Nat) : State :=
  match s.swaps.get h with
  | none => s
  | some w =>
    let s1 := dropFlits { s with swaps := s.swaps.put h none } fun
      | .swap g _ => decide (g = h)
      | _ => false
    let s2 := if w.copying then setFreeze s1 (pageNo .tile w.old) false else s1
    raiseK (releaseStarts (sprStatus s2 h 4 reason w.lt) w.lt false) .spr (halfIdx h) 20

/-- The tile registers that move with a logical number: live, staged and program status, by offset (R439). -/
def movedRegs : List Nat := [0x048, 0x074, 0x07C, 0x080, 0x084, 0x088, 0x184, 0x188]

/-- Copy tile registers from one page to another, staged ones in force as well. -/
def copyRegs (s : State) (old new : Nat) (offs : List Nat) : State :=
  offs.foldl (fun u off =>
    let a := regAddr .tile old off
    let b := regAddr .tile new off
    let v := setKreg u .tile new off (kreg u .tile old off)
    { v with inForce := match u.inForce.find a with
        | some w => v.inForce.set b w
        | none => v.inForce.drop b }) s

/-- What a new tile receives of the old one (R439): everything but the reduce accumulators and the counters; of a tile that is
discarded, or whose page is OFF, the bindings alone. -/
def swapInto (old new : Tile) (copies : Bool) (cyc : Nat) : Tile :=
  if copies then
    { old with
      racc := .empty, ctrs := .empty, ctrLatch := .empty, ctrCyc := 0, ctrWas := .empty, flaws := old.flaws.keep fun _ k => decide (k = 2), lull := .awake, wakeReq := false, wakeFt := none, idleCyc := cyc,
      bucket := 0, bucketCyc := cyc }
  else { new with binds := old.binds, ctrs := .empty, ctrLatch := .empty, ctrCyc := 0, ctrWas := .empty }

/-- The swap commits in one cycle (R439). -/
def commitSwap (s : State) (h : Half) (w : Swap) (copies : Bool) : State :=
  let pgO := pageNo .tile w.old
  let pgN := pageNo .tile w.new
  let gov := bankOfTile s w.old
  let po := getPage s pgO
  let x := getTile s w.old
  let s1 := { s with swaps := s.swaps.put h none }
  let s2 := putTile (putTile s1 w.new (swapInto x (getTile s w.new) copies s.cyc)) w.old Tile.fresh
  let s3 := copyRegs s2 w.old w.new (if copies then movedRegs else [0x07C, 0x080, 0x084, 0x188])
  let s4 := { s3 with tmap := (s3.tmap.set w.new ⟨some w.lt, 0⟩).set w.old ⟨none, 2⟩ }
  let s5 := onPage s4 pgN fun p => { p with owner := po.owner, gen := po.gen, enable := !w.discard && po.enable, freeze := false }
  let s6 := if copies then setPageSt s5 pgN po.st else s5
  let s7 := onPage s6 pgO fun p => { p with enable := false, freeze := false, restart := false, owner := 0, gen := 0 }
  let s8 := if po.st = .off then s7 else setPageSt s7 pgO .off
  let s9 := match gov with
    | some b => onBank s8 b fun k => { k with former := k.former ++ [(w.lt, w.old, decide (x.lull ≠ .awake), sixteen x.ctrs)] }
    | none => s8
  let s10 := retile s (retile s s9 w.old) w.new
  let s10 := if copies then syncStart s10 .tile w.new else s10
  let s11 := sprStatus (flagParts (repaired s10 h) 1) h 3 0 w.lt
  releaseStarts s11 w.lt w.discard

/-- A tile swap is asked for (R438): by SPR_CMD, or by the RTP under AUTO. A tile whose page is OFF is swapped at once. -/
def startSwap (s : State) (h : Half) (lt : Nat) (named : Option Nat) (discard : Bool) : State :=
  match physOf s lt with
  | none => sprRefuse s h sprArg lt
  | some old =>
    let spares := spareTiles s h
    if lt / 512 ≠ halfIdx h then sprRefuse s h sprArg lt
    else if (s.swaps.get h).isSome then accessErr s .spr (halfIdx h)
    else if (match named with | some n => !spares.contains n | none => false) = true then sprRefuse s h sprArg lt
    else
      match (match named with | some n => some n | none => spareFor s h old) with
      | none => sprRefuse s h sprNoSpare lt
      | some new =>
        let w : Swap := ⟨lt, old, new, discard, false, none, 0, 0⟩
        if pageSt s .tile old = .off then commitSwap s h w false
        else sprStatus { s with swaps := s.swaps.put h (some w) } h 1 0 lt

/-- A write of SPR_CMD with GO acts while the SPR page runs; elsewhere it has no effect. -/
def sprCmd (port h : Half) (cmd : Nat) (act : State → State) (s : State) : Out :=
  mgmtWriteK s port .spr (halfIdx h) fun s =>
    let s1 := setKreg s .spr (halfIdx h) 0x040 (BitVec.ofNat 32 cmd)
    okay (if pageRuns s1 .spr (halfIdx h) then act s1 else accessErr s1 .spr (halfIdx h)) port

/-- SPR_ARG of a half. -/
def sprArgReg (s : State) (h : Half) : Word := kreg s .spr (halfIdx h) 0x044

/-- TILE_SWAP (R438). A swap of the half that is already under way refuses it with BUSY. -/
def tileSwap (s : State) (h : Half) (discard : Bool) : State :=
  let a := sprArgReg s h
  startSwap s h (fieldOf a 9 0) (if bitOf a 27 then some (fieldOf a 26 16) else none) discard

/-- TILE_SWAP. -/
def execTileSwap (port : Half) (h : Half) (discardOld : Bool) (s : State) : Out :=
  sprCmd port h (1 + 16 * b2n discardOld) (fun s =>
    if (s.swaps.get h).isSome then sprRefuse s h sprBusy (fieldOf (sprArgReg s h) 9 0) else tileSwap s h discardOld) s

/-- The window of a swap (R438): no epoch of the tile is live, no receive slot is held, no MOVE is incomplete, and no Calm is in
force. -/
def windowOpen (s : State) (h : Half) (w : Swap) : Bool :=
  let x := getTile s w.old
  !x.anyBind (fun v => v.eps.a.live || v.eps.b.live) && decide (x.rxHeld = 0) && decide (x.moves.cells = []) && !calmOn s h

/-- Both streams of a tile ask to be drained (R88, R372). -/
def drainTile (s : State) (t : Nat) : State :=
  [tileKey t false, tileKey t true].foldl (fun u k => if (u.streams.find k).isSome then onStream u k fun x =>
    if x.pkts = [] then x else { x with ask := true } else u) s

/-- SWAP_WINDOW (R439): FREEZE is set on the old tile, which wakes and is drained, and its state begins to be copied. -/
def execSwapWindow (h : Half) (s : State) : Out :=
  needHalf s h (.next (
    match s.swaps.get h with
    | none => s
    | some w =>
      if w.copying || !windowOpen s h w then s
      else
        let s1 := { s with swaps := s.swaps.put h (some { w with copying := true }) }
        drainTile (wakeTile (setFreeze (sprStatus s1 h 2 0 w.lt) (pageNo .tile w.old) true) w.old) w.old))

/-- NO_WINDOW (R438): no window within SPR_WINDOW_NS of the first held start. A window that a Calm keeps waiting is not missed
(R440). -/
def execNoWindow (h : Half) (s : State) : Out :=
  needHalf s h (.next (
    match s.swaps.get h with
    | none => s
    | some w =>
      match w.heldAt with
      | none => s
      | some f =>
        if w.copying || calmOn s h || decide (ftNs s h < f + kregFN s .spr (halfIdx h) 0x050) then s
        else abandonSwap s h sprNoWindow))

/-- The flits of a tile's copy (R439): 565,248 bytes of bulk state in flits of 128 bytes, and two flits of rim state. -/
def swapFlits : Nat := 565248 / 128 + 2

/-- The old tile sends the next flit of its copy (R439, R440), with an LST SPR_SLACK after its issue: DESIGN CHOICE (log 164), one in a cycle.
A tile that is discarded sends none, and a Calm pauses the copy. -/
def swapTick (s : State) (h : Half) : State :=
  match s.swaps.get h with
  | none => s
  | some w =>
    if !w.copying || w.discard || calmOn s h || decide (swapFlits ≤ w.sent) then s
    else
      let s1 := { s with swaps := s.swaps.put h (some { w with sent := w.sent + 1 }) }
      injectFlit s1 (Flit.fresh w.old w.new .tile w.old (lstOf (ftNs s h + kregN s .spr (halfIdx h) 0x054)) (tileOwner s w.old) []
        (.swap h w.lt))

/-- Any loaded program of a tile is held by FREEZE at an instruction boundary (R78). -/
def heldFrozen (s : State) (t : Nat) : Bool := decide ((getTile s t).prog = .none) || (getPage s (pageNo .tile t)).freeze

/-- SWAP_COMMIT (R78, R439): the copy's last flit has come and the swap commits, in a cycle that meets the conditions of R78. A Calm
pauses the copy (R440). -/
def execSwapCommit (h : Half) (s : State) : Out :=
  needHalf s h (.next (
    match s.swaps.get h with
    | none => s
    | some w =>
      if !w.copying || !windowOpen s h w || !heldFrozen s w.old || !(w.discard || decide (swapFlits ≤ w.came)) then s
      else commitSwap s h w !w.discard))

/-! ### Shadow reducers and frame banks (R435, R436) -/

/-- A shadow reducer is named for a swap (R435). -/
def startSrSwap (s : State) (h : Half) (sr : Nat) : State :=
  if !(srsOf s.cfg h).contains sr || decide (srRoleOf s sr ≠ 0) then sprRefuse s h sprArg 0
  else if s.srSwap.contains sr then sprRefuse s h sprBusy 0
  else sprStatus { s with srSwap := s.srSwap ++ [sr] } h 1 0 0

/-- SR_SWAP (R435). -/
def execSrSwap (port : Half) (h : Half) (s : State) : Out :=
  sprCmd port h 2 (fun s => startSrSwap s h (fieldOf (sprArgReg s h) 9 0)) s

/-- A frame bank is named for a swap (R436). -/
def startFrameSwap (s : State) (h : Half) (c : Nat) : State :=
  if 64 ≤ c ∨ chanHalf c ≠ h then sprRefuse s h sprArg 0
  else if s.frameSwaps.contains c then sprRefuse s h sprBusy 0
  else if s.frameSpares.get h = 0 then sprRefuse s h sprNoSpare 0
  else sprStatus { s with frameSwaps := s.frameSwaps ++ [c] } h 1 0 0

/-- FRAME_SWAP (R436). -/
def execFrameSwap (port : Half) (h : Half) (s : State) : Out :=
  sprCmd port h 3 (fun s => startFrameSwap s h (fieldOf (sprArgReg s h) 9 0)) s

/-- SR_SWAP_COMMIT (R435): a named shadow reducer that holds no group is RETIRED, and a spare of its half becomes ACTIVE; with none
left the half runs with one fewer. -/
def execSrSwapCommit (sr : Nat) (s : State) : Out :=
  if kindCount .wvSr ≤ sr then .fault .noSuchUnit
  else if s.cfg.srPages ≤ sr then .fault .absentUnit
  else if !s.srSwap.contains sr || decide (srLoad s sr ≠ 0) then .next s
  else
    let h := (kindHalf s.cfg .wvSr sr).getD .a
    let s1 := { s with srSwap := s.srSwap.filter (· ≠ sr), srRole := s.srRole.set sr 2 }
    match (srsOf s.cfg h).find? fun r => decide (srRoleOf s1 r = 1) with
    | some r => .next (sprStatus (repaired { s1 with srRole := s1.srRole.set r 0 } h) h 3 0 0)
    | none => .next (sprStatus (raiseK s1 .spr (halfIdx h) 17) h 3 0 0)

/-- FRAME_BANK_SWAP (R436): a channel that holds no frame takes a spare bank; with none left it stays on the worn one. -/
def execFrameBankSwap (ch : Nat) (s : State) : Out :=
  if 64 ≤ ch then .fault .noSuchUnit
  else if !kindFitted s.cfg .chan ch then .fault .absentUnit
  else
    let h := chanHalf ch
    if !s.frameSwaps.contains ch || !chanMayStop s ch then .next s
    else
      let s1 := { s with frameSwaps := s.frameSwaps.filter (· ≠ ch) }
      let n := s.frameSpares.get h
      if n = 0 then .next (sprStatus (raiseK s1 .spr (halfIdx h) 17) h 4 sprNoSpare 0)
      else .next (sprStatus (repaired { s1 with frameSpares := s1.frameSpares.put h (n - 1) } h) h 3 0 0)

/-! ### AUTO (R432) -/

/-- An action of AUTO leaves the queue. -/
def autoDrop (s : State) (a : Nat × Nat) : State := { s with autoQueue := s.autoQueue.erase a }

/-- A tile swap that AUTO asks for, once no other swap of the half is under way. -/
def autoSwap (s : State) (h : Half) (a : Nat × Nat) : Option State :=
  if (s.swaps.get h).isSome then none
  else
    match logicalOf s a.2 with
    | some lt => some (startSwap (autoDrop s a) h lt none false)
    | none => some (autoDrop s a)

/-- A failed lane in a direction of SPR_LANE: one more is staged in the first free place; none where both are taken or it is there. -/
def stageLane (w : Word) (base lane : Nat) : Option Word :=
  let here (lo : Nat) : Bool := bitOf w (lo + 6)
  let is (lo : Nat) : Bool := here lo && decide (fieldOf w (lo + 4) lo = lane)
  let v := w.toNat
  if is base || is (base + 8) then some w
  else if !here base then some (BitVec.ofNat 32 (v - fieldOf w (base + 5) base * 2 ^ base + (lane + 64) * 2 ^ base))
  else if !here (base + 8) then
    some (BitVec.ofNat 32 (v - fieldOf w (base + 13) (base + 8) * 2 ^ (base + 8) + (lane + 64) * 2 ^ (base + 8)))
  else none

/-- Lane remap under AUTO (R432, R437): the RTP stages the failed lane of the port's receive direction in SPR_LANE. A spare lane that
fails has none to replace it, and a third failed lane finds none: NO_SPARE. -/
def autoLane (s : State) (h : Half) (a : Nat × Nat) : State :=
  let p := a.2 / 32
  let off := 0x100 + 4 * (p % 32)
  let s1 := autoDrop s a
  match (if 17 ≤ a.2 % 32 then none else stageLane (kreg s .spr (halfIdx h) off) 16 (a.2 % 32)) with
  | some w => setKreg s1 .spr (halfIdx h) off w
  | none => raiseK s1 .spr (halfIdx h) 17

/-- The region that the RTP migrates another to (R441): DESIGN CHOICE (log 165), the first FREE region in PRN order in another channel
that serves new regions. -/
def migrateTarget (s : State) (h : Half) (prn : Nat) : Option Nat :=
  (List.range s.cfg.regions).find? fun d => feServes s h d && otherChannel s.cfg prn d && mayTake s 0 0 d

/-- The RTP issues a foreground command once the engine takes one. -/
def autoFe (s : State) (h : Half) (o : State → Out) : Option State := if feFree s h then some (stateAfter s (o s)) else none

/-- A region of a half is moved away (R441): migrated, resumed with CARRY where its copy halted, and zeroed when it is TEARDOWN. `full`:
what is done where no other channel has a FREE region. -/
def autoEmpty (s : State) (h : Half) (prn : Nat) (full : Option State) : Option State :=
  if !feFree s h then none
  else match (getRegion s prn).st with
  | .owned =>
    match migrateTarget s h prn with
    | some d => autoFe s h (execMigrate h prn d false)
    | none => full
  | .migrating =>
    if fieldOf (kreg s .memFill (halfIdx h) 0x04C) 2 0 = 3 ∧ kregN s .memFill (halfIdx h) 0x044 = prn then
      autoFe s h (execMigrate h prn (kregN s .memFill (halfIdx h) 0x048) true)
    else none
  | .teardown => if (s.fill.get h).late.any fun q => decide (q.1 = prn) then none else autoFe s h (execZero h prn false 0)
  | _ => none

/-- The cycle is an epoch boundary of a partition in a half (R441): an epoch of one of its sessions retires in it while none is OPEN
in the half. -/
def epochBoundary (s : State) (h : Half) (pid : Nat) : Bool :=
  decide (s.retireCyc.find pid = some s.cyc) &&
    s.sessions.cells.all fun c => !(decide (c.2.pid = pid) && decide (c.2.home = h) &&
      (decide (c.2.eps.a.st = .opened) || decide (c.2.eps.b.st = .opened)))

/-- Row repair under AUTO (R441): the region is migrated away first, and the span repaired once it is FREE; in place at an epoch
boundary where there is nowhere to migrate it. -/
def autoRow (s : State) (h : Half) (a : Nat × Nat) : Option State :=
  let u := a.2 % 2 ^ 40
  let prn := u / 1024
  let repair : Option State := (autoFe s h (execRowRepair h prn (u % 1024) (a.2 / 2 ^ 40))).map fun t => autoDrop t a
  match (getRegion s prn).st with
  | .free => repair
  | .retired => some (autoDrop s a)
  | .owned => autoEmpty s h prn (if epochBoundary s h (getRegion s prn).pid then repair else none)
  | _ => autoEmpty s h prn none

/-- Lane erasure under AUTO (R432, R441): the pin is erased at once; its channel is set DRAINING, its regions are moved away, and it is
retired. -/
def autoPin (s : State) (h : Half) (a : Nat × Nat) : Option State :=
  let pseudo := a.2 / 32 % 2
  let kc := a.2 / 64
  let k := kc / 32
  let c := kc % 32
  let x := getCh s k c
  let prn := c * s.cfg.stackCount + k
  if x.st = .retired then some (autoDrop s a)
  else if (if pseudo = 0 then x.pin0 else x.pin1) = none then autoFe s h (execLaneErase h prn (a.2 % 32) pseudo)
  else if x.st = .inService then some (putCh s k c { x with st := .draining })
  else
    match (channelRegions s.cfg k c).findSome? fun r => autoEmpty s h r none with
    | some t => some t
    | none => if channelUsed s k c || decide (waiting s (arbKey .arbStack k c) ≠ 0) then none else autoFe s h (execChRetire h prn)

/-- What the RTP of its half does for a queued action in this cycle; none where it must wait. -/
def autoStep (s : State) (a : Nat × Nat) : Option State :=
  let h := wearHalf s a.1 a.2
  if !(s.rtp.get h).booted then none
  else
    match a.1 with
    | 5 => some (startSrSwap (autoDrop s a) h a.2)
    | 6 => some (startFrameSwap (autoDrop s a) h a.2)
    | 7 => some (autoLane s h a)
    | 8 => autoRow s h a
    | 9 => autoPin s h a
    | _ => autoSwap s h a

/-- The RTPs go on with the oldest action that AUTO has queued and that can go on (R319, R432). -/
def autoTick (s : State) : State := (s.autoQueue.findSome? (autoStep s)).getD s

/-! ### The RTP's load (R449) -/

/-- RTP_LOAD (R449): shedding begins at RTP_SHED and lasts until the load falls below RTP_SHED less 100. -/
def execRtpLoad (h : Half) (load : Nat) (s : State) : Out :=
  needHalf s h (.next (
    let shed := kregN s .rtp (halfIdx h) 0x058
    onRtp s h fun r => { r with
      load := load
      deferring := decide (shed ≤ load) || (r.deferring && decide (shed ≤ load + 100)) }))

end Sys2Proof.Machine
end

