-- ==== Sys2Proof/Machine/CalmRecs.lean ====
section
/-! DEFINITION. What a Calm and a wait-for capture record: the wait-for registers of a tile (R425), the records of the dump
(R420), the wait-for records (R426), and the graph that a hang report is assembled from (R427, R428). -/

namespace Sys2Proof.Machine

/-! ### The wait-for registers (R425) -/

/-- What a tile waits for: KIND, semaphore, PRODUCER, the producer's number and the count needed. -/
structure WaitInfo where
  kind : Nat
  sem : Nat
  producer : Nat
  index : Nat
  needed : Nat
deriving DecidableEq, Repr

/-- The tile's oldest incomplete MOVE, by its place among the sixteen. -/
def Tile.oldestMove (x : Tile) : Option (Nat × Move) :=
  x.moves.cells.foldl (fun o c => match o with
    | some b => if c.2.order < b.2.order then some c else some b
    | none => some c) none

/-- The MOVE that a wait is for: one whose ranges hold the instruction at PC, else the oldest. -/
def blockingMove (s : State) (t : Nat) : Option (Nat × Move) :=
  let x := getTile s t
  let hit := if heldAt s t = some 0x07 then
      x.moves.cells.find? fun c => (x.touches x.ins).any fun r => (c.2.ranges t).any fun q => overlaps r.1 r.2 q.1 q.2
    else none
  match hit with
  | some c => some c
  | none => x.oldestMove

/-- What will increment a semaphore of a tile: an incomplete MOVE that names it, or a binding whose START or ARRIVE it is. -/
def Tile.producerOf (x : Tile) (n : Nat) : Nat × Nat :=
  match x.moves.cells.find? fun c => decide (c.2.sem = some n) with
  | some c => (2, c.1)
  | none =>
    match (List.range 16).find? fun b =>
      (x.bind b).valid && (decide ((x.bind b).semStart = n) || decide ((x.bind b).semArrive = n)) with
    | some b => (1, b)
    | none => (0, 0)

/-- The wait of a tile (R425). -/
def waitInfo (s : State) (t : Nat) : WaitInfo :=
  let x := getTile s t
  match x.wait with
  | .sem n count _ => ⟨1, n, (x.producerOf n).1, (x.producerOf n).2, count⟩
  | .ft _ => ⟨3, 0, 0, 0, 0⟩
  | .fence _ => ⟨4, 0, 0, 0, 0⟩
  | .none =>
    if waitsForMove s t then
      match blockingMove s t with
      | some c => ⟨2, 0, 2, c.1, 0⟩
      | none => ⟨2, 0, 0, 0, 0⟩
    else ⟨0, 0, 0, 0, 0⟩

/-- TILE_WAIT. -/
def tileWait (s : State) (t : Nat) : Nat :=
  let w := waitInfo s t
  w.kind % 16 + 2 ^ 4 * (w.sem % 64) + 2 ^ 10 * (w.producer % 4) + 2 ^ 12 * (w.index % 16) + 2 ^ 16 * (w.needed % 65536)

/-- TILE_WAIT_SINCE: all ones with KIND NONE. -/
def tileWaitSince (s : State) (t : Nat) : Nat :=
  if (waitInfo s t).kind = 0 then allOnes64 else (getTile s t).waitFt

/-! ### Requests at the arbiters -/

/-- The age of a request in cycles (R253, R255). -/
def ageOf (s : State) (pg : Nat) (r : Req) : Nat := s.cyc - max r.since (s.arbOn.get 0 pg)

/-- The oldest request of a target. -/
def oldestReq (s : State) (pg : Nat) (l : List Req) : Option Req :=
  l.foldl (fun o r => match o with
    | some b => if ageOf s pg b < ageOf s pg r then some r else some b
    | none => some r) none

/-- The targets of a half at which a request waits: page, row, number, target and requests. -/
def busyTargets (s : State) (h : Half) : List (Nat × PageKind × Nat × Nat × List Req) :=
  s.arbs.cells.filterMap fun c =>
    match pageOf (c.1 / 32) with
    | some (k, i) => if kindHalf s.cfg k i = some h ∧ c.2.reqs ≠ [] then some (c.1 / 32, k, i, c.1 % 32, c.2.reqs) else none
    | none => none

/-- A request is of a flit of a MOVE: at a stack channel, or before a bridge link. -/
def Req.ofMove (r : Req) (t o : Nat) : Bool :=
  let mine : MemUse → Bool
    | .move u n _ => decide (u = t) && decide (n = o)
    | _ => false
  match r.what with
  | .mem l => l.any fun q => mine q.1.use
  | .hop f => match f.what with
    | .mem a _ => mine a.use
    | .copy u n _ => decide (u = t) && decide (n = o)
    | .back u n _ => decide (u = t) && decide (n = o)
    | _ => false
  | _ => false

/-- The target at which a MOVE of a tile waits: KIND, number of the page, target and age in cycles. -/
def moveTarget (s : State) (t m : Nat) : Option (Nat × Nat × Nat × Nat) :=
  let o := ((getTile s t).moves.find m).elim 0 (·.order)
  s.arbs.cells.findSome? fun c =>
    match pageOf (c.1 / 32) with
    | some (k, i) => (c.2.reqs.find? fun r => r.ofMove t o).map fun r => (arbKind k, i, c.1 % 32, ageOf s (c.1 / 32) r)
    | none => none

/-! ### The records of the dump (R420) -/

/-- A tile record. -/
def tileRecord (s : State) (t : Nat) (cut : Nat × Nat × Nat) : List Byte :=
  let x := getTile s t
  let log := match logicalOf s t with
    | some lt => lt + 2 ^ 15
    | none => 0
  let live := (List.range 16).foldl (fun n b =>
    n + 2 ^ (2 * b) * (b2n ((x.bind b).ep 0).live + 2 * b2n ((x.bind b).ep 1).live)) 0
  leBytes 2 log ++ leBytes 2 t ++ leBytes 1 (tileOwner s t) ++ leBytes 1 (progCode s t) ++ leBytes 1 (lullLevel x) ++
    leBytes 1 cut.1 ++ leBytes 2 (x.pc % 1024) ++ leBytes 1 x.moves.cells.length ++ leBytes 1 x.rxHeld ++ leBytes 4 live ++
    leBytes 4 cut.2.1 ++ leBytes 8 cut.2.2 ++ leBytes 4 0 ++ (List.range 64).flatMap fun n => leBytes 2 (x.sem n)

/-- Contributors that still owe something in an epoch. -/
def owing (x : Session) (e : Epoch) : List (Nat × Contrib) :=
  if e.st = .opened then (x.enabled e.bank).filter fun c => !e.excluded.contains c.1 && x.stillOwes e c.1 c.2 else []

/-- The timers that an epoch has pending (R170, R171, R174, R187, R193). -/
def timersOf (s : State) (x : Session) (e : Epoch) : List Nat :=
  let start := if e.st = .armed then (if x.isRoot then [e.base - x.marginNs] else [e.base - x.guardNs]) else []
  let arrivals := (owing x e).flatMap fun c =>
    let at_ := x.expected e c.2
    if e.waiting.contains c.1 then [at_ + x.deadlineNs + x.waitMaxNs]
    else if e.missing.contains c.1 then []
    else if e.reminded.contains c.1 then [at_ + x.deadlineNs] else [at_]
  let orphan := if awaitsOutcome x e then [e.doneAt + 100000 * e.doneCount, e.doneAt + kregN s .ses x.page 0x0C4] else []
  start ++ arrivals ++ orphan

/-- A session record. -/
def sessionRecord (s : State) (sid : Nat) : List Byte :=
  let x := getSes s sid
  let one (e : Epoch) : List Byte := leBytes 4 e.issued ++ leBytes 4 e.returned ++ leBytes 4 (e.issued - e.returned)
  let next := (timersOf s x x.eps.a ++ timersOf s x x.eps.b).foldl min allOnes64
  leBytes 2 (sid % 4096) ++ leBytes 1 x.pid ++ leBytes 1 (sesCode x.st) ++ leBytes 4 x.epoch ++ leBytes 1 (epCode x.eps.a.st) ++
    leBytes 1 (epCode x.eps.b.st) ++ leBytes 6 0 ++ one x.eps.a ++ one x.eps.b ++ leBytes 4 (owing x x.eps.a).length ++
    leBytes 4 (owing x x.eps.b).length ++ leBytes 8 next ++ leBytes 8 0

/-- The sessions of a half that are ACTIVE, DRAINING or FROZEN. -/
def runningSessions (s : State) (h : Half) : List Nat :=
  (sessionsOf s h).filter fun sid =>
    let x := getSes s sid
    decide (x.st = .active) || decide (x.st = .draining) || decide (x.st = .frozen)

/-- An arbiter record. -/
def arbRecord (s : State) (q : Nat × PageKind × Nat × Nat × List Req) : List Byte :=
  let old := oldestReq s q.1 q.2.2.2.2
  let susp := (q.2.2.2.2.filter (·.susp)).length
  leBytes 2 (q.1 % 16384) ++ leBytes 1 q.2.2.2.1 ++
    leBytes 1 (b2n (arbFrozen s q.2.1 q.2.2.1 q.2.2.2.1) + 2 * (susp % 16)) ++ leBytes 2 q.2.2.2.2.length ++
    leBytes 2 ((old.map (·.src)).getD 0) ++ leBytes 4 ((old.map (ageOf s q.1)).getD 0) ++ leBytes 20 0

/-- A channel record or an UNSENT record. -/
def CalmRec.bytes (r : CalmRec) : List Byte :=
  leBytes 8 r.ft ++ leBytes 8 r.send ++ leBytes 1 r.port ++ leBytes 1 (r.kind % 16 + 16 * (r.cls % 16)) ++ leBytes 2 r.handle ++
    leBytes 2 (r.sid % 4096) ++ leBytes 2 (r.cidx % 8192) ++ leBytes 4 r.epoch ++ leBytes 2 r.part ++ leBytes 2 r.seg

/-- The UNSENT record of a cell that waits at a port. -/
def unsentOf (p : Nat) (c : Cell) : CalmRec :=
  { ft := c.queued, send := allOnes64, port := p, kind := c.kind, cls := c.cls, handle := c.handle, sid := c.sid, cidx := c.cidx,
    epoch := c.epoch, part := if c.kind = 3 then c.msg else c.part, seg := c.seg }

/-- The run cells that wait at the egress of a half's ports. -/
def unsentCells (s : State) (h : Half) : List CalmRec :=
  ((List.range 64).filter fun p => decide (portHalf p = h)).flatMap fun p =>
    ((portCells s p).filter fun c => decide (c.cls ≠ 3)).map (unsentOf p)

/-- The dump but for its digest: the 128 B header and the sections (R420). -/
def dumpWith (s : State) (h : Half) (digest : List Byte) : List Byte :=
  let c := s.calm.get h
  let flags := b2n c.block + 2 * b2n c.ctrlFull + 4 * b2n (decide (0 < c.openCredits))
  leBytes 4 0x434C4D31 ++ leBytes 1 1 ++ leBytes 1 (halfIdx h) ++ leBytes 2 flags ++ leBytes 8 c.t ++ leBytes 8 c.e ++
    leBytes 8 (c.quiet.getD allOnes64) ++ leBytes 4 c.plan ++ leBytes 4 (kregN s .calm (halfIdx h) 0x068) ++
    leBytes 4 c.tileRecs.length ++ leBytes 4 c.sesRecs.length ++ leBytes 4 c.inCut.length ++ leBytes 4 c.outside.length ++
    leBytes 4 c.unsent.length ++ leBytes 4 c.arbRecs.length ++ leBytes 4 c.openCredits ++ leBytes 12 0 ++ digest ++
    c.tileRecs.flatten ++ c.sesRecs.flatten ++ c.inCut.flatMap CalmRec.bytes ++ c.outside.flatMap CalmRec.bytes ++
    c.unsent.flatMap CalmRec.bytes ++ c.arbRecs.flatten

/-- The Calm dump of a half (R419, R420): the digest is taken over the dump with its own field as zero. -/
def dumpBytes (s : State) (h : Half) : List Byte :=
  dumpWith s h (leBytes 48 (Config.sha384 (dumpWith s h (leBytes 48 0))))

/-! ### Wait-for records (R426) -/

/-- Wait-for records that a half's store holds. -/
def wfRoom : Nat := 65536

/-- Fill the AWAITED field to its 24 B. -/
def awaited (l : List Byte) : List Byte := (l ++ List.replicate 24 0).take 24

/-- The parity of a binding's session that a wait for it is drawn to: the older live one, parity 0 where none is live. -/
def Binding.liveParity (v : Binding) : Nat :=
  if v.eps.b.live && (!v.eps.a.live || decide (v.eps.b.epoch < v.eps.a.epoch)) then 1 else 0

/-- The records of one tile. -/
def tileWaits (s : State) (t : Nat) : List WfRec :=
  match logicalOf s t with
  | none => []
  | some lt =>
    let x := getTile s t
    let w := waitInfo s t
    let pid := tileOwner s t
    let mk (kind : Nat) (l : List Byte) (dst : WfNode) : WfRec :=
      ⟨kind, pid, lt + 2 ^ 16 * t, 0, tileWaitSince s t, awaited l, .tile lt, dst, 0, none⟩
    let onMove (m : Nat) : Nat × Nat × Nat × Nat := (moveTarget s t m).getD (0, 0, 0, 0)
    let node (q : Nat × Nat × Nat × Nat) : WfNode := .target q.1 q.2.1 q.2.2.1
    let moveRec (c : Nat × Move) : WfRec :=
      let q := onMove c.1
      mk 2 (leBytes 1 c.2.op ++ leBytes 1 q.1 ++ leBytes 2 q.2.1 ++ leBytes 1 q.2.2.1 ++ leBytes 3 0 ++ leBytes 4 q.2.2.2) (node q)
    match x.wait with
    | .sem n count _ =>
      let v := x.bind w.index
      let dst : WfNode := match w.producer with
        | 1 => .epoch v.sid v.liveParity
        | 2 => node (onMove w.index)
        | _ => .group pid
      [mk 1 (leBytes 1 n ++ leBytes 1 w.producer ++ leBytes 1 w.index ++ leBytes 1 0 ++ leBytes 2 (x.sem n) ++ leBytes 2 count ++
        leBytes 2 (if w.producer = 1 then v.sid else 0)) dst]
    | .ft target => [mk 7 (leBytes 8 target) .time]
    | .fence mask => if mask.testBit 2 then (x.oldestMove.map moveRec).toList else []
    | .none => if waitsForMove s t then ((blockingMove s t).map moveRec).toList else []

/-- The records of one epoch. -/
def epochWaits (s : State) (sid par : Nat) : List WfRec :=
  let x := getSes s sid
  let e := x.ep par
  let mk (kind : Nat) (l : List Byte) (dst : WfNode) (type : Nat) (far : Option (Nat × Nat × Nat)) : WfRec :=
    ⟨kind, x.pid, sid + 2 ^ 12 * par, e.num, e.since, awaited l, .epoch sid par, dst, type, far⟩
  let owed := (owing x e).map fun c =>
    let n := (x.partList.map fun p => ((x.owedSegs e.fmt c.2 p).filter fun seg => !fateIn (e.fate c.1 p seg)).length).foldl (· + ·) 0
    mk 3 (leBytes 2 c.1 ++ leBytes 1 c.2.type ++ leBytes 1 0 ++ leBytes 4 c.2.pfa ++ leBytes 2 c.2.peerSid ++ leBytes 2 0 ++ leBytes 4 n)
      (.contrib sid c.1) c.2.type (if c.2.isFarhel then some (c.2.pfa, c.2.peerSid, e.num) else none)
  let outcome := if e.st = .waitOutcome ∨ e.st = .uncommitted then
      [mk 4 (leBytes 4 x.parentPfa ++ leBytes 2 x.parentSid) (.remote x.parentPfa x.parentSid e.num) 0 none]
    else []
  let close := if e.st = .closing then
      ((x.partList.filter fun p => !tileReported s x par p).map fun p =>
        mk 5 (leBytes 1 0 ++ leBytes 1 0 ++ leBytes 2 (x.tileBase + p)) (.tile (x.tileBase + p)) 0 none) ++
      (((x.outSegs.filter fun o => decide (o.epoch = e.num) && o.down).flatMap (·.dests)).eraseDups.filterMap fun c =>
        ((x.enabled e.bank).find? fun q => decide (q.1 = c)).map fun q =>
          let n := (x.outSegs.filter fun o => decide (o.epoch = e.num) && o.down && o.dests.contains c).length
          mk 5 (leBytes 1 1 ++ leBytes 1 0 ++ leBytes 2 c ++ leBytes 4 q.2.pfa ++ leBytes 4 n) (.contrib sid c) q.2.type
            (if q.2.isFarhel then some (q.2.pfa, q.2.peerSid, e.num) else none))
    else []
  owed ++ outcome ++ close

/-- The node of a requester: the tile of its source ID, or the tiles of its partition. -/
def sourceNode (s : State) (src pid : Nat) : WfNode :=
  if src < 1088 then
    match logicalOf s src with
    | some lt => .tile lt
    | none => .group pid
  else .group pid

/-- The records of one arbitrated target: a request whose age has reached ARB_AGE_LIMIT. -/
def arbWaits (s : State) (h : Half) (q : Nat × PageKind × Nat × Nat × List Req) : List WfRec :=
  let (pg, k, i, t, reqs) := q
  let old := oldestReq s pg reqs
  (reqs.filter fun r => decide (kregN s k i 0x04C ≤ ageOf s pg r)).map fun r =>
    let age := ageOf s pg r
    ⟨6, r.pid, r.src % 4096, 0, nsOf (countOf s h - cyc2304 age),
      awaited (leBytes 1 (arbKind k) ++ leBytes 1 0 ++ leBytes 2 i ++ leBytes 1 t ++ leBytes 1 0 ++ leBytes 2 ((old.map (·.src)).getD 0) ++
        leBytes 4 ((old.map (ageOf s pg)).getD 0) ++ leBytes 4 reqs.length),
      sourceNode s r.src r.pid, .target (arbKind k) i t, 0, none⟩

/-- Every wait of a half: of its tiles in physical order, of its sessions' epochs, and at its arbiters. -/
def allWaits (s : State) (h : Half) : List WfRec :=
  (tilesUp s h).flatMap (tileWaits s) ++
    (sessionsOf s h).flatMap (fun sid => epochWaits s sid 0 ++ epochWaits s sid 1) ++
    (busyTargets s h).flatMap (arbWaits s h)

/-- A wait-for capture (R426) replaces the half's store; records that find it full are counted. -/
def wfCapture (s : State) (h : Half) (cut : Bool) (ft : Nat) : State :=
  let l := allWaits s h
  let lost := l.length - wfRoom
  let s1 := onCalm s h fun c => { c with wfCut := cut, wfFt := ft, wf := l.take wfRoom }
  if lost = 0 then s1 else raiseK (satReg s1 .calm (halfIdx h) 0x08C lost) .calm (halfIdx h) 18

/-- A wait-for record as it is read. -/
def WfRec.bytes (r : WfRec) : List Byte :=
  leBytes 1 r.kind ++ leBytes 1 r.pid ++ leBytes 2 0 ++ leBytes 4 r.waiter ++ leBytes 4 r.epoch ++ leBytes 4 0 ++ leBytes 8 r.since ++ r.awaited

/-- The wait-for store of a half as window target 0x0A reads it: the 64 B header and the records (R426). -/
def wfBytes (s : State) (h : Half) : List Byte :=
  let c := s.calm.get h
  leBytes 4 0x57465231 ++ leBytes 1 (halfIdx h) ++ leBytes 1 (b2n c.wfCut) ++ leBytes 2 0 ++ leBytes 8 c.wfFt ++
    leBytes 4 c.wf.length ++ leBytes 4 (kregN s .calm (halfIdx h) 0x08C) ++ leBytes 40 0 ++ c.wf.flatMap WfRec.bytes

/-! ### The graph (R427, R428) -/

/-- The edges of the graph: each wait, and from each FARHEL contributor to its epoch at the other block. -/
def wfEdges (l : List WfRec) : List (WfNode × WfNode) :=
  (l.flatMap fun r =>
    (r.src, r.dst) :: match r.far with
      | some q => [(r.dst, .remote q.1 q.2.1 q.2.2)]
      | none => []).eraseDups

/-- The nodes of the graph. -/
def wfNodes (es : List (WfNode × WfNode)) : List WfNode := (es.flatMap fun e => [e.1, e.2]).eraseDups

/-- Nodes reached from a set by at most n edges. -/
def wfReach (es : List (WfNode × WfNode)) : Nat → List WfNode → List WfNode
  | 0, l => l
  | n + 1, l =>
    let new := ((es.filter fun e => l.contains e.1 && !l.contains e.2).map (·.2)).eraseDups
    if new = [] then l else wfReach es n (l ++ new)

/-- The nodes reached from a node by one edge or more. -/
def wfFrom (es : List (WfNode × WfNode)) (nodes : Nat) (a : WfNode) : List WfNode :=
  wfReach es nodes (((es.filter fun e => decide (e.1 = a)).map (·.2)).eraseDups)

/-- The strongly connected components with more than one node. -/
def wfCycles (es : List (WfNode × WfNode)) (ns : List WfNode) : List (List WfNode) :=
  let r := ns.map fun a => (a, wfFrom es ns.length a)
  let reaches (a b : WfNode) : Bool := match r.find? fun q => decide (q.1 = a) with
    | some q => q.2.contains b
    | none => false
  ((ns.map fun a => ns.filter fun b => decide (b = a) || (reaches a b && reaches b a)).eraseDups).filter fun l => decide (1 < l.length)

/-- The nodes from which one of a set is reached, the set's own left out. -/
def wfWaiters (es : List (WfNode × WfNode)) (ns set : List WfNode) : Nat :=
  (ns.filter fun a => !set.contains a && (wfFrom es ns.length a).any set.contains).length

/-- A sink (R427): time, a contributor that is an accelerator or a leaf, and an arbitrated target. -/
def wfIsSink (l : List WfRec) : WfNode → Bool
  | .time => true
  | .target _ _ _ => true
  | .contrib sid c => l.any fun r => decide (r.dst = .contrib sid c) && decide (r.type ≠ 2)
  | _ => false

/-- The word that encodes a node (R428). -/
def WfNode.word : WfNode → Nat
  | .tile lt => 2 ^ 28 + lt % 1024
  | .epoch sid par => 2 * 2 ^ 28 + sid % 4096 + 2 ^ 12 * (par % 2)
  | .contrib sid c => 3 * 2 ^ 28 + sid % 4096 + 2 ^ 12 * (c % 8192)
  | .target k i t => 4 * 2 ^ 28 + 2 ^ 24 * (k % 16) + 2 ^ 8 * (i % 65536) + t % 256
  | .time => 5 * 2 ^ 28
  | .group pid => 6 * 2 ^ 28 + pid % 64
  | .remote _ sid n => 2 * 2 ^ 28 + sid % 4096 + 2 ^ 12 * (n % 2)

/-- The partition on whose behalf a node stands: that of a record that names it. -/
def wfPid (l : List WfRec) (a : WfNode) : Nat :=
  match l.find? fun r => decide (r.src = a) || decide (r.dst = a) || decide (r.far.map (fun q => WfNode.remote q.1 q.2.1 q.2.2) = some a) with
  | some r => r.pid
  | none => 0

/-- One 24 B entry of a hang report. -/
def wfEntry (l : List WfRec) (kind cyc waiters : Nat) (a : WfNode) : List Byte :=
  let far : Nat × Nat × Nat := match a with
    | .remote pfa sid epoch => (pfa, sid, epoch)
    | _ => (0, 0, 0)
  leBytes 1 kind ++ leBytes 1 (wfPid l a) ++ leBytes 2 cyc ++ leBytes 4 a.word ++ leBytes 4 far.1 ++ leBytes 2 far.2.1 ++ leBytes 2 0 ++
    leBytes 4 far.2.2 ++ leBytes 4 waiters

/-- Put a pair before the first pair of a list that has fewer waiters: most waiters first, in order of arrival among equals. -/
def insertWaiters {α : Type} (x : Nat × α) : List (Nat × α) → List (Nat × α)
  | [] => [x]
  | y :: r => if y.1 < x.1 then x :: y :: r else y :: insertWaiters x r

/-- Most waiters first. -/
def byWaiters {α : Type} (l : List (Nat × α)) : List (Nat × α) := l.foldl (fun u x => insertWaiters x u) []

/-- A hang report: the counts of nodes, edges, cycles, frontier entries and sinks, and the entries. -/
structure HangGraph where
  nodes : Nat
  edges : Nat
  cycles : Nat
  frontier : Nat
  sinks : Nat
  entries : List (List Byte)
deriving DecidableEq, Repr

/-- Assemble the graph of a store (R427): cycle members first, then sinks and frontier by waiters. -/
def hangGraph (l : List WfRec) : HangGraph :=
  let es := wfEdges l
  let ns := wfNodes es
  let cycles := byWaiters ((wfCycles es ns).map fun c => (wfWaiters es ns c, c))
  let isFar (a : WfNode) : Bool := match a with
    | .remote _ _ _ => true
    | _ => false
  let sinks := ns.filter (wfIsSink l)
  let far := ns.filter isFar
  let ends := byWaiters ((ns.filter fun a => wfIsSink l a || isFar a).map fun a => (wfWaiters es ns [a], a))
  let first := cycles.zipIdx.flatMap fun c => c.1.2.map fun a => wfEntry l 1 (c.2 + 1) c.1.1 a
  let last := ends.map fun q => wfEntry l (if isFar q.2 then 3 else 2) 0 q.1 q.2
  ⟨ns.length, es.length, cycles.length, far.length, sinks.length, first ++ last⟩

end Sys2Proof.Machine
end

