-- ==== Sys2Proof/Machine/Calm.lean ====
section
/-! DEFINITION. The Calm (chapter 19): how it begins, what its capture ends with, how it is resumed or abandoned, and hang reports:
CALM_ACTION, CAPTURE_END, MEM_QUIET, DUMP_SEAL, CALM_RESUME_CMD, CALM_ABANDON_CMD, CALM_RESUME, CALM_ABANDON, WF_TAKE,
WF_ASSEMBLE, HANG_REPORT. -/

namespace Sys2Proof.Machine

/-! ### The cut (R409 to R413) -/

/-- The capture window of a plan in ns (R410). -/
def captureNs (plan : Nat) : Nat := 1000 * (if bitsOf plan 15 8 = 0 then 20 else bitsOf plan 15 8)

/-- The Calm takes effect in one half (R412): the cut's wait-for capture, the waits of its tiles and the cells that its ports have
not sent are kept, and every stream says STOP. -/
def beginCalm (s : State) (h : Half) (t plan : Nat) (block : Bool) : State :=
  let cuts := (tilesUp s h).foldl (fun (u : Tbl (Nat × Nat × Nat)) k => u.set k (stallCode s k, tileWait s k, tileWaitSince s k)) .empty
  let unsent := unsentCells s h
  let resume := bitsOf plan 31 16
  let s1 := wfCapture s h true t
  let s2 := onCalm s1 h fun c => { c with
    st := .capture, t := t, e := t + captureNs plan, plan := plan, block := block, quiet := none, dumped := false, ctrlFull := false,
    openCredits := 0, inCut := [], outside := [], unsent := unsent,
    cmd := if resume = 0 then none else some (1, t + 1000 * resume), cutWaits := cuts, tileRecs := [], sesRecs := [], arbRecs := [],
    assemble := c.assemble || plan.testBit 1, late := false }
  calmPackets (flagParts (incReg s2 .calm (halfIdx h) 0x068 1) 4) h 0 t plan

/-- The halves that a Calm of one half stops (R409): of a Calm of both, those that are out of reset. -/
def calmScope (s : State) (h : Half) (plan : Nat) : List Half :=
  if plan.testBit 0 && s.cfg.halfB && !inSplit s then [Half.a, .b].filter fun g => s.ready.get g else [h]

/-- A CALM action fires (R412): on a page that is not ON, or while a Calm is in force, it does nothing and is counted. -/
def fireCalm (s : State) (e : Entry) : State :=
  match pageOf e.page with
  | some (.calm, i) =>
    let h := halfOf i
    let scope := calmScope s h e.arg
    if !pageIsOn s .calm i || scope.any (calmOn s) then raiseK (satReg s .calm i 0x080 1) .calm i 19
    else scope.foldl (fun u g => beginCalm u g (e.due.getD 0) e.arg (decide (scope.length = 2))) s
  | _ => s

/-- CALM_ACTION (R59, R412). -/
def execCalmAction (h : Half) (entry : Nat) (s : State) : Out :=
  schedOut s h entry actCalm (fun _ => true) fun s e => fireCalm s e

/-! ### The capture end and the dump (R415 to R420) -/

/-- Credits that the session engine of a half issued before T and whose cells have not arrived (R417). -/
def openCreditsOf (s : State) (h : Half) (t : Nat) : Nat :=
  (s.tiles.cells.map fun c => (c.2.slots.cells.filter fun q =>
    decide (q.2.st = .reserved) && decide (q.2.issued < t) && decide ((getSes s q.2.sid).home = h)).length).foldl (· + ·) 0

/-- The capture ends (R417, R419): open credits are counted, and the dump's records are taken. -/
def endCapture (s : State) (h : Half) : State :=
  let c := s.calm.get h
  if c.st ≠ .capture then s
  else
    let n := openCreditsOf s h c.t
    let tiles := (tilesUp s h).map fun t => tileRecord s t ((c.cutWaits.find t).getD (0x33, 0, allOnes64))
    let ses := (runningSessions s h).map (sessionRecord s)
    let arb := (busyTargets s h).map (arbRecord s)
    let s1 := onCalm s h fun c => { c with st := .stopped, openCredits := n, tileRecs := tiles, sesRecs := ses, arbRecs := arb }
    if n = 0 then s1 else raiseK s1 .calm (halfIdx h) 17

/-- E has come. -/
def captureOver (s : State) (h : Half) : Bool := decide ((s.calm.get h).e * 2304 ≤ countOf s h)

/-- CAPTURE_END (R417). -/
def execCaptureEnd (h : Half) (s : State) : Out :=
  needHalf s h (.next (if captureOver s h then endCapture s h else s))

/-- A granted request at a stack channel has not completed: a burst has begun, or a channel holds an entry. -/
def stackBusy (s : State) (h : Half) : Bool :=
  (s.arbs.cells.any fun c =>
    match pageOf (c.1 / 32) with
    | some (.arbStack, i) => decide (stackHalf i = h) && c.2.reqs.any fun r => decide (0 < r.done)
    | _ => false) || s.entries.cells.any fun c => decide (stackHalf (c.1 / 32) = h) && decide (c.2 ≠ [])

/-- MEM_QUIET (R413): the last granted stack request has completed. -/
def execMemQuiet (h : Half) (s : State) : Out :=
  needHalf s h (.next (
    if calmOn s h && (s.calm.get h).quiet.isNone && !stackBusy s h then onCalm s h fun c => { c with quiet := some (ftOrOnes s h) }
    else s))

/-- DUMP_SEAL (R419): after E and MEM_QUIET the RTP seals the dump. -/
def execDumpSeal (h : Half) (s : State) : Out :=
  needHalf s h (.next (
    let c := s.calm.get h
    if c.t ≠ allOnes64 ∧ c.st ≠ .capture ∧ c.quiet.isSome = true ∧ c.dumped = false ∧ (s.rtp.get h).booted = true then
      onCalm s h fun c => { c with dumped := true }
    else s))

/-! ### The command that ends a Calm (R421) -/

/-- Why a command is refused, the first reason of R421 that holds. -/
def calmRefusal (s : State) (h : Half) (kind ft : Nat) : Option Nat :=
  let c := s.calm.get h
  let soon := ftNs s h + ftuLead s h
  if !calmOn s h then some 1
  else if ft < c.e then some 2
  else if ft < soon then some 3
  else if kind ≠ 1 ∧ kind ≠ 2 then some 4
  else
    match c.cmd with
    | some (_, f) => if f < soon then some 5 else none
    | none => none

/-- GO is written to CALM_CMD with a kind (R421). On a block Calm either half's page takes the command for both. -/
def calmCommand (s : State) (h : Half) (kind : Nat) : State :=
  let i := halfIdx h
  let ft := kreg64 s .calm i 0x048
  match calmRefusal s h kind ft with
  | some r => accessErr (raiseK (onCalm s h fun c => { c with lastRefusal := r }) .calm i 20) .calm i
  | none =>
    let set (u : State) (g : Half) : State := onCalm u g fun c => { c with cmd := some (kind, ft) }
    let s1 := set s h
    let o := otherHalf h
    if (s.calm.get h).block && calmOn s o && (s.calm.get o).block then set s1 o else s1

/-- A management write of CALM_CMD with GO. -/
def calmCmd (port h : Half) (kind : Nat) (s : State) : Out :=
  mgmtWriteK s port .calm (halfIdx h) fun s =>
    okay (calmCommand (setKreg s .calm (halfIdx h) 0x044 (BitVec.ofNat 32 kind)) h kind) port

/-- CALM_RESUME_CMD (R421). -/
def execCalmResumeCmd (port : Half) (h : Half) (s : State) : Out := calmCmd port h 1 s

/-- CALM_ABANDON_CMD (R421). -/
def execCalmAbandonCmd (port : Half) (h : Half) (s : State) : Out := calmCmd port h 2 s

/-! ### What both ends do -/

/-- The message of a held command. -/
def heldMsg : Instr → Option CtrlIn
  | .armReq m _ => some m
  | .arm m _ => some m
  | .armAck m _ => some m
  | .commit m _ _ => some m
  | .disarm m _ _ _ => some m
  | .grant m _ _ => some m
  | .nack m _ _ => some m
  | .done m _ _ _ _ _ _ _ _ => some m
  | .outcome m _ _ _ _ _ _ _ => some m
  | _ => none

/-- A control message that a Calm held is acted on. -/
def actMessage (s : State) : Instr → State
  | .armReq m ft => ctrlTake s m (.contrib m.cidx) (actArmReq m ft)
  | .arm m ft => ctrlTake s m .parent (actArmMsg m ft)
  | .armAck m status => ctrlTake s m (.contrib m.cidx) (actArmAck m status)
  | .commit m ft viaRelay => ctrlTake s m (if viaRelay then .relay else .parent) (actCommit m ft)
  | .disarm m ft status viaRelay => ctrlTake s m (if viaRelay then .relay else .parent) (actDisarm m ft status)
  | .grant m fromParent credits => ctrlTake s m (if fromParent then .parent else .contrib m.cidx) (actGrant m fromParent credits)
  | .nack m ⟨fromParent, handle⟩ cause =>
    ctrlTake s m (if fromParent then .parent else .contrib m.cidx) (actNack m fromParent handle cause)
  | .done m _ status reason ranges more total narrow lag =>
    ctrlTake s m (.contrib m.cidx)
      (actDone m ⟨m.cidx, status % 256, reason % 256, ranges.take 27, !more, total % 65536, narrow % 65536, lag % 256⟩)
  | .outcome m ft code reason format advice ranges more =>
    ctrlTake s m .parent (actOutcome m ⟨code % 4, ft, reason % 256, format % 16, advice % 4, ranges.take 27⟩ more)
  | _ => s

/-- A message leaves the control store: it is acted on, or goes to the store of its session's half, if a Calm is in force there. -/
def fromStore (s : State) (m : Instr) : State :=
  match heldMsg m with
  | none => s
  | some c =>
    match ctrlHeldBy s c.port c.sid with
    | some g => onCalm s g fun k => { k with store := k.store ++ [m] }
    | none => actMessage s m

/-- A message that waited in a port's ingress buffer is acted on, and its slot is freed. -/
def fromPort (s : State) (p : Nat) (m : Instr) : State :=
  match heldMsg m with
  | none => s
  | some c =>
    match ctrlHeldBy s c.port c.sid with
    | some g =>
      let q := holdCtrl s g p m
      if q.2 then freeIngress q.1 p else q.1
    | none => freeIngress (actMessage s m) p

/-- The ports of a half. -/
def portsOf (s : State) (h : Half) : List Nat := (List.range 64).filter fun p => portFitted s p && decide (portHalf p = h)

/-- The messages that wait at the ports of a half are acted on. -/
def drainPorts (s : State) (h : Half) : State :=
  (portsOf s h).foldl (fun u p =>
    let l := (getPort u p).ctrlWait
    l.foldl (fun v m => fromPort v p m) (putPort u p { getPort u p with ctrlWait := [] })) s

/-- Ports grant ingress credits again (R422). -/
def grantPorts (s : State) (h : Half) : State := (portsOf s h).foldl grantIngress s

/-- The session engine of a half goes on with every session. -/
def reactAll (s : State) (h : Half) : State := (sessionsOf s h).foldl react s

/-- Tiles that a wake event met in Lull during the Calm wake (R86). -/
def wakeHeld (s : State) (h : Half) : State :=
  (s.tiles.cells.map (·.1)).foldl (fun u t =>
    let x := getTile u t
    match x.lull with
    | .asleep _ => if tileHalf t = h ∧ x.wakeReq = true then wakeTile (onTile u t fun y => { y with wakeReq := false }) t else u
    | _ => u) s

/-- The Calm of a half is over; a capture that has not ended yet ends with it. LATE_RESUME is set where the command fires after its
FT for want of time (R421). -/
def leaveCalm (s : State) (h : Half) : State :=
  let s1 := endCapture s h
  let late := (s1.calm.get h).late
  let s2 := onCalm s1 h fun c => { c with st := .idle, cmd := none, late := false, store := [], gos := [] }
  if late then raiseK s2 .calm (halfIdx h) 21 else s2

/-- The accepted command of a kind fires now: its FT, where it does. -/
def calmDue (s : State) (h : Half) (kind : Nat) : Option Nat :=
  match (s.calm.get h).cmd with
  | some (k, f) => if calmOn s h && decide (k = kind) && hasTime s h && decide (f * 2304 ≤ countOf s h) then some f else none
  | none => none

/-! ### Resume (R422) -/

/-- The held entries of a half in the order of R59. -/
def heldEntries (s : State) (h : Half) : List Nat :=
  let l := s.sched.cells.filter fun c => decide (c.1 / 1024 = halfIdx h) && decide (c.2.st = .held)
  [actEpochStart, actPageCtrl, actReport].flatMap fun a => (l.filter fun c => decide (c.2.action = a)).map fun c => c.1 % 1024

/-- A REPORT entry fires (R60). -/
def fireReport (s : State) (h : Half) (e : Entry) : State :=
  if e.atFunnel then
    if e.reportKind = 1 then askDrains s h else fireGust s e.gustChan 0 (e.due.getD 0)
  else sendReports s h

/-- A held entry fires in the resume cycle (R61). -/
def fireHeld (s : State) (h : Half) (n : Nat) : State :=
  let e := getEntry s h n
  let s1 := putEntry s h n ({ e with st := .armed } : Entry).fired
  if e.action = actEpochStart then openEpoch s1 (e.target % 4096) (e.arg % 2) 0
  else if e.action = actPageCtrl then firePageCtrl s1 h e
  else fireReport s1 h e

/-- Every session timer of the half is moved by D (R414): those of its live epochs, and its second copies. -/
def shiftTimers (s : State) (h : Half) (d : Nat) : State :=
  let f (e : Epoch) : Epoch := if e.live then { e with shift := e.shift + d, doneAt := e.doneAt + d } else e
  let mine (sid : Nat) : Bool := let x := getSes s sid; decide (x.st ≠ .empty) && decide (x.home = h)
  { s with
    sessions := s.sessions.mapVals fun sid x => if mine sid then { x with eps := ⟨f x.eps.a, f x.eps.b⟩ } else x
    copies := s.copies.map fun c => if mine c.2.sid then (c.1 + d, c.2) else c }

/-- A GO that the Calm held is acted on (R414). -/
def actGo (s : State) : Instr → State
  | .sesStart _ h sid => actStart s h (sid % 4096)
  | .sesStop _ h sid => actStop s h (sid % 4096)
  | .sesArmGo _ h sid => actArm s h (sid % 4096)
  | .sesMark _ h sid c => actMark s h (sid % 4096) (c % 8192)
  | _ => s

/-- The half resumes (R422): held actions fire, timers take the shift, held GOs and messages are acted on in order of receipt,
and everything that stood still goes on. -/
def resumeCalm (s : State) (h : Half) (f : Nat) : State :=
  let c := s.calm.get h
  let at_ := if c.late then ftNs s h else f
  let s1 := leaveCalm s h
  let s2 := shiftTimers ((heldEntries s1 h).foldl (fun u n => fireHeld u h n) s1) h (at_ - c.t)
  let s3 := c.gos.foldl actGo s2
  let s4 := c.store.foldl fromStore s3
  let s5 := reactAll (grantPorts (drainPorts s4 h) h) h
  calmPackets (resumeGusts (wakeHeld s5 h) h) h 1 at_ c.plan

/-- CALM_RESUME (R422). -/
def execCalmResume (h : Half) (s : State) : Out :=
  needHalf s h (.next (
    match calmDue s h 1 with
    | some f => resumeCalm s h f
    | none => s))

/-! ### Abandon (R423) -/

/-- A GO that the Calm held is refused with FROZEN (R414). -/
def refuseGo (s : State) : Instr → State
  | .sesStart _ h sid => cmdStatus s h (sid % 4096) true
  | .sesStop _ h sid => cmdStatus s h (sid % 4096) true
  | .sesArmGo _ h _ => armStatus s h 6
  | .sesMark _ h _ _ => accessErr s .ses (halfIdx h)
  | _ => s

/-- One tile in an abandoned Calm: for every binding whose session's home is the half, the contributions in its slots are
discarded, and each live parity counts as reported with EPFAIL. -/
def abandonTile (s : State) (h : Half) (t : Nat) : State :=
  (List.range 16).foldl (fun u b =>
    let v := (getTile u t).bind b
    if v.valid && decide ((getSes u v.sid).home = h) && (v.eps.a.live || v.eps.b.live) then
      onTile (freeFilledAs u t b fateDiscFailed) t fun y =>
        let w := y.bind b
        y.setBind b { w with eps := ⟨{ w.eps.a with reported := w.eps.a.reported || w.eps.a.live },
          { w.eps.b with reported := w.eps.b.reported || w.eps.b.live }⟩ }
    else u) s

/-- The programs of a half stay stopped until their pages are stopped (R121). -/
def stopPrograms (s : State) (h : Half) : State :=
  (tilesUp s h).foldl (fun u t => onTile u t fun x =>
    { x with stopped := x.stopped || !(decide (x.prog = .none) || decide (x.prog = .faulted) || decide (x.prog = .halted)) }) s

/-- Held entries are CANCELLED (R61). -/
def cancelHeld (s : State) (h : Half) : State :=
  (heldEntries s h).foldl (fun u n => putEntry u h n { getEntry u h n with st := .cancelled, due := none }) s

/-- The engine's foreground command ends with status CALM and its cursor recorded (R293): what it had asked for is dropped. -/
def abandonFill (s : State) (h : Half) : State :=
  if (s.fill.get h).op.isSome then
    feStatus (onFill (dropUse s fun u => decide (u = .engine h)) h fun f => { f with op := none, span := .rest, bad := none }) h 5
      (s.fill.get h).cursor
  else s

/-- The Gust fires that waited for the resume of the half's Calm are dropped. -/
def dropGusts (s : State) (h : Half) : State :=
  { s with channels := s.channels.mapVals fun c x =>
      match x.gust with
      | some g => if g.held ∧ chanHalf c = h then { x with gust := none } else x
      | none => x }

/-- A tile swap whose copy the Calm paused ends ABANDONED with reason CALM (R440). -/
def abandonCopy (s : State) (h : Half) : State :=
  match s.swaps.get h with
  | some w => if w.copying then abandonSwap s h sprCalm else s
  | none => s

/-- Fail both parities of a session with reason CALM_ABANDONED (R192, R423). -/
def abandonSession (s : State) (sid : Nat) : State :=
  failEpoch (failEpoch s sid 0 rsnCalmAbandoned) sid 1 rsnCalmAbandoned

/-- The half's Calm is abandoned (R423). -/
def abandonCalm (s : State) (h : Half) (f : Nat) : State :=
  let c := s.calm.get h
  let at_ := if c.late then ftNs s h else f
  let s1 := leaveCalm s h
  let s2 := (s1.tiles.cells.map (·.1)).foldl (fun u t => abandonTile u h t) s1
  let s3 := (sessionsOf s2 h).foldl abandonSession s2
  let s4 := voidGroups s3 fun g => decide ((getSes s3 g.sid).home = h) && epochLive s g.sid g.epoch
  let s5 := cancelHeld (satReg s4 .calm (halfIdx h) 0x07C c.store.length) h
  let s6 := dropGusts (abandonFill (stopPrograms (c.gos.foldl refuseGo (abandonCopy s5 h)) h) h) h
  let s7 := reactAll (grantPorts (drainPorts s6 h) h) h
  calmPackets (wakeHeld s7 h) h 2 at_ c.plan

/-- CALM_ABANDON (R423). -/
def execCalmAbandon (h : Half) (s : State) : Out :=
  needHalf s h (.next (
    match calmDue s h 2 with
    | some f => abandonCalm s h f
    | none => s))

/-! ### Wait-for captures and hang reports (R426 to R428) -/

/-- TAKE: a live wait-for capture (R426). -/
def wfTake (s : State) (h : Half) : State :=
  if pageRuns s .calm (halfIdx h) then wfCapture s h false (ftOrOnes s h) else accessErr s .calm (halfIdx h)

/-- ASSEMBLE: the RTP is asked for a hang report (R427). -/
def wfAssemble (s : State) (h : Half) : State :=
  if pageRuns s .calm (halfIdx h) then onCalm s h fun c => { c with assemble := true } else accessErr s .calm (halfIdx h)

/-- WF_TAKE (R426). -/
def execWfTake (port : Half) (h : Half) (s : State) : Out :=
  mgmtWriteK s port .calm (halfIdx h) fun s => okay (wfTake s h) port

/-- WF_ASSEMBLE (R427). -/
def execWfAssemble (port : Half) (h : Half) (s : State) : Out :=
  mgmtWriteK s port .calm (halfIdx h) fun s => okay (wfAssemble s h) port

/-- The body of the packet of kind 3 (R428). -/
def hangHead (s : State) (h : Half) (g : HangGraph) : List Byte :=
  let c := s.calm.get h
  leBytes 4 0x48475231 ++
    leBytes 4 (halfIdx h + 2 * b2n c.wfCut + 4 * b2n c.deferred + 2 ^ 16 * (c.reports % 65536)) ++
    leBytes 8 c.wfFt ++ leBytes 8 (ftOrOnes s h) ++ leBytes 4 c.wf.length ++ leBytes 4 g.nodes ++ leBytes 4 g.edges ++
    leBytes 4 g.cycles ++ leBytes 4 g.frontier ++ leBytes 4 g.sinks ++ leBytes 4 g.entries.length ++
    leBytes 4 (kregN s .calm (halfIdx h) 0x08C)

/-- Lists of at most nine. -/
def nines {α : Type} : Nat → List α → List (List α)
  | 0, _ => []
  | n + 1, l => if l = [] then [] else l.take 9 :: nines n (l.drop 9)

/-- One REPORT packet in the Calm unit's operator stream (R369). -/
def hangPacket (s : State) (h : Half) (kind : Nat) (body : List Byte) : State :=
  let key := unitKey (6 + halfIdx h) none
  if kindAdmitted s key 3 then
    emit s key false fun _ _ => BitVec.ofNat 8 (0xB0 + kind) :: BitVec.ofNat 8 (body.length / 4) :: body
  else s

/-- HANG_REPORT (R427): the RTP finishes a report that was asked for; load defers it. -/
def execHangReport (h : Half) (s : State) : Out :=
  needHalf s h (.next (
    let c := s.calm.get h
    let r := s.rtp.get h
    if !c.assemble || !r.booted then s
    else if r.deferring then onCalm s h fun c => { c with deferred := true }
    else
      let g := hangGraph c.wf
      let s1 := hangPacket s h 3 (hangHead s h g)
      let s2 := (nines g.entries.length g.entries).foldl (fun u l => hangPacket u h 4 l.flatten) s1
      onCalm s2 h fun c => { c with assemble := false, deferred := false, reports := c.reports + 1 }))

end Sys2Proof.Machine
end

