-- ==== Sys2Proof/Machine/Reset.lean ====
section
/-! DEFINITION. SPLIT and the resets (R29, R30, R302, R312, R336, R360, R443 to R445, R460 to R463): what enters and leaves SPLIT, a
reset of the block, a reset of one half, a loss of a rail, and the commands RST_BLK_N, RST_HALF_N, READY, RAIL_FALL, PG_SB_RISE,
CLK_FAIL, BLK_PFA. -/

namespace Sys2Proof.Machine

/-! ### SPLIT (R443, R444) -/

/-- Change what a half's charge logic holds. -/
def onCharge (s : State) (h : Half) (f : Charge → Charge) : State := { s with charge := s.charge.put h (f (s.charge.get h)) }

/-- The causes of R443. -/
def causeLost : Nat := 0
def causeHalfReset : Nat := 1
def causeConflict : Nat := 2

/-- A session enters FROZEN as its home half enters SPLIT (R156, R195): starts not yet made are UNCOMMITTED, and OPEN epochs fail
with SPLIT. -/
def freezeSession (s : State) (sid : Nat) : State :=
  let x := getSes s sid
  if staysHome s x || !(decide (x.st = .active) || decide (x.st = .draining)) then s
  else
    let s1 := raiseK (onSes s sid fun y => { y with st := .frozen, frozenFrom := y.st }) .ses x.page 20
    let one (u : State) (par : Nat) : State :=
      match ((getSes u sid).ep par).st with
      | .armed => uncommit u sid par
      | .committed => uncommit u sid par
      | .opened => failEpoch u sid par rsnSplit
      | _ => u
    react (one (one s1 0) 1) sid

/-- A half enters SPLIT (R443). In SPLIT already, only the other half's reset changes the cause. -/
def enterSplit (s : State) (h : Half) (cause : Nat) : State :=
  if (s.charge.get h).st = .split then
    if cause = causeHalfReset then onCharge s h fun c => { c with cause := cause } else s
  else
    let ft := ftOrOnes s h
    let s1 := onCharge s h fun c =>
      { c with st := .split, cause := cause, splits := (c.splits + 1) % 65536, splitFt := ft, joinCyc := none, decision := none }
    flagParts ((sessionsOf s h).foldl freezeSession (retimed s s1)) 2

/-- A frozen session returns to the state it left (R156). -/
def thawSession (s : State) (sid : Nat) : State :=
  if (getSes s sid).st ≠ .frozen then s
  else react (drainCheck (onSes s sid fun y => { y with st := y.frozenFrom }) sid) sid

/-- SPLIT ends in both halves (R448): frozen sessions return to their earlier states, and the bridge arbiters grant again. -/
def leaveSplit (s : State) : State :=
  let done (c : Charge) : Charge := { c with st := .normal, decision := none, joinCyc := none, returned := false }
  let s1 := { s with charge := ⟨done s.charge.a, done s.charge.b⟩ }
  let s2 := (s1.sessions.cells.map (·.1)).foldl thawSession (retimed s s1)
  flagParts s2 2

/-! ### The report of broken accounts (R30, R336) -/

/-- A page belongs to a half. -/
def pageInHalf (c : BlockCfg) (h : Half) (pg : Nat) : Bool :=
  match pageOf pg with
  | some (k, i) => decide (kindHalf c k i = some h)
  | none => false

/-- The live epochs of the sessions at home in a half. -/
def liveEpochs (s : State) (h : Half) : List (Nat × Nat) :=
  (sessionsOf s h).flatMap fun sid =>
    ([0, 1].filter fun par => ((getSes s sid).ep par).live).map fun par => (sid, ((getSes s sid).ep par).num)

/-- Receive slots of a half that are RESERVED: credits then outstanding. -/
def creditsHeld (s : State) (h : Half) : Nat :=
  ((s.tiles.cells.filter fun c => decide (tileHalf c.1 = h)).map fun c =>
    (c.2.slots.cells.filter fun r => decide (r.2.st = .reserved)).length).foldl (· + ·) 0

/-- Trace records that the streams and channels of a half hold. -/
def recordsHeld (s : State) (h : Half) : Nat :=
  ((s.streams.cells.filter fun c => decide (keyHalf s c.1 = h)).map fun c => pktRecs c.2.pkts).foldl (· + ·) 0 +
    ((s.channels.cells.filter fun c => decide (chanHalf c.1 = h)).map fun c => c.2.held).foldl (· + ·) 0

/-- Buffer slots of a half that hold something: FILLED receive slots of its tiles, and ingress slots of its ports. -/
def slotsHeld (s : State) (h : Half) : Nat :=
  ((s.tiles.cells.filter fun c => decide (tileHalf c.1 = h)).map fun c =>
    (c.2.slots.cells.filter fun r => decide (r.2.st = .filled)).length).foldl (· + ·) 0 +
    ((s.ports.cells.filter fun c => decide (portHalf c.1 = h)).map fun c => c.2.held).foldl (· + ·) 0

/-- Contributions accepted in live epochs of a half's sessions, which neither a result nor a record holds yet (R181). -/
def contribsHeld (s : State) (h : Half) : Nat :=
  ((sessionsOf s h).map fun sid => (([0, 1].filter fun par => ((getSes s sid).ep par).live).map fun par =>
    (((getSes s sid).ep par).fates.cells.filter fun c => decide (c.2 = 2)).length).foldl (· + ·) 0).foldl (· + ·) 0

/-- Events that the open and the closed intervals of a half's banks hold (R395). -/
def eventsHeld (s : State) (h : Half) : Nat :=
  ((s.banks.cells.filter fun c => decide (bankHalf c.1 = h)).map fun c =>
    (sixteen c.2.ctrs ++ (c.2.closed.map (·.ctrs)).getD []).foldl (· + ·) 0).foldl (· + ·) 0

/-- What a half will report of a reset. -/
def brokenNow (s : State) (h : Half) (cause : Nat) : Broken :=
  ⟨cause, ((s.rtp.get h).log.getLast?.map (·.ft)).getD 0, liveEpochs s h, creditsHeld s h, slotsHeld s h, contribsHeld s h,
    recordsHeld s h, eventsHeld s h⟩

/-- Causes of a reset. -/
def resetBlk : Nat := 0
def resetOneHalf : Nat := 1
def resetRail : Nat := 2
def resetJoin : Nat := 3

/-! ### A reset of the block -/

/-- The always-on record of a partition that a reset of the block meets (R302, R312): it enters SCRUBBING, with the tiles its
certificate will name. -/
def scrubAfter (s : State) (q : Nat) : State :=
  let p := getPart s q
  let tiles := (partTiles s q).filterMap fun lt => (physOf s lt).map fun t => (lt, t)
  let s1 := startScrub s q (if p.st = .creating then 3 else 1)
  let p1 := getPart s1 q
  putPart s1 q { p1 with
    work := [], flags := 0, keys := ⟨false, false⟩, regions := [], scrub := p1.scrub.map fun c => { c with tiles := tiles } }

/-- An image store after a reset: its slots and its log stay (R318), and nothing runs. -/
def Rtp.asleep (r : Rtp) : Rtp :=
  { r with
    booted := false, recovery := false, fw := .normal, confirmed := false, back := false, trialCyc := 0, out := [], attBusy := 0,
    load := 0, deferring := false }

/-- A swap that a reset meets is lost (R440): SPR_STATUS says so. -/
def swapLost (s : State) (t : State) (h : Half) : State :=
  match s.swaps.get h with
  | some w => sprStatus t h 4 sprReset w.lt
  | none => t

/-- A reset of the block (R40, R302, R336, R433, R445, R462): everything goes to its reset value but the fuses and what the fuses,
the always-on records and the stacks' own repairs hold. READY is low until the fuses have been read. -/
def blockReset (s : State) (cause : Nat) : State :=
  let p := (partsPresent s).foldl scrubAfter s
  let a := !s.cfg.halfB || s.cfg.chargeFuse
  let r := State.reset
  let t := { r with
    cfg := s.cfg, pending := s.pending, fresh := s.fresh, trigHigh := s.trigHigh, bypStat := s.bypStat, tmap := s.tmap, srRole := s.srRole,
    regions := s.regions, reserve := s.reserve, era := s.era + 1, chans := s.chans.mapVals fun _ c => { c with ce := 0, ue := 0 }, parts := p.parts, certLog := s.certLog,
    rtp := ⟨s.rtp.a.asleep, s.rtp.b.asleep⟩, minSvn := s.minSvn, frameSpares := s.frameSpares, wearLife := s.wearLife,
    wearDay := s.wearDay, wearDayNo := s.wearDayNo, fuseUsed := s.fuseUsed, fuseQueue := s.fuseQueue, fuseFull := s.fuseFull,
    rowsUsed := s.rowsUsed, railFell := s.railFell, pgSb := s.pgSb, power := { r.power with code := s.cfg.floor % 256 },
    charge := ⟨{ r.charge.a with primary := a }, { r.charge.b with primary := !a }⟩,
    broken := ⟨some (brokenNow s .a cause), if s.cfg.halfB then some (brokenNow s .b cause) else none⟩ }
  swapLost s (swapLost s t .a) .b

/-! ### A reset of one half (R30, R302, R312, R327, R445) -/

/-- A partition that a half's reset meets. -/
def partMeets (s : State) (h : Half) (q : Nat) : State :=
  let p := getPart s q
  if !scrubIn s q h then s
  else
    match p.st with
    | .live => putPart s q { p with st := .unavailable }
    | .creating => endCommand (startScrub s q 3) q
    | .scrubbing => startScrub s q 2
    | _ => s

/-- A tile of the surviving half loses the bindings and slots of sessions that are gone. -/
def Tile.forget (x : Tile) (gone : List Nat) : Tile :=
  { x with
    slots := x.slots.keep fun _ r => decide (r.st = .free) || !gone.contains r.sid
    binds := x.binds.keep fun _ v => !v.valid || !gone.contains v.sid }

/-- The half of a requester (R239): of a tile, else of the engine, the funnel, the DMA or the RTP that its last bit names; a port's is told
by its number. -/
def srcHalf (src : Nat) : Half :=
  if src < 1088 then tileHalf src else if src < 0x480 then .a else if src < 0x4C0 then portHalf (src - 0x480) else halfOf (src % 2)

/-- A flit is not of a cell of a session that is gone. -/
def FlitWhat.stays (gone : List Nat) : FlitWhat → Bool
  | .cell _ c => !gone.contains c.sid
  | _ => true

/-- A request that survives the reset of a half: it comes from the other half, and its session is not gone. -/
def Req.survives (r : Req) (h : Half) (gone : List Nat) (here : Bool) : Bool :=
  match r.what with
  | .mem _ => decide (srcHalf r.src ≠ h) && (!here || decide (r.come = r.len))
  | .cell c => !here && !gone.contains c.sid
  | .drain _ => !here
  | .hop f => !here && decide (srcHalf f.src ≠ h) && f.what.stays gone

/-- Page headers, register words, windows and arbiters of a half are reset. A page keeps its owner where a partition that is not
FREE owns it. -/
def resetPages (s : State) (h : Half) (gone : List Nat) : State :=
  let c := s.cfg
  let mine (a : Nat) : Bool := pageInHalf c h (a / 4096)
  let kept := s.pages.keep fun pg p => !pageInHalf c h pg || decide (p.owner ≠ 0)
  countSummary s { s with
    pages := kept.mapVals fun pg p => if pageInHalf c h pg then { pageReset pg with owner := p.owner, gen := p.gen } else p
    regs := s.regs.keep fun a _ => !mine a
    inForce := s.inForce.keep fun a _ => !mine a
    ends := s.ends.filter fun e => !pageInHalf c h e.1
    wins := s.wins.keep fun k _ => decide (k / 4 ≠ halfIdx h)
    mports := s.mports.put h ⟨0, 0, .empty⟩
    arbs := s.arbs.mapVals fun k x => ⟨x.reqs.filter fun r => r.survives h gone (pageInHalf c h (k / 32)), x.phaseCyc, x.grantCyc⟩
    arbOn := s.arbOn.keep fun pg _ => !pageInHalf c h pg
    mitRegs := s.mitRegs.keep fun a _ => !mine a }

/-- What the tiles of a half hold is lost, and what is on its way to or from them. -/
def resetTiles (s : State) (h : Half) (gone : List Nat) : State :=
  let mine (t : Nat) : Bool := decide (tileHalf t = h)
  { s with
    bankUse := s.bankUse.keep fun k _ => !mine (k / 16)
    bankLost := s.bankLost.keep fun k _ => !mine (k / 8)
    tiles := (s.tiles.keep fun t _ => !mine t).mapVals fun _ x => x.forget gone
    ssends := s.ssends.filter fun q => decide (q.1 / 512 ≠ halfIdx h) && !mine q.2.2.2.1
    gates := s.gates.keep fun k _ => decide (k / 64 ≠ halfIdx h)
    denseSeq := s.denseSeq.keep fun t _ => !mine t
    flits := s.flits.filter fun f => decide (routerHalf f.router ≠ halfIdx h) && decide (srcHalf f.src ≠ h) && f.what.stays gone
    heldStarts := s.heldStarts.filter fun q => decide (q.1 / 512 ≠ halfIdx h)
    allots := s.allots.keep fun k _ => !mine k
    budgets := s.budgets.keep fun k _ => decide (k / 64 ≠ halfIdx h)
    gateHeld := s.gateHeld.keep fun k _ => decide (k / 64 ≠ halfIdx h)
    mitTile := s.mitTile.keep fun k _ => !mine (k / 16)
    swaps := s.swaps.put h none }

/-- The sessions at home in a half are EMPTY (R156), and what Weathervane keeps of them and in the half is lost. -/
def resetSessions (s : State) (h : Half) (gone : List Nat) : State :=
  let srMine (sr : Nat) : Bool := decide (kindHalf s.cfg .wvSr sr = some h)
  { s with
    sessions := s.sessions.keep fun sid _ => !gone.contains sid
    copies := s.copies.filter fun q => !gone.contains q.2.sid
    stranded := s.stranded.filter fun q => !gone.contains q.sid
    kexs := s.kexs.filter fun k => !gone.contains k.sid && !(decide (4096 ≤ k.sid) && decide (chanHalf (k.sid - 4096) = h))
    wvGroups := s.wvGroups.keep fun k g => !srMine (k / 128) && !gone.contains g.sid
    wvFlits := s.wvFlits.filter fun f => !srMine f.sr
    wvEpochs := s.wvEpochs.filter fun e => !gone.contains e.sid
    wvTurn := s.wvTurn.put h 0
    audits := s.audits.filter fun a => !srMine a.sr && decide (tileHalf a.tile ≠ h)
    reports := s.reports.put h []
    srSwap := s.srSwap.filter fun sr => !srMine sr }

/-- The fabric time, the schedule, the ports and the stacks of a half. -/
def resetUnits (s : State) (h : Half) : State :=
  let r := State.reset
  let i := halfIdx h
  let portMine (p : Nat) : Bool := decide (portHalf p = h)
  { s with
    ftu := s.ftu.put h (r.ftu.get h)
    sched := s.sched.keep fun k _ => decide (k / 1024 ≠ i)
    trigCyc := s.trigCyc.keep fun k _ => decide (k % 2 ≠ i)
    bypWin := s.bypWin.put h 0
    ports := s.ports.keep fun p _ => !portMine p
    laneMap := s.laneMap.keep fun p _ => !portMine p
    buckets := s.buckets.keep fun k _ =>
      !(decide (k < 64 * 256) && portMine (k / 256)) && !(decide (120000 ≤ k) && portMine (k - 120000))
    meters := s.meters.keep fun k _ => !portMine (k / 64)
    chans := s.chans.mapVals fun k c => if stackHalf (k / 32) = h then { c with ce := 0, ue := 0 } else c
    memLog := s.memLog.keep fun k _ => decide (stackHalf (k / 64) ≠ h)
    macAt := s.macAt.keep fun k _ => decide (stackHalf k ≠ h)
    entries := s.entries.mapVals fun _ l => l.filter fun e => decide (srcHalf e.src ≠ h)
    fill := s.fill.put h (r.fill.get h) }

/-- The trace path, the counters and the Calm of a half. -/
def resetWatch (s : State) (h : Half) : State :=
  { s with
    streams := s.streams.keep fun k _ => decide (keyHalf s k ≠ h)
    channels := s.channels.keep fun c _ => decide (chanHalf c ≠ h)
    frameSwaps := s.frameSwaps.filter fun c => decide (chanHalf c ≠ h)
    banks := s.banks.keep fun b _ => decide (bankHalf b ≠ h)
    pcLast := s.pcLast.put h 0
    mitLast := s.mitLast.put h 0
    calm := s.calm.put h (State.reset.calm.get h) }

/-- The root of trust of a half: its RTP stops, and its key store is cleared (R327). -/
def resetTrust (s : State) (h : Half) : State :=
  { s with
    rtp := s.rtp.put h (s.rtp.get h).asleep
    attQueue := s.attQueue.filter fun q => decide (q.half ≠ h)
    openings := s.openings.filter fun q => decide (q.half ≠ h)
    parts := s.parts.mapVals fun _ p => { p with keys := p.keys.put h false } }

/-- A reset of one half while the other stays up: the survivor enters SPLIT, and the half comes back as a follower (R443, R445). -/
def halfReset (s : State) (h : Half) (cause : Nat) : State :=
  let gone := sessionsOf s h
  let rep := brokenNow s h cause
  let s1 := (partsPresent s).foldl (fun u q => partMeets u h q) s
  let s2 := resetTrust (resetWatch (resetUnits (resetSessions (resetTiles (resetPages s1 h gone) h gone) h gone) h) h) h
  let s3 := swapLost s s2 h
  let c : Charge := { State.reset.charge.b with st := .split, cause := causeHalfReset, returned := true }
  let s4 := { s3 with ready := s3.ready.put h false, broken := s3.broken.put h (some rep), charge := s3.charge.put h c }
  let o := otherHalf h
  retimed s (onCharge (enterSplit s4 o causeHalfReset) o fun x => { x with inbox := none })

/-- A reset of one half (R462): on a block of one half, or while the other half is in reset, it is a reset of the block. -/
def resetHalfOf (s : State) (h : Half) (cause : Nat) : State :=
  if !s.cfg.halfB || !s.ready.get (otherHalf h) then blockReset s cause else halfReset s h cause

/-! ### The commands -/

/-- RST_BLK_N (R462). -/
def execRstBlkN (s : State) : Out := .next (blockReset s resetBlk)

/-- RST_HALF_N (R462). -/
def execRstHalfN (h : Half) (s : State) : Out := needHalf s h (.next (resetHalfOf s h resetOneHalf))

/-- READY (R447, R463): the half leaves reset with a fresh nonce; RAIL is set where a rail fell (R360). -/
def execReady (h : Half) (s : State) : Out :=
  needHalf s h (.next (
    if s.ready.get h then s
    else
      let d := s.draw Config.entropy
      let s1 := { d.2 with ready := d.2.ready.put h true, railFell := d.2.railFell.put h false }
      let s2 := onCharge s1 h fun c => { c with nonce := d.1 % 2 ^ 128, hbCyc := s.cyc }
      if s.railFell.get h then raiseK s2 .pwr (halfIdx h) 22 else s2))

/-- The always-on records of the block are lost with VDD_AON (R433): the wear counts, the image stores and their logs. -/
def loseRecords (s : State) : State :=
  let r := State.reset
  let s1 := { s with
    wearLife := .empty, wearDay := .empty, wearDayNo := ⟨0, 0⟩, fuseQueue := ⟨0, 0⟩, rtp := r.rtp, certLog := [], broken := ⟨none, none⟩ }
  (fittedHalves s.cfg).foldl (fun u h => raiseK u .spr (halfIdx h) 19) s1

/-- A stack loses its power: every line that holds something fails its check when it is read (R288, R360). -/
def loseStack (s : State) (k : Nat) : State :=
  let mine := s.mem.cells.filter fun c => decide (stackOf s.cfg (c.1 / 2 ^ 21) = k)
  let bad := mine.foldl (fun u c => u.put 0 (lineKey (c.1 / 2 ^ 21) (c.1 % 2 ^ 21 / 64)) 2) s.badLines
  { s with mem := s.mem.keep fun a _ => decide (stackOf s.cfg (a / 2 ^ 21) ≠ k), badLines := bad }

/-- The half whose domains a rail holds up goes into reset, and RAIL is set when it restarts. -/
def railReset (s : State) (h : Half) : State :=
  resetHalfOf { s with railFell := s.railFell.put h true } h resetRail

/-- RAIL_FALL (R360, R461): a rail that falls while the block runs resets the block, or the half whose rail it was. The sideband
resets nothing: its pins are isolated. -/
def execRailFall (rail : Rail) (h : Half) (s : State) : Out :=
  match rail with
  | .sideband => .next { s with pgSb := false }
  | .aon => .next (loseRecords (blockReset { s with railFell := ⟨true, s.cfg.halfB⟩ } resetRail))
  | .sram => needHalf s h (.next (railReset s h))
  | .core => needHalf s h (.next (railReset s h))
  | .hbm k =>
    if 8 ≤ k then .fault .noSuchUnit
    else needHalf s (stackHalf k) (.next (railReset (loseStack s k) (stackHalf k)))

/-- PG_SB_RISE (R461): the sideband inputs are watched again; a line that is already high does not count as an edge. -/
def execPgSbRise (trigHigh : Nat) (s : State) : Out := .next { s with pgSb := true, trigHigh := trigHigh % 16 }

/-- CLK_FAIL (R458): CLK_CORE and CLK_AON differ by so many ppm over 10 µs. -/
def execClkFail (ppm : Nat) (s : State) : Out := .next (if 1000 < ppm then raiseK s .blk 0 16 else s)

/-- BLK_PFA (R149, R468): a management write of the register; STATE while any session is not EMPTY. DESIGN CHOICE (log 131): a
value with Plane 0xF is refused as R34 has it, with OKAY and ACCESS in PAGE_ERR. -/
def execBlkPfa (port : Half) (data : Word) (s : State) : Out :=
  mgmtWriteK s port .blk 0 fun s =>
    if s.sessions.cells.any fun c => decide (c.2.st ≠ .empty) then turnAway s port (pageNo .blk 0) respState
    else if planeOf data.toNat = 15 then okay (accessErr s .blk 0) port
    else okay (setKreg s .blk 0 0x060 data) port

end Sys2Proof.Machine
end

