-- ==== Sys2Proof/Machine/Charge.lean ====
section
/-! DEFINITION. Who is in charge (R35, R442 to R448, R451): heartbeats, the charge message and its decision, JOINING, and the commands
HEARTBEAT_SEND, HEARTBEAT_RECEIVE, HEARTBEAT_LOST, MGMT_CHARGE, CHARGE_DECISION, CHARGE_DECISION_RECEIVE, JOIN_TIMEOUT, JOINING_DONE,
CHARGE_STATUS_READ. -/

namespace Sys2Proof.Machine

/-- A command between the halves: only FHL-8 has two (R6). -/
def needBoth (s : State) (r : Out) : Out := if s.cfg.halfB then r else .fault .absentUnit

/-! ### Heartbeats (R442, R443, R445) -/

/-- HEARTBEAT_SEND (R442): every 1,000 ns a half that is out of reset sends one. -/
def execHeartbeatSend (h : Half) (s : State) : Out :=
  needBoth s (.next (
    let c := s.charge.get h
    let due := match c.sentCyc with
      | none => true
      | some k => cycAgo s k 1000
    if s.ready.get h && due then onCharge s h fun c => { c with hbSent := c.hbSent + 1, sentCyc := some s.cyc } else s))

/-- Both halves go through JOINING, the one that has been reset as the follower (R445). -/
def rejoin (s : State) : State :=
  let go (c : Charge) : Charge := { c with st := .joining, primary := !c.returned, decision := none, joinCyc := none }
  { s with charge := ⟨go s.charge.a, go s.charge.b⟩ }

/-- One of the halves, and only one, has been reset on its own and has not rejoined. -/
def oneReturned (s : State) : Bool := (s.charge.a.returned && !s.charge.b.returned) || (s.charge.b.returned && !s.charge.a.returned)

/-- Keys of partitions come back over the heartbeat (R327). -/
def returnKeys (s : State) : State :=
  [Half.a, .b].foldl (fun u h => if (u.charge.get h).returned then returnParts u h else u) s

/-- What a heartbeat from the other half does at a half (R443, R445, R447): with SPLIT in it, or a second claim of PRIMARY, a half in
NORMAL enters SPLIT; in SPLIT the halves rejoin after a reset, and a half that has a decision enters JOINING once RX_OK goes both ways. -/
def heartbeatAt (s : State) (h : Half) (primary split rxOk : Bool) : State :=
  let c := s.charge.get h
  match c.st with
  | .normal =>
    if split then enterSplit s h causeLost
    else if primary && c.primary then enterSplit s h causeConflict
    else s
  | .split =>
    if decide (c.cause = causeHalfReset) && oneReturned s && s.ready.a && s.ready.b then rejoin s
    else if c.decision.isSome && rxOk then onCharge s h fun c => { c with st := .joining, joinCyc := none }
    else s
  | .joining => s

/-- HEARTBEAT_RECEIVE. -/
def execHeartbeatReceive (h : Half) (primary : Bool) (split : Bool) (rxOk : Bool) (s : State) : Out :=
  needBoth s (.next (
    if !s.ready.get h then s
    else
      let s1 := onCharge s h fun c => { c with hbCyc := s.cyc, rxOk := true }
      returnKeys (heartbeatAt s1 h primary split rxOk)))

/-- HEARTBEAT_LOST (R443): no heartbeat for 5,000 ns. -/
def execHeartbeatLost (h : Half) (s : State) : Out :=
  needBoth s (.next (
    if !s.ready.get h || !cycAgo s (s.charge.get h).hbCyc 5000 then s
    else enterSplit (onCharge s h fun c => { c with rxOk := false }) h causeLost))

/-! ### The charge message (R446, R447) -/

/-- MAGIC of a charge message, and its length in words. -/
def chargeMagic : Word := 0x43484731
def chargeWords : Nat := 1173

/-- An access to MGMT_CHARGE, which either port reaches in SPLIT too (R35), with the response where the half is not fitted (R33). -/
def chargeAccess (s : State) (port h : Half) (absent : Nat) (f : State → State) : Out :=
  if !s.cfg.hasHalf port then .fault .absentUnit
  else if !s.cfg.hasHalf h then .next (respond s port absent 0)
  else if halfDown s h then .next (respond s port respHalfDown 0)
  else .next (f s)

/-- A word of a charge message is taken (R446). -/
def Charge.take (c : Charge) (data : Word) : Charge :=
  if c.result = 6 then c
  else if data = chargeMagic then { c with inMsg := true, received := 1, words := [data], readIdx := 0 }
  else if !c.inMsg then c
  else
    let n := c.received + 1
    { c with received := n, words := data :: c.words, inMsg := decide (n < chargeWords), result := if n = chargeWords then 6 else c.result }

/-- MGMT_CHARGE. -/
def execMgmtCharge (port : Half) (h : Half) (data : Word) (s : State) : Out :=
  chargeAccess s port h respAbsent fun s => okay (onCharge s h fun c => c.take data) port

/-- Word n of the message in hand. -/
def Charge.word (c : Charge) (n : Nat) : Nat := (c.words.reverse.getD n 0).toNat

/-- Words n on as one number, lower words first. -/
def Charge.wide (c : Charge) (n k : Nat) : Nat := (List.range k).foldr (fun i a => c.word (n + i) + 2 ^ 32 * a) 0

/-- The nonce field of a half. -/
def Charge.nonceOf (c : Charge) (h : Half) : Nat := c.wide (4 + 4 * halfIdx h) 4

/-- RESULT of the check (R447, R451): the first test that fails, or ACCEPTED. -/
def chargeResult (s : State) (h : Half) (sigOk : Bool) : Nat :=
  let c := s.charge.get h
  if !sigOk then 2
  else if c.wide 2 2 ≠ s.cfg.serial then 3
  else if c.nonceOf h ≠ c.nonce then 4
  else if c.st ≠ .split then 5
  else 1

/-- A fresh nonce is drawn. -/
def freshNonce (s : State) (h : Half) : State :=
  let d := s.draw Config.entropy
  onCharge d.2 h fun c => { c with nonce := d.1 % 2 ^ 128 }

/-- A half is primary under a decision that names half A or half B. -/
def isPrimary (aPrimary : Bool) (h : Half) : Bool :=
  match h with
  | .a => aPrimary
  | .b => !aPrimary

/-- CHARGE_DECISION (R447): the RTP decides on the message, whose signature verifies or not. -/
def execChargeDecision (h : Half) (sigOk : Bool) (s : State) : Out :=
  needHalf s h (.next (
    let c := s.charge.get h
    if c.result ≠ 6 ∨ (s.rtp.get h).booted = false then s
    else
      let r := chargeResult s h sigOk
      let s1 := onCharge s h fun c => { c with result := r, words := [] }
      if r = 1 then
        let aPrimary := !(c.word 1).testBit 0
        let resetOther := (c.word 1).testBit 1
        let s2 := onCharge (rtpLog (freshNonce s1 h) h 9 [c.word 1]) h fun c =>
          { c with primary := isPrimary aPrimary h, decision := some (aPrimary, resetOther), pending := true }
        retimed s (onCharge s2 (otherHalf h) fun x => { x with inbox := some (aPrimary, resetOther, c.nonceOf (otherHalf h)) })
      else
        let s2 := rtpEvent s1 h 7 0
        if r = 5 then freshNonce s2 h else s2))

/-- CHARGE_DECISION_RECEIVE (R447): the other half obeys a decision whose field for it is its own nonce or zero. -/
def execChargeDecisionReceive (h : Half) (s : State) : Out :=
  needBoth s (.next (
    let c := s.charge.get h
    match c.inbox with
    | none => s
    | some (aPrimary, resetOther, n) =>
      if !s.ready.get h then s
      else
        let s1 := onCharge (onCharge s h fun c => { c with inbox := none }) (otherHalf h) fun x => { x with pending := false }
        if (n ≠ c.nonce ∧ n ≠ 0) ∨ c.st ≠ .split then s1
        else if resetOther then resetHalfOf s1 h resetOneHalf
        else
          retimed s (onCharge s1 h fun c =>
            { c with primary := isPrimary aPrimary h, decision := some (aPrimary, resetOther), joinCyc := some s.cyc })))

/-- JOIN_TIMEOUT (R447): 10,000,000 ns have passed since the half obeyed a decision. -/
def execJoinTimeout (h : Half) (s : State) : Out :=
  needBoth s (.next (
    let c := s.charge.get h
    match c.joinCyc with
    | none => s
    | some k => if c.st = .split ∧ cycAgo s k 10000000 = true then resetHalfOf s h resetJoin else s))

/-! ### JOINING (R448) -/

/-- The counts of the halves agree within 1/16 ns. -/
def countsAgree (s : State) : Bool := decide (((s.ftu.a.count : Int) - (s.ftu.b.count : Int)).natAbs ≤ 144)

/-- JOINING_DONE (R448): at the follower, in the first cycle in which the counts agree. -/
def execJoiningDone (h : Half) (s : State) : Out :=
  needBoth s (.next (
    if s.charge.a.st = .joining ∧ s.charge.b.st = .joining ∧ (s.charge.get h).primary = false ∧ countsAgree s = true then leaveSplit s
    else s))

/-- One count moves one unit toward another. -/
def nudge (c goal : Nat) : Nat := if c < goal then c + 1 else if goal < c then c - 1 else c

/-- The follower's FTU slews its count toward the primary's (R448): one unit of 1/2304 ns in eight cycles, below 100 ppm. -/
def slewTick (s : State) : State :=
  if s.cyc % 8 = 0 ∧ s.charge.a.st = .joining ∧ s.charge.b.st = .joining then
    let f : Half := if s.charge.a.primary then .b else .a
    onFtu s f fun x => { x with count := nudge x.count (s.ftu.get (otherHalf f)).count }
  else s

/-! ### The status block (R451) -/

/-- A word of the status block. -/
def Charge.status (c : Charge) (n : Nat) : Word :=
  let st := match c.st with
    | .normal => 0
    | .split => 1
    | .joining => 2
  match n with
  | 0 => BitVec.ofNat 32 (st + 4 * b2n c.primary + 8 * c.cause + 32 * b2n c.pending + 256 * c.result + 2 ^ 16 * (c.splits % 65536))
  | 1 => BitVec.ofNat 32 (c.received % 2048)
  | 2 => BitVec.ofNat 32 c.nonce
  | 3 => BitVec.ofNat 32 (c.nonce / 2 ^ 32)
  | 4 => BitVec.ofNat 32 (c.nonce / 2 ^ 64)
  | 5 => BitVec.ofNat 32 (c.nonce / 2 ^ 96)
  | 6 => BitVec.ofNat 32 c.splitFt
  | 7 => BitVec.ofNat 32 (c.splitFt / 2 ^ 32)
  | _ => 0

/-- CHARGE_STATUS_READ (R35, R451). The page of an absent half reads as zero (R9). -/
def execChargeStatusRead (port : Half) (h : Half) (s : State) : Out :=
  chargeAccess s port h respOkay fun s =>
    let c := s.charge.get h
    respond (onCharge s h fun c => { c with readIdx := (c.readIdx + 1) % 16 }) port respOkay (c.status c.readIdx)

end Sys2Proof.Machine
end

