-- ==== Sys2Proof/Machine/ReadReg.lean ====
section
/-! DEFINITION. Reading registers (R7, R37, R39 to R44, R47, R314, R405): the value of every register as the management port sees it,
snapshots, and the commands TAKE and SNAPSHOT_ACTION. -/

namespace Sys2Proof.Machine

/-- A number as a register word. -/
def w32 (n : Nat) : Word := BitVec.ofNat 32 n

/-- The lower or the upper word of a 64-bit value. -/
def wordOf64 (n : Nat) (upper : Bool) : Word := w32 (if upper then n / 2 ^ 32 else n)

/-- A set of numbers as a bit mask. -/
def maskOf (l : List Nat) : Nat := l.foldl (fun m n => m ||| 2 ^ n) 0

/-- The sum of a list. -/
def sumOf (l : List Nat) : Nat := l.foldl (· + ·) 0

/-! ### The block and its MGMT pages -/

/-- Pages of a kind with an error, by instance (R47). -/
def detailMask (s : State) (k : PageKind) : Nat :=
  maskOf ((detailOf s.pages).filterMap fun pg => match pageOf pg with
    | some (j, i) => if j = k then some i else none
    | none => none)

/-- Words of the BLK page (R7, R47). -/
def readBlk (s : State) (off : Nat) : Word :=
  match off with
  | 0x040 => w32 (blkCap s.cfg)
  | 0x044 => w32 (summaryOf false s.pages)
  | 0x048 => w32 (summaryOf true s.pages)
  | 0x04C => s.sumSeq
  | 0x050 => w32 (detailMask s .port)
  | 0x054 => w32 (detailMask s .port / 2 ^ 32)
  | 0x058 => w32 (detailMask s .mem)
  | _ => if 0x080 ≤ off ∧ off ≤ 0x104 then w32 (detailMask s .tile / 2 ^ (8 * (off - 0x080))) else kreg s .blk 0 off

/-- Words of an MGMT page: its windows (R48), and the status word that a read of MGMT_CHARGE would return. -/
def readMgmt (s : State) (h : Half) (off : Nat) : Word :=
  if 0x100 ≤ off ∧ off < 0x180 then
    let x := getWin s h ((off - 0x100) / 0x20)
    match (off - 0x100) % 0x20 with
    | 0x00 => x.sel
    | 0x04 => w32 (b2n (decide (x.st = .opened)) + 2 * b2n x.dir)
    | 0x08 => x.addr
    | 0x10 => x.count
    | 0x14 => x.crc
    | 0x18 => w32 (b2n x.committed + 2 * b2n x.rejected + 4 * halfIdx x.port)
    | _ => 0
  else if off = 0x040 then (s.charge.get h).status (s.charge.get h).readIdx
  else 0

/-! ### Time, power and partitions -/

/-- The code of a lock state (R52, FTU_STATUS). -/
def ftuStatus (s : State) (h : Half) : Nat :=
  let on := pageIsOn s .ftu (halfIdx h)
  lockCode (s.ftu.get h).lock + 16 * b2n (on && decide (timeHalf s h = h)) + 256 * fieldOf (kreg s .ftu (halfIdx h) 0x040) 11 8

/-- Armed entries of a half's schedule below or above the session reserve. -/
def armedEntries (s : State) (h : Half) (session : Bool) : Nat :=
  ((List.range 1024).filter fun n =>
    decide ((getEntry s h n).st = .armed) && (decide (reserveFrom s h ≤ n) == session)).length

/-- Words of an FTU page (chapter 3). -/
def readFtu (s : State) (h : Half) (off : Nat) : Word :=
  match off with
  | 0x040 => w32 (ftuStatus s h)
  | 0x048 => w32 (ftOrOnes s h)
  | 0x04C => w32 (ftOrOnes s h / 2 ^ 32)
  | 0x068 => w32 (armedEntries s h false + 2 ^ 16 * armedEntries s h true)
  | _ => kreg s .ftu (halfIdx h) off

/-- PWR_PART_HELD of the selected partition (R361, R404): Mittened for a tenant. -/
def partHeldWord (s : State) (h : Half) (q : Nat) : Nat :=
  if q = 0 then s.gateHeld.get 0 (64 * halfIdx h + q) else mittenOf (s.mitRegs.get 0 (mitHeldKey h q))

/-- Words of a PWR page (R361). -/
def readPwr (s : State) (h : Half) (off : Nat) : Word :=
  let q := fieldOf (kreg s .pwr (halfIdx h) 0x070) 5 0
  match off with
  | 0x040 => w32 (s.power.code % 256 + 2 ^ 8 * codeAmps s.power.code + 2 ^ 20 * allowSource s)
  | 0x044 => w32 (s.cfg.floor % 256 + 2 ^ 8 * codeAmps s.cfg.floor)
  | 0x074 => w32 (s.budgets.get 0 (64 * halfIdx h + q))
  | 0x078 => w32 (partHeldWord s h q)
  | _ => kreg s .pwr (halfIdx h) off

/-- Progress of the partition command that is at work, in units of 1/256 (R307). -/
def partProgress (s : State) : Nat :=
  match s.partCmd with
  | none => 0
  | some (_, q, arg) =>
    let n := bitsOf arg 18 0
    let left := ((getPart s q).work.filter fun r =>
      decide ((getRegion s r).st = .allocating) || decide ((getRegion s r).st = .teardown)).length
    if n = 0 then 0 else min 255 ((n - left) * 256 / n)

/-- Regions of the block that are FREE. -/
def freeRegions (s : State) : Nat := s.cfg.regions - (s.regions.cells.filter fun c => decide (c.2.st ≠ .free)).length

/-- Words of the PART control page (R307). -/
def readPartCtrl (s : State) (off : Nat) : Word :=
  let present := maskOf (0 :: partsPresent s)
  match off with
  | 0x048 => w32 (fieldOf (kreg s .partCtrl 0 0x048) 23 0 + 2 ^ 24 * partProgress s)
  | 0x050 => w32 (freeRegions s)
  | 0x054 => w32 (shareSum s)
  | 0x058 => w32 present
  | 0x05C => w32 (present / 2 ^ 32)
  | _ => kreg s .partCtrl 0 off

/-- Words of a PART map page (R302, R307). -/
def readPartMap (s : State) (i off : Nat) : Word :=
  let q := partEntryPid i off
  let p := getPart s q
  match rowOff .partMap off with
  | 0x000 => w32 (p.st.code + 2 ^ 8 * b2n p.cert + 2 ^ 9 * b2n (isolated s q) + 2 ^ 16 * (p.gen % 65536))
  | 0x00C => w32 p.regions.length
  | 0x014 =>
    match p.regions[fieldOf (partReg s q 0x010) 18 0]? with
    | some r => w32 (r + 2 ^ 31)
    | none => 0
  | _ => kreg s .partMap i off

/-! ### Security -/

/-- Words of the SEC page (R345). -/
def readSec (s : State) (off : Nat) : Word :=
  let c := s.cfg
  let free := 65536 * c.halves - keysHeld s .a - (if c.halfB then keysHeld s .b else 0)
  let full := !keyRoom s .a || (c.halfB && !keyRoom s .b)
  let e := s.secLog.find (fieldOf (kreg s .sec 0 0x058) 7 0)
  match off with
  | 0x040 => w32 (free % 2 ^ 18 + 2 ^ 18 * (s.minSvn % 128) + 2 ^ 28 * b2n s.entropyOk + 2 ^ 29 * b2n (bitOf (kreg s .sec 0 0x040) 29 && full) +
      2 ^ 30 * b2n c.prodLock + 2 ^ 31 * b2n (debugRestricted s))
  | 0x048 => w32 c.serial
  | 0x04C => w32 (c.serial / 2 ^ 32)
  | 0x05C => w32 (e.elim 0 (·.ft))
  | 0x060 => w32 (e.elim 0 (·.ft) / 2 ^ 32)
  | 0x064 => w32 (e.elim 0 fun x => x.kind % 256 + 2 ^ 12 * (x.page % 2 ^ 14))
  | 0x068 => w32 (e.elim 0 (·.detail))
  | 0x06C => w32 (c.revoke % 16 + 2 ^ 8 * b2n c.chargeFuse)
  | _ => kreg s .sec 0 off

/-- The items of a deferrable class that wait at an RTP, and the FT since which the oldest has (R319, R452). Graph assemblies are of
class 5 and scrubs of class 7; the other two classes have no work that a command starts. -/
def deferred (s : State) (h : Half) (cls : Nat) : Nat × Nat :=
  if cls = 5 then (b2n (s.calm.get h).assemble, (s.calm.get h).wfFt)
  else if cls = 7 then
    let l := (partsPresent s).filterMap fun q => match (getPart s q).scrub with
      | some c => if scrubHalf s q = h ∧ (c.step = 2 ∨ c.step = 3) then some c.eraseFt else none
      | none => none
    (l.length, l.foldl min allOnes64)
  else (0, 0)

/-- RTP_DEFER (R452). -/
def deferWord (s : State) (h : Half) (cls : Nat) : Nat :=
  let d := deferred s h cls
  let age := if d.1 = 0 ∨ d.2 = allOnes64 then 0 else (ftNs s h - d.2) / 1000000
  min d.1 65535 + 2 ^ 16 * min age 65535

/-- Words of an RTP mailbox page (R347, R452). -/
def readRtp (s : State) (h : Half) (off : Nat) : Word :=
  let r := s.rtp.get h
  let svn := if r.booted then ((r.slot r.running).map (·.svn)).getD 0 else 0
  match off with
  | 0x040 => w32 (r.fw.code + 8 * b2n r.recovery + 16 * (r.running % 2) + 32 * b2n r.confirmed + 2 ^ 16 * (svn % 65536))
  | 0x044 => w32 r.load
  | 0x048 => w32 (s.attQueue.length % 128 + 2 ^ 16 * r.attBusy)
  | 0x04C => w32 r.out.length
  | 0x050 => w32 r.logCount
  | 0x054 => w32 r.logPruned
  | 0x05C => w32 (b2n r.deferring)
  | 0x060 => w32 (deferWord s h 5)
  | 0x064 => w32 (deferWord s h 6)
  | 0x068 => w32 (deferWord s h 7)
  | 0x06C => w32 (deferWord s h 8)
  | _ => kreg s .rtp (halfIdx h) off

/-! ### Sessions -/

/-- The record that SES_REC_SEL selects (R182, R197): of a session of the engine's half. -/
def selectedRecord (s : State) (h : Half) : Option EpRecord :=
  let w := kreg s .ses (halfIdx h) 0x080
  let x := getSes s (fieldOf w 11 0)
  if x.st ≠ .empty ∧ x.home = h then x.records[b2n (bitOf w 12)]? else none

/-- A word of a record (R197). -/
def EpRecord.word (r : EpRecord) (xsel off : Nat) : Nat :=
  match off with
  | 0x084 => r.num
  | 0x088 => r.outcome % 4 + 2 ^ 8 * (r.reason % 256)
  | 0x08C => r.expected
  | 0x090 => r.reduced
  | 0x094 => r.discFailed
  | 0x098 => r.discTile
  | 0x09C => r.discSettled
  | 0x0A0 => r.reclaimed
  | 0x0A4 => r.uncredited
  | 0x0A8 => r.retiredUe
  | 0x0AC => r.resultLost
  | 0x0B0 => r.lateAfter
  | 0x0B4 => r.excluded.length
  | 0x0BC =>
    match r.excluded[xsel]? with
    | some e => e.1 % 8192 + 2 ^ 13 * e.2
    | none => 0
  | _ => 0

/-- Words of a SES engine page (R178, R197). -/
def readSes (s : State) (h : Half) (off : Nat) : Word :=
  if 0x084 ≤ off ∧ off ≤ 0x0BC ∧ off ≠ 0x0B8 then
    match selectedRecord s h with
    | some r => w32 (r.word (kregN s .ses (halfIdx h) 0x0B8) off)
    | none => if off = 0x084 then 0xFFFFFFFF else 0
  else kreg s .ses (halfIdx h) off

/-- Word n of a session's status entry (R180). -/
def Session.statusWord (x : Session) (n : Nat) : Nat :=
  match n with
  | 0 => sesCode x.st + 8 * b2n x.restart + 2 ^ 8 * x.pid + 2 ^ 14 * halfIdx x.home
  | 1 => x.epoch
  | 2 => epCode x.eps.a.st % 16 + 16 * (epCode x.eps.b.st % 16) + 2 ^ 8 * (x.lastOutcome % 4) + 2 ^ 16 * (x.lastReason % 256)
  | 3 => x.issued - x.returned
  | 4 => x.issued
  | 5 => x.issued / 2 ^ 32
  | 6 => x.returned
  | 7 => x.returned / 2 ^ 32
  | 8 => x.late
  | 9 => x.dup
  | 10 => x.authBad
  | 11 => x.crcBad
  | 12 => x.reduced
  | 13 => x.discarded
  | _ => 0

/-- Words of a SES status page. -/
def readSesStat (s : State) (k off : Nat) : Word :=
  let n := (off - 0x040) / 4
  w32 ((getSes s (64 * k + n / 14)).statusWord (n % 14))

/-! ### Ports and stacks -/

/-- PORT_STATUS (R277). -/
def portStatus (s : State) (p : Nat) : Nat :=
  let x := getPort s p
  let on := pageIsOn s .port p || decide (pageSt s .port p = .stopping)
  let gates := maskOf ((List.range 4).filter fun k => on && gateAt s p k (countOf s (portHalf p)))
  x.held % 256 + 2 ^ 8 * (x.out % 256) + 2 ^ 16 * gates + 2 ^ 20 * b2n x.ready.isSome + 2 ^ 21 * b2n x.bank +
    2 ^ 22 * b2n (on && !hasTime s (portHalf p))

/-- A stored word that Mitten may coarsen for the operator (R314, R405). -/
def mitReg (s : State) (k : PageKind) (i off : Nat) : Word :=
  if mittened s (pageNo k i) off then w32 (mittenOf (s.mitRegs.get 0 (regAddr k i off))) else kreg s k i off

/-- Words of a PORT page (R277 to R279). -/
def readPort (s : State) (p off : Nat) : Word :=
  match off with
  | 0x040 => w32 (portStatus s p)
  | 0x058 => w32 (sumOf ((List.range 4).map fun k => 2 ^ (8 * k) * min 255 ((getPort s p).txcr.getD k 0)))
  | _ => mitReg s .port p off

/-- The code of a region's state, and of a channel's (R300). -/
def RegSt.code : RegSt → Nat
  | .free => 0
  | .allocating => 1
  | .owned => 2
  | .migrating => 3
  | .teardown => 4
  | .retired => 5

def ChSt.code : ChSt → Nat
  | .inService => 0
  | .draining => 1
  | .retired => 2

/-- A pin field with its VALID. -/
def pinField (o : Option Nat) : Nat := match o with
  | some n => n % 32 + 32
  | none => 0

/-- Words of a MEM stack page (R300). What the stack itself tells is known once its PHY has been trained (R299). -/
def readMem (s : State) (k off : Nat) : Word :=
  let up := decide (pageSt s .mem k = .on) || decide (pageSt s .mem k = .stopping)
  let sel := fieldOf (kreg s .mem k 0x044) 4 0
  let c := getCh s k sel
  let e := s.memLog.find (64 * k + fieldOf (kreg s .mem k 0x068) 13 8)
  let r := getRegion s (fieldOf (kreg s .mem k 0x080) 18 0)
  match off with
  | 0x040 => w32 (maskOf ((List.range 32).filter fun n => up && decide ((getCh s k n).st = .inService)))
  | 0x048 => if up then w32 (c.st.code + 2 ^ 4 * pinField c.pin0 + 2 ^ 10 * pinField c.pin1 + 2 ^ 16 * (spareLeft s k sel % 4096)) else 0
  | 0x04C => w32 c.ce
  | 0x050 => w32 c.ue
  | 0x070 => w32 (e.elim 0 (·.ft))
  | 0x074 => w32 (e.elim 0 (·.ft) / 2 ^ 32)
  | 0x078 => w32 (e.elim 0 fun x => x.prn % 2 ^ 19 + 2 ^ 19 * (x.pseudo % 2) + 2 ^ 20 * (x.kind % 4))
  | 0x07C => w32 (e.elim 0 fun x => x.line % 2 ^ 15 + 2 ^ 16 * (x.src % 4096))
  | 0x084 => w32 (r.st.code + 2 ^ 8 * (r.pid % 64) + 2 ^ 16 * (r.gen % 65536))
  | 0x088 => w32 r.epoch
  | 0x08C => w32 (r.epoch / 2 ^ 32 % 256)
  | _ => kreg s .mem k off

/-! ### Weathervane and trace -/

/-- Words of a WV control page (R236). -/
def readWv (s : State) (h : Half) (off : Nat) : Word :=
  let l := srsOf s.cfg h
  let on := pageIsOn s .wv (halfIdx h)
  match off with
  | 0x040 => w32 ((l.filter fun sr => on && decide (srRoleOf s sr = 0)).length % 64 + 2 ^ 16 * (sumOf (l.map (srLoad s)) % 4096))
  | 0x05C => w32 (s.reports.get h).length
  | _ => kreg s .wv (halfIdx h) off

/-- Words of a shadow-reducer page (R237). -/
def readWvSr (s : State) (sr off : Nat) : Word :=
  match off with
  | 0x040 => w32 (srRouter ((kindHalf s.cfg .wvSr sr).getD .a) sr + 2 ^ 28 * halfIdx ((kindHalf s.cfg .wvSr sr).getD .a) + 2 ^ 29 * srRoleOf s sr + 2 ^ 31)
  | 0x044 => w32 (srLoad s sr)
  | _ => kreg s .wvSr sr off

/-- The streams of the unit sources of a half. -/
def unitStreams (s : State) (h : Half) : List Stream :=
  (s.streams.cells.filter fun c => decide (4096 ≤ c.1) && decide (keyHalf s c.1 = h)).map (·.2)

/-- Words of a TRC funnel page (R386). -/
def readFunnel (s : State) (h : Half) (off : Nat) : Word :=
  let l := unitStreams s h
  let gen := sumOf (l.map (·.gen))
  let lost := sumOf (l.map (·.lost))
  match off with
  | 0x050 => w32 gen
  | 0x054 => w32 (gen / 2 ^ 32)
  | 0x058 => w32 lost
  | 0x05C => w32 (lost / 2 ^ 32)
  | 0x060 => w32 (sumOf (l.map fun x => pktRecs x.pkts))
  | _ => kreg s .funnel (halfIdx h) off

/-- Words of a TRC channel page (R388). -/
def readChan (s : State) (c off : Nat) : Word :=
  let x := getChan s c
  match off with
  | 0x068 => w32 (x.frames.length % 128 + 2 ^ 8 * b2n x.keyed + 2 ^ 9 * b2n x.frozen + 2 ^ 10 * b2n x.routeDown + 2 ^ 16 * (x.keyEpoch % 65536))
  | 0x088 => w32 x.held
  | 0x090 => w32 x.seq
  | 0x094 => w32 (x.seq / 2 ^ 32)
  | _ => kreg s .chan c off

/-! ### Counters -/

/-- A counter's value in its two words (R408). -/
def ctrWord (v : Nat) (upper : Bool) : Word :=
  if upper then w32 (v / 2 ^ 32 % 65536 + 2 ^ 16 * b2n (decide (v = ctrMax))) else w32 v

/-- A Mittened counter in its two words: the quantised copy, saturated where the copy is (R405). -/
def mitWord (v : Nat) (upper : Bool) : Word :=
  if upper then w32 (mittenOf v / 2 ^ 32 % 65536 + 2 ^ 16 * b2n (decide (v = ctrMax))) else w32 (mittenOf v)

/-- Bank counter k (R400, R404, R405, R408). -/
def bankCnt (s : State) (b k : Nat) (upper : Bool) : Word :=
  let x := getBank s b
  if bankOwner s b ≠ 0 then mitWord (x.mitten.get 0 k) upper
  else if bitOf (kreg s .bank b 0x070) 0 then ctrWord (x.kept.elim 0 fun c => c.ctrs.getD k 0) upper
  else ctrWord (x.ctrs.get 0 k) upper

/-- Tile counter k of the selected logical tile. -/
def bankTcnt (s : State) (b k : Nat) (upper : Bool) : Word :=
  let x := getBank s b
  let w := kreg s .bank b 0x070
  let lt := fieldOf w 25 16
  match (governed s b).find? fun t => decide (t.1 = lt) with
  | none => 0
  | some t =>
    if bankOwner s b ≠ 0 then mitWord (s.mitTile.get 0 (16 * t.2 + k)) upper
    else if bitOf w 0 then
      ctrWord (x.kept.elim 0 fun c => ((c.tiles.find? fun q => decide (q.1 = lt)).elim 0 fun q => q.2.2.2.getD k 0)) upper
    else ctrWord ((getTile s t.2).ctrs.get 0 k) upper

/-- Words of a counter-bank page (R408). -/
def readBank (s : State) (b off : Nat) : Word :=
  let x := getBank s b
  if 0x200 ≤ off ∧ off ≤ 0x27C then bankTcnt s b ((off - 0x200) / 8) (decide (off % 8 = 4))
  else if 0x180 ≤ off ∧ off < 0x200 then bankCnt s b ((off - 0x180) / 8) (decide (off % 8 = 4))
  else if off = 0x060 then
    let tiles := if bankOpen s b then (governed s b).length else 0
    w32 (b2n (bankPending s b) + 2 * (x.par % 2) + 2 ^ 16 * (tiles % 2048))
  else kreg s .bank b off

/-! ### Calm, spares and arbiters -/

/-- CALM_STATUS (R430). -/
def calmStatus (c : Calm) : Nat :=
  let st := match c.st with
    | .idle => 0
    | .capture => 1
    | .stopped => 2
  st + 8 * b2n c.quiet.isSome + 16 * b2n c.dumped + 32 * b2n c.block + 64 * b2n c.cmd.isSome + 2 ^ 8 * c.cmd.elim 0 (·.1) +
    2 ^ 16 * c.lastRefusal

/-- Words of a CALM page (R430). -/
def readCalm (s : State) (h : Half) (off : Nat) : Word :=
  let c := s.calm.get h
  match off with
  | 0x040 => w32 (calmStatus c)
  | 0x050 => wordOf64 c.t false
  | 0x054 => wordOf64 c.t true
  | 0x058 => wordOf64 c.e false
  | 0x05C => wordOf64 c.e true
  | 0x060 => wordOf64 (c.quiet.getD allOnes64) false
  | 0x064 => wordOf64 (c.quiet.getD allOnes64) true
  | 0x06C => w32 c.inCut.length
  | 0x070 => w32 c.outside.length
  | 0x074 => w32 c.openCredits
  | 0x078 => w32 c.store.length
  | 0x088 => w32 (c.wf.length % 2 ^ 17 + 2 ^ 31 * b2n c.wfCut)
  | _ => kreg s .calm (halfIdx h) off

/-- The unit that SPR_WEAR_SEL selects, as the wear counts number it (R432, R450). -/
def wearSel (s : State) (h : Half) : Nat × Nat :=
  let w := kreg s .spr (halfIdx h) 0x060
  (fieldOf w 3 0, fieldOf w 19 4)

/-- A wear count of the selection: where one page number stands for several units, their sum. -/
def wearOf (m : Tbl Nat) (kind unit : Nat) : Nat :=
  let all (f : Nat → Nat) : Nat := sumOf ((m.cells.filter fun c => decide (c.1 / 2 ^ 40 = kind) && decide (f (c.1 % 2 ^ 40) = unit)).map (·.2))
  match kind with
  | 7 => all (· / 32)
  | 8 => all (· / 1024)
  | 9 => all (· / 2048)
  | _ => m.get 0 (wearKey kind unit)

/-- Words of an SPR page (R450). -/
def readSpr (s : State) (h : Half) (off : Nat) : Word :=
  let q := wearSel s h
  let life := wearOf s.wearLife q.1 q.2
  match off with
  | 0x058 => w32 ((spareTiles s h).length + 2 ^ 8 * ((srsOf s.cfg h).filter fun sr => decide (srRoleOf s sr = 1)).length +
      2 ^ 12 * s.frameSpares.get h)
  | 0x05C => w32 (s.fuseUsed.get h + 2 ^ 31 * b2n (s.fuseFull.get h))
  | 0x064 => w32 life
  | 0x068 => w32 (life / 2 ^ 32)
  | 0x06C => w32 (wearOf s.wearDay q.1 q.2)
  | _ => kreg s .spr (halfIdx h) off

/-- A target is drained (R249). -/
def arbDrained (s : State) (k : PageKind) (i t : Nat) : Bool :=
  arbFrozen s k i t && !(getArb s (arbKey k i t)).reqs.any Req.inBurst

/-- ARB_T_STATUS (R255). -/
def arbStatus (s : State) (k : PageKind) (i t : Nat) : Nat :=
  let a := getArb s (arbKey k i t)
  let l := a.reqs.filter fun r => !r.inBurst
  min 255 (l.map (·.src)).eraseDups.length + 2 ^ 8 * (suspended a % 16) + 2 ^ 16 * b2n (arbFrozen s k i t) + 2 ^ 17 * b2n (arbDrained s k i t) +
    2 ^ 18 * b2n (a.reqs.any Req.inBurst) + 2 ^ 19 * b2n (decide (k = .arbBridge) && inSplit s)

/-- Words of an ARB page (R255). -/
def readArb (s : State) (k : PageKind) (i off : Nat) : Word :=
  if off = 0x048 then w32 (maskOf ((List.range (arbTargets k)).filter (arbDrained s k i)))
  else if 0x100 ≤ off then
    let t := (off - 0x100) / 0x20
    match (off - 0x100) % 0x20 with
    | 0x00 => if t < arbTargets k then w32 (arbStatus s k i t) else 0
    | 0x04 =>
      match oldestReq s (pageNo k i) ((getArb s (arbKey k i t)).reqs.filter fun r => !r.inBurst) with
      | some r => if t < arbTargets k then w32 (ageOf s (pageNo k i) r) else 0
      | none => 0
    | _ => kreg s k i off
  else kreg s k i off

/-! ### Tiles -/

/-- LULL of TILE_STATUS. -/
def lullCode (x : Tile) : Nat :=
  match x.lull with
  | .awake => 0
  | .asleep l => l
  | .entering _ => 4
  | .waking _ => 5

/-- TILE_BIND (chapter 5). -/
def bindWord (v : Binding) (upper : Bool) : Nat :=
  if !v.valid then 0
  else if upper then v.accBase % 8192 + 2 ^ 16 * (v.accCount % 8192)
  else v.semStart % 64 + 2 ^ 6 * (v.semArrive % 64) + 2 ^ 12 * b2n (v.ep 0).owed + 2 ^ 13 * b2n (v.ep 1).owed +
    2 ^ 16 * (v.sid % 4096) + 2 ^ 31

/-- The trace words of a tile (R389), both streams together. -/
def tileTrace (s : State) (t off : Nat) : Nat :=
  let l := [getStream s (tileKey t false), getStream s (tileKey t true)]
  let ch (key : Nat) : Nat := match keyChan s key with
    | some c => c + 64
    | none => 0
  match off with
  | 0x200 => sumOf (l.map (·.gen))
  | 0x204 => sumOf (l.map (·.gen)) / 2 ^ 32
  | 0x208 => sumOf (l.map (·.lost))
  | 0x20C => sumOf (l.map (·.lost)) / 2 ^ 32
  | 0x210 => sumOf (l.map fun x => pktBytes x.pkts) + 2 ^ 16 * b2n (l.any fun x => decide (x.cap = .capturing)) +
      2 ^ 17 * b2n (l.any fun x => decide (x.cap = .frozen))
  | 0x214 => ch (tileKey t true) + 2 ^ 8 * ch (tileKey t false)
  | _ => 0

/-- Words of a TILE page (chapters 4 and 5, R389, R425). -/
def readTile (s : State) (t off : Nat) : Word :=
  let x := getTile s t
  let m := tileMap s t
  if 0x100 ≤ off ∧ off < 0x180 then w32 (bindWord (x.bind ((off - 0x100) / 8)) (decide (off % 8 = 4)))
  else
    match off with
    | 0x040 => w32 (m.logical.getD 0 + 2 ^ 29 * m.role + 2 ^ 31 * b2n m.logical.isSome)
    | 0x044 => w32 (lullCode x + 8 * b2n (gateForbids s t) + 2 ^ 8 * progCode s t + 2 ^ 24 * x.rxHeld)
    | 0x068 => wordOf64 (x.wakeFt.getD allOnes64) false
    | 0x06C => wordOf64 (x.wakeFt.getD allOnes64) true
    | 0x078 => w32 (x.pc % 1024 + 2 ^ 16 * (x.codeWords % 2048))
    | 0x220 => w32 (tileWait s t)
    | 0x224 => wordOf64 (tileWaitSince s t) false
    | 0x228 => wordOf64 (tileWaitSince s t) true
    | _ => if 0x200 ≤ off ∧ off ≤ 0x214 then w32 (tileTrace s t off) else kreg s .tile t off

/-! ### Every register -/

/-- A register at 0x040 or above as it reads live (R14): write-only registers, and offsets that no register has, read zero. -/
def liveWord (s : State) (k : PageKind) (i off : Nat) : Word :=
  match regRow k off with
  | none =>
    match k with
    | .mgmt => readMgmt s (halfOf i) off
    | _ => 0
  | some r =>
    if r.acc = .wo then 0
    else
      match k with
      | .blk => readBlk s off
      | .mgmt => readMgmt s (halfOf i) off
      | .ftu => readFtu s (halfOf i) off
      | .pwr => readPwr s (halfOf i) off
      | .partCtrl => readPartCtrl s off
      | .partMap => if rowOff .partMap off = 0x0BC then mitReg s .partMap i off else readPartMap s i off
      | .sec => readSec s off
      | .rtp => readRtp s (halfOf i) off
      | .ses => readSes s (halfOf i) off
      | .sesStat => readSesStat s i off
      | .port => readPort s i off
      | .mem => readMem s i off
      | .memFill => kreg s .memFill i off
      | .wv => readWv s (halfOf i) off
      | .wvSr => readWvSr s i off
      | .funnel => readFunnel s (halfOf i) off
      | .egress => kreg s .egress i off
      | .chan => readChan s i off
      | .prf => kreg s .prf i off
      | .bank => readBank s i off
      | .calm => readCalm s (halfOf i) off
      | .spr => readSpr s (halfOf i) off
      | .arbStack => readArb s k i off
      | .arbPort => readArb s k i off
      | .arbBridge => readArb s k i off
      | .arbFunnel => readArb s k i off
      | .tile => readTile s i off

/-- A register is read-only (R14): what a snapshot copies. -/
def isRo (k : PageKind) (off : Nat) : Bool :=
  match regRow k off with
  | some r => decide (r.acc = .ro)
  | none => false

/-- PAGE_CAP of a page (R472). -/
def pageCap (c : BlockCfg) (k : PageKind) (i : Nat) : Nat :=
  let half (n : Nat) : Nat := b2n (decide (kindHalf c k n = some .b))
  let arb (n : Nat) : Nat := n + 2 ^ 8 * b2n c.halfB + 2 ^ 9 + 2 ^ 12 * arbKind k
  match k with
  | .ftu => 1024
  | .pwr => 115 + 2 ^ 12 * 16 + 2 ^ 20 * c.baseAmps
  | .ses => 4096 + 2 ^ 16 * (Config.sesContributors % 8192)
  | .port => 8 * half i + 2 ^ 4 * 4 + 2 ^ 8 * 64 + 2 ^ 16 * 64 + 2 ^ 24 * 128
  | .mem => 8 * half i + 2 ^ 4 * 2 + 2 ^ 6 * 32 + 2 ^ 13 * 96 + 2 ^ 21 * 1440
  | .wv => c.srPerHalf + 2 ^ 8 * sparesPerHalf + 2 ^ 16 * 128 + 2 ^ 24 * b2n c.tensor
  | .funnel => 4096 + 2 ^ 16 * 32 + 2 ^ 24 * 17
  | .prf => 16 + 2 ^ 8 * 16 + 2 ^ 16 * 32
  | .calm => 2 ^ 8 * 256 + 2 ^ 20 * 1024
  | .spr => 2 + 2 ^ 4 * 2 + 2 ^ 8 * 2 + 2 ^ 12 * 4 + 2 ^ 16 * 32 + 2 ^ 24 * 255
  | .arbStack => arb 32
  | .arbPort => arb 1
  | .arbBridge => arb 1
  | .arbFunnel => arb 17
  | .tile => 3 + 8 * b2n c.tensor + 2 ^ 4 + 2 ^ 5 + 2 ^ 6 * 16 + 2 ^ 12 * 64 + 2 ^ 20 * 512
  | _ => 0

/-- The code of a page state. -/
def PageSt.code : PageSt → Nat
  | .off => 0
  | .starting => 1
  | .on => 2
  | .stopping => 3

/-- A schedule entry that is armed will take a snapshot of a page: ARMED of PAGE_SNAP. -/
def snapArmed (s : State) (pg : Nat) : Bool :=
  s.sched.cells.any fun c => decide (c.2.st = .armed) && decide (c.2.action = actSnapshot) && decide (c.2.page = pg)

/-- What a read-only register holds at reset (R43): what it reads of a block of these fuses right after reset, with what the stored
repairs, the fuses and the always-on records keep over it. -/
def resetWord (s : State) (k : PageKind) (i off : Nat) : Word :=
  let r := State.reset
  liveWord { r with
    cfg := s.cfg, tmap := s.tmap, srRole := s.srRole, minSvn := s.minSvn, wearLife := s.wearLife, fuseUsed := s.fuseUsed,
    frameSpares := s.frameSpares, power := { r.power with code := s.cfg.floor % 256 } } k i off

/-- A word of a page's header (R40 to R45, R472). -/
def headWord (s : State) (k : PageKind) (i off : Nat) : Word :=
  let pg := pageNo k i
  let p := getPage s pg
  match off with
  | 0x000 => w32 (i % 65536 + 2 ^ 16 * (Config.layoutVersion (kindType k) % 256) + 2 ^ 24 * kindType k)
  | 0x004 => w32 (pageCap s.cfg k i)
  | 0x008 => w32 (p.st.code + 8 * b2n p.restart + 2 ^ 8 * (p.owner % 64))
  | 0x00C => w32 (b2n p.enable + 2 * b2n p.freeze)
  | 0x010 => p.err
  | 0x014 => w32 p.errCnt
  | 0x018 => w32 p.ftLast
  | 0x01C => w32 (p.ftLast / 2 ^ 32)
  | 0x020 => w32 (2 * b2n p.view + 4 * b2n (snapArmed s pg))
  | 0x024 => w32 p.snapSeq
  | 0x028 => w32 (p.owner % 64 + 2 ^ 8 * b2n (kindShared k) + 2 ^ 16 * (p.gen % 65536))
  | _ => 0

/-- A register that holds a tenant's data values, which the operator may not read (R44, R314): TILE_NUM_STATUS and
TILE_NUM_SATCNT. -/
def readDenied (s : State) (k : PageKind) (i off : Nat) : Bool :=
  decide (k = .tile) && (decide (off = 0x180) || decide (off = 0x184)) && decide (tileOwner s i ≠ 0)

/-- WIN_CTRL of an open window is closed to the port that did not open it (R49). -/
def ctrlDenied (s : State) (port : Half) (k : PageKind) (i off : Nat) : Bool :=
  let x := getWin s (halfOf i) ((off - 0x100) / 0x20)
  decide (k = .mgmt) && decide (0x100 ≤ off) && decide (off < 0x180) && decide ((off - 0x100) % 0x20 = 0x04) &&
    decide (x.st = .opened) && decide (x.port ≠ port)

/-- What a read returns: its response and its data (R9, R33, R38, R43, R44). -/
def readWord (s : State) (port : Half) (addr : Nat) : Nat × Word :=
  let pg := addr / 4096
  let off := addr % 4096 / 4 * 4
  match pageOf pg with
  | none => (respDecode, 0)
  | some (k, i) =>
    if kindBeyond s.cfg k i then (respDecode, 0)
    else if !kindFitted s.cfg k i then (respOkay, 0)
    else if unreachable s port k i && !(decide (k = .mgmt) && decide (off = 0x040) && !halfDown s (halfOf i)) then (respHalfDown, 0)
    else if off < 0x040 then (if 0x02C ≤ off then (respDecode, 0) else (respOkay, headWord s k i off))
    else if readDenied s k i off || ctrlDenied s port k i off then (respDenied, 0)
    else
      let p := getPage s pg
      if p.view && isRo k off then (respOkay, (p.snap.find off).getD (resetWord s k i off))
      else (respOkay, liveWord s k i off)

/-! ### 64-bit reads (R37) -/

/-- FTU_FRAC: the fraction of the FTU_NOW that is read. -/
def noteFrac (s : State) (addr : Nat) : State :=
  match pageOf (addr / 4096) with
  | some (.ftu, i) => if addr % 4096 = 0x048 then setKreg s .ftu i 0x050 (w32 (countOf s (halfOf i) % 2304 / 9)) else s
  | _ => s

/-- The address is the lower word of a 64-bit register. -/
def lowerOf64 (addr : Nat) : Bool :=
  match pageOf (addr / 4096) with
  | some (k, _) => isPairLow k (addr % 4096)
  | none => false

/-- Change a port's latches. -/
def onLatch (s : State) (port : Half) (f : Tbl Word → Tbl Word) : State :=
  { s with mports := s.mports.put port { s.mports.get port with latch := f (s.mports.get port).latch } }

/-! ### Snapshots (R43) -/

/-- The read-only registers of a page that differ from their reset values. -/
def snapshotOf (s : State) (k : PageKind) (i : Nat) : Tbl Word :=
  ((List.range 1008).map fun n => 0x040 + 4 * n).foldl (fun m off =>
    if isRo k off then
      let w := liveWord s k i off
      if w = resetWord s k i off then m else m.set off w
    else m) .empty

/-- Take a snapshot of a page (R43). -/
def takeSnapshot (s : State) (pg : Nat) : State :=
  withPage s pg fun k i => onPage s pg fun p => { p with snap := snapshotOf s k i, snapSeq := (p.snapSeq + 1) % 2 ^ 32 }

/-- TAKE (R43): a write of PAGE_SNAP with TAKE 1, and its VIEW. -/
def execTake (port : Half) (page : Nat) (view : Bool) (s : State) : Out :=
  mgmtWrite s port page fun s => okay (takeSnapshot (onPage s page fun p => { p with view := view }) page) port

/-- SNAPSHOT_ACTION (R43, R59): the page's snapshot is taken at the end of this cycle, with the cycle's events. -/
def execSnapshotAction (h : Half) (entry : Nat) (s : State) : Out :=
  schedOut s h entry actSnapshot (fun _ => true) fun s e =>
    if (pageRefuses s h e.page).isSome then s else { s with ends := s.ends ++ [(e.page, false)] }

end Sys2Proof.Machine
end

