-- ==== Sys2Proof/Machine/Cycle.lean ====
section
/-! DEFINITION. What a CLK_CORE cycle in which no command comes does: the effects that time alone has. -/

namespace Sys2Proof.Machine

/-- One FTU through one cycle: the count takes the rate value, within its 72 bits of 1/256 ns (before R52). A standby or
stopped FTU advances too (R70, R241). -/
def ftuCycle (f : Ftu) : Ftu := { f with count := (f.count + f.rate) % (2 ^ 72 * 9) }

/-- The action of entry n, as its command takes it (R59). -/
def fireEntry (s : State) (h : Half) (n : Nat) : State :=
  let a := (getEntry s h n).action
  stateAfter s (
    if a = actCalm then execCalmAction h n s
    else if a = actSnapshot then execSnapshotAction h n s
    else if a = actInterval then execIntervalAction h n s
    else if a = actSlotSwitch then execSlotSwitchAction h n s
    else if a = actEpochStart then execEpochStartAction h n s
    else if a = actPageCtrl then execPageCtrlAction h n s
    else if a = actLullGate then execLullGateAction h n s
    else if a = actBypass then execBypassAction h n s
    else if (getEntry s h n).atFunnel && decide ((getEntry s h n).reportKind = 2) then execGustFire h n s
    else if (getEntry s h n).atFunnel then execReportDrainAction h n s
    else execReportWvAction h n s)

/-- Entries whose cycle this is fire in it, in their order (R57, R59), where no command has fired them: at most so many. -/
def fireDue (h : Half) : Nat → State → State
  | 0, s => s
  | k + 1, s =>
    match (s.sched.cells.map (·.1 % 1024)).find? fun n => fires s h n with
    | some n => fireDue h k (fireEntry s h n)
    | none => s

/-- An interval of a bank closes at the end of the cycle (R69, R395), and the last one of a bank that stops (R406). -/
def closeInterval (s : State) (pg : Nat) : State :=
  match pageOf pg with
  | some (.bank, b) =>
    if pageIsOn s .bank b then boundary s b false
    else if bankOpen s b then onBank (boundary s b true) b fun x => { x with stopping := true }
    else s
  | _ => s

/-- The snapshots and then the intervals that end with this cycle (R43, R59, R69). -/
def endCycle (s : State) : State :=
  let s1 := (s.ends.filter fun e => !e.2).foldl (fun u e => takeSnapshot u e.1) { s with ends := [] }
  (s.ends.filter (·.2)).foldl (fun u e => closeInterval u e.1) s1

/-- Every entry of a half's schedule that must fire in this cycle. -/
def fireHalf (s : State) (h : Half) : State := fireDue h s.sched.cells.length s

/-- Partitions of which a meter that was red one cycle ago is red no more (R275). -/
def refilled (s : State) : List Nat :=
  (s.meters.cells.filter fun m =>
    meterRed { s with cyc := s.cyc - 1 } (m.1 / 64) (m.1 % 64) && !meterRed s (m.1 / 64) (m.1 % 64)).map (·.1 % 64)

/-- GRANTs that a meter held back may leave now that it has filled (R275): the engine goes on with the partitions' sessions. -/
def refillTick (s : State) : State :=
  let l := refilled s
  if l = [] then s
  else ((s.sessions.cells.filter fun x => decide (x.2.st ≠ .empty) && l.contains x.2.pid).map (·.1)).foldl react s

/-- What the channels of the stacks do in a cycle, and what asks them of itself: the engines, the RING channels and the drain DMA
(R290 to R294, R378, R400). -/
def stackTick (s : State) : State := drainTick (ringTick (fillTick (fillTick (entryTick s) .a) .b))

/-- The cycle ends: what time alone moves at its end (R57, R69, R275, R277, R290 to R294, R307, R391 to R400, R413, R448). -/
def cycleWork (s : State) : State :=
  endCycle (slewTick (swapTick (swapTick (autoTick (profileTick (portsTick (refillTick (stackTick (fireHalf (fireHalf s .a) .b)))))) .a) .b))

/-- One CLK_CORE cycle in which no command comes: what this cycle counts, and then the next cycle with its FT counts. -/
def idle (s : State) : State :=
  let t := cycleWork s
  { t with cyc := t.cyc + 1, ftu := ⟨ftuCycle t.ftu.a, ftuCycle t.ftu.b⟩ }

end Sys2Proof.Machine
end

