-- ==== Sys2Proof/Machine/Egress.lean ====
section
/-! DEFINITION. Requests that leave an arbiter (R243, R276): ARB_GRANT and FLUSH, and what the session engine does once a cell of a
session waits no longer (R173), and an RTP once a chunk is written (R339). -/

namespace Sys2Proof.Machine

/-- The cells at an arbitrated target. -/
def cellsAt (s : State) (key : Nat) : List Cell :=
  (getArb s key).reqs.filterMap fun r => match r.what with
    | .cell c => some c
    | _ => none

/-- The sessions whose cells have left a target. -/
def cellsGone (before after : State) (key : Nat) : List Nat :=
  let now := cellsAt after key
  (((cellsAt before key).filter fun c => decide (c.kind ≤ 3) && !now.contains c).map (·.sid)).eraseDups

/-- Each of those sessions goes on. -/
def afterCells (before after : State) (key : Nat) : State := (cellsGone before after key).foldl react after

/-- ARB_GRANT (R243): one arbitration phase of target t of an ARB page. -/
def execArbGrant (page target : Nat) (s : State) : Out :=
  match arbPage page with
  | none => .fault .noSuchUnit
  | some (k, i) =>
    if !kindFitted s.cfg k i then .fault .absentUnit
    else if arbTargets k ≤ target then .fault .noSuchUnit
    else .next (settleChunks (afterCells s (arbitrate s k i target) (arbKey k i target)))

/-- Withdraw every waiting cell of a port and count each (R276). A cell whose first flit has been granted passes whole (R244); of one that
is withdrawn, a flit still in the mesh goes with it. -/
def flushPort (s : State) (p : Nat) : State :=
  let key := arbKey .arbPort p 0
  let a := getArb s key
  let keep := a.reqs.filter fun r => decide (0 < r.done)
  let gone := a.reqs.filterMap fun r => match r.what with
    | .cell c => if r.done = 0 then some c else none
    | _ => none
  let s1 := dropFlits (putArb s key { a with reqs := keep }) fun w => match w with
    | .cell q c => decide (q = p) && gone.contains c
    | _ => false
  satReg s1 .port p 0x084 (a.reqs.length - keep.length)

/-- FLUSH (R276): a management write of FLUSH to a STOPPING port; in any other state it changes nothing and sets ACCESS. -/
def execFlush (port : Half) (p : Nat) (s : State) : Out :=
  mgmtWriteK s port .port p fun s =>
    if pageSt s .port p = .stopping then okay (afterCells s (flushPort s p) (arbKey .arbPort p 0)) port
    else okay (accessErr s .port p) port

end Sys2Proof.Machine
end

