-- ==== Sys2Proof/Machine/Mgmt.lean ====
section
/-! DEFINITION. Windows and register writes (R31 to R50, R473, R474, R476): WIN_OPEN, WIN_CLOSE, ABORT, WIN_DATA_WRITE,
WIN_DATA_READ, REGISTER_WRITE, which leads a write of a command register to that command, and the reads WORD64_LOWER_READ and
WORD64_UPPER_READ. -/

namespace Sys2Proof.Machine

/-! ### Window targets (R473, R474) -/

/-- The numbering of a target in any variant: how many units it can name; none for a reserved code. -/
def targetCount : Nat → Option Nat
  | 1 => some 2
  | 2 => some 2
  | 3 => some 4096
  | 4 => some 4096
  | 5 => some 64
  | 6 => some 2
  | 7 => some 1088
  | 8 => some 64
  | 9 => some 2
  | 10 => some 2
  | _ => none

/-- A target takes a direction: true to write. -/
def targetTakesDir (code : Nat) (dir : Bool) : Bool :=
  if code = 1 then dir else if code = 2 ∨ 8 ≤ code then !dir else true

/-- The half of a target's unit. A session that is EMPTY belongs to no half. -/
def targetHalf (s : State) (code inst : Nat) : Option Half :=
  match code with
  | 3 => if (getSes s inst).st = .empty then none else some (getSes s inst).home
  | 4 => if (getSes s inst).st = .empty then none else some (getSes s inst).home
  | 5 => some (portHalf inst)
  | 7 => kindHalf s.cfg .tile inst
  | 8 => kindHalf s.cfg .chan inst
  | _ => some (halfOf inst)

/-- The unit of a target is fitted. -/
def targetFitted (s : State) (code inst : Nat) : Bool :=
  match targetHalf s code inst with
  | some h => s.cfg.hasHalf h
  | none => true

/-- A port cannot reach the unit of a target (R33, R35). -/
def targetCut (s : State) (port : Half) (code inst : Nat) : Bool :=
  match targetHalf s code inst with
  | some h => halfDown s h || (decide (h ≠ port) && inSplit s)
  | none => false

/-- A target unit is open in a window of the block, or one still waits for its decision (R49). -/
def targetTaken (s : State) (code inst : Nat) : Bool :=
  s.wins.cells.any fun c => decide (c.2.st ≠ .closed) && decide (c.2.target = code) && decide (c.2.inst = inst)

/-- A tile of a tenant: its SRAM is closed to the windows (R49). -/
def sramDenied (s : State) (code inst : Nat) : Bool := decide (code = 7) && decide (tileOwner s inst ≠ 0)

/-- The extent of a target in words (R473); the mailboxes and the trace route are streams. A dump and a wait-for store are as long as
their chapters lay them out (R420, R426). -/
def targetExtent (s : State) (code inst : Nat) : Option Nat :=
  match code with
  | 3 => some 16
  | 4 => some 32768
  | 5 => some 132
  | 6 => some 8192
  | 7 => some 131072
  | 9 => some ((dumpBytes s (halfOf inst)).length / 4)
  | 10 => some ((wfBytes s (halfOf inst)).length / 4)
  | _ => none

/-- The response to an open of a closed window (R33, R49, R419, R474). -/
def openRefusal (s : State) (port : Half) (x : Window) (dir : Bool) : Option Nat :=
  let code := fieldOf x.sel 7 0
  let inst := fieldOf x.sel 23 8
  match targetCount code with
  | none => some respDecode
  | some n =>
    if n ≤ inst || !targetTakesDir code dir then some respDecode
    else if !targetFitted s code inst then some respAbsent
    else if targetCut s port code inst then some respHalfDown
    else if decide (x.st = .deciding) || targetTaken s code inst then some respState
    else if sramDenied s code inst then some respDenied
    else if code = 9 ∧ (s.calm.get (halfOf inst)).dumped = false then some respState
    else none

/-- A write to a window's registers: the window exists, and its page answers. -/
def winWrite (port mgmt : Half) (w : Nat) (f : State → State) (s : State) : Out :=
  if 4 ≤ w then .fault .noSuchUnit else mgmtWriteK s port .mgmt (halfIdx mgmt) f

/-- The page of a window. -/
def winPage (mgmt : Half) : Nat := pageNo .mgmt (halfIdx mgmt)

/-- A write of a window ends in a response; DENIED and STATE set ACCESS. -/
def winAnswer (s : State) (port mgmt : Half) (code : Nat) : State :=
  if code = respDenied ∨ code = respState then turnAway s port (winPage mgmt) code else respond s port code 0

/-! ### Opening and closing (R50, R474) -/

/-- The window opens: its counts begin, and a tile's SRAM is powered (R84, R89). -/
def openWin (s : State) (port mgmt : Half) (w : Nat) (dir : Bool) : State :=
  let x := getWin s mgmt w
  let y : Window := { x with
    held := x.sel, st := .opened, dir := dir, count := 0, crc := 0, committed := false, rejected := false, port := port, staged := [] }
  let s1 := putWin s mgmt w y
  if y.target = 7 then sramOpened s1 y.inst else s1

/-- WIN_OPEN (R49, R474): WIN_CTRL is written with OPEN 1 and ABORT 0. -/
def execWinOpen (port : Half) (mgmt : Half) (w : Nat) (dir : Bool) (s : State) : Out :=
  winWrite port mgmt w (fun s =>
    let x := getWin s mgmt w
    if x.st = .opened then
      winAnswer s port mgmt (if x.port ≠ port then respDenied else if x.dir = dir then respOkay else respState)
    else
      match openRefusal s port x dir with
      | some c => winAnswer s port mgmt c
      | none => okay (openWin s port mgmt w dir) port) s

/-- The words of a message in the order of their offsets from the first (R320). -/
def messageWord (x : Window) (n : Nat) : Nat :=
  match x.staged.reverse[n]? with
  | some p => p.2.toNat
  | none => 0

/-- A message's kind is one of R320, and so is the code of a command. -/
def messageKnown (x : Window) : Bool :=
  let k := messageWord x 0
  decide (k = codeImage) || decide (k = codeHeader) || decide (k = codeChunk) ||
    (decide (k = 0x434D4431) && decide (1 ≤ messageWord x 1 % 256) && decide (messageWord x 1 % 256 ≤ 9))

/-- An RTP takes a message that a window has closed on (R320): one of an unknown kind is rejected at once, and any other waits for the
command that carries it out. -/
def handMessage (s : State) (mgmt : Half) (w : Nat) : State :=
  let x := getWin s mgmt w
  if messageKnown x then s
  else
    let cmd := decide (messageWord x 0 = 0x434D4431)
    let tag := if cmd then bitsOf (messageWord x 1) 23 8 else 0
    let code := if cmd then messageWord x 1 % 256 else messageWord x 0
    rtpAnswer (decideWin s mgmt w false) (halfOf x.inst) tag stFormat code []

/-- An open window closes (R50): a read window at once, a write window with what its target decides. The words of tile SRAM are written
already. -/
def closeWin (s : State) (mgmt : Half) (w : Nat) : State :=
  let x := getWin s mgmt w
  if !x.dir then putWin s mgmt w { x with st := .closed }
  else if x.target = 7 then decideWin s mgmt w true
  else
    let s1 := putWin s mgmt w { x with st := .deciding }
    if x.target = 1 then handMessage s1 mgmt w else s1

/-- WIN_CLOSE (R50, R474): WIN_CTRL is written with OPEN 0 and ABORT 0. -/
def execWinClose (port : Half) (mgmt : Half) (w : Nat) (_dir : Bool) (s : State) : Out :=
  winWrite port mgmt w (fun s =>
    let x := getWin s mgmt w
    if x.st ≠ .opened then okay s port
    else if x.port ≠ port then winAnswer s port mgmt respDenied
    else okay (closeWin s mgmt w) port) s

/-- ABORT (R50, R474): an open window closes without commit; on a closed one the command has no effect. -/
def execAbort (port : Half) (mgmt : Half) (w : Nat) (s : State) : Out :=
  winWrite port mgmt w (fun s =>
    let x := getWin s mgmt w
    if x.st ≠ .opened then okay (accessErr s .mgmt (halfIdx mgmt)) port
    else if x.port ≠ port then winAnswer s port mgmt respDenied
    else okay (putWin s mgmt w { x with st := .closed, staged := [] }) port) s

/-! ### Data (R48) -/

/-- A word has moved (R48). -/
def Window.moved (x : Window) (data : Word) : Window :=
  { x with addr := x.addr + 1, count := x.count + 1, crc := BitVec.ofNat 32 (crcOn x.crc.toNat (leBytes 4 data.toNat)) }

/-- Why a data access of a window is turned away before its target is asked (R33, R35, R44, R49, R473). -/
def dataRefusal (s : State) (port : Half) (x : Window) (dir : Bool) : Option Nat :=
  if x.st ≠ .opened then some respState
  else if x.port ≠ port then some respDenied
  else if x.dir ≠ dir then some respState
  else if targetCut s port x.target x.inst then some respHalfDown
  else if sramDenied s x.target x.inst then some respDenied
  else
    match targetExtent s x.target x.inst with
    | some n => if n ≤ x.addr.toNat then some respDecode else none
    | none => none

/-- A tile's SRAM can take or give words: it is powered, and its zero-fill is over (R89). -/
def sramReady (s : State) (t : Nat) : Bool := (getTile s t).sramOn && (getTile s t).fillEnd.isNone

/-- WIN_DATA_WRITE (R48): one word moves to the target. The words of tile SRAM are written as they arrive; those of any other target
wait for the close. -/
def execWinDataWrite (port : Half) (mgmt : Half) (w : Nat) (data : Word) (s : State) : Out :=
  winWrite port mgmt w (fun s =>
    let x := getWin s mgmt w
    match dataRefusal s port x true with
    | some c => winAnswer s port mgmt c
    | none =>
      if x.target = 7 then
        if sramReady s x.inst then
          let s1 := onTile s x.inst fun t => t.writeSram (4 * x.addr.toNat) (leBytes 4 data.toNat)
          okay (putWin s1 mgmt w (x.moved data)) port
        else respond (sramOpened s x.inst) port respWait 0
      else okay (putWin s mgmt w { x.moved data with staged := (x.addr.toNat, data) :: x.staged }) port) s

/-- Word i of entry c of a contributor table (R153). -/
def tableReadWord (x : Session) (a : Nat) : Word :=
  match (x.bank x.newest)[a / 4]? with
  | none => 0
  | some c =>
    match a % 4 with
    | 0 => w32 (c.first + 2 ^ 17 * c.type + 2 ^ 20 * b2n c.enabled)
    | 1 => w32 (c.count + 2 ^ 18 * c.peerSid)
    | 2 => w32 c.pfa
    | _ => w32 (c.window + 2 ^ 8 * c.expectAdd + 2 ^ 28 * ctCode (x.ctst (a / 4)).1)

/-- Word i of a list of bytes. -/
def byteWord (l : List Byte) (i : Nat) : Word := w32 (leNat ((l.drop (4 * i)).take 4))

/-- The word that a read window gives, and the state after it; none where the target is empty (R48). -/
def readTarget (s : State) (x : Window) : Option (Word × State) :=
  let a := x.addr.toNat
  let h := halfOf x.inst
  match x.target with
  | 2 =>
    match (s.rtp.get h).out with
    | [] => none
    | d :: r => some (d, onRtp s h fun q => { q with out := r })
  | 3 => some ((getSes s x.inst).word a, s)
  | 4 => some (tableReadWord (getSes s x.inst) a, s)
  | 5 => some (slotReadWord (getPort s x.inst) a, s)
  | 6 => some ((getEntry s h (a / 8)).words.getD (a % 8) 0, s)
  | 7 =>
    if sramReady s x.inst then
      some (byteWord (readBytes (getTile s x.inst).sram (4 * a) 4) 0, (sramRead s x.inst [(4 * a, 4)]).getD (windowUe s x.inst))
    else none
  | 8 =>
    let c := x.inst
    match (getChan s c).frames with
    | [] => none
    | f :: _ =>
      if chanRoute s c ≠ 3 then none
      else
        let n := (getChan s c).winRead
        let d := byteWord (frameBytes s c f) n
        some (d, if n = 63 then deliverFrame s c else onChan s c fun q => { q with winRead := n + 1 })
  | 9 => some (byteWord (dumpBytes s h) a, s)
  | 10 => some (byteWord (wfBytes s h) a, s)
  | _ => none

/-- WIN_DATA_READ (R48): one word moves from the target. The page of an absent half reads as zero (R9). -/
def execWinDataRead (port : Half) (mgmt : Half) (w : Nat) (s : State) : Out :=
  if w < 4 ∧ s.cfg.hasHalf port = true ∧ s.cfg.hasHalf mgmt = false then .next (respond s port respOkay 0)
  else winWrite port mgmt w (fun s =>
    let x := getWin s mgmt w
    match dataRefusal s port x false with
    | some c => respond s port c 0
    | none =>
      match readTarget s x with
      | none => respond (if x.target = 7 then sramOpened s x.inst else s) port respWait 0
      | some (d, s1) => respond (putWin s1 mgmt w (x.moved d)) port respOkay d) s

/-! ### Register writes (R14, R33, R46) -/

/-- Registers that only an RTP writes (R301): DENIED to the port. -/
def rtpOnly (k : PageKind) (off : Nat) : Bool :=
  decide (k = .memFill) && [0x040, 0x044, 0x048, 0x054, 0x058].contains off

/-- A staged word is closed while its page is STARTING or ON (R46). -/
def stagedShut (s : State) (k : PageKind) (i off : Nat) : Bool :=
  let st := (getPage s (stagedPage k i off)).st
  decide (st = .starting) || decide (st = .on)

/-- Words of PID 0's entry that hold no shaping are read-only. -/
def pidZeroFixed (i off : Nat) : Bool :=
  decide (partEntryPid i off = 0) && (decide (rowOff .partMap off < 0x0A8) || decide (0x0B8 < rowOff .partMap off))

/-- A write of a word is turned away (R46, R94, R229, R307, R474): DENIED or STATE. -/
def wordRefusal (s : State) (k : PageKind) (i off : Nat) (r : RegRow) : Option Nat :=
  match r.acc with
  | .staged => if stagedShut s k i off then some respState else none
  | .program => if tileOwner s i ≠ 0 then some respDenied else if stagedShut s k i off then some respState else none
  | .whileFree => if (getPart s (partEntryPid i off)).st = .free then none else some respState
  | _ => if k = .wv ∧ 0x120 ≤ off ∧ profileNamed s (halfOf i) ((off - 0x100) / 0x20) = true then some respState else none

/-- Bring the buckets that a shaping word governs up to date under the rate they have had (R262). -/
def settleFor (s : State) (k : PageKind) (i off : Nat) : State :=
  match k with
  | .port =>
    if 0x400 ≤ off ∧ off < 0x800 then
      let n := (off - 0x400) / 4
      putBucket s (leafKey i (n / 4) (n % 4)) (leafLevel s i (n / 4) (n % 4))
    else s
  | .partCtrl => if off = 0x04C then settlePool s else s
  | .partMap =>
    let q := partEntryPid i off
    let o := rowOff .partMap off
    if o = 0x0A8 ∨ o = 0x0AC then
      let s1 := settlePool s
      putBucket (putBucket s1 (rateKey q) (rateLevel s1 q)) (ceilKey q) (ceilLevel s1 q)
    else if 0x0B0 ≤ o ∧ o ≤ 0x0B8 then
      let cls := (o - 0x0B0) / 4
      putBucket s (classKey q cls) (classLevel s q cls)
    else s
  | _ => s

/-- A meter's parameters have changed: its buckets restart full (R274, R279). A meter with CIR above PIR sets METER_CFG (R275). -/
def meterWritten (before after : State) (p off : Nat) : State :=
  let q := (off - 0x800) / 8
  let a := kreg after .port p (0x800 + 8 * q)
  let s1 : State := { after with meters := before.meters.drop (64 * p + q) }
  if fieldOf a 31 16 < fieldOf a 15 0 then raiseK s1 .port p 19 else s1

/-- HOLD is cleared (R272): a READY table whose boundary passed under HOLD waits for the next one. -/
def holdCleared (before after : State) (p : Nat) : State :=
  let x := getPort after p
  if bitOf (kreg before .port p 0x04C) 0 && !bitOf (kreg after .port p 0x04C) 0 then
    putPort after p { x with after := x.after.map fun a => max a (nsCeil (countOf after (portHalf p))) }
  else after

/-- What a stored word brings with it: a new leaf to observe begins its counts at zero (R277). -/
def afterStore (before after : State) (k : PageKind) (i off : Nat) : State :=
  if k = .port ∧ off = 0x08C then setKreg (setKreg (setKreg after .port i 0x090 0) .port i 0x094 0) .port i 0x098 0
  else if k = .port ∧ off = 0x04C then holdCleared before after i
  else if k = .port ∧ 0x800 ≤ off ∧ off < 0xA00 then meterWritten before after i off
  else after

/-- Store a word as its register takes it (R14): what is reserved stays zero. -/
def storeWord (s : State) (k : PageKind) (i off : Nat) (r : RegRow) (data : Word) : State :=
  let m := data &&& BitVec.ofNat 32 r.mask
  match r.acc with
  | .ro => s
  | .wo => s
  | .w1s => setKreg s k i off (kreg s k i off ||| m)
  | .w1c => setKreg s k i off (kreg s k i off &&& ~~~m)
  | _ =>
    let s1 := settleFor s k i off
    afterStore s (setKreg s1 k i off m) k i off

/-- A write of a register of a subsystem (R14, R46): read-only words and offsets that no register has take no effect. -/
def writeWord (s : State) (port : Half) (k : PageKind) (i off : Nat) (data : Word) : State :=
  let pg := pageNo k i
  if rtpOnly k off then turnAway s port pg respDenied
  else
    match regRow k off with
    | none => okay s port
    | some r =>
      if k = .partMap ∧ pidZeroFixed i off = true then okay s port
      else
        match wordRefusal s k i off r with
        | some c => turnAway s port pg c
        | none => okay (storeWord s k i off r data) port

/-- A write of a page's header (R40 to R45, R472). -/
def writeHead (s : State) (port : Half) (k : PageKind) (i off : Nat) (data : Word) : State :=
  let pg := pageNo k i
  match off with
  | 0x00C =>
    if !bitOf data 0 && keptOn k then turnAway s port pg respDenied
    else okay (writeCtrl s k i (bitOf data 0) (bitOf data 1)) port
  | 0x010 => okay (clearErr s pg data 0) port
  | 0x020 =>
    let s1 := onPage s pg fun p => { p with view := bitOf data 1 }
    okay (if bitOf data 0 then takeSnapshot s1 pg else s1) port
  | _ => if 0x02C ≤ off then respond s port respDecode 0 else okay s port

/-- An ordinary write of a page (R33, R38). -/
def plainWrite (port : Half) (k : PageKind) (i off : Nat) (data : Word) (s : State) : Out :=
  mgmtWrite s port (pageNo k i) fun s => if off < 0x040 then writeHead s port k i off data else writeWord s port k i off data

/-- A command word with GO whose code names no command: the code is stored, and nothing else takes effect (R34). -/
def noCommand (port : Half) (k : PageKind) (i off : Nat) (data : Word) (s : State) : Out :=
  mgmtWrite s port (pageNo k i) fun s =>
    match regRow k off with
    | some r => okay (accessErr (storeWord s k i off r data) k i) port
    | none => s

/-- A write to a register of a window. -/
def writeWindow (port mgmt : Half) (w o : Nat) (data : Word) (s : State) : Out :=
  match o with
  | 0x04 =>
    if bitOf data 2 then execAbort port mgmt w s
    else if bitOf data 0 then execWinOpen port mgmt w (bitOf data 1) s
    else execWinClose port mgmt w (bitOf data 1) s
  | 0x0C => execWinDataWrite port mgmt w data s
  | _ =>
    winWrite port mgmt w (fun s =>
      let x := getWin s mgmt w
      if o ≠ 0x00 ∧ o ≠ 0x08 then okay s port
      else if x.st = .opened then winAnswer s port mgmt (if x.port = port then respState else respDenied)
      else if o = 0x00 then okay (putWin s mgmt w { x with sel := data &&& 0x00FFFFFF }) port
      else okay (putWin s mgmt w { x with addr := data }) port) s

/-- A write of SES_CMD with GO (R155, R179): a code that is neither START nor STOP is refused. -/
def writeSesCmd (port h : Half) (data : Word) (s : State) : Out :=
  let sid := fieldOf data 11 0
  match fieldOf data 17 16 with
  | 1 => execSesStart port h sid s
  | 2 => execSesStop port h sid s
  | _ => mgmtWriteK s port .ses (halfIdx h) fun s =>
      okay (cmdStatus (setKreg s .ses (halfIdx h) 0x054 (data &&& 0x30FFF)) h sid true) port

/-- A write of PART_CMD with GO (R303, R444). -/
def writePartCmd (port : Half) (data : Word) (s : State) : Out :=
  let q := fieldOf data 13 8
  match fieldOf data 3 0 with
  | 1 => execCreate port q s
  | 2 => execGrow port q s
  | 3 => execShrink port q s
  | 4 => execAssignTiles port q s
  | 5 => execReleaseTiles port q s
  | 6 => execTeardown port q s
  | _ =>
    if inSplit s then mgmtWriteK s port .partCtrl 0 fun s => turnAway s port (pageNo .partCtrl 0) respState
    else noCommand port .partCtrl 0 0x040 data s

/-- A write of SPR_CMD with GO (R438). -/
def writeSprCmd (port h : Half) (data : Word) (s : State) : Out :=
  match fieldOf data 3 0 with
  | 1 => execTileSwap port h (bitOf data 4) s
  | 2 => execSrSwap port h s
  | 3 => execFrameSwap port h s
  | _ => noCommand port .spr (halfIdx h) 0x040 data s

/-- A write of CALM_WF_CTRL (R426, R427). -/
def writeWfCtrl (port h : Half) (data : Word) (s : State) : Out :=
  mgmtWriteK s port .calm (halfIdx h) fun s =>
    let s1 := if bitOf data 0 then wfTake s h else s
    okay (if bitOf data 1 then wfAssemble s1 h else s1) port

/-- A write of TILE_LULL_CTRL: WAKE is one of its bits (R84). -/
def writeLullCtrl (port : Half) (t : Nat) (data : Word) (s : State) : Out :=
  mgmtWriteK s port .tile t fun s =>
    let s1 := writeWord s port .tile t 0x048 data
    okay (if bitOf data 7 then wakeTile s1 t else s1) port

/-- A write at an offset of a page: a command register leads to its command, and any other register takes the word. -/
def writeAt (port : Half) (k : PageKind) (i off : Nat) (data : Word) (s : State) : Out :=
  let h := halfOf i
  let go := bitOf data 31
  match k with
  | .blk => if off = 0x060 then execBlkPfa port data s else plainWrite port k i off data s
  | .mgmt =>
    if off = 0x040 then execMgmtCharge port h data s
    else if 0x100 ≤ off ∧ off < 0x180 then writeWindow port h ((off - 0x100) / 0x20) ((off - 0x100) % 0x20) data s
    else plainWrite port k i off data s
  | .partCtrl => if off = 0x040 ∧ go = true then writePartCmd port data s else plainWrite port k i off data s
  | .sec => if off = 0x044 then execSecDebugLock port data s else plainWrite port k i off data s
  | .ses =>
    if off = 0x040 ∧ go = true then execSesArmGo port h (fieldOf data 11 0) s
    else if off = 0x054 ∧ go = true then writeSesCmd port h data s
    else if off = 0x0C0 ∧ go = true then execSesMark port h (fieldOf data 11 0) (fieldOf data 24 12) s
    else plainWrite port k i off data s
  | .port => if off = 0x05C ∧ bitOf data 0 = true then execFlush port i s else plainWrite port k i off data s
  | .chan => if off = 0x06C ∧ bitOf data 0 = true then execDiscard port i s else plainWrite port k i off data s
  | .calm =>
    if off = 0x044 ∧ go = true then calmCmd port h (fieldOf data 1 0) s
    else if off = 0x084 then writeWfCtrl port h data s
    else plainWrite port k i off data s
  | .spr => if off = 0x040 ∧ go = true then writeSprCmd port h data s else plainWrite port k i off data s
  | .arbStack => if off = 0x044 then execArbFreeze port (pageNo k i) data s else plainWrite port k i off data s
  | .arbPort => if off = 0x044 then execArbFreeze port (pageNo k i) data s else plainWrite port k i off data s
  | .arbBridge => if off = 0x044 then execArbFreeze port (pageNo k i) data s else plainWrite port k i off data s
  | .arbFunnel => if off = 0x044 then execArbFreeze port (pageNo k i) data s else plainWrite port k i off data s
  | .tile => if off = 0x048 then writeLullCtrl port i data s else plainWrite port k i off data s
  | _ => plainWrite port k i off data s

/-- The word address that a port presents (R31): MGMT_ADDR[25:2]. -/
def portAddr (addr : Nat) : Nat := addr % 2 ^ 26 / 4 * 4

/-- REGISTER_WRITE (R31, R33, R38, R46): a word is written at a byte address of the 64 MiB window. -/
def execRegisterWrite (port : Half) (addr : Nat) (data : Word) (s : State) : Out :=
  let a := portAddr addr
  if !s.cfg.hasHalf port then .fault .absentUnit
  else
    match pageOf (a / 4096) with
    | none => .next (respond s port respDecode 0)
    | some (k, i) => if kindBeyond s.cfg k i then .next (respond s port respDecode 0) else writeAt port k i (a % 4096) data s

/-! ### Reads of 64-bit registers (R37) -/

/-- The half of the MGMT page an address lies in, and its offset there. -/
def mgmtAt (addr : Nat) : Option (Half × Nat) :=
  match pageOf (addr / 4096) with
  | some (.mgmt, i) => some (halfOf i, addr % 4096)
  | _ => none

/-- A window's data register. -/
def isWinData (off : Nat) : Bool := decide (0x100 ≤ off) && decide (off < 0x180) && decide (off % 0x20 = 0x0C)

/-- Registers whose read is a command of its own: MGMT_CHARGE (R451) and WIN_DATA (R48). -/
def readsOwn (addr : Nat) : Bool :=
  match mgmtAt addr with
  | some (_, off) => decide (off = 0x040) || isWinData off
  | none => false

/-- A read of such a register. -/
def plainRead (port : Half) (addr : Nat) (s : State) : Out :=
  match mgmtAt addr with
  | some (h, off) => if off = 0x040 then execChargeStatusRead port h s else execWinDataRead port h ((off - 0x100) / 0x20) s
  | none => .next s

/-- WORD64_LOWER_READ (R37): the lower word is returned and the upper word latched for the port. At an address that is no such lower
word it is an ordinary read. -/
def execWord64LowerRead (port : Half) (addr : Nat) (s : State) : Out :=
  let a := portAddr addr
  if !s.cfg.hasHalf port then .fault .absentUnit
  else if readsOwn a then plainRead port a s
  else
    let r := readWord s port a
    if r.1 ≠ respOkay then .next (respond s port r.1 0)
    else if lowerOf64 a then
      let up := (readWord s port (a + 4)).2
      .next (respond (onLatch (noteFrac s a) port fun t => t.set (a + 4) up) port respOkay r.2)
    else .next (respond s port respOkay r.2)

/-- WORD64_UPPER_READ (R37): the latched word is returned and its latch released; without a latch, the current upper word. -/
def execWord64UpperRead (port : Half) (addr : Nat) (s : State) : Out :=
  let a := portAddr addr
  if !s.cfg.hasHalf port then .fault .absentUnit
  else if readsOwn a then plainRead port a s
  else
    let r := readWord s port a
    if r.1 ≠ respOkay then .next (respond s port r.1 0)
    else
      match (s.mports.get port).latch.find a with
      | some w => .next (respond (onLatch s port fun t => t.drop a) port respOkay w)
      | none => .next (respond s port respOkay r.2)

end Sys2Proof.Machine
end

