-- ==== Sys2Proof/Machine/Dispatch.lean ====
section
/-! DEFINITION. The effect of every command: one arm for each constructor of Instr. -/

namespace Sys2Proof.Machine

def exec (i : Instr) (s : State) : Host.Outcome State Fault Refusal :=
  match i with
  | .registerWrite port addr data => Sys2Proof.Machine.execRegisterWrite port addr data s
  | .word64LowerRead port addr => Sys2Proof.Machine.execWord64LowerRead port addr s
  | .word64UpperRead port addr => Sys2Proof.Machine.execWord64UpperRead port addr s
  | .enableSet port page freeze => Sys2Proof.Machine.execEnableSet port page freeze s
  | .enableClear port page freeze => Sys2Proof.Machine.execEnableClear port page freeze s
  | .freezeWrite port page freeze => Sys2Proof.Machine.execFreezeWrite port page freeze s
  | .startComplete page => Sys2Proof.Machine.execStartComplete page s
  | .startFail page => Sys2Proof.Machine.execStartFail page s
  | .stopComplete page => Sys2Proof.Machine.execStopComplete page s
  | .pageErrClear port page bits hwSet => Sys2Proof.Machine.execPageErrClear port page bits hwSet s
  | .take port page view => Sys2Proof.Machine.execTake port page view s
  | .winOpen port mgmt w dir => Sys2Proof.Machine.execWinOpen port mgmt w dir s
  | .winClose port mgmt w dir => Sys2Proof.Machine.execWinClose port mgmt w dir s
  | .abort port mgmt w => Sys2Proof.Machine.execAbort port mgmt w s
  | .winDataWrite port mgmt w data => Sys2Proof.Machine.execWinDataWrite port mgmt w data s
  | .winDataRead port mgmt w => Sys2Proof.Machine.execWinDataRead port mgmt w s
  | .descriptorCommit mgmt w => Sys2Proof.Machine.execDescriptorCommit mgmt w s
  | .contributorTableCommit mgmt w => Sys2Proof.Machine.execContributorTableCommit mgmt w s
  | .slotTableCommit mgmt w => Sys2Proof.Machine.execSlotTableCommit mgmt w s
  | .scheduleCommit mgmt w => Sys2Proof.Machine.execScheduleCommit mgmt w s
  | .tileSramFillDone t => Sys2Proof.Machine.execTileSramFillDone t s
  | .ftBeat word valid lowNs => Sys2Proof.Machine.execFtBeat word valid lowNs s
  | .beatStuck => Sys2Proof.Machine.execBeatStuck s
  | .acquireGap h => Sys2Proof.Machine.execAcquireGap h s
  | .coasting h => Sys2Proof.Machine.execCoasting h s
  | .timeLost h => Sys2Proof.Machine.execTimeLost h s
  | .calmAction h entry => Sys2Proof.Machine.execCalmAction h entry s
  | .snapshotAction h entry => Sys2Proof.Machine.execSnapshotAction h entry s
  | .intervalAction h entry => Sys2Proof.Machine.execIntervalAction h entry s
  | .slotSwitchAction h entry => Sys2Proof.Machine.execSlotSwitchAction h entry s
  | .epochStartAction h entry => Sys2Proof.Machine.execEpochStartAction h entry s
  | .pageCtrlAction h entry => Sys2Proof.Machine.execPageCtrlAction h entry s
  | .lullGateAction h entry => Sys2Proof.Machine.execLullGateAction h entry s
  | .bypassAction h entry => Sys2Proof.Machine.execBypassAction h entry s
  | .reportWvAction h entry => Sys2Proof.Machine.execReportWvAction h entry s
  | .reportDrainAction h entry => Sys2Proof.Machine.execReportDrainAction h entry s
  | .gustFire h entry => Sys2Proof.Machine.execGustFire h entry s
  | .scheduleMissed h entry => Sys2Proof.Machine.execScheduleMissed h entry s
  | .trigInEdge line => Sys2Proof.Machine.execTrigInEdge line s
  | .trigStuck line => Sys2Proof.Machine.execTrigStuck line s
  | .trigStuckClear line => Sys2Proof.Machine.execTrigStuckClear line s
  | .bypStatChange lines => Sys2Proof.Machine.execBypStatChange lines s
  | .rxSlotFill t slot => Sys2Proof.Machine.execRxSlotFill t slot s
  | .lullDecision t => Sys2Proof.Machine.execLullDecision t s
  | .lullEntryDone t => Sys2Proof.Machine.execLullEntryDone t s
  | .lullDeepen t => Sys2Proof.Machine.execLullDeepen t s
  | .plannedWake t => Sys2Proof.Machine.execPlannedWake t s
  | .wake port t => Sys2Proof.Machine.execWake port t s
  | .lullWakeDone t => Sys2Proof.Machine.execLullWakeDone t s
  | .programLoad t => Sys2Proof.Machine.execProgramLoad t s
  | .nop t => Sys2Proof.Machine.execNop t s
  | .seti t => Sys2Proof.Machine.execSeti t s
  | .add t => Sys2Proof.Machine.execAdd t s
  | .sub t => Sys2Proof.Machine.execSub t s
  | .and t => Sys2Proof.Machine.execAnd t s
  | .or t => Sys2Proof.Machine.execOr t s
  | .xor t => Sys2Proof.Machine.execXor t s
  | .shl t => Sys2Proof.Machine.execShl t s
  | .shr t => Sys2Proof.Machine.execShr t s
  | .cmp t => Sys2Proof.Machine.execCmp t s
  | .jmp t => Sys2Proof.Machine.execJmp t s
  | .loop t => Sys2Proof.Machine.execLoop t s
  | .lds t => Sys2Proof.Machine.execLds t s
  | .sts t => Sys2Proof.Machine.execSts t s
  | .epinfo t => Sys2Proof.Machine.execEpinfo t s
  | .rdft t => Sys2Proof.Machine.execRdft t s
  | .halt t => Sys2Proof.Machine.execHalt t s
  | .swait t => Sys2Proof.Machine.execSwait t s
  | .swaitDone t => Sys2Proof.Machine.execSwaitDone t s
  | .ssig t => Sys2Proof.Machine.execSsig t s
  | .ssend t => Sys2Proof.Machine.execSsend t s
  | .ssendDeliver n => Sys2Proof.Machine.execSsendDeliver n s
  | .ftwait t => Sys2Proof.Machine.execFtwait t s
  | .ftwaitRel t => Sys2Proof.Machine.execFtwaitRel t s
  | .ftWaitDone t => Sys2Proof.Machine.execFtWaitDone t s
  | .fence t => Sys2Proof.Machine.execFence t s
  | .fenceDone t => Sys2Proof.Machine.execFenceDone t s
  | .epdone t => Sys2Proof.Machine.execEpdone t s
  | .epfail t => Sys2Proof.Machine.execEpfail t s
  | .racc t => Sys2Proof.Machine.execRacc t s
  | .rcopy t => Sys2Proof.Machine.execRcopy t s
  | .rrd t => Sys2Proof.Machine.execRrd t s
  | .rclr t => Sys2Proof.Machine.execRclr t s
  | .memrd t => Sys2Proof.Machine.execMemrd t s
  | .memwr t => Sys2Proof.Machine.execMemwr t s
  | .tilecp t => Sys2Proof.Machine.execTilecp t s
  | .send t => Sys2Proof.Machine.execSend t s
  | .moveComplete t m => Sys2Proof.Machine.execMoveComplete t m s
  | .vld t => Sys2Proof.Machine.execVld t s
  | .vst t => Sys2Proof.Machine.execVst t s
  | .vadd t => Sys2Proof.Machine.execVadd t s
  | .vsub t => Sys2Proof.Machine.execVsub t s
  | .vmul t => Sys2Proof.Machine.execVmul t s
  | .vfma t => Sys2Proof.Machine.execVfma t s
  | .vmax t => Sys2Proof.Machine.execVmax t s
  | .vmin t => Sys2Proof.Machine.execVmin t s
  | .vabs t => Sys2Proof.Machine.execVabs t s
  | .vrsqrt t => Sys2Proof.Machine.execVrsqrt t s
  | .vrcp t => Sys2Proof.Machine.execVrcp t s
  | .vsqrt t => Sys2Proof.Machine.execVsqrt t s
  | .vdiv t => Sys2Proof.Machine.execVdiv t s
  | .vsel t => Sys2Proof.Machine.execVsel t s
  | .vcmplt t => Sys2Proof.Machine.execVcmplt t s
  | .vsplat t => Sys2Proof.Machine.execVsplat t s
  | .vcvt t => Sys2Proof.Machine.execVcvt t s
  | .vsum t => Sys2Proof.Machine.execVsum t s
  | .vmaxr t => Sys2Proof.Machine.execVmaxr t s
  | .tmma t => Sys2Proof.Machine.execTmma t s
  | .tmmaComplete t => Sys2Proof.Machine.execTmmaComplete t s
  | .tclr t => Sys2Proof.Machine.execTclr t s
  | .trd t => Sys2Proof.Machine.execTrd t s
  | .twr t => Sys2Proof.Machine.execTwr t s
  | .sesStart port h sid => Sys2Proof.Machine.execSesStart port h sid s
  | .sesStop port h sid => Sys2Proof.Machine.execSesStop port h sid s
  | .edgeKeyReport sid edge => Sys2Proof.Machine.execEdgeKeyReport sid edge s
  | .sesArmGo port h sid => Sys2Proof.Machine.execSesArmGo port h sid s
  | .armReq m ft => Sys2Proof.Machine.execArmReq m ft s
  | .arm m ft => Sys2Proof.Machine.execArm m ft s
  | .armAck m status => Sys2Proof.Machine.execArmAck m status s
  | .commit m ft viaRelay => Sys2Proof.Machine.execCommit m ft viaRelay s
  | .disarm m ft status viaRelay => Sys2Proof.Machine.execDisarm m ft status viaRelay s
  | .grant m fromParent credits => Sys2Proof.Machine.execGrant m fromParent credits s
  | .nack m handle cause => Sys2Proof.Machine.execNack m handle cause s
  | .done m ft status reason ranges more total narrow lag => Sys2Proof.Machine.execDone m ft status reason ranges more total narrow lag s
  | .outcome m ft code reason format advice ranges more => Sys2Proof.Machine.execOutcome m ft code reason format advice ranges more s
  | .dataCell c => Sys2Proof.Machine.execDataCell c s
  | .resultCell c => Sys2Proof.Machine.execResultCell c s
  | .accClearDone sid parity part => Sys2Proof.Machine.execAccClearDone sid parity part s
  | .grantBatchFlush sid parity edge => Sys2Proof.Machine.execGrantBatchFlush sid parity edge s
  | .commitDeadline sid parity => Sys2Proof.Machine.execCommitDeadline sid parity s
  | .guardTime sid parity => Sys2Proof.Machine.execGuardTime sid parity s
  | .expectedArrival sid parity cidx => Sys2Proof.Machine.execExpectedArrival sid parity cidx s
  | .deadline sid parity cidx => Sys2Proof.Machine.execDeadline sid parity cidx s
  | .waitExpired sid parity cidx => Sys2Proof.Machine.execWaitExpired sid parity cidx s
  | .epochRetire sid parity => Sys2Proof.Machine.execEpochRetire sid parity s
  | .ctrlSecondCopy n => Sys2Proof.Machine.execCtrlSecondCopy n s
  | .doneRepeat sid parity => Sys2Proof.Machine.execDoneRepeat sid parity s
  | .orphanTimeout sid parity => Sys2Proof.Machine.execOrphanTimeout sid parity s
  | .sesMark port h sid cidx => Sys2Proof.Machine.execSesMark port h sid cidx s
  | .contribUe place => Sys2Proof.Machine.execContribUe place s
  | .shadowCopy sr => Sys2Proof.Machine.execShadowCopy sr s
  | .groupTimeout sr group => Sys2Proof.Machine.execGroupTimeout sr group s
  | .wvMeasure sid epoch => Sys2Proof.Machine.execWvMeasure sid epoch s
  | .denseAudit n => Sys2Proof.Machine.execDenseAudit n s
  | .arbGrant page target => Sys2Proof.Machine.execArbGrant page target s
  | .flitRoute router out => Sys2Proof.Machine.execFlitRoute router out s
  | .starve page target => Sys2Proof.Machine.execStarve page target s
  | .arbFreeze port page bits => Sys2Proof.Machine.execArbFreeze port page bits s
  | .xtCred p classes => Sys2Proof.Machine.execXtCred p classes s
  | .slotTableSwitch p => Sys2Proof.Machine.execSlotTableSwitch p s
  | .flush port p => Sys2Proof.Machine.execFlush port p s
  | .laneError p lane correctable => Sys2Proof.Machine.execLaneError p lane correctable s
  | .lineRead prn line src seen => Sys2Proof.Machine.execLineRead prn line src seen s
  | .zero h prn newOwner pid => Sys2Proof.Machine.execZero h prn newOwner pid s
  | .reepoch h prn => Sys2Proof.Machine.execReepoch h prn s
  | .migrate h src dst carry => Sys2Proof.Machine.execMigrate h src dst carry s
  | .rowRepair h prn span pseudo => Sys2Proof.Machine.execRowRepair h prn span pseudo s
  | .laneErase h prn pin pseudo => Sys2Proof.Machine.execLaneErase h prn pin pseudo s
  | .chRetire h prn => Sys2Proof.Machine.execChRetire h prn s
  | .patrol h hours => Sys2Proof.Machine.execPatrol h hours s
  | .patrolLine h line finding inner => Sys2Proof.Machine.execPatrolLine h line finding inner s
  | .feCommandDone h ueLine => Sys2Proof.Machine.execFeCommandDone h ueLine s
  | .create port pid => Sys2Proof.Machine.execCreate port pid s
  | .partCreateDone pid => Sys2Proof.Machine.execPartCreateDone pid s
  | .grow port pid => Sys2Proof.Machine.execGrow port pid s
  | .shrink port pid => Sys2Proof.Machine.execShrink port pid s
  | .assignTiles port pid => Sys2Proof.Machine.execAssignTiles port pid s
  | .releaseTiles port pid => Sys2Proof.Machine.execReleaseTiles port pid s
  | .teardown port pid => Sys2Proof.Machine.execTeardown port pid s
  | .scrubStepDone pid => Sys2Proof.Machine.execScrubStepDone pid s
  | .scrubCertificate pid => Sys2Proof.Machine.execScrubCertificate pid s
  | .serviceEvent pid => Sys2Proof.Machine.execServiceEvent pid s
  | .rtpBoot h => Sys2Proof.Machine.execRtpBoot h s
  | .firmwareImage h img => Sys2Proof.Machine.execFirmwareImage h img s
  | .gloveHeader h g => Sys2Proof.Machine.execGloveHeader h g s
  | .gloveChunk h c => Sys2Proof.Machine.execGloveChunk h c s
  | .attest h tag scope nonce sigOk => Sys2Proof.Machine.execAttest h tag scope nonce sigOk s
  | .attestAnswer n => Sys2Proof.Machine.execAttestAnswer n s
  | .attestTimeout n => Sys2Proof.Machine.execAttestTimeout n s
  | .fwActivate h tag => Sys2Proof.Machine.execFwActivate h tag s
  | .fwSwitchRestart h => Sys2Proof.Machine.execFwSwitchRestart h s
  | .trialConfirm h => Sys2Proof.Machine.execTrialConfirm h s
  | .trialTimeout h => Sys2Proof.Machine.execTrialTimeout h s
  | .fwCommit h tag svnBurn sigOk => Sys2Proof.Machine.execFwCommit h tag svnBurn sigOk s
  | .fwDiscard h tag => Sys2Proof.Machine.execFwDiscard h tag s
  | .kex h tag sid edge kstep sigOk chainOk => Sys2Proof.Machine.execKex h tag sid edge kstep sigOk chainOk s
  | .kexTimeout n => Sys2Proof.Machine.execKexTimeout n s
  | .gloveOpen h tag pid gloveId endorsements digestOk => Sys2Proof.Machine.execGloveOpen h tag pid gloveId endorsements digestOk s
  | .admitPrep h tag pid g => Sys2Proof.Machine.execAdmitPrep h tag pid g s
  | .admitReq h tag r => Sys2Proof.Machine.execAdmitReq h tag r s
  | .logRead h tag log first => Sys2Proof.Machine.execLogRead h tag log first s
  | .secDebugLock port data => Sys2Proof.Machine.execSecDebugLock port data s
  | .testAccess n => Sys2Proof.Machine.execTestAccess n s
  | .alwStb code lowNs highNs => Sys2Proof.Machine.execAlwStb code lowNs highNs s
  | .alwAck => Sys2Proof.Machine.execAlwAck s
  | .alwLost => Sys2Proof.Machine.execAlwLost s
  | .budgetRecompute => Sys2Proof.Machine.execBudgetRecompute s
  | .thermalReading hottest spot => Sys2Proof.Machine.execThermalReading hottest spot s
  | .powerReading tenthWatts => Sys2Proof.Machine.execPowerReading tenthWatts s
  | .railFall rail h => Sys2Proof.Machine.execRailFall rail h s
  | .pgSbRise trigHigh => Sys2Proof.Machine.execPgSbRise trigHigh s
  | .rstBlkN => Sys2Proof.Machine.execRstBlkN s
  | .rstHalfN h => Sys2Proof.Machine.execRstHalfN h s
  | .ready h => Sys2Proof.Machine.execReady h s
  | .traceDrainRequest stream => Sys2Proof.Machine.execTraceDrainRequest stream s
  | .drainFlit stream => Sys2Proof.Machine.execDrainFlit stream s
  | .frameSeal ch => Sys2Proof.Machine.execFrameSeal ch s
  | .frameRingWrite ch => Sys2Proof.Machine.execFrameRingWrite ch s
  | .frameCollectorSend ch => Sys2Proof.Machine.execFrameCollectorSend ch s
  | .traceKeyReport ch => Sys2Proof.Machine.execTraceKeyReport ch s
  | .discard port ch => Sys2Proof.Machine.execDiscard port ch s
  | .gustFreeze ch => Sys2Proof.Machine.execGustFreeze ch s
  | .gustDrainEnd stream => Sys2Proof.Machine.execGustDrainEnd stream s
  | .counterDrainDone bank => Sys2Proof.Machine.execCounterDrainDone bank s
  | .pcSample h => Sys2Proof.Machine.execPcSample h s
  | .mittenCopy h => Sys2Proof.Machine.execMittenCopy h s
  | .captureEnd h => Sys2Proof.Machine.execCaptureEnd h s
  | .memQuiet h => Sys2Proof.Machine.execMemQuiet h s
  | .dumpSeal h => Sys2Proof.Machine.execDumpSeal h s
  | .calmResumeCmd port h => Sys2Proof.Machine.execCalmResumeCmd port h s
  | .calmAbandonCmd port h => Sys2Proof.Machine.execCalmAbandonCmd port h s
  | .calmResume h => Sys2Proof.Machine.execCalmResume h s
  | .calmAbandon h => Sys2Proof.Machine.execCalmAbandon h s
  | .wfTake port h => Sys2Proof.Machine.execWfTake port h s
  | .wfAssemble port h => Sys2Proof.Machine.execWfAssemble port h s
  | .hangReport h => Sys2Proof.Machine.execHangReport h s
  | .wearDayReset h => Sys2Proof.Machine.execWearDayReset h s
  | .sramRowRepair t bank row => Sys2Proof.Machine.execSramRowRepair t bank row s
  | .tileSwap port h discardOld => Sys2Proof.Machine.execTileSwap port h discardOld s
  | .srSwap port h => Sys2Proof.Machine.execSrSwap port h s
  | .frameSwap port h => Sys2Proof.Machine.execFrameSwap port h s
  | .swapWindow h => Sys2Proof.Machine.execSwapWindow h s
  | .noWindow h => Sys2Proof.Machine.execNoWindow h s
  | .swapCommit h => Sys2Proof.Machine.execSwapCommit h s
  | .srSwapCommit sr => Sys2Proof.Machine.execSrSwapCommit sr s
  | .frameBankSwap ch => Sys2Proof.Machine.execFrameBankSwap ch s
  | .repairFuseWrite h => Sys2Proof.Machine.execRepairFuseWrite h s
  | .heartbeatSend h => Sys2Proof.Machine.execHeartbeatSend h s
  | .heartbeatReceive h primary split rxOk => Sys2Proof.Machine.execHeartbeatReceive h primary split rxOk s
  | .heartbeatLost h => Sys2Proof.Machine.execHeartbeatLost h s
  | .mgmtCharge port h data => Sys2Proof.Machine.execMgmtCharge port h data s
  | .chargeDecision h sigOk => Sys2Proof.Machine.execChargeDecision h sigOk s
  | .chargeDecisionReceive h => Sys2Proof.Machine.execChargeDecisionReceive h s
  | .joinTimeout h => Sys2Proof.Machine.execJoinTimeout h s
  | .joiningDone h => Sys2Proof.Machine.execJoiningDone h s
  | .chargeStatusRead port h => Sys2Proof.Machine.execChargeStatusRead port h s
  | .rtpLoad h load => Sys2Proof.Machine.execRtpLoad h load s
  | .clkFail ppm => Sys2Proof.Machine.execClkFail ppm s
  | .blkPfa port data => Sys2Proof.Machine.execBlkPfa port data s
  | .malformedCell p cell => Sys2Proof.Machine.execMalformedCell p cell s
  | .alwStbHeld => Sys2Proof.Machine.execAlwStbHeld s
  | .entropyFail => Sys2Proof.Machine.execEntropyFail s

end Sys2Proof.Machine
end

