-- ==== Sys2Proof/WellFormed.lean ====
section
/-! DEFINITION. Well-formed commands: every operand lies within the numbering that the spec gives it (R24, R31, R38, R58, R91,
R151, R160). What the block refuses by its own rules, such as an unfitted unit, is not decided here. -/

namespace Sys2Proof

/-- A control message's fields fit their widths (R160). -/
def CtrlIn.inRange (m : CtrlIn) : Bool :=
  decide (m.port < 64) && decide (m.stamp < 2 ^ 24) && decide (m.sid < 4096) && decide (m.epoch < 2 ^ 32) && decide (m.cidx < 8192) &&
    decide (m.srcSid < 4096) && decide (m.seq < 4096) && decide (m.tag < 2 ^ 64) && decide (m.crc < 65536) && decide (m.body.length = 224)

/-- A cell's fields fit their widths (R157), and its payload is 256 bytes. -/
def CellIn.inRange (c : CellIn) : Bool :=
  decide (c.port < 64) && decide (c.format < 16) && decide (c.handle < 65536) && decide (c.stamp < 2 ^ 24) && decide (c.payload.length = 256) &&
    decide (c.tag < 2 ^ 64) && decide (c.crc < 65536) && decide (c.body.length = 256)

/-- A credit entry's fields fit their widths (R163). -/
def Credit.inRange (c : Credit) : Bool := decide (c.part < 1024) && decide (c.seg < 4096) && decide (c.handle < 65536)

/-- A contributor's index fits its width (R160). -/
def Edge.inRange : Edge → Bool
  | .contrib cidx => decide (cidx < 8192)
  | .parent => true
  | .relay => true

/-- The place of a storage error exists in the numbering (R24, R25, R75, R237). -/
def UePlace.inRange : UePlace → Bool
  | .ingress port kind handle => decide (port < 64) && decide (kind < 16) && decide (handle < 65536)
  | .slot lt n => decide (lt < 1024) && decide (n < 64)
  | .accumulators sid parity part seg => decide (sid < 4096) && decide (parity < 2) && decide (part < 1024) && decide (seg < 4096)
  | .sram t addr _ => decide (t < 1088) && decide (addr < 2 ^ 19)
  | .reducer sr => decide (sr < 64)
  | .frame ch => decide (ch < 64)

/-- The outer code has 38 symbols (R284). -/
def LineFinding.inRange : LineFinding → Bool
  | .clean => true
  | .corrected symbol => decide (symbol < 38)
  | .uncorrectable => true
  | .macFail => true

/-- A firmware image's fields fit their widths (R322). -/
def FwImage.inRange (m : FwImage) : Bool := decide (m.svn < 2 ^ 16) && decide (m.keyIndex < 16) && decide (m.bytes < 2 ^ 32)

/-- A Glove header's fields fit their widths (R340). -/
def GloveHdr.inRange (g : GloveHdr) : Bool :=
  decide (g.version < 2 ^ 32) && decide (g.gloveId < 2 ^ 128) && decide (g.quorum < 16) && decide (g.minSvn < 2 ^ 16) &&
    decide (g.chunks < 2 ^ 32) && decide (g.payloadBytes < 2 ^ 64) && decide (g.highRegion < 2 ^ 32)

/-- A Glove chunk carries at most 1,048,576 bytes (R341). -/
def GloveChunk.inRange (c : GloveChunk) : Bool := decide (c.bytes.length ≤ 1048576) && decide (c.index < 2 ^ 32)

/-- An ADMIT_REQ's fields fit their widths (R343). -/
def AdmitReq.inRange (r : AdmitReq) : Bool := decide (r.svn < 2 ^ 32) && decide (r.reportFt < 2 ^ 64)

/-- Every operand of a command lies in its range. -/
def Instr.wellFormed : Instr → Bool
  | .registerWrite _ addr _ => decide (addr < 2 ^ 26)
  | .word64LowerRead _ addr => decide (addr < 2 ^ 26)
  | .word64UpperRead _ addr => decide (addr < 2 ^ 26)
  | .enableSet _ page _ => decide (page < 16384)
  | .enableClear _ page _ => decide (page < 16384)
  | .freezeWrite _ page _ => decide (page < 16384)
  | .startComplete page => decide (page < 16384)
  | .startFail page => decide (page < 16384)
  | .stopComplete page => decide (page < 16384)
  | .pageErrClear _ page _ _ => decide (page < 16384)
  | .take _ page _ => decide (page < 16384)
  | .winOpen _ _ w _ => decide (w < 4)
  | .winClose _ _ w _ => decide (w < 4)
  | .abort _ _ w => decide (w < 4)
  | .winDataWrite _ _ w _ => decide (w < 4)
  | .winDataRead _ _ w => decide (w < 4)
  | .descriptorCommit _ w => decide (w < 4)
  | .contributorTableCommit _ w => decide (w < 4)
  | .slotTableCommit _ w => decide (w < 4)
  | .scheduleCommit _ w => decide (w < 4)
  | .tileSramFillDone t => decide (t < 1088)
  | .ftBeat word _ _ => decide (word < 2 ^ 64)
  | .beatStuck => true
  | .acquireGap _ => true
  | .coasting _ => true
  | .timeLost _ => true
  | .calmAction _ entry => decide (entry < 1024)
  | .snapshotAction _ entry => decide (entry < 1024)
  | .intervalAction _ entry => decide (entry < 1024)
  | .slotSwitchAction _ entry => decide (entry < 1024)
  | .epochStartAction _ entry => decide (entry < 1024)
  | .pageCtrlAction _ entry => decide (entry < 1024)
  | .lullGateAction _ entry => decide (entry < 1024)
  | .bypassAction _ entry => decide (entry < 1024)
  | .reportWvAction _ entry => decide (entry < 1024)
  | .reportDrainAction _ entry => decide (entry < 1024)
  | .gustFire _ entry => decide (entry < 1024)
  | .scheduleMissed _ entry => decide (entry < 1024)
  | .trigInEdge line => decide (line < 4)
  | .trigStuck line => decide (line < 4)
  | .trigStuckClear line => decide (line < 4)
  | .bypStatChange lines => decide (lines < 16)
  | .rxSlotFill t slot => decide (t < 1088) && decide (slot < 64)
  | .lullDecision t => decide (t < 1088)
  | .lullEntryDone t => decide (t < 1088)
  | .lullDeepen t => decide (t < 1088)
  | .plannedWake t => decide (t < 1088)
  | .wake _ t => decide (t < 1088)
  | .lullWakeDone t => decide (t < 1088)
  | .programLoad t => decide (t < 1088)
  | .nop t => decide (t < 1088)
  | .seti t => decide (t < 1088)
  | .add t => decide (t < 1088)
  | .sub t => decide (t < 1088)
  | .and t => decide (t < 1088)
  | .or t => decide (t < 1088)
  | .xor t => decide (t < 1088)
  | .shl t => decide (t < 1088)
  | .shr t => decide (t < 1088)
  | .cmp t => decide (t < 1088)
  | .jmp t => decide (t < 1088)
  | .loop t => decide (t < 1088)
  | .lds t => decide (t < 1088)
  | .sts t => decide (t < 1088)
  | .epinfo t => decide (t < 1088)
  | .rdft t => decide (t < 1088)
  | .halt t => decide (t < 1088)
  | .swait t => decide (t < 1088)
  | .swaitDone t => decide (t < 1088)
  | .ssig t => decide (t < 1088)
  | .ssend t => decide (t < 1088)
  | .ssendDeliver _ => true
  | .ftwait t => decide (t < 1088)
  | .ftwaitRel t => decide (t < 1088)
  | .ftWaitDone t => decide (t < 1088)
  | .fence t => decide (t < 1088)
  | .fenceDone t => decide (t < 1088)
  | .epdone t => decide (t < 1088)
  | .epfail t => decide (t < 1088)
  | .racc t => decide (t < 1088)
  | .rcopy t => decide (t < 1088)
  | .rrd t => decide (t < 1088)
  | .rclr t => decide (t < 1088)
  | .memrd t => decide (t < 1088)
  | .memwr t => decide (t < 1088)
  | .tilecp t => decide (t < 1088)
  | .send t => decide (t < 1088)
  | .moveComplete t m => decide (t < 1088) && decide (m < 16)
  | .vld t => decide (t < 1088)
  | .vst t => decide (t < 1088)
  | .vadd t => decide (t < 1088)
  | .vsub t => decide (t < 1088)
  | .vmul t => decide (t < 1088)
  | .vfma t => decide (t < 1088)
  | .vmax t => decide (t < 1088)
  | .vmin t => decide (t < 1088)
  | .vabs t => decide (t < 1088)
  | .vrsqrt t => decide (t < 1088)
  | .vrcp t => decide (t < 1088)
  | .vsqrt t => decide (t < 1088)
  | .vdiv t => decide (t < 1088)
  | .vsel t => decide (t < 1088)
  | .vcmplt t => decide (t < 1088)
  | .vsplat t => decide (t < 1088)
  | .vcvt t => decide (t < 1088)
  | .vsum t => decide (t < 1088)
  | .vmaxr t => decide (t < 1088)
  | .tmma t => decide (t < 1088)
  | .tmmaComplete t => decide (t < 1088)
  | .tclr t => decide (t < 1088)
  | .trd t => decide (t < 1088)
  | .twr t => decide (t < 1088)
  | .sesStart _ _ sid => decide (sid < 4096)
  | .sesStop _ _ sid => decide (sid < 4096)
  | .edgeKeyReport sid edge => decide (sid < 4096) && edge.inRange
  | .sesArmGo _ _ sid => decide (sid < 4096)
  | .armReq m ft => m.inRange && decide (ft < 2 ^ 64)
  | .arm m ft => m.inRange && decide (ft < 2 ^ 64)
  | .armAck m status => m.inRange && decide (status < 256)
  | .commit m ft _ => m.inRange && decide (ft < 2 ^ 64)
  | .disarm m ft status _ => m.inRange && decide (ft < 2 ^ 64) && decide (status < 256)
  | .grant m _ credits => m.inRange && credits.all fun c => c.inRange
  | .nack m handle cause => m.inRange && decide (handle.handle < 65536) && decide (cause < 256)
  | .done m ft status reason ranges _ total narrow lag => m.inRange && decide (ft < 2 ^ 64) && decide (status < 256) && decide (reason < 256) && decide (ranges.length ≤ 27) && decide (total < 65536) && decide (narrow < 65536) && decide (lag < 256)
  | .outcome m ft code reason format advice ranges _ => m.inRange && decide (ft < 2 ^ 64) && decide (code < 256) && decide (reason < 256) && decide (format < 16) && decide (advice < 4) && decide (ranges.length ≤ 27)
  | .dataCell c => c.inRange
  | .resultCell c => c.inRange
  | .accClearDone sid parity part => decide (sid < 4096) && decide (parity < 2) && decide (part < 1024)
  | .grantBatchFlush sid parity edge => decide (sid < 4096) && decide (parity < 2) && edge.inRange
  | .commitDeadline sid parity => decide (sid < 4096) && decide (parity < 2)
  | .guardTime sid parity => decide (sid < 4096) && decide (parity < 2)
  | .expectedArrival sid parity cidx => decide (sid < 4096) && decide (parity < 2) && decide (cidx < 8192)
  | .deadline sid parity cidx => decide (sid < 4096) && decide (parity < 2) && decide (cidx < 8192)
  | .waitExpired sid parity cidx => decide (sid < 4096) && decide (parity < 2) && decide (cidx < 8192)
  | .epochRetire sid parity => decide (sid < 4096) && decide (parity < 2)
  | .ctrlSecondCopy _ => true
  | .doneRepeat sid parity => decide (sid < 4096) && decide (parity < 2)
  | .orphanTimeout sid parity => decide (sid < 4096) && decide (parity < 2)
  | .sesMark _ _ sid cidx => decide (sid < 4096) && decide (cidx < 8192)
  | .contribUe place => place.inRange
  | .shadowCopy sr => decide (sr < 64)
  | .groupTimeout sr group => decide (sr < 64) && decide (group < 128)
  | .wvMeasure sid epoch => decide (sid < 4096) && decide (epoch < 2 ^ 32)
  | .denseAudit _ => true
  | .arbGrant page target => decide (page < 16384) && decide (target < 32)
  | .flitRoute router _ => decide (router < 1088)
  | .starve page target => decide (page < 16384) && decide (target < 32)
  | .arbFreeze _ page _ => decide (page < 16384)
  | .xtCred p classes => decide (p < 64) && decide (classes < 16)
  | .slotTableSwitch p => decide (p < 64)
  | .flush _ p => decide (p < 64)
  | .laneError p lane _ => decide (p < 64) && decide (lane < 32)
  | .lineRead prn line src seen => decide (prn < 2 ^ 19) && decide (line < 32768) && decide (src < 4096) && seen.finding.inRange
  | .zero _ prn _ pid => decide (prn < 2 ^ 19) && decide (pid < 64)
  | .reepoch _ prn => decide (prn < 2 ^ 19)
  | .migrate _ src dst _ => decide (src < 2 ^ 19) && decide (dst < 2 ^ 19)
  | .rowRepair _ prn span pseudo => decide (prn < 2 ^ 19) && decide (span < 1024) && decide (pseudo < 2)
  | .laneErase _ prn pin pseudo => decide (prn < 2 ^ 19) && decide (pin < 32) && decide (pseudo < 2)
  | .chRetire _ prn => decide (prn < 2 ^ 19)
  | .patrol _ hours => decide (hours < 2 ^ 32)
  | .patrolLine _ line finding _ => decide (line < 32768) && finding.inRange
  | .feCommandDone _ ueLine => ueLine.all fun l => decide (l < 32768)
  | .create _ pid => decide (pid < 64)
  | .partCreateDone pid => decide (pid < 64)
  | .grow _ pid => decide (pid < 64)
  | .shrink _ pid => decide (pid < 64)
  | .assignTiles _ pid => decide (pid < 64)
  | .releaseTiles _ pid => decide (pid < 64)
  | .teardown _ pid => decide (pid < 64)
  | .scrubStepDone pid => decide (pid < 64)
  | .scrubCertificate pid => decide (pid < 64)
  | .serviceEvent pid => decide (pid < 64)
  | .rtpBoot _ => true
  | .firmwareImage _ img => img.inRange
  | .gloveHeader _ g => g.inRange
  | .gloveChunk _ c => c.inRange
  | .attest _ tag scope _ _ => decide (tag < 65536) && decide (scope < 64)
  | .attestAnswer _ => true
  | .attestTimeout _ => true
  | .fwActivate _ tag => decide (tag < 65536)
  | .fwSwitchRestart _ => true
  | .trialConfirm _ => true
  | .trialTimeout _ => true
  | .fwCommit _ tag _ _ => decide (tag < 65536)
  | .fwDiscard _ tag => decide (tag < 65536)
  | .kex _ tag sid edge _ _ _ => decide (tag < 65536) && decide (sid < 4096) && edge.inRange
  | .kexTimeout _ => true
  | .gloveOpen _ tag pid gloveId endorsements _ => decide (tag < 65536) && decide (pid < 64) && decide (gloveId < 2 ^ 128) && endorsements.all fun e => decide (e.index < 64)
  | .admitPrep _ tag pid g => decide (tag < 65536) && decide (pid < 64) && g.inRange
  | .admitReq _ tag r => decide (tag < 65536) && r.inRange
  | .logRead _ tag _ first => decide (tag < 65536) && decide (first < 2 ^ 32)
  | .secDebugLock _ _ => true
  | .testAccess _ => true
  | .alwStb code _ _ => decide (code < 256)
  | .alwAck => true
  | .alwLost => true
  | .budgetRecompute => true
  | .thermalReading hottest spot => decide (hottest < 256) && decide (spot.sensor < 32) && spot.tiles.all fun t => decide (t < 1088)
  | .powerReading tenthWatts => decide (tenthWatts < 65536)
  | .railFall _ _ => true
  | .pgSbRise trigHigh => decide (trigHigh < 16)
  | .rstBlkN => true
  | .rstHalfN _ => true
  | .ready _ => true
  | .traceDrainRequest _ => true
  | .drainFlit _ => true
  | .frameSeal ch => decide (ch < 64)
  | .frameRingWrite ch => decide (ch < 64)
  | .frameCollectorSend ch => decide (ch < 64)
  | .traceKeyReport ch => decide (ch < 64)
  | .discard _ ch => decide (ch < 64)
  | .gustFreeze ch => decide (ch < 64)
  | .gustDrainEnd _ => true
  | .counterDrainDone bank => decide (bank < 64)
  | .pcSample _ => true
  | .mittenCopy _ => true
  | .captureEnd _ => true
  | .memQuiet _ => true
  | .dumpSeal _ => true
  | .calmResumeCmd _ _ => true
  | .calmAbandonCmd _ _ => true
  | .calmResume _ => true
  | .calmAbandon _ => true
  | .wfTake _ _ => true
  | .wfAssemble _ _ => true
  | .hangReport _ => true
  | .wearDayReset _ => true
  | .sramRowRepair t bank row => decide (t < 1088) && decide (bank < 16) && decide (row < 512)
  | .tileSwap _ _ _ => true
  | .srSwap _ _ => true
  | .frameSwap _ _ => true
  | .swapWindow _ => true
  | .noWindow _ => true
  | .swapCommit _ => true
  | .srSwapCommit sr => decide (sr < 64)
  | .frameBankSwap ch => decide (ch < 64)
  | .repairFuseWrite _ => true
  | .heartbeatSend _ => true
  | .heartbeatReceive _ _ _ _ => true
  | .heartbeatLost _ => true
  | .mgmtCharge _ _ _ => true
  | .chargeDecision _ _ => true
  | .chargeDecisionReceive _ => true
  | .joinTimeout _ => true
  | .joiningDone _ => true
  | .chargeStatusRead _ _ => true
  | .rtpLoad _ _ => true
  | .clkFail _ => true
  | .blkPfa _ _ => true
  | .malformedCell p cell => decide (p < 64) && decide (cell.head < 2 ^ 128) && decide (cell.body.length = 256)
  | .alwStbHeld => true
  | .entropyFail => true

end Sys2Proof
end

