-- ==== Sys2Proof/Safety.lean ====
section
/-! DEFINITION. What the statements about the machine are said in: a command that answers a next state, what reporting and traffic may
change, the invariant that every step keeps, and when a unit may act. -/

namespace Sys2Proof.Machine

/-- A command answers a next state of which something holds. -/
def Answers (c : Instr) (s : State) (P : State → Prop) : Prop := ∃ t, exec c s = .next t ∧ P t

/-- A port's access reaches an instance of a row: the port and the unit are fitted, and the page answers (R6, R33, R35, R38). -/
def Reaches (s : State) (port : Half) (k : PageKind) (i : Nat) : Prop :=
  i < kindCount k ∧ s.cfg.hasHalf port = true ∧ pageRefuses s port (pageNo k i) = none

/-! ### Page headers -/

/-- A state without its page headers and their summary count. -/
def State.headless (s : State) : State := { s with pages := .empty, sumSeq := 0, sumCyc := none }

/-- State t is s with one page header replaced; the summary count may follow (R47). -/
def HeaderWritten (s t : State) (pg : Nat) (p : Page) : Prop :=
  getPage t pg = p ∧ (∀ q, q ≠ pg → getPage t q = getPage s q) ∧ t.headless = s.headless

/-- A page header without what errors leave in it. -/
def Page.head (p : Page) : Page := { p with err := 0, errCnt := 0, ftLast := 0, evtAt := none }

/-- A partition without its service flags. -/
def Part.head (p : Part) : Part := { p with flags := 0 }

/-- Every page of the kinds that R40 keeps ON is ON with ENABLE set. -/
def State.keptUp (s : State) : Prop :=
  ∀ k i, keptOn k = true → i < kindCount k → (getPage s (pageNo k i)).st = .on ∧ (getPage s (pageNo k i)).enable = true

/-- The commands that write bytes of the stacks: grants at a stack's arbiter (R291), the completion of a ZERO, and the commands that
reset the block or a half. -/
def writesMemory : Instr → Bool
  | .arbGrant .. => true
  | .feCommandDone .. => true
  | .railFall .. => true
  | .rstBlkN .. => true
  | .rstHalfN .. => true
  | .joinTimeout .. => true
  | .chargeDecisionReceive .. => true
  | _ => false

/-- The commands that may reset the whole block. -/
def resetsBlock : Instr → Bool
  | .railFall .. => true
  | .rstBlkN .. => true
  | .rstHalfN .. => true
  | .joinTimeout .. => true
  | .chargeDecisionReceive .. => true
  | _ => false

/-- The commands by which entry n of a half's schedule takes its effect: each with the action that the entry holds, and what a report
entry must be (R58, R59). -/
def scheduleActions (h : Half) (n : Nat) : List (Instr × Nat × (Entry → Bool)) :=
  [(.calmAction h n, actCalm, fun _ => true), (.snapshotAction h n, actSnapshot, fun _ => true),
   (.intervalAction h n, actInterval, fun _ => true), (.slotSwitchAction h n, actSlotSwitch, fun _ => true),
   (.epochStartAction h n, actEpochStart, fun _ => true), (.pageCtrlAction h n, actPageCtrl, fun _ => true),
   (.lullGateAction h n, actLullGate, fun _ => true), (.bypassAction h n, actBypass, fun _ => true),
   (.reportWvAction h n, actReport, fun e => !e.atFunnel && e.reportKind = 1),
   (.reportDrainAction h n, actReport, fun e => e.atFunnel && e.reportKind = 1),
   (.gustFire h n, actReport, fun e => e.atFunnel && e.reportKind = 2)]

/-- Registers keep their values but for those listed. -/
def RegsBut (s t : State) (l : List Nat) : Prop := ∀ a, a ∉ l → getReg t a = getReg s a

/-! ### What reporting may change

Every unit reports: it sets a PAGE_ERR bit (R41, R42), counts an event in the counter banks (R391 to R394), puts a record into a trace
stream (R362 to R372). A statement's frame leaves these monitors open and fixes all else. -/

/-- A page header that reporting has touched: PAGE_ERR bits are only set, and PAGE_ERRCNT and PAGE_FTLAST follow (R41, R42). -/
def Page.reported (p q : Page) : Prop :=
  q = { p with err := q.err, errCnt := q.errCnt, ftLast := q.ftLast, evtAt := q.evtAt } ∧
    ∀ b, bitOf p.err b = true → bitOf q.err b = true

/-- A state without what reporting changes, and without which access each SRAM bank served last (R73). -/
def State.quiet (s : State) : State :=
  { s with
    pages := .empty, sumSeq := 0, sumCyc := none, parts := .empty, streams := .empty, tiles := .empty, banks := .empty
    bankUse := .empty, bankLost := .empty }

/-- A tile with the counters of another. -/
def Tile.counts (x y : Tile) : Tile := { x with ctrs := y.ctrs, ctrCyc := y.ctrCyc, ctrWas := y.ctrWas }

/-- State t is s but for what reporting changes: PAGE_ERR words and counts, the service flags of partitions, trace streams and
counters. -/
def Monitored (s t : State) : Prop :=
  t.quiet = s.quiet ∧
  (∀ pg, (getPage s pg).reported (getPage t pg)) ∧
  (∀ n, getTile t n = (getTile s n).counts (getTile t n)) ∧
  (∀ q, getPart t q = { getPart s q with flags := (getPart t q).flags }) ∧
  (∀ b, getBank t b = { getBank s b with ctrs := (getBank t b).ctrs })

/-- A write is turned away with DENIED or STATE: ACCESS of the page is set, and nothing else happens (R33, R41). -/
def TurnedAway (s t : State) (port : Half) (pg code : Nat) : Prop :=
  bitOf (getPage t pg).err 2 = true ∧ Monitored (respond s port code 0) t

/-- The registers whose write is a command of its own, at an instance of a row: the command, for the word written. BLK_PFA, the windows,
CALM_CMD, CALM_WF_CTRL and TILE_LULL_CTRL are commands besides. -/
def commandAt (port : Half) (k : PageKind) (i off : Nat) (data : Word) : Option Instr :=
  let h := halfOf i
  let go := bitOf data 31
  match k, off with
  | .mgmt, 0x040 => some (.mgmtCharge port h data)
  | .sec, 0x044 => some (.secDebugLock port data)
  | .arbStack, 0x044 => some (.arbFreeze port (pageNo k i) data)
  | .arbPort, 0x044 => some (.arbFreeze port (pageNo k i) data)
  | .arbBridge, 0x044 => some (.arbFreeze port (pageNo k i) data)
  | .arbFunnel, 0x044 => some (.arbFreeze port (pageNo k i) data)
  | .port, 0x05C => if bitOf data 0 then some (.flush port i) else none
  | .chan, 0x06C => if bitOf data 0 then some (.discard port i) else none
  | .ses, 0x040 => if go then some (.sesArmGo port h (fieldOf data 11 0)) else none
  | .ses, 0x0C0 => if go then some (.sesMark port h (fieldOf data 11 0) (fieldOf data 24 12)) else none
  | .ses, 0x054 =>
    if go && decide (fieldOf data 17 16 = 1) then some (.sesStart port h (fieldOf data 11 0))
    else if go && decide (fieldOf data 17 16 = 2) then some (.sesStop port h (fieldOf data 11 0))
    else none
  | .partCtrl, 0x040 =>
    let q := fieldOf data 13 8
    if !go then none
    else match fieldOf data 3 0 with
      | 1 => some (.create port q)
      | 2 => some (.grow port q)
      | 3 => some (.shrink port q)
      | 4 => some (.assignTiles port q)
      | 5 => some (.releaseTiles port q)
      | 6 => some (.teardown port q)
      | _ => none
  | .spr, 0x040 =>
    if !go then none
    else match fieldOf data 3 0 with
      | 1 => some (.tileSwap port h (bitOf data 4))
      | 2 => some (.srSwap port h)
      | 3 => some (.frameSwap port h)
      | _ => none
  | _, _ => none

/-- The registers that hold no command, at 0x040 and above. -/
def plainRegister (k : PageKind) (off : Nat) : Bool :=
  match k with
  | .blk => decide (off ≠ 0x060)
  | .mgmt => decide (off ≠ 0x040) && (decide (off < 0x100) || decide (0x180 ≤ off))
  | .partCtrl => decide (off ≠ 0x040)
  | .sec => decide (off ≠ 0x044)
  | .ses => decide (off ≠ 0x040) && decide (off ≠ 0x054) && decide (off ≠ 0x0C0)
  | .port => decide (off ≠ 0x05C)
  | .chan => decide (off ≠ 0x06C)
  | .calm => decide (off ≠ 0x044) && decide (off ≠ 0x084)
  | .spr => decide (off ≠ 0x040)
  | .arbStack | .arbPort | .arbBridge | .arbFunnel => decide (off ≠ 0x044)
  | .tile => decide (off ≠ 0x048)
  | _ => true

/-! ### What traffic may change

Sessions, ports and arbiters work through the state of sessions, queues, receive slots, semaphores, bindings and accumulators. The
rest stays as it was. -/

/-- What a tile holds that traffic leaves alone: its SRAM, program, registers, flags, vector registers and tensor accumulators. -/
def Tile.own (x : Tile) : Tile :=
  { x with
    racc := .empty, slots := .empty, sems := .empty, ctrs := .empty, ctrCyc := 0, ctrWas := .empty, binds := .empty, lull := .awake, wakeReq := false, wakeCyc := 0
    wakeFt := none }

/-- A state without what the traffic of sessions, ports and programs changes. -/
def State.core (s : State) : State :=
  { s with
    regs := .empty, pages := .empty, sumSeq := 0, sumCyc := none, sched := .empty, tiles := .empty, ssends := [], sessions := .empty
    copies := [], wvGroups := .empty, wvFlits := [], wvEpochs := [], wvTurn := ⟨0, 0⟩, audits := [], denseSeq := .empty
    reports := ⟨[], []⟩, repLost := .empty, arbs := .empty, flits := [], stranded := [], ports := .empty, meters := .empty
    parts := .empty, secLog := .empty, secAt := .empty, streams := .empty, banks := .empty, calm := State.reset.calm
    swaps := ⟨none, none⟩, heldStarts := [], fresh := 0, bankUse := .empty, bankLost := .empty, retireCyc := .empty }

/-- State t is s but for what traffic changes: every page header keeps all but its error words, every tile its own registers, memory
and program, every partition all but its service flags, and the rest of the state stays. -/
def Steady (s t : State) : Prop :=
  t.core = s.core ∧ (∀ pg, (getPage t pg).head = (getPage s pg).head) ∧ (∀ n, (getTile t n).own = (getTile s n).own) ∧
    (∀ q, (getPart t q).head = (getPart s q).head)

/-- A state without what traffic and the starts and stops of units change. -/
def State.far (s : State) : State :=
  { s.core with
    bypWin := ⟨0, 0⟩, channels := .empty, ftu := State.reset.ftu, inForce := .empty, kexs := [], laneMap := .empty, arbOn := .empty
    mitLast := ⟨0, 0⟩, pcLast := ⟨0, 0⟩, buckets := .empty, ends := [] }

/-- One page has moved to a header, but for what errors leave in it; every other page keeps its own, and far from traffic and units
nothing changes. -/
def PageMoved (s t : State) (pg : Nat) (p : Page) : Prop :=
  (getPage t pg).head = p.head ∧ (∀ q, q ≠ pg → (getPage t q).head = (getPage s q).head) ∧ t.far = s.far

/-! ### Control messages -/

/-- A message's edge by the direction it travels in (R160). -/
def sideOf (m : CtrlIn) (down : Bool) : Edge := if down then .parent else .contrib m.cidx

/-- Command c is the arrival of a control message on an edge of its session, with a type, an FT and an ARG (R161), and act is what the
message does once it has passed the checks of a port (R162, R165). -/
def Carries (m : CtrlIn) (c : Instr) (msg ft arg : Nat) (edge : Edge) (act : State → State) : Prop :=
  (c = .armReq m ft ∧ msg = 1 ∧ arg = 0 ∧ edge = .contrib m.cidx ∧ act = actArmReq m ft) ∨
  (c = .arm m ft ∧ msg = 2 ∧ arg = 0 ∧ edge = .parent ∧ act = actArmMsg m ft) ∨
  (∃ st, c = .armAck m st ∧ msg = 3 ∧ ft = 0 ∧ arg = st ∧ edge = .contrib m.cidx ∧ act = actArmAck m st) ∨
  (∃ relay, c = .commit m ft relay ∧ msg = 4 ∧ arg = 0 ∧ edge = (if relay then .relay else .parent) ∧ act = actCommit m ft) ∨
  (∃ st relay, c = .disarm m ft st relay ∧ msg = 5 ∧ arg = st ∧ edge = (if relay then .relay else .parent) ∧ act = actDisarm m ft st) ∨
  (∃ up l, c = .grant m up l ∧ msg = 6 ∧ ft = 0 ∧ arg = l.length ∧ edge = sideOf m up ∧ act = actGrant m up l) ∨
  (∃ up handle cause, c = .nack m ⟨up, handle⟩ cause ∧ msg = 7 ∧ ft = 0 ∧ arg = handle % 65536 + 2 ^ 16 * cause ∧ edge = sideOf m up ∧
    act = actNack m up handle cause) ∨
  (∃ st rsn l more total narrow lag, c = .done m ft st rsn l more total narrow lag ∧ msg = 8 ∧ arg = doneArgOf st rsn lag total narrow ∧
    edge = .contrib m.cidx ∧
    act = actDone m ⟨m.cidx, st % 256, rsn % 256, l.take 27, !more, total % 65536, narrow % 65536, lag % 256⟩) ∨
  (∃ code rsn fmt advice l more, c = .outcome m ft code rsn fmt advice l more ∧ msg = 9 ∧
    arg = Decision.arg ⟨code, ft, rsn, fmt, advice, []⟩ ∧ edge = .parent ∧
    act = actOutcome m ⟨code % 4, ft, rsn % 256, fmt % 16, advice % 4, l.take 27⟩ more)

/-- The state in which a message that has passed every check begins to act: its ingress slot is held, it is counted and metered, and the
session remembers its port and its SEQ. None where a check keeps it from acting. -/
def received (s : State) (m : CtrlIn) (msg ft arg : Nat) (edge : Edge) : Option State :=
  let x := getSes s m.sid
  let p := m.port
  let key := (edgeCode edge, m.epoch, m.seq)
  if p < 64 ∧ portFitted s p = true ∧ ctrlCrcOk m (ctrlHead m msg ft arg (fromAbove edge)) = true ∧ m.authOk = true ∧ x.st ≠ .empty ∧ sentAt s p m.stamp ≠ none ∧
      edgeKnown x edge m.cidx = true ∧ calmOn s (portHalf p) = false ∧ calmOn s x.home = false ∧ x.seen.contains key = false then
    (takeIngress s p).map fun u =>
      onSes (sawPort (meterCell (countBlk u (portHalf p) 0x02 [0] p (some x.pid) 1) p x.pid) m.sid edge p) m.sid fun y =>
        { y with seen := key :: y.seen }
  else none

/-! ### Tile instructions -/

/-- Operation op of class cls stands at the PC of tile n and takes effect now (R82, R96 to R102): the tile issues, its word is legal and
of a format the operation takes, its condition is true, and nothing holds it, nor any bank of
SRAM that it needs (R73). -/
def Issues (s : State) (n cls op : Nat) : Prop :=
  let x := getTile s n
  let i := x.ins
  n < 1088 ∧ tileFitted s n = true ∧ mayIssue s n = true ∧ i.cls = cls ∧ i.op = op ∧ i.illegal = false ∧ x.cond i.cond = true ∧
    (cls = 5 → s.cfg.tensor = true) ∧ i.formatOk = true ∧ holdOf s n i = none ∧ bankHeld s n i = false

/-- The state in which the banks that the instruction of tile n accesses as it issues have served it (R73). -/
def served (s : State) (n : Nat) : State :=
  let x := getTile s n
  serveBanks s n x.ins.bankOrder (x.banksFor x.ins)

/-- The state in which the words of SRAM that the instruction of tile n reads stand corrected (R74); none where one of them is
uncorrectable. -/
def corrected (s : State) (n : Nat) : Option State :=
  let x := getTile s n
  sramRead s n (x.sramReads x.ins)

/-- State s with the wear counts of another, and the actions that AUTO has queued (R432). -/
def worn (s t : State) : State := { s with wearDay := t.wearDay, wearLife := t.wearLife, autoQueue := t.autoQueue }

/-- A tile as its instruction has issued: the cycle of issue, and for a gated class the charge that the gate has paid (R83, R354,
R355). -/
def Tile.noted (x : Tile) (s : State) (n : Nat) (shifts : Bool) : Tile :=
  let i := (getTile s n).ins
  if i.cls < 3 then { x with idleCyc := s.cyc }
  else { x with idleCyc := s.cyc, bucket := gateLevel s n - i.charge shifts, bucketCyc := s.cyc }

/-- Physical tile n whose semaphore m has gained k, saturating, and which an increment wakes (R76, R84). -/
def Tile.gained (x : Tile) (s : State) (n m k : Nat) : Tile :=
  ({ x with sems := x.sems.put 0 m (min (x.sem m + k) 0xFFFF) }).wakeUp s.cyc (calmOn s (tileHalf n))

/-- Physical tile n after an operation that names a semaphore has completed (R96, R114). -/
def Tile.signalled (x : Tile) (s : State) (n : Nat) : Option Nat → Tile
  | some m => x.gained s n m 1
  | none => x

/-- A tile whose instruction has issued and completed, PC past it. -/
def Tile.ran (x : Tile) (s : State) (n : Nat) : Tile :=
  let y := getTile s n
  { ((x.noted s n false).signalled s n y.ins.done) with pc := y.pc + 1 }

/-- The state in which tile n has run its instruction with an effect on the tile alone. -/
def State.ranTile (s : State) (n : Nat) (f : Tile → Ins → Tile) : State :=
  let x := getTile s n
  putTile s n ((f x x.ins).ran s n)

/-- State t is s but for what traffic changes, and for tile n, which holds y. -/
def SteadyBut (s t : State) (n : Nat) (y : Tile) : Prop := Steady (putTile s n y) t

/-- A program has faulted with a reason at an index (R119): PROG, TILE_PROG_FAULT and the PAGE_ERR bit of the reason say so; of the
tile's own state nothing else changes, and beyond what traffic changes nothing of the block does. -/
def Faulted (s t : State) (n code index : Nat) : Prop :=
  SteadyBut s t n
      { getTile s n with prog := .faulted, wait := .none, waitFt := allOnes64, idleCyc := (getTile t n).idleCyc } ∧
    kreg t .tile n 0x074 = BitVec.ofNat 32 (code + 2 ^ 16 * (index % 1024)) ∧
    bitOf (getPage t (pageNo .tile n)).err (if code = 2 then 20 else if code = 3 then 21 else if code = 4 then 18 else 16) = true

/-- The second operand of a CTRL operation: SRC2, or IMM[31:0] when SRC2 is none (R103). -/
def Tile.second (x : Tile) (i : Ins) : Word := if i.src2 = 0 then BitVec.ofNat 32 i.imm else x.sreg (i.src2 % 32)

/-- A word written to the scalar register that DST names, with Z, N and C where an operation sets them (R103). -/
def Tile.result (x : Tile) (i : Ins) (w : Word) : Tile := x.setSreg (i.dst % 32) w
def Tile.flags (x : Tile) (w : Word) (c : Bool) : Tile := { x with fz := decide (w = 0), fn := w.msb, fc := c }

/-- The CTRL operations whose effect lies in the tile's registers and flags (R103): the command, the operation code and the effect. -/
def scalarOps (n : Nat) : List (Instr × Nat × (Tile → Ins → Tile)) :=
  [(.nop n, 0x00, fun x _ => x),
   (.seti n, 0x01, fun x i => x.result i (BitVec.ofNat 32 i.imm)),
   (.add n, 0x02, fun x i =>
     let a := x.sreg (i.src1 % 32)
     let b := x.second i
     (x.flags (a + b) (decide (2 ^ 32 ≤ a.toNat + b.toNat))).result i (a + b)),
   (.sub n, 0x03, fun x i =>
     let a := x.sreg (i.src1 % 32)
     let b := x.second i
     (x.flags (a - b) (decide (a.toNat < b.toNat))).result i (a - b)),
   (.and n, 0x04, fun x i => x.result i (x.sreg (i.src1 % 32) &&& x.second i)),
   (.or n, 0x05, fun x i => x.result i (x.sreg (i.src1 % 32) ||| x.second i)),
   (.xor n, 0x06, fun x i => x.result i (x.sreg (i.src1 % 32) ^^^ x.second i)),
   (.shl n, 0x07, fun x i => x.result i (x.sreg (i.src1 % 32) <<< ((x.second i).toNat % 32))),
   (.shr n, 0x08, fun x i => x.result i (x.sreg (i.src1 % 32) >>> ((x.second i).toNat % 32))),
   (.cmp n, 0x09, fun x i =>
     let a := x.sreg (i.src1 % 32)
     let b := x.second i
     x.flags (a - b) (decide (a.toNat < b.toNat)))]

/-- Every tile instruction's command, with the class and the operation of its word (R103, R105, R113, R114, R117, R118). -/
def tileOps (n : Nat) : List (Instr × Nat × Nat) :=
  [(.nop n, 0, 0x00), (.seti n, 0, 0x01), (.add n, 0, 0x02), (.sub n, 0, 0x03), (.and n, 0, 0x04), (.or n, 0, 0x05),
   (.xor n, 0, 0x06), (.shl n, 0, 0x07), (.shr n, 0, 0x08), (.cmp n, 0, 0x09), (.jmp n, 0, 0x0A), (.loop n, 0, 0x0B),
   (.lds n, 0, 0x0C), (.sts n, 0, 0x0D), (.epinfo n, 0, 0x0E), (.rdft n, 0, 0x0F), (.halt n, 0, 0x10),
   (.swait n, 1, 0x00), (.ssig n, 1, 0x01), (.ssend n, 1, 0x02), (.ftwait n, 1, 0x03), (.ftwaitRel n, 1, 0x04),
   (.fence n, 1, 0x05), (.epdone n, 1, 0x06), (.epfail n, 1, 0x07),
   (.memrd n, 2, 0x00), (.memwr n, 2, 0x01), (.tilecp n, 2, 0x02), (.send n, 2, 0x03),
   (.racc n, 3, 0x00), (.rcopy n, 3, 0x01), (.rrd n, 3, 0x02), (.rclr n, 3, 0x03),
   (.vld n, 4, 0x00), (.vst n, 4, 0x01), (.vadd n, 4, 0x02), (.vsub n, 4, 0x03), (.vmul n, 4, 0x04), (.vfma n, 4, 0x05),
   (.vmax n, 4, 0x06), (.vmin n, 4, 0x07), (.vabs n, 4, 0x08), (.vrsqrt n, 4, 0x09), (.vrcp n, 4, 0x0A), (.vsqrt n, 4, 0x0B),
   (.vdiv n, 4, 0x0C), (.vsel n, 4, 0x0D), (.vcmplt n, 4, 0x0E), (.vsplat n, 4, 0x0F), (.vcvt n, 4, 0x10), (.vsum n, 4, 0x11),
   (.vmaxr n, 4, 0x12),
   (.tmma n, 5, 0x00), (.tclr n, 5, 0x01), (.trd n, 5, 0x02), (.twr n, 5, 0x03)]

/-- Lane j of a vector operand: a lane of a vector register, or a scalar in every lane (R97). -/
def Tile.laneOf (x : Tile) (b j : Nat) : Word := if b / 32 = 2 then x.vregs.get 0 (64 * (b % 32) + j) else x.sreg (b % 32)

/-- The VECTOR operations that round an exact result once (R117): the command, the operation and lane j of the exact result. -/
def laneArith (n : Nat) : List (Instr × Nat × (Tile → Ins → Nat → Val)) :=
  let a (x : Tile) (i : Ins) (j : Nat) := laneVal (x.laneOf i.src1 j)
  let b (x : Tile) (i : Ins) (j : Nat) := laneVal (x.laneOf i.src2 j)
  let c (x : Tile) (i : Ins) (j : Nat) := laneVal (x.laneOf i.src3 j)
  [(.vadd n, 0x02, fun x i j => (a x i j).add (b x i j)),
   (.vsub n, 0x03, fun x i j => (a x i j).add (b x i j).neg),
   (.vmul n, 0x04, fun x i j => (a x i j).mul (b x i j)),
   (.vfma n, 0x05, fun x i j => ((a x i j).mul (b x i j)).add (c x i j)),
   (.vrsqrt n, 0x09, fun x i j => (a x i j).rsqrt),
   (.vrcp n, 0x0A, fun x i j => (Val.fin 1 0).div (a x i j)),
   (.vsqrt n, 0x0B, fun x i j => (a x i j).sqrt),
   (.vdiv n, 0x0C, fun x i j => (a x i j).div (b x i j))]

/-- The operations that give each lane of a vector register without rounding (R117, R118), but for VMAX and VMIN. -/
def laneMoves (n : Nat) : List (Instr × Nat × Nat × (Tile → Ins → Nat → Word)) :=
  [(.vabs n, 4, 0x08, fun x i j => x.laneOf i.src1 j &&& 0x7FFFFFFF),
   (.vsel n, 4, 0x0D, fun x i j =>
     if x.laneOf i.src1 j &&& 0x7FFFFFFF = 0 then x.laneOf i.src3 j else x.laneOf i.src2 j),
   (.vcmplt n, 4, 0x0E, fun x i j =>
     if (laneVal (x.laneOf i.src1 j)).lt (laneVal (x.laneOf i.src2 j)) then 0x3F800000 else 0),
   (.vsplat n, 4, 0x0F, fun x i _ => if i.src1 = 0 then BitVec.ofNat 32 i.imm else x.sreg (i.src1 % 32)),
   (.trd n, 5, 0x02, fun x i j => x.tacc.get 0 (64 * (i.imm % 64) + j))]

/-- An FP32 word is a NaN (R124). -/
def nanWord (w : Word) : Bool := decide (0x7F800000 < (w &&& 0x7FFFFFFF).toNat)

/-- The order of R475: by value, with -0 below +0. -/
def belowLane (v w : Word) : Prop := (laneVal v).lt (laneVal w) = true ∨ (v = 0x80000000 ∧ w = 0)

/-- Word r is what R475 gives for some lanes: the canonical NaN when one is a NaN, and otherwise one of them that no other exceeds, or,
for the smallest, that exceeds no other. -/
def Extreme (largest : Bool) (l : List Word) (r : Word) : Prop :=
  ((∃ w ∈ l, nanWord w = true) → r = 0x7FC00000) ∧
    ((∀ w ∈ l, nanWord w = false) → r ∈ l ∧ ∀ w ∈ l, ¬ (if largest then belowLane r w else belowLane w r))

/-! ### Swaps of tiles -/

/-- State v is s after a swap has committed (R78, R439): the new tile carries the logical number, with what moves to it, the old one is
fresh and RETIRED with its page OFF, its counts close with the bank that governed it, and every partition in use is told. -/
def SwapDone (s v : State) (h : Half) (w : Swap) (copies : Bool) : Prop :=
  let x := getTile s w.old
  let po := getPage s (pageNo .tile w.old)
  let pn := getPage v (pageNo .tile w.new)
  let pm := getPage v (pageNo .tile w.old)
  v.swaps = s.swaps.put h none ∧ tileMap v w.new = ⟨some w.lt, 0⟩ ∧ tileMap v w.old = ⟨none, 2⟩ ∧
  (∀ n, n ≠ w.old → n ≠ w.new → tileMap v n = tileMap s n ∧ getTile v n = getTile s n) ∧
  (∀ pg, pg ≠ pageNo .tile w.old → pg ≠ pageNo .tile w.new → getPage v pg = getPage s pg) ∧
  pm.st = .off ∧ pm.owner = 0 ∧ pm.enable = false ∧ pn.owner = po.owner ∧ pn.gen = po.gen ∧ pn.freeze = false ∧
  kregN v .spr (halfIdx h) 0x048 = (3 + 65536 * w.lt) % 2 ^ 32 ∧ getTile v w.old = Tile.fresh ∧
  (copies = true → pn.st = po.st ∧ getTile v w.new =
    { x with racc := .empty, ctrs := .empty, ctrLatch := .empty, ctrCyc := 0, ctrWas := .empty, lull := .awake
             flaws := x.flaws.keep fun _ k => decide (k = 2)
             wakeReq := false, wakeFt := none, idleCyc := s.cyc, bucket := 0, bucketCyc := s.cyc }) ∧
  (copies = false → getTile v w.new =
    { getTile s w.new with binds := x.binds, ctrs := .empty, ctrLatch := .empty, ctrCyc := 0, ctrWas := .empty }) ∧
  pn.enable = (!w.discard && po.enable) ∧
  (∀ off ∈ (if copies then movedRegs else [0x07C, 0x080, 0x084, 0x188]), kreg v .tile w.new off = kreg s .tile w.old off) ∧
  (∀ b, getBank v b = if bankOfTile s w.old = some b then
      { getBank s b with former := (getBank s b).former ++ [(w.lt, w.old, decide (x.lull ≠ .awake), sixteen x.ctrs)] }
    else getBank s b) ∧
  (∀ q, getPart v q =
    { getPart s q with flags := if (getPart s q).st = .live then (getPart s q).flags ||| 2 else (getPart s q).flags }) ∧
  { v with banks := s.banks, inForce := s.inForce, pages := s.pages, parts := s.parts, regs := s.regs, streams := s.streams
           sumCyc := s.sumCyc, sumSeq := s.sumSeq, swaps := s.swaps, tiles := s.tiles, tmap := s.tmap } = repaired s h

/-! ### Messages to an RTP -/

/-- An RTP does what a message says (R320, R321, R323): it is fitted and runs its firmware, or its ROM in RECOVERY where the ROM takes
the message; it is not SWITCHING, and its outbound mailbox has room for a response. -/
def Hears (s : State) (h : Half) (rom : Bool) : Prop :=
  let r := s.rtp.get h
  s.cfg.hasHalf h = true ∧ (r.booted = true ∨ r.recovery = true) ∧ r.fw ≠ .switching ∧ rtpRoom s h 4 = true ∧
    (r.recovery = true → rom = true)

/-- A message ends: the window that waits for it reads REJECTED or COMMITTED, and the response has gone out (R320). -/
def ended (s : State) (h : Half) (ok : Bool) (tag status code : Nat) : State :=
  rtpAnswer (decideRtp s h ok) h tag status code []

/-- A message is refused with a status, and a security event is logged where the status has one (R320, R338). -/
def refusedWith (s : State) (h : Half) (tag status code : Nat) (kind : Option Nat) : State :=
  match kind with
  | some k => ended (rtpEvent s h k tag) h false tag status code
  | none => ended s h false tag status code

/-- An RTP without its attestation log and its outbound mailbox. -/
def Rtp.bare (r : Rtp) : Rtp := { r with out := [], log := [], logCount := 0, logPruned := 0, logHead := 0 }

/-- An RTP has logged an act (R335): one entry more, chained to the head before it. -/
def Logged (s t : State) (h : Half) (kind : Nat) (body : List Nat) : Prop :=
  (t.rtp.get h).logCount = (s.rtp.get h).logCount + 1 ∧
    (t.rtp.get h).logHead = Config.chainHead (s.rtp.get h).logHead kind (ftOrOnes s h) body

/-- A response of four words has been queued behind what the mailbox of an RTP holds (R320). -/
def Responded (s t : State) (h : Half) (tag status code : Nat) : Prop :=
  (t.rtp.get h).out = (s.rtp.get h).out ++ [0x52535031, BitVec.ofNat 32 (tag % 65536 + 65536 * status), 4, BitVec.ofNat 32 code]

/-- Beyond the RTP of a half and the window that waited for it, nothing has changed. -/
def RtpOnly (s t : State) (h : Half) : Prop :=
  { t with rtp := s.rtp, wins := s.wins } = s ∧ ∀ g, g ≠ h → t.rtp.get g = s.rtp.get g

end Sys2Proof.Machine
end

