-- ==== Sys2Proof/Certificates/Slice0/Obligations.lean ====
section
/-! DEFINITION. The statements for the provers: what a command does to the block and what it leaves, by the rules of the spec. -/

open Sys2Proof Sys2Proof.Machine

/-! ### The whole block -/

/-- A step with a command at the front of the queue is that command run on the state whose queue is the rest. The queue is the model's
own (log entry 1). -/
def Obligations.StepRunsFrontCommand : Prop :=
  ∀ (s : State) (c : Instr) (rest : List Instr),
    step { s with pending := c :: rest } = exec c { s with pending := rest }

/-- With no command waiting, a step passes one cycle (log entry 2): the model's clock counts one, memory and the configuration keep
their values, the queue stays empty, every snapshot and interval that this cycle ends has been taken (R43, R69), and where no schedule
entry fires and neither half is joining, each FTU's count takes its rate within 72 bits of 1/256 ns, its lock state and last good beat
unchanged. -/
def Obligations.IdleStepIsOneCycle : Prop :=
  ∀ s : State, s.pending = [] → ∃ t, step s = .next t ∧ t.cyc = s.cyc + 1 ∧ t.pending = [] ∧ t.cfg = s.cfg ∧ t.mem = s.mem ∧
    t.ends = [] ∧
    (s.charge.a.st ≠ .joining → s.charge.b.st ≠ .joining → (∀ h n, n < 1024 → fires s h n = false) →
      ∀ h, t.ftu.get h = { s.ftu.get h with count := ((s.ftu.get h).count + (s.ftu.get h).rate) % (2 ^ 72 * 9) })

/-- Whatever command runs, when it answers a next state the commands that wait, the fuses and tie-offs are as before, and so is the
model's clock, which only the commands that may reset the whole block can set back to 0. The queue and the clock are the model's own
(log entries 1 and 9). -/
def Obligations.CommandsKeepQueueFusesAndClock : Prop :=
  ∀ (c : Instr) (s t : State), exec c s = .next t → t.pending = s.pending ∧ t.cfg = s.cfg ∧
    (t.cyc = s.cyc ∨ (resetsBlock c = true ∧ t.cyc = 0))

/-- From every state whose memory lists its bytes at rising addresses with none that an unlisted address reads as, a step that answers
a next state leaves memory in that form. -/
def Obligations.StepKeepsMemoryForm : Prop :=
  ∀ s t : State, Memory.wf s.mem = true → step s = .next t → Memory.wf t.mem = true

/-- From every state in which each page of the kinds that R40 keeps ON is ON with ENABLE set, a step that answers a next state leaves
them so. -/
def Obligations.StepKeepsKeptPagesOn : Prop :=
  ∀ s t : State, s.keptUp → step s = .next t → t.keptUp

/-- At reset the queue is empty, memory has its canonical form, the pages that R40 keeps ON are ON with ENABLE set and every other
page of the map is OFF with ENABLE clear, no page has an error bit or a recorded FT, both FTUs are ACQUIRING, every session is EMPTY
and every partition FREE. -/
def Obligations.ResetState : Prop :=
  State.reset.pending = [] ∧ Memory.wf State.reset.mem = true ∧ State.reset.keptUp ∧
    (∀ k i, i < kindCount k →
      (getPage State.reset (pageNo k i)).st = (if keptOn k then .on else .off) ∧
      (getPage State.reset (pageNo k i)).enable = keptOn k ∧ (getPage State.reset (pageNo k i)).err = 0 ∧
      (getPage State.reset (pageNo k i)).ftLast = 2 ^ 64 - 1) ∧
    (∀ h, (State.reset.ftu.get h).lock = .acquiring) ∧ (∀ sid, (getSes State.reset sid).st = .empty) ∧
    (∀ q, (getPart State.reset q).st = .free)

/-- A command other than ARB_GRANT, FE_COMMAND_DONE and the commands that reset the block or a half leaves every byte of every region as
it was: MOVEs, trace frames, counter records, Glove chunks and the engines write as their flits are granted (R291). -/
def Obligations.WhoWritesMemory : Prop :=
  ∀ (c : Instr) (s t : State), writesMemory c = false → exec c s = .next t →
    ∀ a, t.mem.get 0 a = s.mem.get 0 a

/-- Writing a run of bytes into a memory: each address of the run reads the byte written there, every address outside it reads as
before, and a memory in its canonical form stays in it. -/
def Obligations.MemoryReadAfterWrite : Prop :=
  ∀ (m : Tbl Byte) (a : Nat) (l : List Byte),
    (∀ j, j < l.length → (writeBytes m a l).get 0 (a + j) = l.getD j 0) ∧
    (∀ x, x < a ∨ a + l.length ≤ x → (writeBytes m a l).get 0 x = m.get 0 x) ∧
    (Memory.wf m = true → Memory.wf (writeBytes m a l) = true)

/-! ### Register pages -/

/-- R40: the BLK, MGMT, SEC, RTP mailbox, PART control and PART map pages are ON with ENABLE set at reset and every other page is OFF;
and in every state a write that clears the ENABLE of one of the six, from a port that reaches it, answers DENIED, sets ACCESS in the
page's PAGE_ERR and changes nothing else but what reporting changes. -/
def Obligations.KeptPagesStayEnabled : Prop :=
  (∀ k i, i < kindCount k →
    (getPage State.reset (pageNo k i)).st = (if [PageKind.blk, .mgmt, .sec, .rtp, .partCtrl, .partMap].contains k then .on else .off) ∧
    (getPage State.reset (pageNo k i)).enable = [PageKind.blk, .mgmt, .sec, .rtp, .partCtrl, .partMap].contains k) ∧
  ∀ (s : State) (port : Half) (k : PageKind) (i : Nat) (freeze : Bool),
    [PageKind.blk, .mgmt, .sec, .rtp, .partCtrl, .partMap].contains k = true → Reaches s port k i →
    Answers (.enableClear port (pageNo k i) freeze) s fun t =>
      t.mports.get port = { s.mports.get port with resp := respDenied, rdata := 0 } ∧
      bitOf (getPage t (pageNo k i)).err 2 = true ∧ Monitored (respond s port respDenied 0) t

/-- A write of PAGE_CTRL that R45 gives no new state changes the page's header alone: ENABLE and FREEZE read the values written, and in
STOPPING the last ENABLE decides RESTART_PENDING. The port answers OKAY; every other page and the rest of the state stay.
R45: ENABLE 1 in OFF brings the page to STARTING, or back to OFF with CONFIG set where its staged configuration is not valid;
ENABLE 0 in STARTING or ON brings it to STOPPING; a start that completes brings it to ON and one that faults to OFF with START_FAIL;
a stop that completes brings it to OFF, or with RESTART_PENDING to STARTING with the configuration of that moment. The rest of the
page's header stays but for its error words, every other page stays, and what no unit's start or stop touches stays; a stack's start
loads its region table from the mirror in its reserve (R299). -/
def Obligations.PageCtrlMovesThePage : Prop :=
  (∀ (s : State) (port : Half) (k : PageKind) (i : Nat) (freeze : Bool), Reaches s port k i →
      let pg := pageNo k i
      let p := getPage s pg
      (p.st = .starting ∨ p.st = .on → Answers (.enableSet port pg freeze) s fun t =>
        HeaderWritten (okay s port) t pg { p with enable := true, freeze := freeze }) ∧
      (p.st = .stopping → Answers (.enableSet port pg freeze) s fun t =>
        HeaderWritten (okay s port) t pg { p with enable := true, freeze := freeze, restart := true }) ∧
      (keptOn k = false → p.st = .off → Answers (.enableClear port pg freeze) s fun t =>
        HeaderWritten (okay s port) t pg { p with enable := false, freeze := freeze }) ∧
      (keptOn k = false → p.st = .stopping → Answers (.enableClear port pg freeze) s fun t =>
        HeaderWritten (okay s port) t pg { p with enable := false, freeze := freeze, restart := false }) ∧
      Answers (.freezeWrite port pg freeze) s fun t => HeaderWritten (okay s port) t pg { p with freeze := freeze }) ∧
  (∀ (s : State) (port : Half) (k : PageKind) (i : Nat) (freeze : Bool), Reaches s port k i → keptOn k = false →
      let pg := pageNo k i
      let p := getPage s pg
      (p.st = .off →
        let asked := setPageSt (onPage (setFreeze s pg freeze) pg fun p => { p with enable := true }) pg .starting
        Answers (.enableSet port pg freeze) s fun t =>
          PageMoved (okay s port) t pg
            { p with enable := true, freeze := freeze, st := if configOk asked k i then .starting else .off } ∧
          (configOk asked k i = false → bitOf (getPage t pg).err 1 = true)) ∧
      (p.st = .starting ∨ p.st = .on → Answers (.enableClear port pg freeze) s fun t =>
        PageMoved (okay s port) t pg { p with enable := false, freeze := freeze, st := .stopping }) ∧
      (p.st = .starting → startWaits s k i = false → Answers (.startComplete pg) s fun t =>
        PageMoved { s with regions := t.regions } t pg { p with st := .on } ∧
        (s.reserve.wf Region.fresh = true → ∀ prn, getRegion t prn = if k = .mem ∧ stackOf s.cfg prn = i then s.reserve.get Region.fresh prn else getRegion s prn)) ∧
      (p.st = .starting → Answers (.startFail pg) s fun t =>
        PageMoved s t pg { p with st := .off } ∧ bitOf (getPage t pg).err 0 = true) ∧
      (p.st = .stopping → mayStop s k i = true → p.restart = false → Answers (.stopComplete pg) s fun t =>
        PageMoved s t pg { p with st := .off }) ∧
      (p.st = .stopping → mayStop s k i = true → p.restart = true → Answers (.stopComplete pg) s fun t =>
        PageMoved s t pg { p with restart := false, st := (getPage t pg).st } ∧
        ((getPage t pg).st = .starting ∨ (getPage t pg).st = .off ∧ bitOf (getPage t pg).err 1 = true)))

/-- R41: after PAGE_ERR_CLEAR a bit is set exactly if hardware sets it in that cycle or it was set and is not written 1 (SQUALL, bit 3, may
be set besides where Squall holds a report back), and PAGE_ERRCNT has gained one for each bit that hardware sets, up to 0xFFFF_FFFF; reporting apart nothing else changes. R43: TAKE stores the values
of the page's RO registers as the snapshot, counts PAGE_SNAPSEQ within 32 bits, takes VIEW as written, and changes nothing else. -/
def Obligations.ErrorsClearAndSnapshots : Prop :=
  ∀ (s : State) (port : Half) (k : PageKind) (i : Nat), Reaches s port k i →
    let pg := pageNo k i
    let p := getPage s pg
    (∀ bits hwSet : Word, Answers (.pageErrClear port pg bits hwSet) s fun t =>
      (∀ b, b < 32 → b ≠ 3 → (bitOf (getPage t pg).err b = true ↔
        bitOf (hwSet &&& errBits) b = true ∨ (bitOf p.err b = true ∧ bitOf bits b = false))) ∧
      (bitOf hwSet 3 = true ∨ (bitOf p.err 3 = true ∧ bitOf bits 3 = false) → bitOf (getPage t pg).err 3 = true) ∧
      (p.errCnt < 2 ^ 32 → (getPage t pg).errCnt = min (2 ^ 32 - 1)
        (p.errCnt + ((List.range 32).filter fun b => bitOf (hwSet &&& errBits) b).length)) ∧
      Monitored (okay (putPage s pg { p with err := p.err &&& ~~~bits }) port) t) ∧
    (∀ view : Bool, Answers (.take port pg view) s fun t =>
      let s1 := putPage s pg { p with view := view }
      HeaderWritten (okay s port) t pg { p with view := view, snap := snapshotOf s1 k i, snapSeq := (p.snapSeq + 1) % 2 ^ 32 })

/-! ### Fabric time and the schedule engine -/

/-- FT_BEAT at each fitted half. While the FTU's page is not ON nothing of the FTU moves but the time of the edge (R70). A beat that
fails a condition of R51 is counted in FTU_BEATS_BAD, sets the bits that its rows name, leaves the lock state and ends a run; any other
is counted in FTU_BEATS_GOOD and moves the lock state as R52 gives. The count keeps its value but at the sixteenth beat of a run, where
it takes the word (R55). Both counts wrap at 32 bits. What traffic and the loss of time do not touch stays.
A beat that is near leaves a rate that brings the count within 20 ns of the host's time at the next beat (R53).
The timers of R52 for a fitted half whose FTU page is ON: 1,100 ns after the last good beat a run of ACQUIRING ends and LOCKED
becomes COASTING, and 10 ms after it COASTING becomes TIME_LOST, whose bit is set; a half that had time and has none lowers every
BYP_WIN output it drives. A line that stays high for 2 µs sets BEAT_STUCK; where its edge was taken as a good beat, that beat is ignored
from the edge on: it counts as a bad one, and the FTU goes on from what it knew before the edge. -/
def Obligations.BeatsMoveTheLockState : Prop :=
  (∀ (s : State) (word lowNs : Nat) (valid : Bool), word < 2 ^ 64 → Answers (.ftBeat word valid lowNs) s fun t =>
      t.far = s.far ∧ ∀ h, h ∈ fittedHalves s.cfg →
        let i := halfIdx h
        let f := s.ftu.get h
        let g := t.ftu.get h
        let fast := ∃ c, f.edgeCyc = some c ∧ cycAgo s c 909 = false
        let badWord := valid = false ∨ word % 1000 ≠ 0 ∨ (f.lock = .locked ∧ word ≠ f.goodWord + 1000 * beatsSince f)
        let bad := lowNs < 100 ∨ fast ∨ badWord
        let err : Int := (word * 2304 : Nat) - (f.count : Int)
        let follows := 1 ≤ f.run ∧ word = f.goodWord + 1000 ∧ ∃ c, f.goodCyc = some c ∧ cyc2304 (s.cyc - c) ≤ 1100 * 2304
        (pageIsOn s .ftu i = false → g.lock = f.lock ∧ g.count = f.count ∧ g.run = f.run ∧ g.goodCyc = f.goodCyc ∧
          kreg t .ftu i 0x058 = kreg s .ftu i 0x058 ∧ kreg t .ftu i 0x05C = kreg s .ftu i 0x05C) ∧
        (pageIsOn s .ftu i = true → bad →
          g.lock = f.lock ∧ g.count = f.count ∧ g.goodCyc = f.goodCyc ∧ (f.lock = .acquiring → g.run = 0) ∧
          kreg t .ftu i 0x05C = kreg s .ftu i 0x05C + 1 ∧ kreg t .ftu i 0x058 = kreg s .ftu i 0x058 ∧
          (fast → bitOf (getPage t (pageNo .ftu i)).err 17 = true) ∧ (badWord → bitOf (getPage t (pageNo .ftu i)).err 18 = true)) ∧
        (pageIsOn s .ftu i = true → ¬ bad →
          g.goodCyc = some s.cyc ∧ g.goodWord = word ∧
          kreg t .ftu i 0x058 = kreg s .ftu i 0x058 + 1 ∧ kreg t .ftu i 0x05C = kreg s .ftu i 0x05C ∧
          (f.lock = .acquiring → follows → 15 ≤ f.run → g.lock = .locked ∧ g.count = word * 2304) ∧
          (f.lock = .acquiring → follows → f.run < 15 → g.lock = .acquiring ∧ g.count = f.count ∧ g.run = f.run + 1) ∧
          (f.lock = .acquiring → ¬ follows → g.lock = .acquiring ∧ g.count = f.count ∧ g.run = 1) ∧
          (f.lock = .locked ∨ f.lock = .coasting → g.count = f.count ∧
            (err.natAbs ≤ 250 * 2304 → g.lock = .locked ∧
              (((word + 1000) * 2304 : Nat) - (g.count + 1800 * g.rate : Nat) : Int).natAbs ≤ 20 * 2304) ∧
            (250 * 2304 < err.natAbs → g.lock = .timeLost ∧ bitOf (getPage t (pageNo .ftu i)).err 19 = true ∧
              bitOf (getPage t (pageNo .ftu i)).err 20 = true)) ∧
          (f.lock = .timeLost → g.lock = .acquiring ∧ g.count = f.count ∧ g.run = 1))) ∧
  (∀ (s : State) (h : Half), h ∈ fittedHalves s.cfg → pageIsOn s .ftu (halfIdx h) = true →
      let i := halfIdx h
      let f := s.ftu.get h
      (f.lock = .acquiring → beatGone s h 1100 = true → exec (.acquireGap h) s = .next (onFtu s h fun f => { f with run := 0 })) ∧
      (f.lock = .locked → beatGone s h 1100 = true → Answers (.coasting h) s fun t =>
        t.ftu = s.ftu.put h { f with lock := .coasting } ∧ Monitored { s with ftu := t.ftu } t) ∧
      (f.lock = .coasting → beatGone s h 10000000 = true → Answers (.timeLost h) s fun t =>
        (t.ftu.get h).lock = .timeLost ∧ (t.ftu.get h).count = f.count ∧ bitOf (getPage t (pageNo .ftu i)).err 20 = true ∧
        kreg64 t .ftu i 0x078 = nsOf f.count % 2 ^ 64 ∧ (∀ g, g ∈ fittedHalves s.cfg → hasTime s g = true → hasTime t g = false → t.bypWin.get g = 0) ∧
        t.far = s.far) ∧
      (Answers .beatStuck s fun t => bitOf (getPage t (pageNo .ftu i)).err 16 = true ∧ t.far = s.far ∧
        let g := t.ftu.get h
        (∀ u, f.undo = some u → f.edgeCyc = some u.cyc →
          g.lock = (if u.lock = .locked ∧ f.lock = .coasting then .coasting else u.lock) ∧
          g.count = (u.count + (s.cyc - u.cyc) * u.rate) % (2 ^ 72 * 9) ∧ g.rate = u.rate ∧
          g.run = (if u.lock = .acquiring then 0 else u.run) ∧ g.goodCyc = u.goodCyc ∧ g.goodWord = u.goodWord ∧
          kreg t .ftu i 0x05C = kreg s .ftu i 0x05C + 1 ∧ kreg t .ftu i 0x058 = kreg s .ftu i 0x058 - 1 ∧
          kreg t .ftu i 0x054 = u.phase) ∧
        ((∀ u, f.undo = some u → f.edgeCyc ≠ some u.cyc) →
          g.lock = f.lock ∧ g.count = f.count ∧ g.run = f.run ∧ g.goodCyc = f.goodCyc ∧
          kreg t .ftu i 0x05C = kreg s .ftu i 0x05C ∧ kreg t .ftu i 0x058 = kreg s .ftu i 0x058)))

/-- Each schedule action, for a fitted half: where the entry is not the next of its half to fire, or holds another action or report,
the command answers the same state; where it is and a Calm is in force in the half and R59 marks the action as held, the entry goes to
HELD and nothing else changes. -/
def Obligations.ScheduleActionsWaitForTheirTurn : Prop :=
  ∀ (s : State) (h : Half) (n : Nat) (a : Instr) (code : Nat) (is : Entry → Bool), h ∈ fittedHalves s.cfg →
    (a, code, is) ∈ scheduleActions h n →
    let e := getEntry s h n
    (¬ (fires s h n = true ∧ e.action = code ∧ is e = true) → exec a s = .next s) ∧
    (fires s h n = true → e.action = code → is e = true → calmOn s h = true → heldInCalm code = true →
      exec a s = .next (putEntry s h n { e with st := .held }))

/-- An entry that fires counts the firing, and is FIRED, or waits for its line's next edge under REARM, or for its next repetition.
BYPASS moves the one output its target names, SNAPSHOT has the page's snapshot taken at the end of the cycle, SLOT_SWITCH marks the port's READY table with the
entry's FT, PAGE_CTRL writes the page's PAGE_CTRL, and LULL_GATE permits or forbids Lull for the partition's tiles of the half. -/
def Obligations.FiringsTakeTheirEffect : Prop :=
  ∀ (s : State) (h : Half) (n : Nat), h ∈ fittedHalves s.cfg → fires s h n = true →
    let e := getEntry s h n
    let u := putEntry s h n e.fired
    (e.trig = true → e.rearm = true → e.fired = { e with fires := min (2 ^ 24 - 1) (e.fires + 1), due := none }) ∧
    ((e.trig = true ∧ e.rearm = false) ∨ (e.trig = false ∧ e.period = 0) → e.fired = { e with fires := min (2 ^ 24 - 1) (e.fires + 1), st := .fired, due := none }) ∧
    (e.trig = false → e.period ≠ 0 → e.fired = { e with fires := min (2 ^ 24 - 1) (e.fires + 1), due := some (nextRep e (e.due.getD e.ft)) }) ∧
    (e.action = actBypass → exec (.bypassAction h n) s = .next { u with
      bypWin := u.bypWin.put (timeHalf u h) (if e.arg % 2 = 1 then u.bypWin.get (timeHalf u h) ||| 2 ^ (e.target % 4)
        else u.bypWin.get (timeHalf u h) &&& (15 - 2 ^ (e.target % 4))) }) ∧
    (e.action = actSnapshot → pageRefuses u h e.page = none →
      exec (.snapshotAction h n) s = .next { u with ends := u.ends ++ [(e.page, false)] }) ∧
    (∀ v pg k i, v.ends = [(pg, false)] → pageOf pg = some (k, i) → HeaderWritten { v with ends := [] } (endCycle v) pg
      { getPage v pg with snap := snapshotOf { v with ends := [] } k i, snapSeq := ((getPage v pg).snapSeq + 1) % 2 ^ 32 }) ∧
    (e.action = actSlotSwitch → (getPort u e.portNo).ready.isSome = true →
      exec (.slotSwitchAction h n) s = .next (putPort u e.portNo { getPort u e.portNo with fired := some (e.due.getD 0) })) ∧
    (∀ k i, e.action = actPageCtrl → calmOn s h = false → pageRefuses u h e.page = none → pageOf e.page = some (k, i) →
      keptOn k = false → exec (.pageCtrlAction h n) s = .next (writeCtrl u k i (e.arg.testBit 0) (e.arg.testBit 1))) ∧
    (e.action = actLullGate → e.arg % 2 = 0 → exec (.lullGateAction h n) s =
      .next { u with gates := u.gates.put false (64 * halfIdx h + e.target % 64) false }) ∧
    (e.action = actLullGate → e.arg % 2 = 1 → Answers (.lullGateAction h n) s fun t =>
      t.gates = u.gates.put false (64 * halfIdx h + e.target % 64) true ∧
      (∀ x k, x ∈ tilesOfHalf u (e.target % 64) h → k < 3 →
        ((getTile u x).lull = .asleep k → calmOn s h = false → (getTile t x).lull = .waking k) ∧
        ((getTile u x).lull = .asleep k → calmOn s h = true → (getTile t x).wakeReq = true) ∧
        ((getTile u x).lull = .entering k → (getTile t x).wakeReq = true)) ∧
      Steady { u with gates := t.gates } t)

/-- SCHEDULE_COMMIT of a window that waits for it: where some written entry is rejected, FTU_REJECT gives the first one with its reason
(4 inside the reserve, else the lowest that applies), the window reads REJECTED and nothing else changes; where none is, the window reads
COMMITTED, each written entry with an action is ARMED as written, one with ACTION NONE is CANCELLED where it was ARMED or HELD and else
stays (log entry 33), and every other entry stays. SCHEDULE_MISSED, while the half is without time: a due firing of a repeating entry, or
of a trigger entry under REARM, is skipped and counted in FTU_MISSED.
With the sideband's power good. TRIG_IN_EDGE at each fitted half: where the half has time and 64 cycles have passed since the last
acted edge of the line, the edge's FT is recorded in FTU_TRIG_LAST and every ARMED trigger entry of the line that awaits an edge is due
at that FT plus its offset; else the line's overrun count gains one up to 255. TRIG_STUCK sets the bit 1 ms after an acted edge with the
line high since; the line's fall clears it in both halves. BYP_STAT_CHANGE leaves the new inputs. -/
def Obligations.ScheduleTransfersAndTriggers : Prop :=
  ((∀ (s : State) (mgmt : Half) (w : Nat), w < 4 → (getWin s mgmt w).awaits 6 = true → (getWin s mgmt w).inst < 2 →
      let x := getWin s mgmt w
      let h := halfOf x.inst
      let new (n : Nat) := newEntry x.staged (getEntry s h n) n
      let why (n : Nat) := entryReject s h n (getEntry s h n) (new n) (newWord x.staged (getEntry s h n) n 2)
      (∀ n, reserveFrom s h ≤ n → why n = some 4) ∧
      (∀ n r, n ∈ writtenEntries x.staged → why n = some r → (∀ m, m < n → m ∈ writtenEntries x.staged → why m = none) →
        exec (.scheduleCommit mgmt w) s =
          .next (putWin (setKreg s .ftu (halfIdx h) 0x070 (BitVec.ofNat 32 (n + 4096 * r))) mgmt w
            { x with st := .closed, committed := false, rejected := true, staged := [] })) ∧
      ((∀ n, n ∈ writtenEntries x.staged → why n = none) → Answers (.scheduleCommit mgmt w) s fun t =>
        getWin t mgmt w = { x with st := .closed, committed := true, rejected := false, staged := [] } ∧
        (∀ g n, n < 1024 → (g ≠ h ∨ n ∉ writtenEntries x.staged) → getEntry t g n = getEntry s g n) ∧
        (∀ n, n ∈ writtenEntries x.staged → getEntry t h n =
          if (new n).action ≠ 0 then new n
          else if (getEntry s h n).st = .armed ∨ (getEntry s h n).st = .held then { getEntry s h n with st := .cancelled, due := none }
          else getEntry s h n) ∧
        { t with sched := s.sched, wins := s.wins } = s)) ∧
    ∀ (s : State) (h : Half) (n : Nat), h ∈ fittedHalves s.cfg → n < 1024 → hasTime s h = false →
      (getEntry s h n).ready (countOf s h) = true →
      let e := getEntry s h n
      (e.period ≠ 0 → e.trig = false → Answers (.scheduleMissed h n) s fun t =>
        getEntry t h n = { e with due := some (nextRep e (e.due.getD 0)) } ∧
        kregN t .ftu (halfIdx h) 0x06C = min (2 ^ 32 - 1) (kregN s .ftu (halfIdx h) 0x06C + 1) ∧
        Monitored { s with sched := t.sched, regs := t.regs } t) ∧
      (e.trig = true → e.rearm = true → Answers (.scheduleMissed h n) s fun t =>
        getEntry t h n = { e with due := none } ∧
        kregN t .ftu (halfIdx h) 0x06C = min (2 ^ 32 - 1) (kregN s .ftu (halfIdx h) 0x06C + 1) ∧
        Monitored { s with sched := t.sched, regs := t.regs } t)) ∧
  (∀ (s : State) (line : Nat), line < 4 → s.pgSb = true →
      (∀ h, h ∈ fittedHalves s.cfg →
        let same (t : State) : Prop :=
          t.trigHigh = s.trigHigh ||| 2 ^ line ∧ t.far = { s with trigHigh := t.trigHigh, trigCyc := t.trigCyc }.far
        let acted := hasTime s h = true ∧ ∀ c, s.trigCyc.find (trigKey line h) = some c → c + 64 ≤ s.cyc
        (acted → Answers (.trigInEdge line) s fun t => same t ∧
          kreg64 t .ftu (halfIdx h) (0x080 + 8 * line) = ftNs s h % 2 ^ 64 ∧ t.trigCyc.find (trigKey line h) = some s.cyc ∧
          overrunOf t h line = overrunOf s h line ∧
          ∀ n, n < 1024 → getEntry t h n =
            (let e := getEntry s h n
             if e.st = .armed ∧ e.trig = true ∧ e.line = line ∧ e.due = none then { e with due := some (ftNs s h + e.ft) } else e)) ∧
        (¬ acted → Answers (.trigInEdge line) s fun t => same t ∧ overrunOf t h line = min 255 (overrunOf s h line + 1) ∧
          t.trigCyc.find (trigKey line h) = s.trigCyc.find (trigKey line h) ∧ ∀ n, n < 1024 → getEntry t h n = getEntry s h n)) ∧
      (∀ h c, h ∈ fittedHalves s.cfg → s.trigHigh.testBit line = true →
        s.trigCyc.find (trigKey line h) = some c → (s.trigCyc.find (8 + trigKey line h)).isSome = true → cycAgo s c 1000000 = true →
        bitOf (kreg s .ftu (halfIdx h) 0x040) (8 + line) = false → Answers (.trigStuck line) s fun t =>
          kreg t .ftu (halfIdx h) 0x040 = setBit (kreg s .ftu (halfIdx h) 0x040) (8 + line) ∧
          bitOf (getPage t (pageNo .ftu (halfIdx h))).err 21 = true ∧
          RegsBut s t [regAddr .ftu 0 0x040, regAddr .ftu 1 0x040] ∧ Monitored { s with regs := t.regs } t) ∧
      (Answers (.trigStuckClear line) s fun t => (∀ h, h ∈ fittedHalves s.cfg → bitOf (kreg t .ftu (halfIdx h) 0x040) (8 + line) = false) ∧
        { t with regs := s.regs, trigHigh := s.trigHigh, trigCyc := s.trigCyc } = s) ∧
      (∀ lines, Answers (.bypStatChange lines) s fun t => t.bypStat = lines % 16 ∧ Monitored { s with bypStat := lines % 16 } t))

/-! ### Tile programs -/

/-- Each of the 56 commands of tile instructions, at a fitted tile. A tile that may not issue, a word at PC of another operation, or an
instruction held at issue leaves the state as it was. A word with a reserved class or operation or one that breaks R96 or R97 faults
with ILLEGAL, a TENSOR instruction without a tensor array with TENSOR_ABSENT, and a format or rounding code that the operation does not
take with FORMAT; the faulting instruction does nothing else. An instruction whose condition is false moves PC past it and does nothing
else. One that finds a bank of SRAM taken retries later (R73), and one that reads an uncorrectable word faults with SRAM_UE, which sets
bit 18 (R74). A read that corrects words writes them back, counts each and sets SRAM_CE. The order of the checks is the model's (log
entries 36 to 38). -/
def Obligations.InstructionChecks : Prop :=
  (∀ (s : State) (n : Nat) (c : Instr) (cls op : Nat), (c, cls, op) ∈ tileOps n → n < 1088 → tileFitted s n = true →
    let x := getTile s n
    let i := x.ins
    (mayIssue s n = false → exec c s = .next s) ∧
    (mayIssue s n = true →
      (formsOf i.cls i.op = none → Answers c s fun t => Faulted s t n 1 x.pc) ∧
      (formsOf i.cls i.op ≠ none → i.cls ≠ cls ∨ i.op ≠ op → exec c s = .next s) ∧
      (i.cls = cls → i.op = op →
        (i.illegal = true → Answers c s fun t => Faulted s t n 1 x.pc) ∧
        (i.illegal = false → x.cond i.cond = false → x.pc + 1 < x.codeWords → Answers c s fun t =>
          Monitored (putTile s n { x with pc := x.pc + 1, idleCyc := s.cyc }) t) ∧
        (i.illegal = false → x.cond i.cond = true →
          (cls = 5 → s.cfg.tensor = false → Answers c s fun t => Faulted s t n 3 x.pc) ∧
          ((cls = 5 → s.cfg.tensor = true) →
            (i.formatOk = false → Answers c s fun t => Faulted s t n 9 x.pc) ∧
            (i.formatOk = true → (holdOf s n i).isSome = true → exec c s = .next s) ∧
            (i.formatOk = true → holdOf s n i = none →
              (bankHeld s n i = true → Answers c s fun t => Monitored s t) ∧
              (bankHeld s n i = false → corrected s n = none → Answers c s fun t => Faulted (worn s t) t n 4 x.pc))))))) ∧
  ∀ (s : State) (n : Nat) (l : List (Nat × Nat)),
    let x := getTile s n
    (sramRead s n l = none ↔ x.flawed 2 l ≠ []) ∧
    (x.flawed 2 l = [] → x.flawed 1 l = [] → sramRead s n l = some s) ∧
    (x.flawed 2 l = [] → x.flawed 1 l ≠ [] → ∃ u, sramRead s n l = some u ∧
      Monitored (worn (putTile s n { x with flaws := (getTile u n).flaws }) u) u ∧ bitOf (getPage u (pageNo .tile n)).err 17 = true ∧
      (∀ w, (getTile u n).flaws.get 0 w = if w ∈ x.flawed 1 l then 0 else x.flaws.get 0 w) ∧
      ∀ k, u.wearDay.get 0 k = s.wearDay.get 0 k + if k = wearKey 1 n then (x.flawed 1 l).length else 0)

/-- s0 reads zero and a write to it has no effect. Each of the ten operations completes, PC moves past it, its semaphore gains one where
it names one, DST and the flags Z, N and C hold what R103 gives, and reporting apart nothing else changes. At the last instruction of
the code the operation takes effect and the program then faults with ILLEGAL at it (log entry 39).
JMP goes to IMM[9:0], or faults with ILLEGAL where that is at or beyond CODE_WORDS. LOOP subtracts one from DST and goes there while DST is
not zero, else past itself. HALT makes PROG HALTED, or faults with EPOCH while some binding has a live epoch not yet reported. Nothing
else changes but what reporting does. -/
def Obligations.ScalarOperationsAndBranches : Prop :=
  ((∀ (x : Tile) (w : Word), x.sreg 0 = 0 ∧ x.setSreg 0 w = x) ∧
    ∀ (s : State) (n : Nat) (c : Instr) (op : Nat) (f : Tile → Ins → Tile), (c, op, f) ∈ scalarOps n → Issues s n 0 op →
      let x := getTile s n
      (x.pc + 1 < x.codeWords → Answers c s fun t => Monitored (s.ranTile n f) t) ∧
      (x.pc + 1 = x.codeWords → Answers c s fun t => Faulted (s.ranTile n f) t n 1 x.pc)) ∧
  (∀ (s : State) (n : Nat),
      let x := getTile s n
      let i := x.ins
      let target := i.imm % 1024
      let done (y : Tile) (pc : Nat) := putTile s n { ((y.noted s n false).signalled s n i.done) with pc := pc }
      (Issues s n 0 0x0A →
        (target < x.codeWords → Answers (.jmp n) s fun t => Monitored (done x target) t) ∧
        (x.codeWords ≤ target → Answers (.jmp n) s fun t => Faulted s t n 1 x.pc)) ∧
      (Issues s n 0 0x0B →
        let d := i.dst % 32
        let y := x.setSreg d (x.sreg d - 1)
        (y.sreg d ≠ 0 → target < x.codeWords → Answers (.loop n) s fun t => Monitored (done y target) t) ∧
        (y.sreg d ≠ 0 → x.codeWords ≤ target → Answers (.loop n) s fun t => Faulted s t n 1 x.pc) ∧
        (y.sreg d = 0 → x.pc + 1 < x.codeWords → Answers (.loop n) s fun t => Monitored (done y (x.pc + 1)) t) ∧
        (y.sreg d = 0 → x.pc + 1 = x.codeWords → Answers (.loop n) s fun t => Faulted (done y (x.pc + 1)) t n 1 x.pc)) ∧
      (Issues s n 0 0x10 →
        (x.anyBind Binding.owed = false → Answers (.halt n) s fun t => Monitored (done { x with prog := .halted } (x.pc + 1)) t) ∧
        (x.anyBind Binding.owed = true → Answers (.halt n) s fun t => Faulted s t n 0x0B x.pc)))

/-- At an instruction that is not the code's last. LDS of SRAM gives the four bytes there, least significant first, from the state in
which a flawed word it reads stands corrected (R74); of the identity area the logical number, the PID and FT now; of a counter's low word
the low 32 bits of its count at the start of the cycle (R399), with the rest latched for that counter, and of a counter's high word the
latched bits, which it releases, or the count's own without a latch; any other address, or one that is no multiple of 4, faults with
ADDR. STS writes four bytes of SRAM and faults with ADDR elsewhere. EPINFO gives the epoch word and start FT of the binding's newest live
epoch, or all ones, and faults with ILLEGAL at a DST outside s1 to s13 (the model's choice, log entry 135); RDFT gives FT in ns, or all
ones without time. -/
def Obligations.LoadsAndStores : Prop :=
  ∀ (s : State) (n : Nat),
    let x := getTile s n
    let i := x.ins
    let a := (x.sreg (i.src1 % 32) + BitVec.ofNat 32 i.imm).toNat
    let h := tileHalf n
    let now := if hasTime s h = true then countOf s h / 2304 else 2 ^ 64 - 1
    (∀ u, Issues s n 0 0x0C → x.pc + 1 < x.codeWords → corrected s n = some u →
      let gives (w : Word) : Prop := Answers (.lds n) s fun t => Monitored (u.ranTile n fun x i => x.result i w) t
      (a % 4 = 0 → a + 4 ≤ 0x80000 → gives (BitVec.ofNat 32 (leNat (readBytes x.sram a 4)))) ∧
      (a = 0x140000 → gives (BitVec.ofNat 32 ((logicalOf s n).getD 0))) ∧
      (a = 0x140004 → gives (BitVec.ofNat 32 (tileOwner s n))) ∧
      (a = 0x140008 → gives (BitVec.ofNat 32 now)) ∧
      (∀ k, k < 16 →
        let v := (x.ctrsAtStart s.cyc).get 0 k
        (a = 0x120000 + 8 * k → Answers (.lds n) s fun t => Monitored
          (s.ranTile n fun x i => { x with ctrLatch := x.ctrLatch.set k (v / 2 ^ 32) }.result i (BitVec.ofNat 32 v)) t) ∧
        (∀ w, a = 0x120004 + 8 * k → x.ctrLatch.find k = some w → Answers (.lds n) s fun t => Monitored
          (s.ranTile n fun x i => { x with ctrLatch := x.ctrLatch.drop k }.result i (BitVec.ofNat 32 w)) t) ∧
        (a = 0x120004 + 8 * k → x.ctrLatch.find k = none → gives (BitVec.ofNat 32 (v / 2 ^ 32)))) ∧
      (a % 4 ≠ 0 ∨ (0x80000 ≤ a ∧ a < 0x120000) ∨ (0x120080 ≤ a ∧ a < 0x140000) ∨ 0x140100 ≤ a →
        Answers (.lds n) s fun t => Faulted u t n 2 x.pc)) ∧
    (Issues s n 0 0x0D → x.pc + 1 < x.codeWords →
      (a % 4 = 0 → a + 4 ≤ 0x80000 → Answers (.sts n) s fun t => Monitored
        (s.ranTile n fun x _ => x.writeSram a (leBytes 4 (x.sreg (i.src2 % 32)).toNat)) t) ∧
      (a % 4 ≠ 0 ∨ 0x80000 ≤ a → Answers (.sts n) s fun t => Faulted s t n 2 x.pc)) ∧
    (Issues s n 0 0x0E → x.pc + 1 < x.codeWords →
      let d := i.dst % 32
      let v := x.bind (i.src2 % 32)
      let three (p q r : Nat) := s.ranTile n fun x _ =>
        ((x.setSreg d (BitVec.ofNat 32 p)).setSreg (d + 1) (BitVec.ofNat 32 q)).setSreg (d + 2) (BitVec.ofNat 32 r)
      (d = 0 ∨ 13 < d → Answers (.epinfo n) s fun t => Faulted s t n 1 x.pc) ∧
      (1 ≤ d → d ≤ 13 → v.valid = false → Answers (.epinfo n) s fun t => Faulted s t n 7 x.pc) ∧
      (1 ≤ d → d ≤ 13 → v.valid = true → v.newest = none → Answers (.epinfo n) s fun t =>
        Monitored (three (2 ^ 32 - 1) (2 ^ 32 - 1) (2 ^ 32 - 1)) t) ∧
      (∀ p e, 1 ≤ d → d ≤ 13 → v.valid = true → v.newest = some (p, e) → Answers (.epinfo n) s fun t =>
        Monitored (three (v.sid % 4096 + 4096 * p + 65536 * (e.epoch % 65536)) e.start (e.start / 2 ^ 32)) t)) ∧
    (Issues s n 0 0x0F → x.pc + 1 < x.codeWords → Answers (.rdft n) s fun t => Monitored (s.ranTile n fun x i =>
      (x.setSreg (i.dst % 32) (BitVec.ofNat 32 now)).setSreg (i.dst % 32 + 1) (BitVec.ofNat 32 (now / 2 ^ 32))) t)

/-- SWAIT takes its count with T 0 where the semaphore holds it, else completes with T 1 where its limit has passed, else waits. An FT
wait completes at once where its FT has passed, with L 1 when the cycle of that FT is over, else waits; FTWAIT.REL counts from the start FT of
the binding's newest live epoch, faults with BINDING for a binding not VALID, and without a live epoch completes with a free L (log entry 43). FENCE waits
while a MOVE or a TMMA of its classes is incomplete. The three completions end a wait of a tile that may end it by the same rules, and leave the state as it was
otherwise.
SSIG adds its count to a semaphore of its tile; a sum past 0xFFFF saturates and sets SEM_OVERFLOW. SSEND puts the increment on its way
to a logical tile of the same partition, or faults with PART. A delivery adds it at the target and wakes the target; it is not made
while a TILECP that the sender issued before to that tile is incomplete. -/
def Obligations.WaitsAndSemaphores : Prop :=
  (∀ (s : State) (n : Nat),
      let x := getTile s n
      let i := x.ins
      let h := tileHalf n
      let passed (f : Nat) : Prop := hasTime s h = true ∧ f * 2304 ≤ countOf s h
      let late (f : Nat) : Bool := decide (f * 2304 + (s.ftu.get (timeHalf s h)).rate ≤ countOf s h)
      let waiting (p : ProgSt) (w : WaitSt) := putTile s n { (x.noted s n false) with
        pc := x.pc + 1, prog := p, wait := w, waitFt := if hasTime s h = true then ftNs s h else allOnes64 }
      let took (m k : Nat) (x : Tile) : Tile := { x with sems := x.sems.put 0 m (x.sem m - k), ft := false }
      let ended (f : Tile → Tile) := putTile s n
        ((f { x with prog := .running, wait := .none, waitFt := allOnes64 }).signalled s n (x.insAt (x.pc - 1)).done)
      let m := i.imm / 256 % 64
      let k := i.imm % 256
      let limit := if i.src1 = 0 then none else some (x.pair (i.src1 % 32))
      let ftwait (c : Instr) (f : Nat) : Prop :=
        (passed f → x.pc + 1 < x.codeWords → Answers c s fun t => Monitored (s.ranTile n fun x _ => { x with fl := late f }) t) ∧
        (¬ passed f → Answers c s fun t => Monitored (waiting .waitFt (.ft f)) t)
      (Issues s n 1 0x00 →
        (k ≤ x.sem m → x.pc + 1 < x.codeWords → Answers (.swait n) s fun t => Monitored (s.ranTile n fun x _ => took m k x) t) ∧
        (∀ f, x.sem m < k → limit = some f → passed f → x.pc + 1 < x.codeWords → Answers (.swait n) s fun t =>
          Monitored (s.ranTile n fun x _ => { x with ft := true }) t) ∧
        (x.sem m < k → (∀ f, limit = some f → ¬ passed f) → Answers (.swait n) s fun t =>
          Monitored (waiting .waitSem (.sem m k limit)) t)) ∧
      (Issues s n 1 0x03 → ftwait (.ftwait n) (x.pair (i.src1 % 32))) ∧
      (Issues s n 1 0x04 →
        let v := x.bind (i.src2 % 32)
        (v.valid = false → Answers (.ftwaitRel n) s fun t => Faulted s t n 7 x.pc) ∧
        (∀ p e, v.valid = true → v.newest = some (p, e) → ftwait (.ftwaitRel n) (e.start + (BitVec.ofNat 32 i.imm).toNat)) ∧
        (v.valid = true → v.newest = none → x.pc + 1 < x.codeWords → Answers (.ftwaitRel n) s fun t =>
          Monitored ({ s with fresh := s.fresh + 1 }.ranTile n fun x _ => { x with fl := Config.relFlag s.fresh }) t)) ∧
      (Issues s n 1 0x05 →
        let mask := i.imm % 64
        let pending := (mask.testBit 2 = true ∧ x.moves.cells ≠ []) ∨ (mask.testBit 5 = true ∧ x.tmma.isSome = true)
        (pending → Answers (.fence n) s fun t => Monitored (waiting .running (.fence mask)) t) ∧
        (¬ pending → x.pc + 1 < x.codeWords → Answers (.fence n) s fun t => Monitored (s.ranTile n fun x _ => x) t)) ∧
      (n < 1088 → tileFitted s n = true → mayEndWait s n = true → x.pc < x.codeWords →
        (∀ m k l, x.wait = .sem m k l →
          (k ≤ x.sem m → Answers (.swaitDone n) s fun t => Monitored (ended (took m k)) t) ∧
          (∀ f, x.sem m < k → l = some f → passed f → Answers (.swaitDone n) s fun t =>
            Monitored (ended fun x => { x with ft := true }) t) ∧
          (x.sem m < k → (∀ f, l = some f → ¬ passed f) → exec (.swaitDone n) s = .next s)) ∧
        (∀ f, x.wait = .ft f →
          (passed f → Answers (.ftWaitDone n) s fun t => Monitored (ended fun x => { x with fl := late f }) t) ∧
          (¬ passed f → exec (.ftWaitDone n) s = .next s)) ∧
        (∀ mask, x.wait = .fence mask →
          let pending := (mask.testBit 2 = true ∧ x.moves.cells ≠ []) ∨ (mask.testBit 5 = true ∧ x.tmma.isSome = true)
          (pending → exec (.fenceDone n) s = .next s) ∧
          (¬ pending → Answers (.fenceDone n) s fun t => Monitored (ended fun x => x) t)))) ∧
  ((∀ (s : State) (n : Nat),
      let x := getTile s n
      let i := x.ins
      let m := i.imm / 256 % 64
      let k := i.imm % 256
      (Issues s n 1 0x01 → x.pc + 1 < x.codeWords → Answers (.ssig n) s fun t =>
        Monitored (s.ranTile n fun x _ => { x with sems := x.sems.put 0 m (min (x.sem m + k) 0xFFFF) }) t ∧
        (0xFFFF < x.sem m + k → bitOf (getPage t (pageNo .tile n)).err 19 = true)) ∧
      (Issues s n 1 0x02 →
        let lt := (x.sreg (i.src1 % 32)).toNat % 1024
        (peerTile s n lt = none → Answers (.ssend n) s fun t => Faulted s t n 6 x.pc) ∧
        (∀ u, peerTile s n lt = some u → x.pc + 1 < x.codeWords → Answers (.ssend n) s fun t =>
          Monitored ({ s with ssends := s.ssends ++ [(lt, m, k, n, x.moveSeq)] }.ranTile n fun x _ => x) t))) ∧
    ∀ (s : State) (j lt m k n place u : Nat), s.ssends[j]? = some (lt, m, k, n, place) → physOf s lt = some u →
      let before := (getTile s n).moves.cells.any fun c => decide (c.2.op = 2) && decide (c.2.arg = u) && decide (c.2.order < place)
      (before = true → exec (.ssendDeliver j) s = .next s) ∧
      (before = false → inSplit s = false ∨ tileHalf n = tileHalf u → Answers (.ssendDeliver j) s fun t =>
        Monitored { putTile s u ((getTile s u).gained s u m k) with ssends := s.ssends.eraseIdx j } t ∧
        (0xFFFF < (getTile s u).sem m + k → bitOf (getPage t (pageNo .tile u)).err 19 = true)))

/-- A MOVE with a length from 64 B to 256 KiB in multiples of 64 B, addresses that are multiples of 64 and lie where R75 permits, memory
of the tile's partition, a target tile of the partition or a VALID binding takes the lowest free of 16 indexes with its latest-service
time and the number of its flits, PC moves past it, and its flits enter the mesh: toward the stack channels of its memory for MEMRD and
MEMWR, with the source's bytes, and toward the target's router for TILECP; a SEND holds its source's bytes. Nothing else changes (flits
are made, and the source is read, in the cycle of issue: the model's choice, log entry 153). Outside those limits it faults and does
nothing else, by the first of MOVE_LEN, ADDR, and PART or BINDING (log entry 154). An upward SEND at the root completes at once. A source
in SRAM is read as R74 corrects it. -/
def Obligations.MovesBegin : Prop :=
  ∀ (s : State) (n : Nat),
    let x := getTile s n
    let i := x.ins
    let q := tileOwner s n
    let len := i.imm % 2 ^ 32
    let slack := i.imm / 2 ^ 32 % 2 ^ 32
    let lst := (ftNs s (tileHalf n) + if slack = 0 then kregN s .tile n 0x088 else slack) / 16 % 2 ^ 32
    let s1 := x.sreg (i.src1 % 32)
    let d := x.sreg (i.dst % 32)
    let lenOk := 64 ≤ len ∧ len ≤ 262144 ∧ len % 64 = 0
    let source := s1.toNat + len ≤ 0x80000 ∨ (0x100000 ≤ s1.toNat ∧ s1.toNat + len ≤ 0x104000)
    let l := (readSource s n s1.toNat len).1
    let pieces (a : Nat) (write : Bool) := ((burstsOf a len write).map (·.length)).foldl (· + ·) 0
    ∀ u, corrected s n = some u →
    let began (c : Instr) (op src dst arg : Nat) (down : Bool) (rsem : Option Nat) (left : Nat) (got : List (Nat × List Byte))
        (sent : State → State) : Prop :=
      x.pc + 1 < x.codeWords → Answers c s fun t =>
        let y := (getTile u n).noted s n false
        Monitored (sent { putTile u n { y with
          pc := x.pc + 1, moveSeq := x.moveSeq + 1
          moves := x.moves.set x.freeMove ⟨op, src, dst, len, arg, down, i.done, rsem, lst, x.moveSeq, x.pc, left, got, false⟩ } with
          fresh := (readSource s n src len).2.fresh }) t
    (Issues s n 2 0x00 →
      let a := x.pair (i.src1 % 32)
      (¬ (lenOk ∧ a % 64 = 0 ∧ d.toNat % 64 = 0) → Answers (.memrd n) s fun t => Faulted u t n 0x0A x.pc) ∧
      (lenOk ∧ a % 64 = 0 ∧ d.toNat % 64 = 0 →
        (0x80000 < d.toNat + len → Answers (.memrd n) s fun t => Faulted u t n 2 x.pc) ∧
        (d.toNat + len ≤ 0x80000 → rangeMapped s q a len = false → Answers (.memrd n) s fun t => Faulted u t n 6 x.pc) ∧
        (d.toNat + len ≤ 0x80000 → rangeMapped s q a len = true → x.pc + 1 < x.codeWords → Answers (.memrd n) s fun t =>
          let y := (getTile u n).noted s n false
          Monitored (sendToStacks (putTile u n { y with
            pc := x.pc + 1, moveSeq := x.moveSeq + 1
            moves := x.moves.set x.freeMove
              ⟨0, a, d.toNat, len, 0, false, i.done, none, lst, x.moveSeq, x.pc, pieces a false, [], false⟩ })
            n x.moveSeq a len false lst []) t))) ∧
    (Issues s n 2 0x01 →
      let a := x.pair (i.dst % 32)
      (¬ (lenOk ∧ s1.toNat % 64 = 0 ∧ a % 64 = 0) → Answers (.memwr n) s fun t => Faulted u t n 0x0A x.pc) ∧
      (lenOk ∧ s1.toNat % 64 = 0 ∧ a % 64 = 0 →
        (¬ source → Answers (.memwr n) s fun t => Faulted u t n 2 x.pc) ∧
        (source → rangeMapped s q a len = false → Answers (.memwr n) s fun t => Faulted u t n 6 x.pc) ∧
        (source → rangeMapped s q a len = true → began (.memwr n) 1 s1.toNat a 0 false none (pieces a true) []
          fun v => sendToStacks v n x.moveSeq a len true lst l))) ∧
    (Issues s n 2 0x02 →
      let lt := (x.sreg (i.src2 % 32)).toNat % 1024
      (¬ (lenOk ∧ s1.toNat % 64 = 0 ∧ d.toNat % 64 = 0) → Answers (.tilecp n) s fun t => Faulted u t n 0x0A x.pc) ∧
      (lenOk ∧ s1.toNat % 64 = 0 ∧ d.toNat % 64 = 0 →
        (¬ (source ∧ d.toNat + len ≤ 0x80000) → Answers (.tilecp n) s fun t => Faulted u t n 2 x.pc) ∧
        (source → d.toNat + len ≤ 0x80000 → peerTile s n lt = none → Answers (.tilecp n) s fun t => Faulted u t n 6 x.pc) ∧
        (∀ g, source → d.toNat + len ≤ 0x80000 → peerTile s n lt = some g →
          began (.tilecp n) 2 s1.toNat d.toNat g false (if i.src3.testBit 7 then some (i.src3 % 64) else none) ((len + 127) / 128) []
            fun v => sendFlits v n g x.moveSeq d.toNat lst l))) ∧
    (Issues s n 2 0x03 →
      let v := x.bind (i.src2 % 32)
      let up := (getSes s v.sid).isRoot = true ∧ i.low ≠ 1
      (¬ (lenOk ∧ s1.toNat % 64 = 0) → Answers (.send n) s fun t => Faulted u t n 0x0A x.pc) ∧
      (lenOk ∧ s1.toNat % 64 = 0 →
        (¬ source → Answers (.send n) s fun t => Faulted u t n 2 x.pc) ∧
        (source → v.valid = false → Answers (.send n) s fun t => Faulted u t n 7 x.pc) ∧
        (source → v.valid = true → up → x.pc + 1 < x.codeWords → Answers (.send n) s fun t =>
          Monitored (u.ranTile n fun x _ => x) t) ∧
        (source → v.valid = true → ¬ up → began (.send n) 3 s1.toNat
          (if i.src3 = 0 then 0 else (x.sreg (i.src3 % 32)).toNat % 4096) (i.src2 % 32) (decide (i.low = 1)) none 0 [(0, l)] id)))

/-- MOVE_COMPLETE of a MOVE that waits for no flit. A MEMRD puts the bytes that came back into SRAM, each run at its place, or, where a
line of its range came back uncorrectable, writes none and faults with MEM_UE; while a bank of its destination serves another it retries
(R73). The writes of a MEMWR have been accepted and the flits of a TILECP have arrived: a TILECP gives the increment at the target. The
MOVE's own semaphore gains one. A SEND's payloads are with the session engine. A MOVE from the receive buffer frees the FILLED slots that
it covers whole. A MOVE with a flit on its way, or an index that holds none, changes nothing. -/
def Obligations.MovesComplete : Prop :=
  ∀ (s : State) (n m : Nat), n < 1088 → tileFitted s n = true →
    let x := getTile s n
    (x.moves.find m = none → exec (.moveComplete n m) s = .next s) ∧
    ∀ v, x.moves.find m = some v →
      let y : Tile := { x with moves := x.moves.drop m }
      (v.left ≠ 0 → exec (.moveComplete n m) s = .next s) ∧
      (v.left = 0 → v.ue = true →
        (x.prog ≠ .faulted → Answers (.moveComplete n m) s fun t => Faulted (putTile s n y) t n 5 v.index) ∧
        (x.prog = .faulted → exec (.moveComplete n m) s = .next (putTile s n y))) ∧
      (v.left = 0 → v.ue = false →
        (v.op = 0 → banksTaken s n (banksOf v.dst v.len) = true → Answers (.moveComplete n m) s fun t => Monitored s t) ∧
        (v.op = 0 → banksTaken s n (banksOf v.dst v.len) = false → Answers (.moveComplete n m) s fun t =>
          Monitored (putTile s n ((v.got.foldl (fun z q => z.writeSram (v.dst + q.1) q.2) y).signalled s n v.sem)) t) ∧
        (v.op = 1 → v.src + v.len ≤ 0x80000 → Answers (.moveComplete n m) s fun t =>
          Monitored (putTile s n (y.signalled s n v.sem)) t) ∧
        (v.op = 2 → v.src + v.len ≤ 0x80000 → Answers (.moveComplete n m) s fun t =>
          let s1 := putTile s n y
          let s2 := putTile s1 v.arg ((getTile s1 v.arg).signalled s v.arg v.rsem)
          Monitored (putTile s2 n ((getTile s2 n).signalled s n v.sem)) t) ∧
        (v.op = 3 → Answers (.moveComplete n m) s fun t =>
          t.core = s.core ∧ (getTile t n).moves = x.moves.drop m ∧
          ((x.bind v.arg).oldestOwed = none → v.src + v.len ≤ 0x80000 →
            Monitored (putTile s n (y.signalled s n v.sem)) t)) ∧
        (1 ≤ v.op → v.op ≤ 3 → ¬ (v.src + v.len ≤ 0x80000) → Answers (.moveComplete n m) s fun t =>
          (getTile t n).moves = x.moves.drop m ∧
          ∀ k, k < 64 → v.src ≤ 0x100000 + 256 * k → 0x100000 + 256 * k + 256 ≤ v.src + v.len →
            ¬ (((getTile t n).slot k).st = .filled ∧ ((getTile t n).slot k).flight = false)))

/-- RACC and RCOPY fault with BINDING at a binding not VALID and with RX_EMPTY at an empty queue. A marker, a RETIRED entry, or one whose slot holds no payload gives its
entry word and M and does nothing else. A cell of RACC adds each element in order into its accumulator and of RCOPY is copied to SRAM at SRC1 + 256 × SEGMENT;
each frees the slot and gives the entry word; RACC faults with FORMAT on another operator and RCOPY with ADDR outside SRAM. RRD gives 64 lanes as R142 reads them. RCLR
clears its accumulators, or faults with BINDING over those of a live epoch. -/
def Obligations.ReduceOperations : Prop :=
  ∀ (s : State) (n : Nat),
    let x := getTile s n
    let i := x.ins
    let b := i.src2 % 32
    let v := x.bind b
    let takes (c : Instr) (f : Tile → Tile) (bad : QEntry → Prop) (code : Nat) (shifts : QEntry → Bool) : Prop :=
      (v.valid = false → Answers c s fun t => Faulted s t n 7 x.pc) ∧
      (v.valid = true → v.queue = [] → Answers c s fun t => Faulted s t n 8 x.pc) ∧
      ∀ e l, v.valid = true → v.queue = e :: l →
        let r := x.slot e.slot
        (e.mark = true ∨ e.retired = true ∨ r.st ≠ .filled → x.pc + 1 < x.codeWords → Answers c s fun t => Monitored (s.ranTile n fun x i =>
          let v' := if e.mark = true ∧ e.outcome = true then { v with queue := l, ranks := e.ranks, exRanks := e.exRanks }
            else { v with queue := l }
          { ((x.setBind b v').result i e.word) with fm := e.mark }) t) ∧
        (e.mark = false → e.retired = false → r.st = .filled →
          (bad e → Answers c s fun t => Faulted s t n code x.pc) ∧
          (¬ bad e → x.pc + 1 < x.codeWords → Answers c s fun t =>
            SteadyBut s t n { (((f x).noted s n (shifts e)).result i e.word) with pc := x.pc + 1, fm := false } ∧
            ((getTile t n).slot e.slot).st ≠ .filled ∧ ∀ k, (getTile t n).acc k = (f x).acc k))
    let addAll (x : Tile) : Tile := match v.queue with
      | e :: _ => (addends v e (x.slot e.slot)).foldl
          (fun y a => { y with racc := y.racc.put Acc.clear a.1 ((y.acc a.1).addend i.low a.2) }) x
      | [] => x
    let at_ (e : QEntry) := (x.sreg (i.src1 % 32)).toNat + 256 * e.seg
    let copy (x : Tile) : Tile := match v.queue with
      | e :: _ => x.writeSram (at_ e) (((x.slot e.slot).payload ++ List.replicate 256 0).take 256)
      | [] => x
    let first := (x.sreg (i.src1 % 32)).toNat
    let count := i.imm % 8192
    (Issues s n 3 0x00 → takes (.racc n) addAll
      (fun e => ((addends v e (x.slot e.slot)).any fun a => !(x.acc a.1).empty && decide ((x.acc a.1).op ≠ i.low)) = true) 9
      fun e => (addends v e (x.slot e.slot)).any fun a => (x.acc a.1).shifts i.low a.2) ∧
    (Issues s n 3 0x01 → takes (.rcopy n) copy (fun e => 0x80000 < at_ e + 256) 2 fun _ => false) ∧
    (Issues s n 3 0x02 → x.pc + 1 < x.codeWords → Answers (.rrd n) s fun t =>
      let rs := if i.rnd = 2 then srDraws 64 x.sr else List.replicate 64 0
      let lane (j : Nat) : Word × Bool := if first + count + j < 8192 then (x.acc (first + count + j)).read i.mode (rs.getD j 0)
        else (Config.beyondAcc s.fresh + BitVec.ofNat 32 j, false)
      let lanes := (List.range 64).map lane
      let u := if first + count + 64 ≤ 8192 then s else { s with fresh := s.fresh + 1 }
      Monitored { (u.ranTile n fun x i => { (x.setVreg (i.dst % 32) (lanes.map (·.1))) with
        sr := if i.rnd = 2 then srAfter 64 x.sr else x.sr }) with regs := t.regs } t ∧
      RegsBut s t [regAddr .tile n 0x180] ∧
      kreg t .tile n 0x180 = kreg s .tile n 0x180 ||| (if lanes.any (·.2) then 4 else 0)) ∧
    (Issues s n 3 0x03 →
      (x.liveAccs first count = true → Answers (.rclr n) s fun t => Faulted s t n 7 x.pc) ∧
      (x.liveAccs first count = false → x.pc + 1 < x.codeWords → Answers (.rclr n) s fun t =>
        Monitored (s.ranTile n fun x _ =>
          { x with racc := x.racc.keep fun k _ => !(decide (first ≤ k) && decide (k < first + count)) }) t))

/-- VADD, VSUB, VMUL, VFMA, VRSQRT, VRCP, VSQRT and VDIV give in each lane their exact result rounded once to FP32, where a NaN's payload is a
free value of the operation and the operands' lanes (log entry 43); VABS, VSEL, VCMPLT, VSPLAT and TRD give each lane as R117 and R118 say. Each completes, PC moves past it, the gate pays
its charge, and reporting apart nothing else changes. -/
def Obligations.LaneOperations : Prop :=
  (∀ (s : State) (n : Nat) (c : Instr) (op : Nat) (f : Tile → Ins → Nat → Val), (c, op, f) ∈ laneArith n → Issues s n 4 op →
    (getTile s n).pc + 1 < (getTile s n).codeWords → Answers c s fun t =>
      Monitored (s.ranTile n fun x i => x.setVreg (i.dst % 32) ((List.range 64).map fun j =>
        laneOf (Config.nanBits [op, (x.laneOf i.src1 j).toNat, (x.laneOf i.src2 j).toNat, (x.laneOf i.src3 j).toNat]) (f x i j))) t) ∧
  ∀ (s : State) (n : Nat) (c : Instr) (cls op : Nat) (f : Tile → Ins → Nat → Word), (c, cls, op, f) ∈ laneMoves n →
    Issues s n cls op → (getTile s n).pc + 1 < (getTile s n).codeWords → Answers c s fun t =>
      Monitored (s.ranTile n fun x i => x.setVreg (i.dst % 32) ((List.range 64).map (f x i))) t

/-- R475: each lane of VMAX and VMIN, and the scalar of VMAXR over 64 lanes, is the canonical NaN where an operand is a NaN and otherwise
the largest, or smallest, operand exactly, with -0 below +0. DST apart, PC, the gate and the semaphore the instruction names move on and nothing
else changes but what reporting does. -/
def Obligations.ExtremesOfLanes : Prop :=
  ∀ (s : State) (n : Nat),
    let x := getTile s n
    let i := x.ins
    let d := i.dst % 32
    let lanes (big : Bool) (t : State) : Prop :=
      Monitored (s.ranTile n fun x _ => { x with vregs := (getTile t n).vregs }) t ∧
      (∀ k, k < 64 * d ∨ 64 * d + 64 ≤ k → (getTile t n).vregs.get 0 k = x.vregs.get 0 k) ∧
      ∀ j, j < 64 → Extreme big [x.laneOf i.src1 j, x.laneOf i.src2 j] ((getTile t n).vregs.get 0 (64 * d + j))
    x.pc + 1 < x.codeWords →
      (Issues s n 4 0x06 → Answers (.vmax n) s (lanes true)) ∧
      (Issues s n 4 0x07 → Answers (.vmin n) s (lanes false)) ∧
      (Issues s n 4 0x12 → Answers (.vmaxr n) s fun t => ∃ w,
        Extreme true ((List.range 64).map (x.laneOf i.src1)) w ∧ Monitored (s.ranTile n fun x i => x.result i w) t)

/-- VLD and VST fault with ADDR at an address that is no multiple of 16 or not in SRAM, and for a block format where SRC3 names no scalar or the scales
are not in SRAM. VLD gives 64 widened elements; VST writes the 64 narrowed elements and a block format's two scales; VCVT gives each
lane narrowed and widened back. Under SR each takes 64 draws. TILE_NUM_STATUS gains the bits that R131, R133 and R136 set, and TILE_NUM_SATCNT the
elements saturated. A VLD reads SRAM as R74 corrects it. VSUM gives the pairwise sum of the 64 lanes in one order, the same for every state. Nothing else changes. -/
def Obligations.FormatsAndSums : Prop :=
  (∀ (s : State) (n : Nat),
    let x := getTile s n
    let i := x.ins
    let w := elemWidth i.fmt
    let block := isBlock i.fmt = true
    let a := (x.sreg ((if i.op = 0 then i.src1 else i.src2) % 32) + BitVec.ofNat 32 i.imm).toNat
    let p := (x.sreg (i.src3 % 32)).toNat
    let good := a % 16 = 0 ∧ a + 8 * w ≤ 0x80000 ∧ (block → i.src3 / 32 = 1 ∧ i.src3 % 32 < 16 ∧ p + 2 ≤ 0x80000)
    let rs := if i.rnd = 2 then srDraws 64 x.sr else List.replicate 64 0
    let q := narrowLanes i.fmt i.mode ((List.range 64).map fun j => laneVal (x.laneOf i.src1 j)) rs
    let drew (x : Tile) : Tile := { x with sr := if i.rnd = 2 then srAfter 64 x.sr else x.sr }
    let widened (e b : Nat) := widenLane (Config.nanBits [i.fmt, e, b]) i.fmt e b
    let noted (t : State) (sat nanLost ovf mx : Bool) (n' : Nat) : Prop :=
      RegsBut s t [regAddr .tile n 0x180, regAddr .tile n 0x184] ∧
      kreg t .tile n 0x180 = kreg s .tile n 0x180 ||| (if sat then 1 else 0) ||| (if nanLost then 2 else 0) |||
        (if ovf then 4 else 0) ||| (if mx then 8 else 0) ∧
      kregN t .tile n 0x184 = min (2 ^ 32 - 1) (kregN s .tile n 0x184 + n')
    x.pc + 1 < x.codeWords →
      (Issues s n 4 0x00 →
        let l := (List.range 64).map fun j =>
          widened (elemAt w (leNat (readBytes x.sram a (8 * w))) j) (x.sram.get 0 (p + j / 32)).toNat
        ∀ u, corrected s n = some u →
        (¬ good → Answers (.vld n) s fun t => Faulted u t n 2 x.pc) ∧
        (good → Answers (.vld n) s fun t =>
          Monitored { (u.ranTile n fun x i => x.setVreg (i.dst % 32) (l.map Prod.fst)) with regs := t.regs } t ∧
          noted t false false (l.any (·.2)) false 0)) ∧
      (Issues s n 4 0x01 →
        (¬ good → Answers (.vst n) s fun t => Faulted s t n 2 x.pc) ∧
        (good → Answers (.vst n) s fun t =>
          Monitored { (s.ranTile n fun x _ => drew
            ((x.writeSram a (leBytes (8 * w) (packElems w q.codes))).writeSram p (q.scales.map (BitVec.ofNat 8)))) with
            regs := t.regs } t ∧
          noted t (decide (q.sat ≠ 0)) q.nanLost false q.mxNan q.sat)) ∧
      (Issues s n 4 0x10 →
        let l := (List.range 64).map fun j => widened (q.codes.getD j 0) (q.scales.getD (j / 32) 0)
        Answers (.vcvt n) s fun t =>
          Monitored { (s.ranTile n fun x _ => drew (x.setVreg (i.dst % 32) (l.map Prod.fst))) with
            regs := t.regs } t ∧
          noted t (decide (q.sat ≠ 0)) q.nanLost (l.any (·.2)) q.mxNan q.sat)) ∧
  ∃ order : List Nat, order.Perm (List.range 64) ∧ ∀ (s : State) (n : Nat), Issues s n 4 0x11 →
    (getTile s n).pc + 1 < (getTile s n).codeWords → Answers (.vsum n) s fun t =>
      Monitored (s.ranTile n fun x i =>
        let l := order.map (x.laneOf i.src1)
        x.result i (sumTree 6 (Config.nanBits (l.map (·.toNat))) l)) t

/-- TMMA with a K of R118 and operands in SRAM begins the multiplication; with another K it faults with ILLEGAL (the model's choice, log entry
44) and outside SRAM with ADDR. TMMA_COMPLETE gives each of the 4,096 accumulators its row of A times its column of B, 32 products at a time in
ascending order, each chunk added with one rounding, and gives the increment; a NaN's payload is a free value of the operands and the
accumulator. It retries while a bank of its operands serves another (R73), and an uncorrectable operand word faults the program with the
accumulators as they were (R74). But for Weathervane's audits and their copy flits nothing else changes. TCLR sets every accumulator to zero
and TWR writes one row. -/
def Obligations.TensorOperations : Prop :=
  ∀ (s : State) (n : Nat),
    let x := getTile s n
    let i := x.ins
    let a := (x.sreg (i.src1 % 32)).toNat
    let b := (x.sreg (i.src2 % 32)).toNat
    let k := i.imm % 65536
    let bytes := 64 * k * elemWidth i.fmt / 8 + if isBlock i.fmt then 64 * k / 32 else 0
    let kOk := k % 32 = 0 ∧ 32 ≤ k ∧ k ≤ 1024
    (Issues s n 5 0x00 →
      (¬ kOk → Answers (.tmma n) s fun t => Faulted s t n 1 x.pc) ∧
      (kOk → 0x80000 < a + bytes ∨ 0x80000 < b + bytes → Answers (.tmma n) s fun t => Faulted s t n 2 x.pc) ∧
      (kOk → a + bytes ≤ 0x80000 → b + bytes ≤ 0x80000 → x.pc + 1 < x.codeWords → Answers (.tmma n) s fun t =>
        Monitored { putTile s n { (x.noted s n false) with pc := x.pc + 1, tmma := some ⟨a, b, k, i.fmt, i.done, x.pc⟩ } with
          denseSeq := s.denseSeq.put 0 n (s.denseSeq.get 0 n + 1) } t)) ∧
    (∀ m, n < 1088 → tileFitted s n = true → x.tmma = some m →
      let size := 64 * m.k * elemWidth m.fmt / 8 + if isBlock m.fmt then 64 * m.k / 32 else 0
      let ranges := [(m.a, size), (m.b, size)]
      (banksTaken s n (banksOfAll ranges) = true → Answers (.tmmaComplete n) s fun t => Monitored s t) ∧
      (banksTaken s n (banksOfAll ranges) = false → sramRead s n ranges = none → Answers (.tmmaComplete n) s fun t =>
        Faulted (worn (putTile s n { x with tmma := none }) t) t n 4 m.index) ∧
      ∀ u, banksTaken s n (banksOfAll ranges) = false → sramRead s n ranges = some u → Answers (.tmmaComplete n) s fun t =>
        Monitored { putTile u n (({ getTile u n with tmma := none, tacc := (getTile t n).tacc }).signalled s n m.sem) with
          audits := t.audits, fresh := t.fresh, wvTurn := t.wvTurn, regs := t.regs, flits := t.flits, arbs := t.arbs } t ∧
        RegsBut s t [regAddr .wv (halfIdx (tileHalf n)) 0x04C] ∧
        ∀ r c, r < 64 → c < 64 → (getTile t n).tacc.get 0 (64 * r + c) =
          let row := operandRow x m.a m.k m.fmt r
          let col := operandRow x m.b m.k m.fmt c
          let before := x.tacc.get 0 (64 * r + c)
          tmmaOutput (m.k / 32) (Config.nanBits (before.toNat :: m.fmt :: (row ++ col).flatMap fun q => [q.1, q.2])) before
            (elemVals m.fmt row) (elemVals m.fmt col)) ∧
    (Issues s n 5 0x01 → x.pc + 1 < x.codeWords → Answers (.tclr n) s fun t =>
      Monitored (s.ranTile n fun x _ => { x with tacc := (getTile t n).tacc }) t ∧ ∀ j, (getTile t n).tacc.get 0 j = 0) ∧
    (Issues s n 5 0x03 → x.pc + 1 < x.codeWords → Answers (.twr n) s fun t =>
      let row := i.imm % 64
      Monitored (s.ranTile n fun x _ => { x with tacc := (getTile t n).tacc }) t ∧
      (∀ j, j < 64 → (getTile t n).tacc.get 0 (64 * row + j) = x.laneOf i.src1 j) ∧
      ∀ j, j < 64 * row ∨ 64 * row + 64 ≤ j → (getTile t n).tacc.get 0 j = x.tacc.get 0 j)

/-- At a fitted tile. An awake tile that meets R82 enters, in an FT wait, the deepest of Lull 2 and 1 that LULL_MAX permits and whose times fit, and otherwise Lull 1 after IDLE
cycles without issue. It reaches its level after the entry time, which the level's ENTRY register counts, and Lull 3 loses SRAM, registers,
accumulators and buffers; it enters a deeper level from Lull 1 after 1 ms (1,800,000 cycles) as R83 gives, wakes when its planned FT has passed and no Calm is in force, and on a write of WAKE; the wake ends
after the exit time, which TILE_WAKE_LAST records and TILE_LULL_NS adds from the decision. -/
def Obligations.LullLevels : Prop :=
  ∀ (s : State) (n : Nat), n < 1088 → tileFitted s n = true →
    let x := getTile s n
    let top := (kreg s .tile n 0x048).toNat % 8
    let idle := (kreg s .tile n 0x048).toNat / 65536
    let enters (c : Instr) (k dec : Nat) : Prop := Answers c s fun t => Monitored (putTile s n { x with
      lull := .entering k, lullDecCyc := dec, lullAtCyc := s.cyc, wakeReq := false, wakeFt := x.planOf k }) t
    (x.lull = .awake → lullClear s n = true →
      (∀ f, x.wait = .ft f →
        (2 ≤ top → levelFits s n 2 = true → enters (.lullDecision n) 2 s.cyc) ∧
        (1 ≤ top → top < 2 ∨ levelFits s n 2 = false → levelFits s n 1 = true → enters (.lullDecision n) 1 s.cyc)) ∧
      ((∀ f, x.wait ≠ .ft f) → 1 ≤ top → idle ≠ 0 → x.idleCyc + idle ≤ s.cyc → enters (.lullDecision n) 1 s.cyc)) ∧
    (∀ k, x.lull = .entering k → 1 ≤ k → k ≤ 3 → x.lullAtCyc + (if k = 1 then 8 else if k = 2 then 360 else 1800) ≤ s.cyc →
      Answers (.lullEntryDone n) s fun t =>
        let y : Tile := { (if k = 3 then x.sleep3 else x) with lull := .asleep k, lullAtCyc := s.cyc, wakeReq := false }
        Monitored { putTile s n (if x.wakeReq then y.wakeUp s.cyc (calmOn s (tileHalf n)) else y) with regs := t.regs } t ∧
        RegsBut s t [regAddr .tile n (0x054 + 4 * k)] ∧
        kreg t .tile n (0x054 + 4 * k) = kreg s .tile n (0x054 + 4 * k) + 1) ∧
    (x.lull = .asleep 1 → lullClear s n = true → idle ≠ 0 → x.lullAtCyc + 1800000 ≤ s.cyc →
      (∀ m k l, x.wait = .sem m k l → bitOf (kreg s .tile n 0x048) 6 = true → 2 ≤ top → enters (.lullDeepen n) 2 x.lullDecCyc) ∧
      (x.wait = .none → x.prog = .none → 3 ≤ top → x.unbound = true → enters (.lullDeepen n) 3 x.lullDecCyc) ∧
      (x.wait = .none → x.prog = .halted → 2 ≤ top → enters (.lullDeepen n) 2 x.lullDecCyc)) ∧
    (∀ k f, x.lull = .asleep k → x.wakeFt = some f → ftPassed s (tileHalf n) f = true → calmOn s (tileHalf n) = false →
      exec (.plannedWake n) s = .next (putTile s n { x with lull := .waking k, wakeCyc := s.cyc, wakeFt := none })) ∧
    (∀ port, Reaches s port .tile n → exec (.wake port n) s =
      .next (okay (putTile s n (x.wakeUp s.cyc (calmOn s (tileHalf n)))) port)) ∧
    (∀ k, x.lull = .waking k → x.wakeCyc + (if k = 1 then 16 else if k = 2 then 3600 else 36000) ≤ s.cyc →
      Answers (.lullWakeDone n) s fun t =>
        Monitored { putTile s n { x with
          lull := .awake, wakeReq := false, wakeFt := none, idleCyc := s.cyc, sramOn := true, sr := (getTile t n).sr } with
          regs := t.regs, fresh := t.fresh } t ∧
        (k ≠ 3 → (getTile t n).sr = x.sr ∧ t.fresh = s.fresh) ∧
        (k = 3 → (kregF s .tile n 0x188).toNat % 65536 ≠ 0 → (getTile t n).sr = (kregF s .tile n 0x188).toNat % 65536) ∧
        RegsBut s t [regAddr .tile n 0x050, regAddr .tile n 0x054, regAddr .tile n 0x064] ∧
        kreg t .tile n 0x064 = BitVec.ofNat 32 ((s.cyc - x.wakeCyc) * 5 / 9) ∧
        kreg64 t .tile n 0x050 = (kreg64 s .tile n 0x050 + (s.cyc - x.lullDecCyc) * 5 / 9) % 2 ^ 64 ∧
        (∀ f, x.wait = .ft f → f * 2304 < countOf s (tileHalf n) → bitOf (getPage t (pageNo .tile n)).err 22 = true))

/-- A tile whose page is in STARTING with no program. From SRAM: the first check of R93 that fails is recorded in TILE_PROG_FAULT, the page
returns to OFF with START_FAIL and SRAM is zero-filled; where none fails the image stands in SRAM with zeros around it, the
instruction buffer holds the code and PROG is LOADED at ENTRY, and nothing else changes; an uncorrectable word of SRAM fails with LOAD_CRC
(the model's choice, log entry 141). From memory: the header is read where its 64 bytes are aligned and mapped, and otherwise LOAD_SIZE ends
the start; its checks come in R93's order, a source whose length is not what the header gives or not mapped failing with LOAD_SIZE there. TILE_SRAM_FILL_DONE ends a fill whose 512 cycles have passed. -/
def Obligations.ProgramsLoad : Prop :=
  ∀ (s : State) (n : Nat), n < 1088 → tileFitted s n = true →
    let x := getTile s n
    let src := kregFN s .tile n 0x080 + 2 ^ 32 * kregFN s .tile n 0x084
    let len := kregFN s .tile n 0x07C
    let q := tileOwner s n
    let all := [(0, 0x80000)]
    let ends (code : Nat) (t : State) : Prop :=
      let y : Tile := { x with sram := .empty, sramOn := true, fillEnd := none, flaws := .empty }
      (getPage t (pageNo .tile n)).st = .off ∧ bitOf (getPage t (pageNo .tile n)).err 0 = true ∧
      kreg t .tile n 0x074 = BitVec.ofNat 32 code ∧ RegsBut s t [regAddr .tile n 0x074] ∧
      Monitored { putTile (putPage (worn s t) (pageNo .tile n) { getPage s (pageNo .tile n) with st := .off }) n y with regs := t.regs } t
    (pageSt s .tile n = .starting → x.prog = .none → src = 0 →
      let m := sramImage x
      (∀ code, m.reject s.cfg.tensor true (decide (x.flawed 2 all = [])) = some code → Answers (.programLoad n) s (ends code)) ∧
      (∀ u, m.reject s.cfg.tensor true true = none → sramRead s n all = some u →
        exec (.programLoad n) s = .next (putTile u n ((getTile u n).install m)))) ∧
    (pageSt s .tile n = .starting → x.prog = .none → src ≠ 0 →
      let headed := src % 64 = 0 ∧ rangeMapped s q src 64 = true
      let mapped := 64 ≤ len ∧ len ≤ 0x80000 ∧ rangeMapped s q src len = true
      let head := bytesImage ((readPart s q src 1).take 64)
      let m := bytesImage ((readPart s q src ((len + 63) / 64)).take len)
      let whole := decide (len = 64 + 16 * m.codeWords + m.dataBytes)
      let readable := !rangeBad s q src len
      (¬ headed → Answers (.programLoad n) s (ends 0x13)) ∧
      (∀ code, headed → ¬ mapped → head.reject s.cfg.tensor false readable = some code → Answers (.programLoad n) s (ends code)) ∧
      (∀ code, headed → mapped → m.reject s.cfg.tensor whole readable = some code → Answers (.programLoad n) s (ends code)) ∧
      (headed → mapped → m.reject s.cfg.tensor whole readable = none →
        exec (.programLoad n) s = .next (putTile s n (x.install m)))) ∧
    (∀ c, x.fillEnd = some c → c ≤ s.cyc → exec (.tileSramFillDone n) s = .next (putTile s n { x with fillEnd := none }))

/-! ### Registers and windows -/

/-- A write or a read of a hole of the map, or of a shadow reducer or counter bank beyond the count fitted, answers DECODE. At a page of
a unit that is not fitted a write answers ABSENT and a read OKAY with zero. At a page of a half in reset, or of the other half in
SPLIT, both answer HALF_DOWN; a block page answers so only while every fitted half is in reset. Nothing but the port's answer changes.
MGMT_CHARGE, which SPLIT leaves reachable, is the subject of another statement. -/
def Obligations.PagesThatCannotBeReached : Prop :=
  ∀ (s : State) (port : Half) (addr : Nat) (data : Word), s.cfg.hasHalf port = true →
    let pg := addr % 2 ^ 26 / 4096
    let writes (c : Nat) : Prop := exec (.registerWrite port addr data) s = .next (respond s port c 0)
    let reads (c : Nat) : Prop :=
      exec (.word64LowerRead port addr) s = .next (respond s port c 0) ∧ exec (.word64UpperRead port addr) s = .next (respond s port c 0)
    (pageOf pg = none → writes respDecode ∧ reads respDecode) ∧
    ∀ k i, pageOf pg = some (k, i) →
      (kindBeyond s.cfg k i = true → writes respDecode ∧ reads respDecode) ∧
      (kindBeyond s.cfg k i = false → kindFitted s.cfg k i = false → writes respAbsent ∧ reads respOkay) ∧
      (kindBeyond s.cfg k i = false → kindFitted s.cfg k i = true → k ≠ .mgmt ∨ addr % 4096 / 4 ≠ 0x10 →
        (∀ h, kindHalf s.cfg k i = some h → s.ready.get h = false ∨ (h ≠ port ∧ inSplit s = true) →
          writes respHalfDown ∧ reads respHalfDown) ∧
        (kindHalf s.cfg k i = none → s.ready.a = false → s.ready.b = false ∨ s.cfg.halfB = false →
          writes respHalfDown ∧ reads respHalfDown))

/-- At a page that a port reaches. A write of a command register is that command. Any other word at 0x040 and above: a word that no
register has, a read-only or write-only word changes nothing and answers OKAY; a word that only an RTP writes, a staged word in
STARTING or ON, a program word of a tenant's tile, an entry of a partition that is not FREE and a profile in use are turned away; any
other word takes the bits written but for reserved ones, and a write-one-to-set or write-one-to-clear word takes those set or cleared.
Nothing else changes but the port's answer, the rate levels that the word governs, and reporting. A new port leaf to observe starts its
counts at zero, and a port whose HOLD is cleared switches its READY table at no boundary already past (R272). -/
def Obligations.RegisterWrites : Prop :=
  ∀ (s : State) (port : Half) (k : PageKind) (i off : Nat) (data : Word), Reaches s port k i → kindBeyond s.cfg k i = false →
    off < 4096 → off % 4 = 0 →
    let pg := pageNo k i
    let write := Instr.registerWrite port (4096 * pg + off) data
    (∀ c, commandAt port k i off data = some c → exec write s = exec c s) ∧
    (k = .blk → off = 0x060 → exec write s = exec (.blkPfa port data) s) ∧
    (0x040 ≤ off → plainRegister k off = true →
      (rtpOnly k off = true → Answers write s fun t => TurnedAway s t port pg respDenied) ∧
      (rtpOnly k off = false →
        (regRow k off = none → exec write s = .next (okay s port)) ∧
        ∀ r, regRow k off = some r →
          let fixed := k = .partMap ∧ pidZeroFixed i off = true
          (fixed → exec write s = .next (okay s port)) ∧
          (¬fixed →
            (r.acc = .ro ∨ r.acc = .wo → wordRefusal s k i off r = none → exec write s = .next (okay s port)) ∧
            (r.acc = .staged → (getPage s (stagedPage k i off)).st = .starting ∨ (getPage s (stagedPage k i off)).st = .on →
              Answers write s fun t => TurnedAway s t port pg respState) ∧
            (r.acc = .program → tileOwner s i ≠ 0 → Answers write s fun t => TurnedAway s t port pg respDenied) ∧
            (r.acc = .program → tileOwner s i = 0 →
              (getPage s (stagedPage k i off)).st = .starting ∨ (getPage s (stagedPage k i off)).st = .on →
              Answers write s fun t => TurnedAway s t port pg respState) ∧
            (r.acc = .whileFree → (getPart s (partEntryPid i off)).st ≠ .free →
              Answers write s fun t => TurnedAway s t port pg respState) ∧
            (k = .wv → 0x120 ≤ off → profileNamed s (halfOf i) ((off - 0x100) / 0x20) = true → r.acc ≠ .staged → r.acc ≠ .program →
              r.acc ≠ .whileFree → Answers write s fun t => TurnedAway s t port pg respState) ∧
            (r.acc ≠ .ro → r.acc ≠ .wo → wordRefusal s k i off r = none → Answers write s fun t =>
              let m := data &&& BitVec.ofNat 32 r.mask
              let old := kreg s k i off
              kreg t k i off = (if r.acc = .w1s then old ||| m else if r.acc = .w1c then old &&& ~~~m else m) ∧
              RegsBut s t (regAddr k i off ::
                if k = .port ∧ off = 0x08C then [regAddr k i 0x090, regAddr k i 0x094, regAddr k i 0x098] else []) ∧
              (k = .port → off = 0x08C → ∀ o ∈ [0x090, 0x094, 0x098], kreg t k i o = 0) ∧
              (∀ q, getPort t q = if k = .port ∧ off = 0x04C ∧ q = i ∧ bitOf old 0 = true ∧ bitOf data 0 = false
                then { getPort s q with after := (getPort s q).after.map fun a => max a (nsCeil (countOf s (portHalf i))) }
                else getPort s q) ∧
              Monitored { okay s port with regs := t.regs, buckets := t.buckets, meters := t.meters, ports := t.ports } t))))

/-- At a page that a port reaches. A read that is not OKAY (reserved header space, a tenant's data) returns zero and changes nothing else. A read of the
lower word of a 64-bit register returns it and latches the upper word as it is then, for that port; a read of an upper word returns
what the port has latched and releases the latch, and without a latch the current word, and latches nothing. The other port's latches, and
the rest of the state but for the fraction noted with FTU_NOW, stay. WIN_DATA and MGMT_CHARGE are read by commands of their own. -/
def Obligations.ReadsOf64Bits : Prop :=
  ∀ (s : State) (port : Half) (k : PageKind) (i off : Nat), Reaches s port k i → kindBeyond s.cfg k i = false → off < 4096 →
    off % 4 = 0 → readsOwn (4096 * pageNo k i + off) = false →
    let a := 4096 * pageNo k i + off
    let low := Instr.word64LowerRead port a
    let high := Instr.word64UpperRead port a
    let mine := s.mports.get port
    let ends (t : State) (data : Word) (latch : Tbl Word) : Prop :=
      (t.mports.get port).resp = respOkay ∧ (t.mports.get port).rdata = data ∧ (t.mports.get port).latch = latch ∧
      (∀ q, q ≠ port → t.mports.get q = s.mports.get q)
    ((readWord s port a).1 ≠ respOkay → exec low s = .next (respond s port (readWord s port a).1 0) ∧
      exec high s = .next (respond s port (readWord s port a).1 0)) ∧
    ((readWord s port a).1 = respOkay →
      (isPairLow k off = true → Answers low s fun t =>
        ends t (readWord s port a).2 (mine.latch.set (a + 4) (readWord s port (a + 4)).2) ∧
        RegsBut s t [regAddr .ftu i 0x050] ∧ { t with mports := s.mports, regs := s.regs } = s) ∧
      (isPairLow k off = false → Answers low s fun t =>
        ends t (readWord s port a).2 mine.latch ∧ { t with mports := s.mports } = s) ∧
      (∀ w, mine.latch.find a = some w → Answers high s fun t =>
        ends t w (mine.latch.drop a) ∧ { t with mports := s.mports } = s) ∧
      (mine.latch.find a = none → Answers high s fun t =>
        ends t (readWord s port a).2 mine.latch ∧ { t with mports := s.mports } = s))

/-- At an MGMT page that a port reaches. OPEN to a closed window answers DECODE at a reserved target, at a unit beyond its numbering and
at a direction that the target does not take, and ABSENT at a unit not fitted; a target open elsewhere, and a window whose target has not
decided yet, answers STATE; a tenant's SRAM DENIED; else the window opens with its counts, CRC and flags zero. OPEN to an open window answers OKAY or STATE
by its direction and changes nothing. Any control access from the port that did not open the window is DENIED. ABORT closes an open
window and discards what was written; of a closed one it sets ACCESS alone. -/
def Obligations.WindowControl : Prop :=
  ∀ (s : State) (port mgmt : Half) (w : Nat) (dir : Bool), w < 4 → Reaches s port .mgmt (halfIdx mgmt) →
    let x := getWin s mgmt w
    let pg := pageNo .mgmt (halfIdx mgmt)
    let code := fieldOf x.sel 7 0
    let inst := fieldOf x.sel 23 8
    let named := ∃ n, targetCount code = some n ∧ inst < n ∧ targetTakesDir code dir = true
    let opn := Instr.winOpen port mgmt w dir
    let sel (data : Word) := Instr.registerWrite port (4096 * pg + 0x100 + 0x20 * w) data
    let adr (data : Word) := Instr.registerWrite port (4096 * pg + 0x108 + 0x20 * w) data
    (x.st ≠ .opened →
      (¬named → exec opn s = .next (respond s port respDecode 0)) ∧
      (named → targetFitted s code inst = false → exec opn s = .next (respond s port respAbsent 0)) ∧
      (named → targetFitted s code inst = true → targetCut s port code inst = false →
        (x.st = .deciding ∨ targetTaken s code inst = true → Answers opn s fun t => TurnedAway s t port pg respState) ∧
        (x.st ≠ .deciding → targetTaken s code inst = false →
          (code = 7 → tileOwner s inst ≠ 0 → Answers opn s fun t => TurnedAway s t port pg respDenied) ∧
          (code ≠ 7 ∨ tileOwner s inst = 0 → code ≠ 9 ∨ (s.calm.get (halfOf inst)).dumped = true →
            let o := putWin s mgmt w ⟨x.sel, x.sel, .opened, dir, x.addr, 0, 0, false, false, port, []⟩
            exec opn s = .next (okay (if code = 7 then sramOpened o inst else o) port)))) ∧
      (∀ d, exec (.winClose port mgmt w d) s = .next (okay s port)) ∧
      (Answers (.abort port mgmt w) s fun t => bitOf (getPage t pg).err 2 = true ∧ Monitored (okay s port) t) ∧
      (∀ data, exec (sel data) s = .next (okay (putWin s mgmt w { x with sel := data &&& 0x00FFFFFF }) port)) ∧
      (∀ data, exec (adr data) s = .next (okay (putWin s mgmt w { x with addr := data }) port))) ∧
    (x.st = .opened →
      (x.port ≠ port → ∀ c ∈ [opn, .winClose port mgmt w dir, .abort port mgmt w, sel 0, adr 0],
        Answers c s fun t => TurnedAway s t port pg respDenied) ∧
      (x.port = port →
        (x.dir = dir → exec opn s = .next (okay s port)) ∧
        (x.dir ≠ dir → Answers opn s fun t => TurnedAway s t port pg respState) ∧
        exec (.abort port mgmt w) s = .next (okay (putWin s mgmt w { x with st := .closed, staged := [] }) port) ∧
        ∀ data, ∀ c ∈ [sel data, adr data], Answers c s fun t => TurnedAway s t port pg respState))

/-- A data access of a closed window, or against its direction, answers STATE; from the other port DENIED; beyond the target's extent
DECODE; each changes nothing but the error words. Else a word written to tile SRAM is stored there at once, and to any other target it waits for the
close; a word read is what the target holds, and the RTP's outbound mailbox loses it. Each advances WIN_ADDR and WIN_COUNT by one and
folds the word's four bytes, least significant first, into WIN_CRC, which is then the CRC of all bytes moved. A full or empty target
answers WAIT and changes none of them. A word of SRAM that is read is corrected where it can be, and one that cannot faults the
program that the tile runs, or sets SRAM_UE (R74). A close of a read window ends it; of a write window the target decides, tile SRAM at once. -/
def Obligations.WindowData : Prop :=
  (∀ l m : List Byte, crcOn (crcOn 0 l) m = crcOn 0 (l ++ m)) ∧
  ∀ (s : State) (port mgmt : Half) (w : Nat) (data : Word), w < 4 → Reaches s port .mgmt (halfIdx mgmt) →
    let x := getWin s mgmt w
    let pg := pageNo .mgmt (halfIdx mgmt)
    let tgt := x.target
    let a := x.addr.toNat
    let wr := Instr.winDataWrite port mgmt w data
    let rd := Instr.winDataRead port mgmt w
    let moved (d : Word) (st : List (Nat × Word)) : Window := { x with
      addr := x.addr + 1, count := x.count + 1, crc := BitVec.ofNat 32 (crcOn x.crc.toNat (leBytes 4 d.toNat)), staged := st }
    let beyond := ∃ n, targetExtent s tgt x.inst = some n ∧ n ≤ a
    let reached := targetCut s port tgt x.inst = false
    let gives (d : Word) (s1 : State) : Prop := exec rd s = .next (respond (putWin s1 mgmt w (moved d x.staged)) port respOkay d)
    (x.st ≠ .opened → (Answers wr s fun t => TurnedAway s t port pg respState) ∧ exec rd s = .next (respond s port respState 0)) ∧
    (x.st = .opened → x.port ≠ port →
      (Answers wr s fun t => TurnedAway s t port pg respDenied) ∧ exec rd s = .next (respond s port respDenied 0) ∧
      ∀ d, Answers (.winClose port mgmt w d) s fun t => TurnedAway s t port pg respDenied) ∧
    (x.st = .opened → x.port = port →
      (x.dir = true → exec rd s = .next (respond s port respState 0)) ∧
      (x.dir = false → Answers wr s fun t => TurnedAway s t port pg respState) ∧
      (reached → sramDenied s tgt x.inst = false → beyond →
        exec (if x.dir = true then wr else rd) s = .next (respond s port respDecode 0)) ∧
      (reached → sramDenied s tgt x.inst = false → ¬beyond →
        (x.dir = true →
          (tgt ≠ 7 → exec wr s = .next (okay (putWin s mgmt w (moved data ((a, data) :: x.staged))) port)) ∧
          (tgt = 7 → sramReady s x.inst = true → exec wr s = .next (okay (putWin
            (onTile s x.inst fun t => t.writeSram (4 * a) (leBytes 4 data.toNat)) mgmt w (moved data x.staged)) port)) ∧
          (tgt = 7 → sramReady s x.inst = false → exec wr s = .next (respond (sramOpened s x.inst) port respWait 0))) ∧
        (x.dir = false →
          (tgt = 2 → (s.rtp.get (halfOf x.inst)).out = [] → exec rd s = .next (respond s port respWait 0)) ∧
          (∀ d r, tgt = 2 → (s.rtp.get (halfOf x.inst)).out = d :: r → gives d (onRtp s (halfOf x.inst) fun q => { q with out := r })) ∧
          (tgt = 3 → gives ((getSes s x.inst).desc.getD a 0) s) ∧
          (tgt = 6 → gives ((getEntry s (halfOf x.inst) (a / 8)).words.getD (a % 8) 0) s) ∧
          (tgt = 7 → sramReady s x.inst = true →
            let y := getTile s x.inst
            let w := BitVec.ofNat 32 (leNat (readBytes y.sram (4 * a) 4))
            (∀ u, sramRead s x.inst [(4 * a, 4)] = some u → gives w u) ∧
            (sramRead s x.inst [(4 * a, 4)] = none →
              let u := windowUe s x.inst
              let runs := y.prog = .running ∨ y.prog = .waitSem ∨ y.prog = .waitFt ∨ y.prog = .loaded
              gives w u ∧ (runs → Faulted (worn s u) u x.inst 4 y.pc) ∧
              (¬runs → Monitored (worn s u) u ∧ bitOf (getPage u (pageNo .tile x.inst)).err 18 = true))) ∧
          (tgt = 7 → sramReady s x.inst = false → exec rd s = .next (respond (sramOpened s x.inst) port respWait 0)))) ∧
      (∀ d, x.dir = false → exec (.winClose port mgmt w d) s = .next (okay (putWin s mgmt w { x with st := .closed }) port)) ∧
      (∀ d, x.dir = true → tgt = 7 → exec (.winClose port mgmt w d) s = .next (okay (putWin s mgmt w
        { x with st := .closed, committed := true, rejected := false, staged := [] }) port)) ∧
      (∀ d, x.dir = true → tgt ≠ 7 → tgt ≠ 1 →
        exec (.winClose port mgmt w d) s = .next (okay (putWin s mgmt w { x with st := .deciding }) port)))

/-! ### Sessions -/

/-- For a closed window that holds a descriptor or a table. A rejected commit shows REJECTED, its reason and entry in SES_REJECT and
REJECT, and no session changes. An accepted descriptor is the session's sixteen words; every key is to be made again, READY returns to
DEFINED, and EMPTY becomes DEFINED once a table stands; OP NONE, checked as any other, leaves the session EMPTY; a table in hand that
breaks R154 under the new descriptor must be written again. An accepted descriptor meets R151's plane,
R152's timing, and the states R152 allows. An accepted table goes into a bank that no live epoch uses and meets R154; the other bank,
the descriptor and the epochs stay. Other sessions stay, and nothing else changes but the window, key exchanges and reporting. -/
def Obligations.SessionCommits : Prop :=
  ∀ (s : State) (mgmt : Half) (w : Nat),
    let win := getWin s mgmt w
    let sid := win.inst
    let old := getSes s sid
    let x := old.withDesc win.staged
    let dc := Instr.descriptorCommit mgmt w
    let tc := Instr.contributorTableCommit mgmt w
    let l := (List.range (tableCount win.staged)).map (contribOf win.staged)
    let b := old.freeBank.getD 0
    let rest (t : State) : Prop :=
      (∀ q, q ≠ sid → getSes t q = getSes s q) ∧ (∀ m v, winKey m v ≠ winKey mgmt w → getWin t m v = getWin s m v) ∧
      Monitored { s with sessions := t.sessions, wins := t.wins, kexs := t.kexs, rtp := t.rtp } t
    let rejected (t : State) (h : Half) (reason entry : Nat) : Prop :=
      getWin t mgmt w = { win with st := .closed, committed := false, rejected := true, staged := [] } ∧
      kreg t .ses (halfIdx h) 0x05C = BitVec.ofNat 32 (reason + 2 ^ 8 * (entry % 8192)) ∧
      bitOf (getPage t (pageNo .ses (halfIdx h))).err 17 = true ∧
      RegsBut s t [regAddr .ses (halfIdx h) 0x05C] ∧ Monitored { s with wins := t.wins, regs := t.regs } t
    let accepted (t : State) : Prop := getWin t mgmt w = { win with st := .closed, committed := true, rejected := false, staged := [] }
    let fits (n : Nat) (relay : Bool) (l : List Contrib) : Prop := l.length = n ∧
      (relay = false → ∀ (i j : Nat) (c d : Contrib), i < j → l[i]? = some c → l[j]? = some d → c.enabled = true →
        d.enabled = true → c.first + c.count ≤ d.first ∨ d.first + d.count ≤ c.first)
    (win.awaits 3 = false → exec dc s = .next s) ∧ (win.awaits 4 = false → exec tc s = .next s) ∧
    (win.awaits 3 = true →
      (∀ r, descReject s sid old x = some r → Answers dc s fun t => rejected t (rejectHalf s x) r 0) ∧
      (descReject s sid old x = none → x.op = 0 → Answers dc s fun t => accepted t ∧ rest t ∧ getSes t sid = .fresh) ∧
      (descReject s sid old x = none → x.op ≠ 0 →
        (engineOn s x.home = true ∧ old.st ≠ .active ∧ old.st ≠ .draining ∧ old.st ≠ .frozen ∧
          ftuLead s x.home ≤ x.guardNs ∧ 2 * x.guardNs ≤ x.marginNs ∧ planeOf x.relayPfa ≠ barredPlane s x) ∧
        Answers dc s fun t => accepted t ∧ rest t ∧
          let y := getSes t sid
          let kept := old.tableOk && x.tableFits
          (kept = true → fits x.contribs x.isRelay (old.bank old.newest)) ∧
          y.desc = (List.range 16).map (tableWord win.staged) ∧ y.tableOk = kept ∧ y.parentKey = false ∧ y.relayKey = false ∧
          (∀ c, (∃ e, (c, e) ∈ old.enabled old.newest) → y.ctst c = (.keying, 0)) ∧
          (∀ c, (∀ e, (c, e) ∉ old.enabled old.newest) → y.ctst c = old.ctst c) ∧
          y.st = (if old.st = .ready then .defined else if old.st = .empty ∧ kept = true then .defined else old.st) ∧
          y.banks = old.banks ∧ y.newest = old.newest ∧ y.eps = old.eps ∧ y.records = old.records)) ∧
    (win.awaits 4 = true →
      (∀ r entry, tableReject s old win.staged old.freeBank = some (r, entry) → Answers tc s fun t => rejected t (rejectHalf s old) r entry) ∧
      (tableReject s old win.staged old.freeBank = none →
        (fits old.contribs old.isRelay l ∧ (∀ c ∈ l, c.first + c.count ≤ 131072 ∧ planeOf c.pfa ≠ 15 ∧ c.window ≤ 64) ∧
          (old.tableOk = true → old.bankBusy b = false)) ∧
        Answers tc s fun t => accepted t ∧ rest t ∧
          let y := getSes t sid
          y.bank b = l ∧ y.bank (1 - b % 2) = old.bank (1 - b % 2) ∧ y.newest = b ∧ y.tableOk = true ∧ y.desc = old.desc ∧ y.eps = old.eps ∧
          (∀ c e, l[c]? = some e → y.ctst c = old.nextCt c e) ∧
          (old.st ≠ .empty → old.st ≠ .defined → y.st = old.st) ∧ (old.st = .empty → old.desc = [] → y.st = .empty)))

/-- At an SES page that a port reaches, outside a Calm of the half. START brings a READY session to ACTIVE and writes its bindings; in DRAINING it sets RESTART_PENDING. STOP
brings ACTIVE to DRAINING, and a DRAINING session whose parities are IDLE goes on to READY with its bindings cleared; in DRAINING it
clears RESTART_PENDING. Any other state, another half's session and an engine that is not ON refuse, and the sessions stay. SES_CMD_STATUS holds the
resulting state, REFUSED, which sets ACCESS, and DONE. A key report for an edge that waits gives it its key, and the last one brings DEFINED to READY. A
Calm of the half holds the command until it resumes. -/
def Obligations.SessionStartStopAndKeys : Prop :=
  (∀ (s : State) (port h : Half) (sid : Nat), sid < 4096 → Reaches s port .ses (halfIdx h) →
    let x := getSes s sid
    let st := Instr.sesStart port h sid
    let sp := Instr.sesStop port h sid
    let status (t : State) (refused : Bool) : Prop :=
      kreg t .ses (halfIdx h) 0x058 = BitVec.ofNat 32 (sesCode (getSes t sid).st + 256 * b2n refused + 2 ^ 31) ∧
      (refused = true → bitOf (getPage t (pageNo .ses (halfIdx h))).err 2 = true) ∧
      (∀ q, q ≠ sid → getSes t q = getSes s q) ∧ Steady (okay s port) t
    let own := x.home = h ∧ engineOn s h = true
    let idle (b : Bool) : Prop := x.idle = b
    let unbound (t : State) : Prop := ∀ p lt, p ∈ x.partList → x.tileOf s p = some lt →
      ((getTile s lt).bind x.bindIndex).sid = sid → (getTile t lt).bind x.bindIndex = .unused
    (calmOn s h = false →
      (¬own ∨ (x.st ≠ .ready ∧ x.st ≠ .draining) → Answers st s fun t => status t true ∧ getSes t sid = x) ∧
      (¬own ∨ (x.st ≠ .active ∧ x.st ≠ .draining) → Answers sp s fun t => status t true ∧ getSes t sid = x) ∧
      (own → x.st = .draining → Answers st s fun t => status t false ∧ getSes t sid = { x with restart := true }) ∧
      (own → x.st = .draining → Answers sp s fun t => status t false ∧ getSes t sid = { x with restart := false }) ∧
      (own → x.st = .ready → x.op ≠ opProgram ∨ placeStatus s x = 0 → x.partList.any (partMisplaced s sid x) = false →
        inSplit s = false ∨ staysHome s x = true → Answers st s fun t => status t false ∧ (getSes t sid).st = .active ∧
          (getSes t sid).eps = x.eps ∧ (getSes t sid).desc = x.desc ∧ (getSes t sid).banks = x.banks ∧
          ∀ p lt, p ∈ x.partList → x.tileOf s p = some lt → (getTile t lt).bind x.bindIndex = { Binding.unused with
            valid := true, sid := sid, semStart := (bindSems x.bindIndex).1, semArrive := (bindSems x.bindIndex).2, accBase := x.accBase,
            accCount := x.elemsOf p }) ∧
      (own → x.st = .ready → (x.op = opProgram ∧ placeStatus s x ≠ 0) ∨ x.partList.any (partMisplaced s sid x) = true ∨
        (inSplit s = true ∧ staysHome s x = false) → Answers st s fun t => status t true ∧ getSes t sid = x) ∧
      (own → x.st = .active → idle false → Answers sp s fun t =>
        status t false ∧ getSes t sid = { x with st := .draining, restart := false }) ∧
      (own → x.st = .active → idle true → Answers sp s fun t =>
        status t false ∧ getSes t sid = { x with st := .ready, restart := false } ∧ unbound t)) ∧
    (calmOn s h = true → ∀ c ∈ [st, sp], Answers c s fun t =>
      (t.calm.get h).gos = (s.calm.get h).gos ++ [c] ∧ (∀ q, getSes t q = getSes s q) ∧ Steady (okay s port) t)) ∧
  ∀ (s : State) (sid : Nat) (edge : Edge), sid < 4096 →
    let x := getSes s sid
    let c := Instr.edgeKeyReport sid edge
    let may := x.st ≠ .empty ∧ x.edgeWaits edge = true ∧ ownerKeyed s x.pid = true ∧ (s.rtp.get x.home).booted = true ∧
      peerKnown s x.pid (x.pfaOf x.newest edge) = true
    (¬may → exec c s = .next s) ∧
    (may → keyRoom s x.home = false → Answers c s fun t => kreg t .sec 0 0x040 = setBit (kreg s .sec 0 0x040) 29 ∧
      bitOf (getPage t (pageNo .sec 0)).err 18 = true ∧ Monitored { s with regs := t.regs } t) ∧
    (may → keyRoom s x.home = true →
      let keyed := match edge with
        | .contrib n => { x with cst := x.cst.put (.disabled, 0) n (.active, 0) }
        | .parent => { x with parentKey := true }
        | .relay => { x with relayKey := true }
      let y := if x.st = .defined ∧ x.tableOk = true ∧ keyed.allKeyed = true then { keyed with st := .ready } else keyed
      Answers c s fun t => t = react (putSes s sid y) sid ∧ t.core = s.core)

/-- For ARM_REQ, ARM, ARM_ACK, COMMIT, DISARM, GRANT, NACK, DONE and OUTCOME at a fitted port. A cell that finds no ingress credit is
dropped. A CRC that is not the header's and payload's is counted in SES_CRC_BAD; an EMPTY session, a stamp without a send time or an edge that the session does not have in
SES_MALFORMED; a tag that fails in SES_AUTH_BAD, which sets AUTH; none of these changes a session otherwise. A Calm of the port's half or the session's
holds a genuine message back. A SEQ already seen on its edge in its epoch is counted in SES_DUP and dropped. Any other message acts, and
its ingress slot is freed. A cell of a reserved KIND or type is counted in SES_MALFORMED, or in SES_CRC_BAD where its CRC fails; a cell that is not
malformed is no such command. What each message does is the subject of other statements. -/
def Obligations.ControlMessageChecks : Prop :=
  (∀ (s : State) (m : CtrlIn) (c : Instr) (msg ft arg : Nat) (edge : Edge) (act : State → State), Carries m c msg ft arg edge act →
    m.port < 64 → portFitted s m.port = true →
    let x := getSes s m.sid
    let h := portHalf m.port
    let crcOk := ctrlCrcOk m (ctrlHead m msg ft arg (fromAbove edge))
    let same (t : State) : Prop := ∀ q, getSes t q = getSes s q
    let counted (t : State) (half : Half) (off : Nat) : Prop :=
      (kreg t .ses (halfIdx half) off).toNat = min (2 ^ 32 - 1) ((kreg s .ses (halfIdx half) off).toNat + 1)
    (takeIngress s m.port = none → Answers c s fun t =>
      (kreg t .port m.port 0x078).toNat = min (2 ^ 32 - 1) ((kreg s .port m.port 0x078).toNat + 1) ∧
      bitOf (getPage t (pageNo .port m.port)).err 16 = true ∧ Monitored { s with regs := t.regs } t) ∧
    (takeIngress s m.port ≠ none →
      (crcOk = false → Answers c s fun t => counted t h 0x060 ∧ same t ∧ Steady s t) ∧
      (crcOk = true →
        (x.st = .empty ∨ sentAt s m.port m.stamp = none ∨ edgeKnown x edge m.cidx = false → Answers c s fun t =>
          counted t (if x.st = .empty then h else x.home) 0x064 ∧ same t ∧ Steady s t) ∧
        (x.st ≠ .empty → sentAt s m.port m.stamp ≠ none → edgeKnown x edge m.cidx = true →
          (m.authOk = false → Answers c s fun t => counted t x.home 0x068 ∧ Steady s t ∧
            bitOf (getPage t (pageNo .ses x.page)).err 16 = true ∧ getSes t m.sid = { x with authBad := x.authBad + 1 } ∧
            ∀ q, q ≠ m.sid → getSes t q = getSes s q) ∧
          (m.authOk = true →
            let last := x.lastPort.set (edgeCode edge) m.port
            let key := (edgeCode edge, m.epoch, m.seq)
            (calmOn s h = true ∨ calmOn s x.home = true → Answers c s fun t => Steady s t ∧ getSes t m.sid = { x with lastPort := last } ∧
              ∀ q, q ≠ m.sid → getSes t q = getSes s q) ∧
            (calmOn s h = false → calmOn s x.home = false →
              (x.seen.contains key = true → Answers c s fun t => counted t x.home 0x06C ∧ Steady s t ∧
                getSes t m.sid = { x with lastPort := last } ∧ ∀ q, q ≠ m.sid → getSes t q = getSes s q) ∧
              (x.seen.contains key = false → ∃ v, received s m msg ft arg edge = some v ∧ Steady s v ∧ exec c s = .next (freeIngress (act v) m.port) ∧
                getSes v m.sid = { x with lastPort := last, seen := key :: x.seen } ∧
                ∀ q, q ≠ m.sid → getSes v q = getSes s q))))))) ∧
  ∀ (s : State) (p head : Nat) (body : List Byte),
    (malformed head body = false → exec (.malformedCell p ⟨head, body⟩) s = .next s) ∧
    (malformed head body = true → p < 64 → portFitted s p = true → takeIngress s p ≠ none →
      Answers (.malformedCell p ⟨head, body⟩) s fun t => (∀ q, getSes t q = getSes s q) ∧ Steady s t ∧
        let off := if head / 2 ^ 48 % 2 ^ 16 = cellCrc (head / 2 ^ 64 % 2 ^ 64) (head % 2 ^ 48) body then 0x064 else 0x060
        (kreg t .ses (halfIdx (portHalf p)) off).toNat = min (2 ^ 32 - 1) ((kreg s .ses (halfIdx (portHalf p)) off).toNat + 1))

/-- R168's conditions are exactly those under which an arm is not refused. SES_ARM_GO at the root, ARM_REQ of the armer at the root, and
ARM at a member: an acceptance enters an EPOCH_START for the start FT in a free reserved entry, makes the parity ARMED with the newest
table and the format of R181, sends ARM twice to every enabled contributor that is not FAILED, KEYING or REMAPPED, and makes the next
epoch the one after; a member with none to wait for acknowledges at once. A refusal goes to SES_ARM_STATUS and sets ACCESS, to the armer or to the parent as a
status of R169 and arms nothing. A member forwards ARM_REQ to its parent. A relay does neither. -/
def Obligations.SessionsArm : Prop :=
  let armed (v : State) (sid n ft : Nat) : State :=
    let x := getSes v sid
    let par := n % 2
    let i := (freeEntry v x.home).getD 0
    let e : Epoch := { Epoch.fresh with
      st := .armed, num := n, start := ft, fmt := x.expectedFmt n, bank := x.newest, awaited := x.presentAt,
      fromStart := x.absentFrom, entry := some i, rung := x.wvRung }
    let v1 := putEntry v x.home i { Entry.empty with
      st := .armed, ft := ft, action := actEpochStart, pid := x.pid, target := sid, arg := par, due := some ft }
    let v2 := putSes v1 sid { x.setEp par e with epoch := n, next := some (n + 1) }
    tryAck (sendAll v2 sid x.newest n x.presentAt (.plain msgArm ft 0) true) sid par
  (∀ (s : State) (x : Session) (n ft lead : Nat), armRefusal s x n ft lead = none ↔
    x.st = .active ∧ engineOn s x.home = true ∧ (x.next = none ∨ x.next = some n) ∧ (x.ep (n % 2)).live = false ∧
      (∃ i, i < 1024 ∧ reserveFrom s x.home ≤ i ∧ (getEntry s x.home i).st ≠ .armed ∧ (getEntry s x.home i).st ≠ .held) ∧
      hasTime s x.home = true ∧ sesNow s x + lead ≤ ft) ∧
  (∀ (s : State) (port h : Half) (sid : Nat), sid < 4096 → Reaches s port .ses (halfIdx h) → calmOn s h = false →
    let c := Instr.sesArmGo port h sid
    let x := getSes s sid
    let v := setKreg (setKreg s .ses (halfIdx h) 0x040 (BitVec.ofNat 32 sid)) .ses (halfIdx h) 0x050 0
    let n := kregN s .ses (halfIdx h) 0x04C
    let ft := kreg64 s .ses (halfIdx h) 0x044
    let status (t : State) (code : Nat) := setKreg t .ses (halfIdx h) 0x050 (BitVec.ofNat 32 (code + 2 ^ 31))
    let mine := engineOn s h = true ∧ x.st ≠ .empty ∧ x.home = h
    (¬mine → exec c s = .next (okay (accessErr (status v 4) .ses (halfIdx h)) port)) ∧
    (mine → x.isRelay = true ∨ x.isRoot = false → exec c s = .next (okay (accessErr (status v 7) .ses (halfIdx h)) port)) ∧
    (mine → x.isRelay = false → x.isRoot = true →
      (∀ code, armRefusal s x n ft x.marginNs = some code → Answers c s fun t =>
        kreg t .ses (halfIdx h) 0x050 = BitVec.ofNat 32 (code + 2 ^ 31) ∧ (∀ q, getSes t q = getSes s q) ∧
        t.sched = s.sched ∧ bitOf (getPage t (pageNo .ses (halfIdx h))).err 2 = true ∧ (code = 2 → bitOf (getPage t (pageNo .ftu (halfIdx h))).err 25 = true) ∧ Steady (okay s port) t) ∧
      (armRefusal s x n ft x.marginNs = none → exec c s = .next (okay (status (armed v sid n ft) 0) port)))) ∧
  (∀ (s v : State) (m : CtrlIn) (ft : Nat), received s m 1 ft 0 (.contrib m.cidx) = some v →
    let c := Instr.armReq m ft
    let x := getSes v m.sid
    let answer (u : State) (code : Nat) := sendCtrl u m.sid x.newest m.epoch (.contrib m.cidx) (.plain msgArmAck 0 code) true
    (x.isRelay = true → exec c s = .next (freeIngress v m.port)) ∧
    (x.isRelay = false → x.isRoot = false →
      exec c s = .next (freeIngress (sendCtrl v m.sid x.newest m.epoch .parent (.plain msgArmReq ft 0) false) m.port)) ∧
    (x.isRelay = false → x.isRoot = true →
      (x.armerEn = false ∨ coversArmer x m.cidx = false → exec c s = .next (freeIngress (answer v 7) m.port)) ∧
      (x.armerEn = true → coversArmer x m.cidx = true →
        (∀ code, code ≠ 2 → armRefusal v x m.epoch ft x.marginNs = some code →
          exec c s = .next (freeIngress (answer v code) m.port)) ∧
        (armRefusal v x m.epoch ft x.marginNs = some 2 →
          exec c s = .next (freeIngress (answer (raiseK v .ftu x.page 25) 2) m.port)) ∧
        (armRefusal v x m.epoch ft x.marginNs = none → exec c s = .next (freeIngress (armed v m.sid m.epoch ft) m.port))))) ∧
  ∀ (s v : State) (m : CtrlIn) (ft : Nat), received s m 2 ft 0 .parent = some v →
    let c := Instr.arm m ft
    let x := getSes v m.sid
    let lead := x.guardNs + ftuLead v x.home
    let answer (u : State) (code : Nat) := sendCtrl u m.sid x.newest m.epoch .parent (.plain msgArmAck 0 code) true
    (x.isRelay = true → exec c s = .next (freeIngress v m.port)) ∧
    (x.isRelay = false →
      (∀ code, code ≠ 2 → armRefusal v x m.epoch ft lead = some code → exec c s = .next (freeIngress (answer v code) m.port)) ∧
      (armRefusal v x m.epoch ft lead = some 2 → exec c s = .next (freeIngress (answer (raiseK v .ftu x.page 25) 2) m.port)) ∧
      (armRefusal v x m.epoch ft lead = none → exec c s = .next (freeIngress (armed v m.sid m.epoch ft) m.port)))

/-- The last awaited OK, or the first refusal, goes to the parent once. At start FT less COMMIT_MARGIN_NS the root sends COMMIT to its
contributors and its relay if every awaited contributor answered OK and none refused, and else DISARM. The first copy of each order for
an epoch is forwarded down, armed here or not, and a second is ignored; a DISARM spends its epoch's number. COMMIT makes an ARMED epoch
COMMITTED before the guard time, and DISARM returns it to IDLE with its start cancelled; the other order before that FT, either order at
or after it, and an ARMED epoch without COMMIT at it, leave the epoch UNCOMMITTED with its start cancelled, count it, set UNCOMMITTED and
send DONE UNCOMMITTED. A relay only forwards. -/
def Obligations.StartIsAllOrNone : Prop :=
  let uncommitted (t : State) (x : Session) (sid par : Nat) : Prop :=
    x.isRoot = false → ((getSes t sid).ep par).st = .uncommitted ∧ bitOf (getPage t (pageNo .ses x.page)).err 18 = true
  (∀ (s v : State) (m : CtrlIn) (status : Nat), received s m 3 0 status (.contrib m.cidx) = some v →
    let c := Instr.armAck m status
    let x := getSes v m.sid
    let par := m.epoch % 2
    let e := x.ep par
    let code := status % 256
    let up (u : State) (code : Nat) : State :=
      onEp (sendCtrl u m.sid x.newest m.epoch .parent (.plain msgArmAck 0 code) true) m.sid par fun e => { e with ackSent := true }
    let noted := onEp v m.sid par fun e => { e with acked := m.cidx :: e.acked }
    let refused := onEp v m.sid par fun e => if e.refusal = 0 then { e with refusal := code } else e
    (e.num ≠ m.epoch ∨ e.st ≠ .armed → exec c s = .next (freeIngress v m.port)) ∧
    (e.num = m.epoch → e.st = .armed → code = 0 →
      (x.isRoot = true ∨ e.ackSent = true ∨ (∃ q ∈ e.awaited, q ≠ m.cidx ∧ q ∉ e.acked) →
        exec c s = .next (freeIngress noted m.port)) ∧
      (x.isRoot = false → e.ackSent = false → (∀ q ∈ e.awaited, q = m.cidx ∨ q ∈ e.acked) →
        exec c s = .next (freeIngress (up noted 0) m.port))) ∧
    (e.num = m.epoch → e.st = .armed → code ≠ 0 →
      (x.isRoot = true ∨ e.ackSent = true → exec c s = .next (freeIngress refused m.port)) ∧
      (x.isRoot = false → e.ackSent = false → exec c s = .next (freeIngress (up refused code) m.port)))) ∧
  (∀ (s v : State) (m : CtrlIn) (ft status : Nat) (relay commit : Bool),
    received s m (if commit then 4 else 5) ft (if commit then 0 else status) (if relay then .relay else .parent) = some v →
    let c := if commit then Instr.commit m ft relay else .disarm m ft status relay
    let x := getSes v m.sid
    let par := m.epoch % 2
    let e := x.ep par
    let msg : Msg := if commit then .plain msgCommit ft 0 else .plain msgDisarm ft (status % 256)
    let holds := e.num = m.epoch ∧ e.start ≠ 0
    let early := sesNow v x + x.guardNs < e.base
    let known : Session := { x with
      orders := (m.epoch, commit) :: x.orders
      next := if commit then x.next else some (max (m.epoch + 1) (x.next.getD 0)) }
    let marked : Session := known.setEp par (if commit then { e with gotCommit := true } else { e with gotDisarm := true })
    let ours := if holds then sendAll (putSes v m.sid marked) m.sid e.bank m.epoch e.awaited msg false
      else sendAll (putSes v m.sid known) m.sid x.newest m.epoch x.presentAt msg false
    let gone (t : State) : Prop := t = freeIngress (react (uncommit ours m.sid par) m.sid) m.port ∧ uncommitted t x m.sid par
    (x.orders.contains (m.epoch, commit) = true → exec c s = .next (freeIngress v m.port)) ∧
    (x.orders.contains (m.epoch, commit) = false →
      (x.isRelay = true ∨ ¬holds → exec c s = .next (freeIngress ours m.port)) ∧
      (x.isRelay = false → holds →
        (commit = true → e.st = .armed → early → exec c s = .next
          (freeIngress (onEp ours m.sid par fun e => { e with st := .committed, since := sesNow v x }) m.port)) ∧
        (commit = true → e.st = .armed → ¬early → Answers c s gone) ∧
        (commit = true → e.st = .idle → e.gotDisarm = true → early → Answers c s gone) ∧
        (commit = true → e.st ≠ .armed → ¬early ∨ e.st ≠ .idle ∨ e.gotDisarm = false → exec c s = .next (freeIngress ours m.port)) ∧
        (commit = false → e.st = .armed → early → Answers c s fun t =>
          ((getSes t m.sid).ep par).st = .idle ∧ t = freeIngress (drainCheck
            (onEp (cancelStart ours m.sid par) m.sid par fun e => { e with st := .idle }) m.sid) m.port) ∧
        (commit = false → e.st = .armed → ¬early → Answers c s gone) ∧
        (commit = false → e.st = .committed → early → Answers c s gone) ∧
        (commit = false → e.st ≠ .armed → e.st ≠ .committed ∨ ¬early → exec c s = .next (freeIngress ours m.port))))) ∧
  ∀ (s : State) (sid par : Nat), sid < 4096 → par < 2 →
    let x := getSes s sid
    let e := x.ep par
    let both (m : Msg) : State := sendCtrl (sendAll s sid e.bank e.num e.awaited m false) sid e.bank e.num .relay m false
    (x.isRoot = false ∨ e.st ≠ .armed ∨ timerDue s x (e.base - x.marginNs) = false → exec (.commitDeadline sid par) s = .next s) ∧
    (x.isRoot = true → e.st = .armed → timerDue s x (e.base - x.marginNs) = true →
      (e.allAcked = true → e.refusal = 0 → exec (.commitDeadline sid par) s = .next
        (onEp (both (.plain msgCommit e.start 0)) sid par fun e => { e with gotCommit := true, st := .committed })) ∧
      (e.allAcked = false ∨ e.refusal ≠ 0 → Answers (.commitDeadline sid par) s fun t =>
        ((getSes t sid).ep par).st = .idle ∧ t = drainCheck (onEp (cancelStart (onEp (both (.plain msgDisarm e.start e.refusal)) sid par
          fun e => { e with gotDisarm := true }) sid par) sid par fun e => { e with st := .idle }) sid)) ∧
    (e.st ≠ .armed ∨ e.gotCommit = true ∨ x.isRoot = true ∨ timerDue s x (e.base - x.guardNs) = false →
      exec (.guardTime sid par) s = .next s) ∧
    (e.st = .armed → e.gotCommit = false → x.isRoot = false → timerDue s x (e.base - x.guardNs) = true →
      Answers (.guardTime sid par) s fun t => t = react (uncommit s sid par) sid ∧ uncommitted t x sid par ∧ t.core = s.core)

/-- At a fitted port with an ingress credit; without one the cell is dropped and counted. The rows in their order: a CRC that is not the header's and the payload's; a handle of no
slot held for a session, or a stamp without a send time; a RESERVED slot whose credit was issued at most 1,000 ns after the send time, with
a tag that verifies under it (ACCEPT) or not (AUTH_BAD); a tag under the slot's credit while FILLED or under the credit before in a live
epoch (DUP); under the credit before of a retired epoch (LATE); anything else (NOCREDIT). ACCEPT fills the slot, returns the credit and
sends the payload into the mesh, its fate open in an OPEN epoch unless its contributor is excluded: the slot holds it once its two flits have come; a format not taken keeps the slot RESERVED. No other row changes a slot, a credit or a fate. -/
def Obligations.ArrivingCellsAreClassified : Prop :=
  ∀ (s : State) (result : Bool) (c : CellIn), c.port < 64 → portFitted s c.port = true →
    let cmd := if result then Instr.resultCell c else .dataCell c
    let kind := if result then 2 else 1
    let h := portHalf c.port
    let pt := physOf s (c.handle / 64 % 1024)
    let slot := c.handle % 64
    let n := pt.getD 0
    let r := (getTile s n).slot slot
    let x := getSes s r.sid
    let late := r.before.getD (0, r.ident)
    let sent := sentAt s c.port c.stamp
    let home := if r.st = .free then h else x.home
    let counted (t : State) (half : Half) (off : Nat) : Prop :=
      (kreg t .ses (halfIdx half) off).toNat = min (2 ^ 32 - 1) ((kreg s .ses (halfIdx half) off).toNat + 1)
    let held (t : State) : Prop :=
      (∀ q i, (getTile t q).slot i = { (getTile s q).slot i with nackAt := ((getTile t q).slot i).nackAt }) ∧
      (∀ q p, (getSes t q).ep p = (getSes s q).ep p) ∧ (∀ q, (getSes t q).returned = (getSes s q).returned) ∧ Steady s t
    let crcOk := c.crc = cellCrc c.tag (cellInLow kind c) c.body
    let sound := crcOk ∧ pt.isSome = true ∧ r.kind ≠ 0 ∧ sent ≠ none
    let mine := kind = r.kind ∧ c.auth = some r.ident
    let fresh := r.st = .reserved ∧ r.issued ≤ sent.getD 0 + 1000
    let dup := (r.st = .filled ∧ mine) ∨ (r.before = some (kind, late.2) ∧ c.auth = some late.2 ∧ epochLive s late.2.sid late.2.epoch = true)
    let old := r.before = some (kind, late.2) ∧ c.auth = some late.2 ∧ epochLive s late.2.sid late.2.epoch = false
    (takeIngress s c.port = none → Answers cmd s fun t =>
      (kreg t .port c.port 0x078).toNat = min (2 ^ 32 - 1) ((kreg s .port c.port 0x078).toNat + 1) ∧
      Monitored { s with regs := t.regs } t) ∧
    (takeIngress s c.port ≠ none →
      (¬crcOk → Answers cmd s fun t => held t ∧
        counted t (if pt = none then h else home) 0x060) ∧
      (crcOk → ¬sound → pt.isSome = true → Answers cmd s fun t => held t ∧ counted t home 0x064) ∧
      (crcOk → pt = none → Answers cmd s fun t => held t ∧ counted t h 0x064) ∧
      (sound → fresh → ¬mine → Answers cmd s fun t => held t ∧ counted t x.home 0x068 ∧
        bitOf (getPage t (pageNo .ses x.page)).err 16 = true ∧ (getSes t r.sid).authBad = x.authBad + 1) ∧
      (sound → fresh → mine → formatTaken x kind (c.format % 16) = false → Answers cmd s fun t => held t ∧ counted t x.home 0x078) ∧
      (sound → fresh → mine → formatTaken x kind (c.format % 16) = true → ∃ v, held v ∧ (∀ q, getSes v q = getSes s q) ∧
        exec cmd s = .next (freeIngress (react (acceptCell v c n slot r) r.sid) c.port) ∧
        let u := acceptCell v c n slot r
        let e := x.ep r.parity
        (getTile u n).slot slot = { r with
          st := .filled, flight := true, fmt := c.format % 16, nackAt := ((getTile v n).slot slot).nackAt
          payload := [] } ∧
        (getSes u r.sid).returned = x.returned + 1 ∧ ((getSes u r.sid).ep r.parity).returned = e.returned + 1 ∧
        (kind = 1 → ((getSes u r.sid).ep r.parity).fate r.cidx r.part r.seg =
          if e.st = .opened ∧ r.cidx ∉ e.excluded then fateAccepted else fateDiscSettled)) ∧
      (sound → ¬fresh → dup → Answers cmd s fun t => held t ∧
        let q := if c.auth = some r.ident ∧ r.st ≠ .free then r.sid else late.2.sid
        counted t (getSes s q).home 0x06C ∧ (getSes t q).dup = (getSes s q).dup + 1) ∧
      (sound → ¬fresh → ¬dup → old → Answers cmd s fun t => held t ∧ counted t (getSes s late.2.sid).home 0x070 ∧
        (getSes t late.2.sid).late = (getSes s late.2.sid).late + 1) ∧
      (sound → ¬fresh → ¬dup → ¬old → Answers cmd s fun t => held t ∧ counted t home 0x074))

/-- A message takes the next SEQ of its edge and epoch, and none goes above 4,095; one that R193 sends twice leaves again 4,000 ns later with
the same SEQ. A DONE without an OUTCOME repeats every 100,000 ns with a new SEQ and the FT of settling. A batch of at most 28 credits leaves
256 cycles after its first credit, unless a meter holds GRANTs back (R275). A part's clear adds one to its START semaphore and only then do its first credits go. A GRANT of the live epoch records its credits, and sends again a kept cell for which
it brings a credit, but for the entry that follows a reminder (the model's reading, log entry 145); the parent's NACK of a kept cell
sends it once more until the OUTCOME is held, one of any other handle changes nothing, and a contributor's NACK is counted (R194). At expected arrival each
RESERVED DATA credit of the contributor draws a REMIND and its GRANT entry again, once. -/
def Obligations.MessagesAndCredits : Prop :=
  (∀ (s : State) (sid b n : Nat) (edge : Edge) (m : Msg) (twice : Bool),
    let x := getSes s sid
    let q := x.seqOf edge n
    let cell := ctrlCell s x sid b n edge m q
    (4095 < q → sendCtrl s sid b n edge m twice = s) ∧
    (q ≤ 4095 → cell.seg = q ∧ cell.msg = m.msg ∧ cell.sid = sid ∧ cell.dst = x.sidAt b edge ∧ cell.toChild = x.toChild edge ∧ cell.epoch = n ∧ cell.ft = m.ft ∧ cell.arg = m.arg ∧
      cell.cidx = x.cidxOf edge ∧ cell.pfa = x.pfaOf b edge ∧ cell.ranges = m.ranges ∧ cell.more = m.more ∧ cell.credits = m.credits ∧
      ((getSes (sendCtrl s sid b n edge m twice) sid).seqOf edge n = q + 1) ∧
      (∀ edge' n', edgeCode edge' ≠ edgeCode edge ∨ n' ≠ n →
        (getSes (sendCtrl s sid b n edge m twice) sid).seqOf edge' n' = x.seqOf edge' n') ∧
      (sendCtrl s sid b n edge m twice).copies = s.copies ++ (if twice then [(sesNow s x + 4000, cell)] else []))) ∧
  (∀ (s : State) (i : Nat),
    (s.copies[i]? = none → exec (.ctrlSecondCopy i) s = .next s) ∧
    (∀ at_ c, s.copies[i]? = some (at_, c) →
      (timerDue s (getSes s c.sid) at_ = false → exec (.ctrlSecondCopy i) s = .next s) ∧
      (timerDue s (getSes s c.sid) at_ = true →
        exec (.ctrlSecondCopy i) s = .next (sendCell { s with copies := s.copies.eraseIdx i } c.sid c)))) ∧
  (∀ (s : State) (sid par : Nat), sid < 4096 → par < 2 →
    let x := getSes s sid
    let e := x.ep par
    let waits := e.sent = true ∧ x.isRoot = false ∧ e.dec = none ∧ (e.st = .waitOutcome ∨ e.st = .uncommitted ∨ e.st = .settled)
    let due := timerDue s x (e.doneAt + 100000 * e.doneCount) = true
    (¬waits ∨ ¬due → exec (.doneRepeat sid par) s = .next s) ∧
    (waits → due → Answers (.doneRepeat sid par) s fun t => t = sendDone s sid par true ∧
      (∃ l, t.copies = s.copies ++ l ∧ (x.seqOf .parent e.num ≤ 4095 → l ≠ []) ∧
        ∀ q ∈ l, q.1 = sesNow s x + 4000 ∧ q.2.msg = 8 ∧ q.2.ft = e.settledAt) ∧
      ((getSes t sid).ep par) = { e with doneCount := e.doneCount + 1 } ∧ Steady s t)) ∧
  (∀ (s : State) (sid par : Nat) (edge : Edge), sid < 4096 → par < 2 →
    let x := getSes s sid
    let e := x.ep par
    let c := Instr.grantBatchFlush sid par edge
    (x.batchOf edge e.num = none → exec c s = .next s) ∧
    (∀ k m l at_, x.batchOf edge e.num = some (k, m, l, at_) →
      (s.cyc < at_ + 256 ∨ calmOn s x.home = true ∨ grantRefused s x edge = true → exec c s = .next s) ∧
      (28 < l.length → at_ + 256 ≤ s.cyc → calmOn s x.home = false → grantRefused s x edge = false → Answers c s fun t =>
        t = onSes (sendCtrl (putSes s sid (x.dropBatch edge e.num)) sid e.bank e.num edge ⟨msgGrant, 0, 28, [], false, l.take 28⟩ false)
          sid fun z => { z with batches := z.batches ++ [(edge, e.num, l.drop 28, at_)] }) ∧
      (l.length ≤ 28 → at_ + 256 ≤ s.cyc → calmOn s x.home = false → grantRefused s x edge = false → Answers c s fun t =>
        t = sendCtrl (putSes s sid (x.dropBatch edge e.num)) sid e.bank e.num edge ⟨msgGrant, 0, l.length, [], false, l⟩ false ∧
        (getSes t sid).batchOf edge e.num = none ∧ Steady s t))) ∧
  (∀ (s : State) (sid par part n : Nat), sid < 4096 → par < 2 →
    let x := getSes s sid
    let e := x.ep par
    let v := (getTile s n).bind x.bindIndex
    x.tileOf s part = some n → x.isRelay = false → part < x.parts → e.opened = true → e.live = true → part ∉ e.started →
    v.valid = true → v.sid = sid → (v.ep par).live = true → calmOn s x.home = false → Answers (.accClearDone sid par part) s fun t =>
      t = react (onEp (semInc s n v.semStart 1) sid par fun e => { e with started := part :: e.started }) sid ∧ t.core = s.core) ∧
  (∀ (s v : State) (m : CtrlIn) (up : Bool) (credits : List Credit),
    received s m 6 0 credits.length (if up then .parent else .contrib m.cidx) = some v →
    let c := Instr.grant m up credits
    let edge : Edge := if up then .parent else .contrib m.cidx
    let x := getSes v m.sid
    let e := x.ep (m.epoch % 2)
    let void := x.isRelay = true ∨ e.live = false ∨ e.num ≠ m.epoch ∨ (up = true ∧ e.dec ≠ none)
    (void → exec c s = .next (freeIngress v m.port)) ∧
    (¬void → exec c s = .next (freeIngress (react ((credits.take 28).foldl (fun u k =>
      takeCredit u m.sid (m.epoch % 2) edge (grantNo v m) k) v) m.sid) m.port)) ∧
    ∀ (n : Nat) (k : Credit),
      let sent := e.kept.find? fun q => up && decide (q.part = k.part) && decide (q.seg = k.seg)
      (∀ q, sent = some q → q.handle ≠ k.handle ∨ q.reminded = false →
        takeCredit v m.sid (m.epoch % 2) edge n k = resend v m.sid (m.epoch % 2) q k.handle n false) ∧
      (∀ q, sent = some q → q.handle = k.handle → q.reminded = true →
        Steady v (takeCredit v m.sid (m.epoch % 2) edge n k) ∧
        (takeCredit v m.sid (m.epoch % 2) edge n k).arbs = v.arbs ∧ (takeCredit v m.sid (m.epoch % 2) edge n k).flits = v.flits) ∧
      (sent = none → (∀ q ∈ x.sendCredits, q.edge ≠ edge ∨ q.epoch ≠ e.num ∨ q.part ≠ k.part ∨ q.seg ≠ k.seg ∨ q.handle ≠ k.handle) →
      (getSes (takeCredit v m.sid (m.epoch % 2) edge n k) m.sid).sendCredits =
        x.sendCredits ++ [⟨edge, e.num, k.part, k.seg, k.handle, n⟩])) ∧
  (∀ (s v : State) (m : CtrlIn) (up : Bool) (handle cause : Nat),
    received s m 7 0 (handle % 65536 + 2 ^ 16 * cause) (if up then .parent else .contrib m.cidx) = some v →
    let c := Instr.nack m ⟨up, handle⟩ cause
    let x := getSes v m.sid
    let e := x.ep (m.epoch % 2)
    let kept := e.kept.find? fun q => decide (q.handle = handle % 65536)
    (up = false → exec c s = .next (freeIngress (putSes v m.sid { x with resultNacks := x.resultNacks + 1 }) m.port)) ∧
    (up = true → e.live = false ∨ e.num ≠ m.epoch ∨ e.dec ≠ none ∨ kept = none → exec c s = .next (freeIngress v m.port)) ∧
    (∀ q, up = true → e.live = true → e.num = m.epoch → e.dec = none → kept = some q → Answers c s fun t =>
      t = freeIngress (resend v m.sid (m.epoch % 2) q q.handle q.grant (q.reminded || decide (cause % 256 = 2))) m.port ∧ Steady s t)) ∧
  ∀ (s : State) (sid par cidx : Nat), sid < 4096 → par < 2 →
    let x := getSes s sid
    let e := x.ep par
    let c := Instr.expectedArrival sid par cidx
    (x.entryOf e cidx = none ∨ e.st ≠ .opened ∨ cidx ∈ e.reminded → exec c s = .next s) ∧
    (∀ ct, x.entryOf e cidx = some ct → timerDue s x (e.base + x.expectNs + 100 * ct.expectAdd) = false → exec c s = .next s) ∧
    (∀ ct, x.entryOf e cidx = some ct → e.st = .opened → cidx ∉ e.reminded →
      timerDue s x (e.base + x.expectNs + 100 * ct.expectAdd) = true → Answers c s fun t =>
        ((getSes t sid).ep par).reminded = cidx :: e.reminded ∧ Steady s t ∧
        t = (reservedFor s sid par cidx).foldl (fun u q =>
          let handle := handleOf (x.tileBase + q.1) q.2.1
          sendCtrl (sendCtrl u sid (x.bankOfEpoch e.num) e.num (.contrib cidx) (.plain msgNack 0 (handle % 65536 + 2 ^ 16 * 2)) false)
            sid e.bank e.num (.contrib cidx) ⟨msgGrant, 0, 1, [], false, [⟨q.2.2.part, q.2.2.seg, handle⟩]⟩ false)
          (onEp s sid par fun e => { e with reminded := cidx :: e.reminded }))

/-- DEADLINE of an enabled contributor that still owes cells in an OPEN epoch: it is missing, and from ACTIVE or SUSPECT it is SUSPECT, or FAILED after FAIL_LIMIT in a
row; ABORT_EPOCH fails the epoch with MISSING, every contributor at its deadline being missing with it, WAIT moves its deadline out by WAIT_MAX_NS, after which WAIT_EXPIRED fails the epoch,
and EXCLUDE excludes it. SES_MARK with a valid name makes the contributor FAILED at once and applies POLICY in each OPEN epoch in which
it still owes cells; an invalid name sets ACCESS and changes no session, and one already FAILED stays as it is. An epoch that fails holds its reason and sets EPOCH_FAILED: the
root fixes the outcome, another member sends DONE. An OPEN epoch whose every part is accounted for settles. -/
def Obligations.MissingContributors : Prop :=
  let fails (t : State) (x : Session) (sid par reason : Nat) : Prop :=
    let e := (getSes t sid).ep par
    bitOf (getPage t (pageNo .ses x.page)).err 19 = true ∧ e.failed = some reason ∧
      (x.isRoot = true → e.st = .closing ∧ ∃ d, e.dec = some d ∧ d.code = 3 ∧ d.reason = reason) ∧
      (x.isRoot = false → e.st = .waitOutcome ∧ e.sent = true)
  (∀ (s : State) (sid par cidx : Nat), sid < 4096 → par < 2 → (getSes s sid).entryOf ((getSes s sid).ep par) cidx = none →
    exec (.deadline sid par cidx) s = .next s ∧ exec (.waitExpired sid par cidx) s = .next s) ∧
  (∀ (s : State) (sid par cidx : Nat) (ct : Contrib), sid < 4096 → par < 2 →
    let x := getSes s sid
    let e := x.ep par
    x.entryOf e cidx = some ct →
    let dl := Instr.deadline sid par cidx
    let we := Instr.waitExpired sid par cidx
    let due := timerDue s x (e.base + x.expectNs + 100 * ct.expectAdd + x.deadlineNs) = true
    let lapsed := timerDue s x (e.base + x.expectNs + 100 * ct.expectAdd + x.deadlineNs + x.waitMaxNs) = true
    let absent := e.st = .opened ∧ cidx ∉ e.missing ∧ cidx ∉ e.excluded ∧ x.stillOwes e cidx ct = true
    let missed (u : State) (c : Nat) : State := onSes (onEp u sid par fun e => { e with missing := c :: e.missing }) sid fun y =>
      let q := y.ctst c
      if q.1 ≠ .active ∧ q.1 ≠ .suspect then y else y.setCt c (if y.failLimit ≤ q.2 + 1 then .failed else .suspect) (q.2 + 1)
    let others := (x.enabled e.bank).filter fun c => decide (c.1 ≠ cidx) && (!e.missing.contains c.1 && !e.excluded.contains c.1 &&
      x.stillOwes e c.1 c.2 && timerDue s x (e.base + x.expectNs + 100 * c.2.expectAdd + x.deadlineNs))
    let v := missed s cidx
    (¬absent ∨ ¬due → exec dl s = .next s) ∧
    (absent → due →
      (x.policy = polAbort → Answers dl s fun t =>
        t = react (failEpoch (missed (others.foldl (fun u c => missed u c.1) s) cidx) sid par rsnMissing) sid ∧
        fails t x sid par (e.failed.getD rsnMissing) ∧ t.core = s.core) ∧
      (x.policy = polWait → Answers dl s fun t => t.core = s.core ∧
        t = react (onEp v sid par fun e => { e with waiting := cidx :: e.waiting }) sid) ∧
      (x.policy ≠ polAbort → x.policy ≠ polWait → Answers dl s fun t => t.core = s.core ∧
        t = react (onEp v sid par fun e => { e with excluded := e.excluded ++ [cidx] }) sid)) ∧
    (e.st ≠ .opened ∨ cidx ∉ e.waiting ∨ x.stillOwes e cidx ct = false ∨ ¬lapsed → exec we s = .next s) ∧
    (e.st = .opened → cidx ∈ e.waiting → x.stillOwes e cidx ct = true → lapsed → Answers we s fun t =>
      t = react (failEpoch s sid par rsnWaitExpired) sid ∧ fails t x sid par (e.failed.getD rsnWaitExpired))) ∧
  (∀ (s : State) (port h : Half) (sid cidx : Nat), sid < 4096 → cidx < 8192 → Reaches s port .ses (halfIdx h) → calmOn s h = false →
    let x := getSes s sid
    let c := Instr.sesMark port h sid cidx
    let v := setKreg s .ses (halfIdx h) 0x0C0 (BitVec.ofNat 32 (sid + 2 ^ 12 * cidx))
    let valid := x.st ≠ .empty ∧ x.home = h ∧ ∃ e, (cidx, e) ∈ x.enabled x.newest
    (¬valid → Answers c s fun t => bitOf (getPage t (pageNo .ses (halfIdx h))).err 2 = true ∧ Monitored (okay v port) t) ∧
    (valid → (x.ctst cidx).1 = .failed → Answers c s fun t => t = okay v port) ∧
    (valid → (x.ctst cidx).1 ≠ .failed → Answers c s fun t => (getSes t sid).ctst cidx = (.failed, (x.ctst cidx).2) ∧
      t = okay (react (markIn (markIn (putSes v sid (x.setCt cidx .failed (x.ctst cidx).2)) sid 0 cidx) sid 1 cidx) sid) port)) ∧
  ∀ (s : State) (sid par : Nat), par < 2 →
    let x := getSes s sid
    let e := x.ep par
    calmOn s x.home = false → x.st ≠ .empty → x.isRelay = false → e.st = .opened → allAccounted x e = true →
    let f := (getSes (react s sid) sid).ep par
    (x.isRoot = true → f.st = .closing ∧ ∃ d, f.dec = some d ∧ d.code ≠ 0) ∧
    (x.isRoot = false → (f.st = .settled ∨ f.st = .waitOutcome) ∧ f.sent = true)

/-- A DONE adds its ranges to what the contributor has sent and is complete with MORE 0; a complete DONE FAILED or UNCOMMITTED fails the
epoch here with its reason, or marks it to fail as it opens; a repeat changes nothing. A DONE of a retired epoch is answered from its record
with the OUTCOME twice, but for outcome NONE; one of an unknown epoch is counted in SES_LATE. An OUTCOME gathers ranges until MORE is
0, then the epoch is CLOSING with that decision, its start is cancelled, RESULT credits still RESERVED are counted lost, the parent's
credits are void (R166), and after FAILED no contribution counts as in hand (R181); the first decision stands. SES_ORPHAN_NS after its first DONE a member without an OUTCOME takes NONE with PARENT_LOST. A relay ignores both. -/
def Obligations.DoneAndOutcome : Prop :=
  let takes (v t : State) (sid par : Nat) (d : Decision) : Prop :=
    let f := (getSes t sid).ep par
    f.st = .closing ∧ (∃ g, f.dec = some g ∧ g.code = d.code ∧ g.reason = d.reason ∧ g.ranges = d.ranges ∧ g.ft = d.ft) ∧
      f.resultLost = resultsReserved v sid par ((getSes v sid).ep par).num ∧ f.entry = none ∧ t.core = v.core ∧
      (d.code = 3 → ∀ c p g, f.fate c p g ≠ fateReduced ∧ f.fate c p g ≠ fateAccepted ∧ f.fate c p g ≠ fateFilled) ∧
      ∀ k ∈ (getSes t sid).sendCredits, k.edge = .parent → k.epoch ≠ f.num
  (∀ (s v : State) (m : CtrlIn) (ft st rsn : Nat) (ranges : List RankRange) (more : Bool) (total narrow lag : Nat),
    received s m 8 ft (doneArgOf st rsn lag total narrow) (.contrib m.cidx) = some v →
    let c := Instr.done m ft st rsn ranges more total narrow lag
    let x := getSes v m.sid
    let par := m.epoch % 2
    let e := x.ep par
    let mine := e.live = true ∧ e.num = m.epoch
    let old := e.doneOf m.cidx
    let news := old = none ∨ ∃ o, old = some o ∧ (o.complete = false ∨ (o.status ≤ 1 ∧ 2 ≤ st % 256))
    let base := match old with
      | some o => if o.complete then [] else o.ranges
      | none => []
    let d : ChildDone := ⟨m.cidx, st % 256, rsn % 256, base ++ ranges.take 27, !more, total % 65536, narrow % 65536, lag % 256⟩
    let noted := onEp v m.sid par fun e => { e with childDone := d :: e.childDone.filter fun o => decide (o.cidx ≠ m.cidx) }
    let bad := if st % 256 = 3 then rsnUncommitted else rsn % 256
    (x.isRelay = true → exec c s = .next (freeIngress v m.port)) ∧
    (x.isRelay = false →
      (∀ r, ¬mine → x.recordOf m.epoch = some r → r.dec.code ≠ 0 →
        exec c s = .next (freeIngress (sendOutcome v m.sid x.newest m.epoch m.cidx r.dec true) m.port)) ∧
      (∀ r, ¬mine → x.recordOf m.epoch = some r → r.dec.code = 0 → exec c s = .next (freeIngress v m.port)) ∧
      (¬mine → x.recordOf m.epoch = none → Answers c s fun t =>
        (kreg t .ses x.page 0x070).toNat = min (2 ^ 32 - 1) ((kreg v .ses x.page 0x070).toNat + 1) ∧
        (∀ q, getSes t q = getSes v q) ∧ Steady v t) ∧
      (mine → ¬news → exec c s = .next (freeIngress v m.port)) ∧
      (mine → news → more = true ∨ st % 256 ≤ 1 → exec c s = .next (freeIngress (react noted m.sid) m.port)) ∧
      (mine → news → more = false → 2 ≤ st % 256 →
        (e.st = .armed ∨ e.st = .committed → exec c s = .next (freeIngress (react
          (onEp noted m.sid par fun e => { e with failed := some (e.failed.getD bad) }) m.sid) m.port)) ∧
        (e.st ≠ .armed → e.st ≠ .committed → exec c s = .next (freeIngress (react (failEpoch noted m.sid par bad) m.sid) m.port))))) ∧
  (∀ (s v : State) (m : CtrlIn) (ft code rsn fmt advice : Nat) (ranges : List RankRange) (more : Bool),
    received s m 9 ft (Decision.arg ⟨code, ft, rsn, fmt, advice, []⟩) .parent = some v →
    let c := Instr.outcome m ft code rsn fmt advice ranges more
    let x := getSes v m.sid
    let par := m.epoch % 2
    let e := x.ep par
    let l := e.rangesIn ++ ranges.take 27
    let idle := x.isRelay = true ∨ e.live = false ∨ e.num ≠ m.epoch ∨ e.dec ≠ none
    (idle → exec c s = .next (freeIngress v m.port)) ∧
    (¬idle → more = true → exec c s = .next (freeIngress (onEp v m.sid par fun e => { e with rangesIn := l }) m.port)) ∧
    (¬idle → more = false → Answers c s fun t =>
      takes v t m.sid par ⟨code % 4, ft, rsn % 256, fmt % 16, advice % 4, l⟩)) ∧
  ∀ (s : State) (sid par : Nat), sid < 4096 → par < 2 →
    let x := getSes s sid
    let e := x.ep par
    let waits := e.sent = true ∧ x.isRoot = false ∧ e.dec = none ∧ (e.st = .waitOutcome ∨ e.st = .uncommitted ∨ e.st = .settled)
    let due := timerDue s x (e.doneAt + kregN s .ses x.page 0x0C4) = true
    (¬waits ∨ ¬due → exec (.orphanTimeout sid par) s = .next s) ∧
    (waits → due → Answers (.orphanTimeout sid par) s fun t => takes s t sid par ⟨0, sesNow s x, rsnParentLost, 0, 0, []⟩)

/-- The firing of an EPOCH_START opens a COMMITTED epoch: its bindings' parities are live with accumulators cleared, contributors missing from
the start are excluded or fail it, and a part that cannot be served, or a failure reported before, fails it. An epoch retires only in
CLOSING with its OUTCOME and RESULT cells sent, every tile's report in, and no Calm. The sweep then leaves no slot of the epoch RESERVED or FILLED and no parity
live, its record is the newest of two, holds the decision and a fate for each expected contribution where no more are counted than are
expected, and the parity is IDLE. A DRAINING session with no other live parity goes on to READY, or by a pending START to ACTIVE, or to READY with
the START refused. -/
def Obligations.EpochsOpenAndRetire : Prop :=
  (∀ (s : State) (h : Half) (n : Nat), h ∈ fittedHalves s.cfg → fires s h n = true → (getEntry s h n).action = actEpochStart →
    calmOn s h = false →
    let g := getEntry s h n
    let sid := g.target % 4096
    let par := g.arg % 2
    let u := putEntry s h n g.fired
    let x := getSes u sid
    let e := x.ep par
    let v1 := onEp u sid par fun e => { e with
      st := .opened, opened := true, entry := none, shift := e.shift, since := sesNow u x }
    let v2 := x.partList.foldl (fun w p => openPart w sid par p) v1
    let v3 := applyFromStart (sampleEpoch v2 sid par) sid par
    let served := x.partList.all (tileServes v3 x) = true
    (e.st ≠ .committed → exec (.epochStartAction h n) s = .next u) ∧
    (e.st = .committed →
      (served → e.failed = none → exec (.epochStartAction h n) s = .next (react v3 sid)) ∧
      (∀ r, served → e.failed = some r → exec (.epochStartAction h n) s = .next (react (failEpoch v3 sid par r) sid)) ∧
      (¬served → e.failed = none → exec (.epochStartAction h n) s = .next (react (failEpoch v3 sid par rsnTileFault) sid)) ∧
      (∀ r, ¬served → e.failed = some r →
        exec (.epochStartAction h n) s = .next (react (failEpoch (failEpoch v3 sid par rsnTileFault) sid par r) sid)) ∧
      (∀ p t, x.tileOf s p = some t → swapWaits s (x.tileBase + p) = false →
        ((getTile (openPart v1 sid par p) t).bind x.bindIndex).ep par = ⟨true, false, e.num, e.start⟩ ∧
        ∀ k, k < ((getTile s t).bind x.bindIndex).accCount →
          (getTile (openPart v1 sid par p) t).racc.get Acc.clear (((getTile s t).bind x.bindIndex).accOf par + k) = Acc.clear))) ∧
  ∀ (s : State) (sid par : Nat), sid < 4096 → par < 2 →
    let x := getSes s sid
    let e := x.ep par
    let c := Instr.epochRetire sid par
    let r := x.recordFor e
    (e.st ≠ .closing ∨ e.outcomeSent = false ∨ tilesReported s x par = false ∨ calmOn s x.home = true ∨
      (∃ o ∈ x.outSegs, o.epoch = e.num ∧ o.down = true) → exec c s = .next s) ∧
    (e.st = .closing → e.outcomeSent = true → tilesReported s x par = true → calmOn s x.home = false →
      (∀ o ∈ x.outSegs, o.epoch = e.num → o.down = false) → cellWaits s sid e.num 2 = false → cellWaits s sid e.num 3 = false →
      (r.num = e.num ∧ r.expected = x.expects e ∧ (∀ d, e.dec = some d → r.outcome = d.code ∧ r.reason = d.reason) ∧
        (r.reduced + r.discFailed + r.discTile + r.discSettled + r.reclaimed ≤ r.expected →
          r.reduced + (r.discFailed + r.discTile + r.discSettled + r.reclaimed + r.uncredited) = r.expected)) ∧
      Answers c s fun t => t.core = s.core ∧
        (∀ p n i, p ∈ x.partList → x.tileOf s p = some n → ((getTile s n).slot i).holds sid par e.num = true →
          ((getTile s n).slot i).flight = false → ((getTile t n).slot i).holds sid par e.num = true →
          ((getTile t n).slot i).st = .free) ∧
        (getSes t sid).records = (r :: x.records).take 2 ∧ (getSes t sid).lastOutcome = r.outcome ∧
        (getSes t sid).reduced = r.reduced ∧ (getSes t sid).discarded = r.expected - r.reduced ∧
        (getSes t sid).ep par = { Epoch.fresh with num := e.num } ∧
        (x.st = .draining → (x.ep (1 - par)).live = false →
          (x.restart = false → (getSes t sid).st = .ready) ∧
          (x.restart = true → (getSes t sid).st = .active ∨
            (getSes t sid).st = .ready ∧ bitOf (kreg t .ses x.page 0x058) 8 = true)))

/-- RX_SLOT_FILL of an accepted cell whose flits have all arrived joins it to the binding's arrival queue, or frees it unreduced in a settled epoch, for an excluded contributor or
at a tile that cannot take it; at a FREE slot it is dropped and sets RX_NOSLOT. EPDONE and EPFAIL of a live parity that is still owed
report it, and EPFAIL fails the epoch with PROGRAM or its own reason from 0x80 on; a binding not VALID faults with BINDING and a parity
not owed with EPOCH. An uncorrectable error in a FILLED slot frees it, marks its queue entry RETIRED and makes the segment owed again; in
an OPEN epoch's accumulators it clears them and their contributions are owed again; in a settled epoch it fails with CONTRIB_UE. In an
ingress buffer the cell is CRC_BAD and sets BUF_UE; elsewhere in SRAM the word holds the error until it is read or written; a shadow
reducer loses its groups; a frame bank its oldest frame that has not begun to leave. -/
def Obligations.PayloadsAndReports : Prop :=
  (∀ (s : State) (n slot : Nat), n < 1088 → tileFitted s n = true → slot < 64 →
    let r := (getTile s n).slot slot
    let c := Instr.rxSlotFill n slot
    let x := getSes s r.sid
    let e := x.ep r.parity
    let b := x.bindIndex
    let arrives := r.st = .filled ∧ r.flight = true ∧ flitLeft s (fun w => decide (w = .rx n slot)) = false
    let joins := if r.kind = 1 then
        e.live = true ∧ e.num = r.epoch ∧ e.fate r.cidx r.part r.seg = fateAccepted ∧ e.st = .opened ∧ tileTakes s n = true
      else e.live = true ∧ e.num = r.epoch ∧ tileTakes s n = true ∧ r.part ∉ e.outParts ∧ e.failed = none
    let landed := onTile s n fun y => y.setSlot slot { r with flight := false }
    let fated (f : Nat) := onEp landed r.sid r.parity fun e => e.setFate r.cidx r.part r.seg f
    let queued (u : State) := pushEntry u n b ⟨false, false, false, false, r.parity, r.seg, slot, false, 0, 0⟩
    (r.st = .free → Answers c s fun t => bitOf (getPage t (pageNo .tile n)).err 23 = true ∧ Steady s t ∧
      (kreg t .tile n 0x070).toNat = min (2 ^ 32 - 1) ((kreg s .tile n 0x070).toNat + 1)) ∧
    (r.st ≠ .free → ¬arrives → exec c s = .next s) ∧
    (arrives → joins → exec c s = .next (react (wakeTile (queued (if r.kind = 1 then fated fateFilled else landed)) n) r.sid)) ∧
    (arrives → ¬joins →
      let accepted := r.kind = 1 ∧ e.live = true ∧ e.num = r.epoch ∧ e.fate r.cidx r.part r.seg = fateAccepted
      (accepted → exec c s = .next (react (wakeTile (freeRxSlot (fated fateDiscSettled) n slot) n) r.sid)) ∧
      (¬accepted → exec c s = .next (react (wakeTile (freeRxSlot landed n slot) n) r.sid)))) ∧
  (∀ (s : State) (n : Nat) (fail : Bool), Issues s n 1 (if fail then 0x07 else 0x06) →
    let c := if fail then Instr.epfail n else .epdone n
    let x := getTile s n
    let i := x.ins
    let b := i.src2 % 32
    let v := x.bind b
    let par := fieldOf (x.sreg (i.src1 % 32)) 12 12
    let reason := if i.imm % 256 < 0x80 then rsnProgram else i.imm % 256
    let told := x.setBind b (v.setEp par { v.ep par with reported := true })
    x.pc + 1 < x.codeWords →
    (v.valid = false → Answers c s fun t => Faulted s t n 7 x.pc) ∧
    (v.valid = true → (v.ep par).owed = false → Answers c s fun t => Faulted s t n 0x0B x.pc) ∧
    (v.valid = true → (v.ep par).owed = true → Answers c s fun t => t.core = s.core ∧
      (((getTile t n).bind b).ep par).owed = false ∧
      (getTile t n).own = { x.own with pc := x.pc + 1, idleCyc := s.cyc } ∧
      ∃ u, Monitored (putTile s n { told with idleCyc := s.cyc }) u ∧
        Monitored (onTile (react (if fail then failEpoch u v.sid par reason else u) v.sid) n fun y =>
          { (y.signalled s n i.done) with pc := x.pc + 1 }) t)) ∧
  ∀ (s : State),
    (∀ lt slot n, slot < 64 → physOf s lt = some n →
      let r := (getTile s n).slot slot
      (r.st ≠ .filled ∨ r.flight = true → exec (.contribUe (.slot lt slot)) s = .next s) ∧
      (r.st = .filled → r.flight = false → Answers (.contribUe (.slot lt slot)) s fun t => t.core = s.core ∧
        let e := (getSes s r.sid).ep r.parity
        let kept := r.kind = 1 ∧ epochLive s r.sid r.epoch = true ∧ e.fate r.cidx r.part r.seg = fateFilled
        ∃ u, t = (if kept then react (if e.st = .opened then oweAgain u r.sid r.parity [(r.cidx, r.part, r.seg)]
              else failEpoch u r.sid r.parity rsnContribUe) r.sid else u) ∧
          ((getTile u n).slot slot).st = .free ∧
          ∀ q ∈ ((getTile u n).bind (getSes s r.sid).bindIndex).queue, q.mark = false → q.slot = slot → q.retired = true)) ∧
    (∀ p kind handle, p < 64 → portFitted s p = true → takeIngress s p ≠ none → Answers (.contribUe (.ingress p kind handle)) s fun t =>
      let pt := physOf s (handle / 64 % 1024)
      let r := (getTile s (pt.getD 0)).slot (handle % 64)
      let names := (kind = 1 ∨ kind = 2) ∧ pt ≠ none ∧ r.st ≠ .free
      let home := halfIdx (if names then (getSes s r.sid).home else portHalf p)
      Steady s t ∧ bitOf (getPage t (pageNo .port p)).err 17 = true ∧ (¬names → ∀ q, getSes t q = getSes s q) ∧
      (kreg t .ses home 0x060).toNat = min (2 ^ 32 - 1) ((kreg s .ses home 0x060).toNat + 1)) ∧
    (∀ n a ue, n < 1088 → tileFitted s n = true →
      let x := getTile s n
      let w := a % 0x80000 / 8
      (x.sramOn = false → exec (.contribUe (.sram n a ue)) s = .next s) ∧
      (x.sramOn = true → exec (.contribUe (.sram n a ue)) s = .next (putTile s n
        { x with flaws := x.flaws.put 0 w (if ue = true ∨ x.flaws.get 0 w = 2 then 2 else 1) }))) ∧
    (∀ sr, sr < 64 → sr < s.cfg.srPages → Answers (.contribUe (.reducer sr)) s fun t =>
      t.core = (worn s t).core ∧ (∀ k, k / 128 = sr → t.wvGroups.find k = none) ∧
      (kreg t .wvSr sr 0x04C).toNat = min (2 ^ 32 - 1) ((kreg s .wvSr sr 0x04C).toNat + 1) ∧
      bitOf (getPage t (pageNo .wv (halfIdx (srHalf s.cfg sr)))).err 17 = true) ∧
    (∀ ch, ch < kindCount .chan → s.cfg.hasHalf (chanHalf ch) = true →
      let n := if cellBegun s ch = true ∨ ringBegun s ch = true then 1 else 0
      ((getChan s ch).frames[n]? = none → exec (.contribUe (.frame ch)) s = .next s) ∧
      ∀ f, (getChan s ch).frames[n]? = some f → Answers (.contribUe (.frame ch)) s fun t =>
        (getChan t ch).frames = (getChan s ch).frames.eraseIdx n ∧ (getChan t ch).lostSince = (getChan s ch).lostSince + f.records ∧
        bitOf (getPage t (pageNo .chan ch)).err 16 = true ∧ (∀ c, c ≠ ch → getChan t c = getChan s c) ∧
        t.core = { worn s t with channels := t.channels }.core) ∧
    ∀ sid par p seg, sid < 4096 → par < 2 →
      let x := getSes s sid
      let e := x.ep par
      let c := Instr.contribUe (.accumulators sid par p seg)
      let lost := (reducedInto x e p seg).map fun q => (q, p, seg)
      let n := cellElems e.fmt
      let cleared (t : Nat) := onTile s t fun y =>
        let v := y.bind x.bindIndex
        y.clearAcc (v.accOf par + seg * n) (min n (v.accCount - seg * n))
      (∀ t, e.st = .opened → x.tileOf s p = some t → exec c s = .next (react (oweAgain (cleared t) sid par lost) sid)) ∧
      (e.st ≠ .opened → e.live = true → e.opened = true → exec c s = .next (react (failEpoch s sid par rsnContribUe) sid)) ∧
      (e.live = false ∨ (e.st ≠ .opened ∧ e.opened = false) → exec c s = .next s) ∧
      ∀ q ∈ lost, ((getSes (oweAgain s sid par lost) sid).ep par).fate q.1 q.2.1 q.2.2 = 0

/-! ### Weathervane -/

/-- SHADOW_COPY: the oldest flit of a shadow reducer is taken and counted; a copy under SUM adds each finite element to S exactly, in units
of 2^-160; a group that then holds its four state flits and the copies they announce completes, and counts in its epoch. GROUP_TIMEOUT
voids an incomplete group WV_GROUP_TIMEOUT after its state flits: it gives up its slot and its flits. WV_MEASURE, once every group that an epoch still holds is
complete, records the codes, joins the session's measures where the profile's least number of groups completed, and frees their slots. A DENSE_AUDIT whose copy flits have come and whose replica differs sets DENSE_MISMATCH and names the tile. The
advice is HOLD after FAILED, NONE or a change, WIDEN from a rung above the widest on a breach, and NARROW only after PATIENCE epochs in a
row. No session's result, epoch, credit or tile changes. -/
def Obligations.WeathervaneMeasures : Prop :=
  let aside (s t : State) (freed : Bool) : Prop :=
    { t with audits := s.audits, flits := if freed then s.flits else t.flits, arbs := if freed then s.arbs else t.arbs, wvGroups := s.wvGroups, wvFlits := s.wvFlits, wvEpochs := s.wvEpochs, regs := s.regs, banks := s.banks, pages := s.pages
             sumSeq := s.sumSeq, sumCyc := s.sumCyc, streams := s.streams, parts := s.parts, tiles := s.tiles } = s ∧
      (∀ n, (getTile t n).own = (getTile s n).own) ∧ ∀ q, (getPart t q).head = (getPart s q).head
  (∀ (g : WvGroup) (fmt scale : Nat) (raws : List Nat) (i : Nat) (old new : WvElem) (m e : Int),
    g.elems[i]? = some old → (g.copied fmt scale 0 raws).elems[i]? = some new →
    (raws[i]?).map (fun r => elemVal fmt r scale) = some (.fin m e) → -160 ≤ e →
    new.s = some (old.s.getD 0 + m * 2 ^ (e + 160).toNat)) ∧
  (∀ (s : State) (sr : Nat), sr < s.cfg.srPages → sr < 64 →
    (nextWvFlit sr 0 s.wvFlits = none → exec (.shadowCopy sr) s = .next s) ∧
    (∀ n f, nextWvFlit sr 0 s.wvFlits = some (n, f) → Answers (.shadowCopy sr) s fun t =>
      kreg t .wvSr sr 0x048 = kreg s .wvSr sr 0x048 + 1 ∧ t.wvFlits = s.wvFlits.eraseIdx n ∧ aside s t false ∧
      (f.what = .audit → t.wvGroups = s.wvGroups ∧ t.wvEpochs = s.wvEpochs) ∧
      t.audits = (if f.what = .audit then s.audits.map fun a => if a.sr = sr ∧ a.slot = f.slot then { a with left := a.left - 1 } else a
        else s.audits) ∧
      (s.wvGroups.find (128 * sr + f.slot) = none → t.wvGroups = s.wvGroups ∧ t.wvEpochs = s.wvEpochs) ∧
      (∀ g, f.what ≠ .audit → s.wvGroups.find (128 * sr + f.slot) = some g →
        let g1 := g.takes s.cyc f.what
        let whole := g1.states = 4 ∧ g1.announced = some g1.got
        (¬whole → t.wvGroups.find (128 * sr + f.slot) = some g1 ∧ t.wvEpochs = s.wvEpochs) ∧
        (whole → t.wvGroups.find (128 * sr + f.slot) = some { g1 with complete := true } ∧
          t.wvEpochs = s.wvEpochs.map fun w => if w.sid = g1.sid ∧ w.epoch = g1.epoch then
            { w with completed := w.completed + 1, nonfinite := min 255 (w.nonfinite + g1.odds) } else w)))) ∧
  (∀ (s : State) (sr slot : Nat), sr < s.cfg.srPages → sr < 64 → slot < 128 →
    let c := Instr.groupTimeout sr slot
    let key := 128 * sr + slot
    let due (g : WvGroup) := g.states = 4 ∧ g.complete = false ∧
      cycAgo s g.stateCyc (kregFN s .wv (halfIdx (srHalf s.cfg sr)) 0x048) = true
    (s.wvGroups.find key = none → exec c s = .next s) ∧
    (∀ g, s.wvGroups.find key = some g → ¬due g → exec c s = .next s) ∧
    (∀ g, s.wvGroups.find key = some g → due g → Answers c s fun t => t.wvGroups = s.wvGroups.drop key ∧ aside s t true ∧
      t.audits = s.audits ∧ (∀ f ∈ t.wvFlits, f ∈ s.wvFlits ∧ (f.sr ≠ sr ∨ f.slot ≠ slot)) ∧
      ∀ f ∈ t.flits, f ∈ s.flits ∧ ∀ w, f.what = .wv w → w.sr ≠ sr ∨ w.slot ≠ slot)) ∧
  (∀ (s : State) (sid epoch : Nat),
    let c := Instr.wvMeasure sid epoch
    let l := groupsOfEpoch s sid epoch
    (wvEp s sid epoch = none ∨ l = [] ∨ (∃ g ∈ l, g.2.complete = false) → exec c s = .next s) ∧
    (∀ w, wvEp s sid epoch = some w → l ≠ [] → (∀ g ∈ l, g.2.complete = true) → Answers c s fun t =>
      let m := (measure s (getSes s sid) (l.map Prod.snd)).1
      t.wvGroups = l.foldl (fun u g => u.drop g.1) s.wvGroups ∧
      (∀ v ∈ t.wvEpochs, v.sid = sid → v.epoch = epoch → v.codes = some m ∧ v.ft = ftOrOnes s (getSes s sid).home) ∧
      (∀ q, q ≠ sid → getSes t q = getSes s q) ∧
      (w.completed < fieldOf ((getSes s sid).prof s 3) 31 24 → getSes t sid = getSes s sid) ∧
      (fieldOf ((getSes s sid).prof s 3) 31 24 ≤ w.completed →
        getSes t sid = (getSes s sid).withMeasure ⟨epoch, m.total, m.narrow, m.outMax, false⟩) ∧
      { t with wvGroups := s.wvGroups, wvEpochs := s.wvEpochs, sessions := s.sessions, fresh := s.fresh } = s)) ∧
  (∀ (s : State) (i : Nat),
    (s.audits[i]? = none → exec (.denseAudit i) s = .next s) ∧
    (∀ a, s.audits[i]? = some a → a.left ≠ 0 → exec (.denseAudit i) s = .next s) ∧
    (∀ a, s.audits[i]? = some a → a.left = 0 → Answers (.denseAudit i) s fun t => t.audits = s.audits.eraseIdx i ∧
      let n := halfIdx (tileHalf a.tile)
      (a.differs = true → kreg t .wv n 0x060 = BitVec.ofNat 32 (2 ^ 31 + a.tile) ∧ bitOf (getPage t (pageNo .wv n)).err 16 = true ∧
        (kreg t .wv n 0x054).toNat = min (2 ^ 32 - 1) ((kreg s .wv n 0x054).toNat + 1)) ∧
      (a.differs = false → { t with audits := s.audits, wvEpochs := s.wvEpochs } = s))) ∧
  ∀ (s : State) (x : Session) (e : Epoch) (code : Nat),
    let a := x.advise s e code
    let last := ladderLast (x.prof s 0)
    (code = 3 ∨ code = 0 ∨ x.wvLock = true → a = ⟨0, x.wvRung, x.wvRun, false⟩) ∧
    (a.code = 1 → x.wvRung < last ∧ a.rung = x.wvRung + 1 ∧ a.run = 0 ∧ fieldOf (x.prof s 3) 15 8 ≤ x.wvRun + 1) ∧
    (a.code = 2 → 0 < x.wvRung ∧ a.rung = x.wvRung - 1 ∧ a.run = 0) ∧
    (a.code ≠ 1 → a.code ≠ 2 → a.code = 0 ∧ a.rung = x.wvRung) ∧
    (a.breach = true → x.wvRung = 0 ∧ a.run = 0) ∧
    ∀ m, x.ownMeasure e = some m → code = 1 ∨ code = 2 → x.wvLock = false →
      m.total < fieldOf (x.prof s 2) 15 0 ∨ m.outMax < fieldOf (x.prof s 2) 31 16 →
      (0 < x.wvRung → a.code = 2) ∧ (x.wvRung = 0 → a.breach = true)

/-! ### The mesh, its arbiters, and the ports -/

/-- ARB_GRANT is one phase of a target, one a cycle, and always completes (what then leaves the state is settled: sessions whose cells went,
Glove chunks whose lines are all accepted). On FHL-8 a freeze, or the end of the partition's static slots, first suspends a burst in
progress. CLAMP is set where an eligible d is below -2^30. With no burst in progress one flit of the eligible request with the smallest d,
then the lowest source, is granted: its progress advances, or the request leaves with its last flit, and ARB_T_FLITS counts it; with none
eligible nothing is granted, and ARB_T_IDLE counts a static phase that another partition's request waits through. A burst in progress goes
on alone on FHL-4, frozen or not; on FHL-8 an eligible request with a strictly smaller d preempts it while fewer than 8 are suspended. A
granted access to memory takes effect then (R291). FLIT_ROUTE moves, of the flits at a router that want an output, the one nearest its
LST, first along its row; at its destination it leaves the mesh, and a TILECP's flit waits there while a bank it needs is taken. STARVE
marks and counts requests as old as ARB_AGE_LIMIT. ARB_FREEZE stores the bits (those of targets that the page lacks too, log entry 152),
and on FHL-8 leaves no burst in progress at a frozen target. -/
def Obligations.ArbitersAndRoutes : Prop :=
  (∀ (s : State) (k : PageKind) (i t : Nat), arbKind k ≠ 0 → i < kindCount k → kindFitted s.cfg k i = true → t < arbTargets k →
    let pg := pageNo k i
    let key := arbKey k i t
    let h := pageHalf s pg
    let c := Instr.arbGrant pg t
    let ph := arbPhase s pg
    let slot := slotPid s k i ph
    let static := arbStatic s k i = true
    let outside (r : Req) : Bool := r.inBurst && decide (slot ≠ some r.pid)
    let stops : Bool := s.cfg.halfB && (arbFrozen s k i t || (arbStatic s k i && (getArb s key).reqs.any outside))
    let u := if stops then suspendBurst s key else s
    let a := getArb u key
    let d (r : Req) : Int := max (slackOf s h r.lst) (-(2 ^ 30))
    let eligible (r : Req) : Prop := r.since < s.cyc ∧ r.done < r.come ∧ targetTakes u k i t r = true ∧
      (r.inBurst = true ∨ (arbFrozen s k i t = false ∧ burstMayBegin u k i a (arbStatic s k i) ph r = true ∧ (static → slot = some r.pid)))
    let v := clampSeen u k i t h
    let settled (x : State) : State := settleChunks (afterCells s x key)
    let grants (x : State) (n : Nat) (r : Req) : Prop := exec c s = .next (settled (grantFlit x k i t h n r))
    let idles : Prop := exec c s = .next (settled (
      let x := if static ∧ (∃ r ∈ a.reqs, slot ≠ some r.pid) then incReg v k i (0x114 + 0x20 * t) 1 else v
      putArb x key { getArb x key with phaseCyc := some s.cyc }))
    let burst (n : Nat) (b : Req) : Prop := a.reqs[n]? = some b ∧ b.inBurst = true ∧ ∀ m q, m < n → a.reqs[m]? = some q → q.inBurst = false
    let nearer (b : Req) : Prop := ∃ q ∈ a.reqs, q.inBurst = false ∧ eligible q ∧ d q < d b
    (∃ x, exec c s = .next x) ∧
    (∀ (x : State) (n : Nat) (r : Req), (getArb x key).reqs[n]? = some r →
      let y := grantFlit x k i t h n r
      (getArb y key).reqs = (if r.done + 1 < r.len then (getArb x key).reqs.set n { r with done := r.done + 1, susp := false }
        else (getArb x key).reqs.eraseIdx n) ∧
      (getArb y key).phaseCyc = some x.cyc ∧ (getArb y key).grantCyc = some x.cyc ∧ (∀ z, z ≠ key → getArb y z = getArb x z) ∧
      kreg y k i (0x110 + 0x20 * t) = kreg x k i (0x110 + 0x20 * t) + 1 ∧
      (r.access = none → y.mem = x.mem ∧ y.badLines = x.badLines ∧ y.entries = x.entries) ∧
      (∀ q l, r.access = some (q, l) → let z := accessGranted x r.src r.lst r.pid q l
        y.mem = z.mem ∧ y.badLines = z.badLines ∧ y.entries = z.entries ∧
        ∀ w, getTile y w = (getTile z w).counts (getTile y w)) ∧
      { y with arbs := x.arbs, badLines := x.badLines, banks := x.banks, buckets := x.buckets, channels := x.channels
               entries := x.entries, flits := x.flits, mem := x.mem, pages := x.pages, parts := x.parts, ports := x.ports, regs := x.regs
               streams := x.streams, sumCyc := x.sumCyc, sumSeq := x.sumSeq, tiles := x.tiles } = x) ∧
    (∀ x : State, (∀ o ∈ x.openings, o.writes = []) → settleChunks x = x) ∧
    ((getArb s key).phaseCyc = some s.cyc → exec c s = .next (settled s)) ∧
    ((getArb s key).phaseCyc ≠ some s.cyc →
      ((∀ r ∈ a.reqs, eligible r → -(2 ^ 30) ≤ slackOf s h r.lst) → v = u) ∧
      ((∃ r ∈ a.reqs, eligible r ∧ slackOf s h r.lst < -(2 ^ 30)) → Monitored u v ∧ bitOf (getPage v pg).err 17 = true) ∧
      ((∀ r ∈ a.reqs, r.inBurst = false) →
        ((∀ r ∈ a.reqs, ¬eligible r) → idles) ∧
        ((∃ r ∈ a.reqs, eligible r) → ∃ n r, a.reqs[n]? = some r ∧ eligible r ∧ grants v n r ∧
          ∀ q ∈ a.reqs, eligible q → d r < d q ∨ (d r = d q ∧ r.src ≤ q.src))) ∧
      (∀ n b, burst n b → s.cfg.halfB = false ∨ 8 ≤ suspended a ∨ ¬nearer b →
        ((∃ q ∈ a.reqs, q.inBurst = true ∧ eligible q) → grants v n b) ∧
        ((∀ q ∈ a.reqs, q.inBurst = true → ¬eligible q) → idles)) ∧
      (∀ n b, burst n b → s.cfg.halfB = true → suspended a < 8 → nearer b →
        ∃ m r, a.reqs[m]? = some r ∧ r.inBurst = false ∧ eligible r ∧ d r < d b ∧
          (∀ q ∈ a.reqs, q.inBurst = false → eligible q → d r < d q ∨ (d r = d q ∧ r.src ≤ q.src)) ∧
          grants (incReg (suspendBurst v key) k i 0x054 1) m r) ∧
      (stops = true → a.reqs =
        (getArb s key).reqs.map fun r => if r.inBurst then { r with susp := true, since := s.cyc } else r))) ∧
  (∀ (s : State) (router : Nat) (out : Dir), tileFitted s router = true →
    let c := Instr.flitRoute router out
    let wants (f : Flit) : Prop := f.router = router ∧ wantsDir f = out
    let d (f : Flit) : Int := slackOf s (tileHalf router) f.lst
    ((∀ f ∈ s.flits, ¬wants f) → exec c s = .next s) ∧
    ((∃ f ∈ s.flits, wants f) → ∃ n f, s.flits[n]? = some f ∧ wants f ∧
      (∀ g ∈ s.flits, wants g → d f < d g ∨ (d f = d g ∧ f.input ≤ g.input)) ∧
      let rest := { s with flits := s.flits.eraseIdx n }
      (out ≠ f.exit ∨ router ≠ f.dest → exec c s = .next (injectFlit rest { f with router := nextRouter router out, input := arriveInput out })) ∧
      (out = f.exit → router = f.dest → exec c s = .next (flitArrives s rest f) ∧
        (∀ p x, f.what = .cell p x → Monitored { rest with arbs := (flitArrives s rest f).arbs } (flitArrives s rest f)) ∧
        (∀ q n, f.what = .mem q n → { flitArrives s rest f with arbs := s.arbs } = rest) ∧
        ∀ y o b, f.what = .copy y o b → let l := banksOf b f.data.length
          (banksTaken s f.dest l = true → Monitored s (flitArrives s rest f)) ∧
          (banksTaken s f.dest l = false → (flitArrives s rest f).flits = rest.flits ∧
            (getTile (flitArrives s rest f) f.dest).sram = writeBytes (getTile s f.dest).sram b f.data)))) ∧
  (∀ f : Flit, routerHalf f.router = routerHalf f.dest →
    (routerCol f.router ≠ routerCol f.dest → wantsDir f = .east ∨ wantsDir f = .west) ∧
    (routerCol f.router = routerCol f.dest → routerRow f.router ≠ routerRow f.dest → wantsDir f = .south ∨ wantsDir f = .north) ∧
    (routerCol f.router = routerCol f.dest → routerRow f.router = routerRow f.dest → wantsDir f = f.exit)) ∧
  (∀ f : Flit, routerHalf f.router ≠ routerHalf f.dest → routerCol f.router = 2 * (f.col / 2) → routerRow f.router = 16 →
    wantsDir f = .bridge) ∧
  (∀ stack ch, stack < 8 → ch < 32 → routerHalf (chanRouter stack ch) = stack / 4 ∧
    routerRow (chanRouter stack ch) = 8 * (stack % 2) + ch / 4 ∧ routerCol (chanRouter stack ch) = if stack % 4 < 2 then 0 else 31) ∧
  (∀ (s : State) (k : PageKind) (i t : Nat), arbKind k ≠ 0 → i < kindCount k → kindFitted s.cfg k i = true →
    let pg := pageNo k i
    let key := arbKey k i t
    let limit := kregN s k i 0x04C
    let l := (getArb s key).reqs
    let old (r : Req) : Bool := !r.starved && !r.inBurst && decide (max r.since (s.arbOn.get 0 pg) + limit ≤ s.cyc)
    (pageIsOn s k i = false ∨ limit = 0 ∨ (∀ r ∈ l, old r = false) → exec (.starve pg t) s = .next s) ∧
    (pageIsOn s k i = true → limit ≠ 0 → (∃ r ∈ l, old r = true) → Answers (.starve pg t) s fun u =>
      (getArb u key).reqs = l.map (fun r => if old r then { r with starved := true } else r) ∧
      kregN u k i 0x050 = min (2 ^ 32 - 1) (kregN s k i 0x050 + (l.filter old).length) ∧ bitOf (getPage u pg).err 16 = true ∧
      Monitored { s with arbs := u.arbs, regs := u.regs } u ∧ (∀ x, x ≠ key → getArb u x = getArb s x) ∧
      RegsBut s u [regAddr k i 0x050])) ∧
  ∀ (s : State) (port : Half) (k : PageKind) (i : Nat) (bits : Word), arbKind k ≠ 0 → Reaches s port k i →
    let c := Instr.arbFreeze port (pageNo k i) bits
    (s.cfg.halfB = false → exec c s = .next (okay (setKreg s k i 0x044 bits) port)) ∧
    (s.cfg.halfB = true → Answers c s fun u =>
      (∀ t, t < arbTargets k → arbFrozen u k i t = true → ∀ r ∈ (getArb u (arbKey k i t)).reqs, r.inBurst = false) ∧
      { u with arbs := s.arbs } = okay (setKreg s k i 0x044 bits) port ∧
      ∀ x, (getArb u x).reqs.length = (getArb s x).reqs.length)

/-- XT_CRED adds one egress credit of each class that pulses. SLOT_TABLE_COMMIT, at a window that waits for it, takes the words as the READY
table, or rejects them with a reason and changes no table; a table taken has a cycle of 1,024 to 100,000,000 ns and a base in units of 16 ns, and
windows inside the cycle that each open some class, and no other table was READY. The switch waits for time and the boundary, which is a
multiple of the cycle from the base and less than one cycle after the count it waits for; then the READY table is active and
PORT_SLOT_SINCE holds the boundary. FLUSH of a STOPPING port withdraws and counts every cell of which no flit is granted, with its flits still in the mesh; in another state it
sets ACCESS and changes nothing. -/
def Obligations.PortTablesAndCredits : Prop :=
  (∀ (s : State) (p classes : Nat), portFitted s p = true → Answers (.xtCred p classes) s fun t =>
    (∀ k, k < 4 → txCredit t p k = txCredit s p k + (if classes.testBit k then 1 else 0)) ∧
    getPort t p = { getPort s p with txcr := (getPort t p).txcr } ∧ (∀ q, q ≠ p → getPort t q = getPort s q) ∧
    { t with ports := s.ports } = s) ∧
  (∀ (s : State) (mgmt : Half) (w : Nat),
    let c := Instr.slotTableCommit mgmt w
    let x := getWin s mgmt w
    let y := getPort s x.inst
    let h := portHalf x.inst
    (x.awaits 5 = false → exec c s = .next s) ∧
    (x.awaits 5 = true →
      (slotReject y x.staged = none → exec c s = .next (decideWin (putPort s x.inst { y with
        ready := some (slotTabOf x.staged), after := if hasTime s h then some (nsCeil (countOf s h) + ftuLead s h) else none
        fired := none }) mgmt w true)) ∧
      (∀ reason i, slotReject y x.staged = some (reason, i) → Answers c s fun t =>
        getWin t mgmt w = { x with st := .closed, committed := false, rejected := true, staged := [] } ∧
        kreg t .port x.inst 0x088 = BitVec.ofNat 32 (reason + 256 * i) ∧
        bitOf (getPage t (pageNo .port x.inst)).err 18 = true ∧
        Monitored { s with regs := t.regs, wins := t.wins } t ∧ RegsBut s t [regAddr .port x.inst 0x088]))) ∧
  (∀ (y : Port) (ws : List (Nat × Word)), slotReject y ws = none →
    let t := slotTabOf ws
    t.cycle % 16 = 0 ∧ 1024 ≤ t.cycle ∧ t.cycle ≤ 100000000 ∧ t.base % 16 = 0 ∧ t.wins.length ≤ 64 ∧ y.ready = none ∧
    ∀ v ∈ t.wins, v.1 % 16 = 0 ∧ v.2.1 % 16 = 0 ∧ 32 ≤ v.2.1 ∧ v.1 + v.2.1 ≤ t.cycle ∧ v.2.2 ≠ 0) ∧
  (∀ (t : SlotTab) (ns : Nat), t.cycle ≠ 0 →
    ns ≤ t.boundary ns ∧ t.boundary ns < ns + t.cycle ∧ ((t.boundary ns : Int) - t.base) % t.cycle = 0) ∧
  (∀ (s : State) (p : Nat), portFitted s p = true →
    let c := Instr.slotTableSwitch p
    let y := getPort s p
    let due := if bitOf (kreg s .port p 0x04C) 0 then y.fired else y.after
    (y.ready = none ∨ due = none ∨ hasTime s (portHalf p) = false → exec c s = .next s) ∧
    ∀ r f, y.ready = some r → due = some f → hasTime s (portHalf p) = true →
      let b := (y.active.getD r).boundary f
      (countOf s (portHalf p) < b * 2304 → exec c s = .next s) ∧
      (b * 2304 ≤ countOf s (portHalf p) → Answers c s fun t =>
        getPort t p = { y with active := some r, ready := none, after := none, fired := none, bank := !y.bank } ∧
        kreg64 t .port p 0x050 = b % 2 ^ 64 ∧ (∀ q, q ≠ p → getPort t q = getPort s q) ∧
        { t with ports := s.ports, regs := s.regs } = s ∧ RegsBut s t [regAddr .port p 0x050, regAddr .port p 0x054])) ∧
  ∀ (s : State) (port : Half) (p : Nat), Reaches s port .port p →
    let c := Instr.flush port p
    let key := arbKey .arbPort p 0
    let a := getArb s key
    let gone := a.reqs.filterMap fun r => match r.what with
      | .cell c => if r.done = 0 then some c else none
      | _ => none
    let onWay (f : Flit) : Bool := match f.what with
      | .cell q c => decide (q = p) && gone.contains c
      | _ => false
    let stays (r : Req) : Bool := match r.what with
      | .hop f => !onWay f
      | _ => true
    (pageSt s .port p ≠ .stopping → Answers c s fun t => TurnedAway s t port (pageNo .port p) respOkay) ∧
    (pageSt s .port p = .stopping → ∃ u, exec c s = .next (okay (afterCells s u key) port) ∧
      (getArb u key).reqs = (a.reqs.filter fun r => decide (0 < r.done)).filter stays ∧
      (∀ x, x ≠ key → getArb u x = { getArb s x with reqs := (getArb s x).reqs.filter stays }) ∧
      u.flits = s.flits.filter (fun f => !onWay f) ∧
      kregN u .port p 0x084 = min (2 ^ 32 - 1) (kregN s .port p 0x084 + (a.reqs.filter fun r => decide (r.done = 0)).length) ∧
      { u with arbs := s.arbs, flits := s.flits, regs := s.regs } = s ∧ RegsBut s u [regAddr .port p 0x084])

/-! ### Memory -/

/-- A granted access takes an entry of its channel and acts then: a read takes the bytes and marks of its lines, a write replaces them, here
and where a MIGRATE mirrors them; MIGRATE's write copies. LINE_READ of a line that an engine's span holds waits. Else a clean line changes
no count (on-die corrections count in MEM_CE_INNER); a corrected one counts in MEM_CE_OUTER and at its channel; an uncorrectable one
counts in MEM_UE or MEM_MAC_FAIL and at its channel, sets that bit, writes the log entry at MEM_LOG_HEAD with the reader's source ID, and
marks the line, so that a later read meets the same row until a write replaces it. With the last of its lines an entry is free, and its
data goes back through the mesh, or the MOVE learns of the refusal. No byte changes, and no region. Beside an erased pin no other symbol
is corrected. PATROL sets the period, 0 stops the pass. PATROL_LINE, of the line patrol has asked for, drops and counts a
write-back that a newer write has met, and moves on after the last line, to the next region of the half or, a pass complete, to the first. -/
def Obligations.LineReadsAndPatrol : Prop :=
  let monitors (s t : State) : State :=
    { t with banks := s.banks, pages := s.pages, parts := s.parts, streams := s.streams, sumCyc := s.sumCyc, sumSeq := s.sumSeq, tiles := s.tiles }
  let same (s t : State) : Prop :=
    { monitors s t with arbs := s.arbs, autoQueue := s.autoQueue, badLines := s.badLines, chans := s.chans, entries := s.entries
                        fill := s.fill, flits := s.flits, fresh := s.fresh, memLog := s.memLog, regs := s.regs, secAt := s.secAt
                        secLog := s.secLog, wearDay := s.wearDay, wearLife := s.wearLife } = s ∧
      (∀ pg, (getPage s pg).reported (getPage t pg)) ∧ (∀ q, (getPart t q).head = (getPart s q).head) ∧
      ∀ n, getTile t n = ({ getTile s n with moves := (getTile t n).moves } : Tile).counts (getTile t n)
  let refuses (f : LineFinding) : Prop := f = .uncorrectable ∨ f = .macFail
  let unmoved (s t : State) : Prop := t.flits = s.flits ∧ t.arbs = s.arbs ∧ ∀ n, (getTile t n).moves = (getTile s n).moves
  (∀ (s : State) (src lst pid : Nat) (a : MemAsk) (l : List Byte),
    let t := accessGranted s src lst pid a l
    let k := stackOf s.cfg a.prn
    let ch := channelOf s.cfg a.prn
    let f := s.fill.get (regionHalf s.cfg a.prn)
    let at_ (j : Nat) : Nat := memAddr a.prn a.off + j
    { monitors s t with badLines := s.badLines, entries := s.entries, mem := s.mem } = s ∧
    (a.write = false → t.mem = s.mem ∧ t.badLines = s.badLines ∧ (∀ n, (getTile t n).moves = (getTile s n).moves) ∧
      entriesAt t k ch = entriesAt s k ch ++ [⟨a, src, lst, pid, readBytes s.mem (memAddr a.prn a.off) a.len,
        (List.range (a.len / 64)).map fun j => (a.off / 64 + j, lineMark s a.prn (a.off / 64 + j)), false, false⟩]) ∧
    (a.write = true →
      entriesAt t k ch = (entriesAt s k ch).map (fun e => e.met a) ++ [⟨a, src, lst, pid, [], [], false, false⟩] ∧
      (∀ y o b, a.use = .move y o b → ∀ n, getTile t n = (getTile (moveFlitDone s y o) n).counts (getTile t n)) ∧
      ((∀ h, a.use ≠ .engine h) → a.off + l.length ≤ 2 ^ 21 →
        (∀ j, j < l.length → t.mem.get 0 (at_ j) = l.getD j 0 ∧
          ∀ d, mirrorOf s a.prn a.off = some d → t.mem.get 0 (memAddr d a.off + j) = l.getD j 0) ∧
        (∀ x, (∀ j, j < l.length → x ≠ at_ j ∧ ∀ d, mirrorOf s a.prn a.off = some d → x ≠ memAddr d a.off + j) →
          t.mem.get 0 x = s.mem.get 0 x) ∧
        ∀ j, j < l.length / 64 → a.off % 64 = 0 → t.badLines.find (lineKey a.prn (a.off / 64 + j)) = none) ∧
      (∀ h, a.use = .engine h → f.op = some 2 → t.mem = s.mem ∧ t.badLines = s.badLines) ∧
      (∀ h, a.use = .engine h → f.op = some 3 →
        (∀ j, j < a.len → t.mem.get 0 (at_ j) = s.mem.get 0 (memAddr f.src a.off + j)) ∧
        (∀ x, (∀ j, j < a.len → x ≠ at_ j) → t.mem.get 0 x = s.mem.get 0 x) ∧
        ∀ j, j < a.len / 64 → lineMark s f.src (a.off / 64 + j) ≠ 0 → t.badLines.find (lineKey a.prn (a.off / 64 + j)) = some 1))) ∧
  (∀ (s : State) (prn line src : Nat) (f : LineFinding) (inner : Bool), prn < s.cfg.regions → line < 32768 →
    let c := Instr.lineRead prn line src ⟨f, inner⟩
    let k := stackOf s.cfg prn
    let ch := channelOf s.cfg prn
    let x := getCh s k ch
    let who := awaiting s prn line src
    let mark := match who with
      | some (_, e) => e.markOf line
      | none => lineMark s prn line
    let found := findingOf s prn line mark f
    let up (n : Nat) : Nat := min (2 ^ 32 - 1) (n + 1)
    let s1 := if inner then satReg s .mem k 0x054 1 else s
    let waits := who.isSome = true ∧ spanBusy s prn (64 * line) = true ∧ fromEngine src = false
    (waits → exec c s = .next s) ∧
    (¬waits → who = none → found = .clean → exec c s = .next s1) ∧
    (¬waits → Answers c s fun t => same s1 t ∧
      (found = .clean → t.regs = s1.regs ∧ t.chans = s.chans ∧ t.badLines = s.badLines ∧ t.memLog = s.memLog) ∧
      (∀ n, found = .corrected n → kregN t .mem k 0x058 = up (kregN s .mem k 0x058) ∧
        getCh t k ch = { x with ce := up x.ce, ue := min (2 ^ 32 - 1) x.ue } ∧ t.badLines = s.badLines ∧
        (bitOf (kreg s .mem k 0x068) 0 = false → t.memLog = s.memLog)) ∧
      (refuses found →
        let kind := if found = .macFail then 2 else 1
        let reg := if found = .macFail then 0x060 else 0x05C
        let i := fieldOf (kreg s .mem k 0x06C) 5 0
        kregN t .mem k reg = up (kregN s .mem k reg) ∧ getCh t k ch = { x with ce := min (2 ^ 32 - 1) x.ce, ue := up x.ue } ∧
        bitOf (getPage t (pageNo .mem k)).err (15 + kind) = true ∧
        t.memLog.find (64 * k + i) = some ⟨ftOrOnes s (stackHalf k), prn, line, line % 2, kind, src⟩ ∧
        fieldOf (kreg t .mem k 0x06C) 5 0 = (i + 1) % 64 ∧ (∀ n, n ≠ 64 * k + i → t.memLog.find n = s.memLog.find n) ∧
        (∀ l, t.badLines.find l = if l = lineKey prn line then some kind else s.badLines.find l) ∧
        lineMark t prn line = if (getRegion s prn).era = s.era then kind else 2) ∧
      (who = none → unmoved s t ∧ t.entries = s.entries ∧ t.fill = s.fill) ∧
      (∀ n e, who = some (n, e) →
        let e1 := { e with left := e.left.filter fun q => decide (q.1 ≠ line), bad := e.bad || findingRefuses found }
        (e1.left ≠ [] → entriesAt t k ch = (entriesAt s k ch).set n e1 ∧ unmoved s t) ∧
        (e1.left = [] → entriesAt t k ch = (entriesAt s k ch).eraseIdx n) ∧
        (∀ y o b, e1.left = [] → e.ask.use = .move y o b →
          (e1.bad = true → t.flits = s.flits ∧ t.arbs = s.arbs ∧ ∀ m, (getTile t m).moves =
            (getTile (moveFlitDone (onMove s y o fun v => { v with ue := true }) y o) m).moves) ∧
          (e1.bad = false →
            let u := injectFlit s (Flit.fresh (chanRouter k ch) y .tile src e.lst e.pid e.data (.back y o b))
            t.flits = u.flits ∧ t.arbs = u.arbs ∧ ∀ m, (getTile t m).moves = (getTile s m).moves)) ∧
        (∀ h, e.ask.use = .engine h → refuses found → (s.fill.get h).op = some 3 → (s.fill.get h).carry = false →
          (s.fill.get h).bad = none → t.fill.get h = { s.fill.get h with bad := some line }) ∧
        (¬refuses found → t.fill = s.fill)))) ∧
  (∀ (s : State) (prn line : Nat) (f : LineFinding), findingOf s prn line 1 f = .uncorrectable ∧ findingOf s prn line 2 f = .macFail ∧
    (∀ n p, erasedPin s prn line = some p → findingOf s prn line 0 (.corrected n) = if n = p then .corrected n else .uncorrectable)) ∧
  (∀ (s : State) (h : Half) (hours : Nat), s.cfg.hasHalf h = true →
    (pageRuns s .memFill (halfIdx h) = false → exec (.patrol h hours) s = .next s) ∧
    (pageRuns s .memFill (halfIdx h) = true →
      exec (.patrol h hours) s = .next (setKreg s .memFill (halfIdx h) 0x058 (BitVec.ofNat 32 hours))) ∧
    (kregN s .memFill (halfIdx h) 0x058 = 0 → patrolTick s h = s) ∧
    (pageRuns s .memFill (halfIdx h) = false ∨ calmOn s h = true → fillTick s h = s)) ∧
  ∀ (s : State) (h : Half) (line : Nat) (finding : LineFinding) (inner : Bool), s.cfg.hasHalf h = true →
    let i := halfIdx h
    let c := Instr.patrolLine h line finding inner
    let f := s.fill.get h
    let cursor := halfPrn s.cfg h 8 (kregN s .memFill i 0x05C)
    (cursor = none → exec c s = .next s) ∧
    (∀ p, cursor = some p → (∀ n e, awaiting s p line (engineSrc h) = some (n, e) → e.ask.use ≠ .patrol h) → exec c s = .next s) ∧
    (∀ p n e, cursor = some p → awaiting s p line (engineSrc h) = some (n, e) → e.ask.use = .patrol h →
      let found := findingOf s p line (e.markOf line) finding
      let k := stackOf s.cfg p
      let ch := channelOf s.cfg p
      let s1 := if inner then satReg s .mem k 0x054 1 else s
      Answers c s fun t => same s1 t ∧ unmoved s t ∧ entriesAt t k ch = (entriesAt s k ch).eraseIdx n ∧
        kreg t .mem k 0x054 = kreg s1 .mem k 0x054 ∧
        (line ≠ 32767 → t.fill = s.fill.put h { f with patLine := line + 1 } ∧ kreg t .memFill i 0x05C = kreg s .memFill i 0x05C ∧
          kreg t .memFill i 0x060 = kreg s .memFill i 0x060) ∧
        (line = 32767 → t.fill = s.fill.put h { f with patLine := 0 }) ∧
        (line = 32767 → ∀ q, halfPrn s.cfg h 8 (p + 1) = some q →
          kregN t .memFill i 0x05C = q % 2 ^ 32 ∧ kreg t .memFill i 0x060 = kreg s .memFill i 0x060) ∧
        (line = 32767 → halfPrn s.cfg h 8 (p + 1) = none →
          kregN t .memFill i 0x05C = 0 ∧ kreg t .memFill i 0x060 = kreg s .memFill i 0x060 + 1) ∧
        (∀ m, found = .corrected m → e.newer = true → kreg t .memFill i 0x064 = kreg s .memFill i 0x064 + 1) ∧
        ((∀ m, found ≠ .corrected m) ∨ e.newer = false → kreg t .memFill i 0x064 = kreg s .memFill i 0x064) ∧
        (∀ m, found = .corrected m → kregN t .mem k 0x058 = min (2 ^ 32 - 1) (kregN s .mem k 0x058 + 1)) ∧
        (refuses found → (t.badLines.find (lineKey p line)).isSome = true))

/-- A fill engine that is not ON, is frozen, is busy or stands in a Calm takes no command. A command that R292, R295, R296 or R297 does not
allow ends REFUSED with its reason and REFUSED set; else ZERO, REEPOCH, MIGRATE and ROW_REPAIR begin, status BUSY at their cursor (span 0,
or where a Calm or a halt left it), LANE_ERASE marks the pin and CH_RETIRE retires the channel and its regions and freezes its arbiter's
target. FE_COMMAND_DONE does nothing during a Calm, without a command, while flits of the engine are out, before its last span, or where the line it names is
not the one the engine has met (the model's choice, log entry 3). ZERO leaves
every line of the region zero and readable, OWNED or FREE, in its next epoch; REEPOCH advances the epoch; a MIGRATE that has met an
uncorrectable line it does not carry halts there; else the destination is OWNED in its next epoch and stands in the owner's list, and the
source becomes TEARDOWN once its channel's entries hold no write to it; ROW_REPAIR has used a spare row. No other region changes. -/
def Obligations.FillCommands : Prop :=
  (∀ (s : State) (h : Half), s.cfg.hasHalf h = true →
    let i := halfIdx h
    let f := s.fill.get h
    let serves (p : Nat) : Prop := p < s.cfg.regions ∧ regionHalf s.cfg p = h
    let begun (v : State) (g : Fill) : State :=
      setKreg { v with fill := s.fill.put h g } .memFill i 0x04C (BitVec.ofNat 32 (1 + 2 ^ 16 * (g.cursor % 1024)))
    let refused (c : Instr) (v : State) (reason : Nat) : Prop := Answers c s fun t =>
      kregN t .memFill i 0x04C = 4 + 256 * reason ∧ bitOf (getPage t (pageNo .memFill i)).err 17 = true ∧
        Monitored { v with regs := t.regs } t ∧ RegsBut v t [regAddr .memFill i 0x04C]
    (pageRuns s .memFill i = true → f.op = none → calmOn s h = false → feFree s h = true) ∧
    (feFree s h = false → ∀ prn new pid dst carry span pseudo pin, ∀ c ∈ [Instr.zero h prn new pid, .reepoch h prn,
      .migrate h prn dst carry, .rowRepair h prn span pseudo, .laneErase h prn pin pseudo, .chRetire h prn], exec c s = .next s) ∧
    (feFree s h = true →
      (∀ prn new pid,
        let v := feRegs s h (1 + 32 * b2n new + 256 * (pid % 64)) prn 0
        let r := getRegion s prn
        let ok := serves prn ∧ if new = true then r.st = .allocating ∧ r.pid = pid else r.st = .teardown
        (ok → exec (.zero h prn new pid) s = .next (begun v { f.begin_ 1 prn (cursorFor s h 1 prn) with pid := pid })) ∧
        (¬ok → refused (.zero h prn new pid) v 1)) ∧
      (∀ prn,
        let v := feRegs s h 2 prn 0
        let ok := serves prn ∧ (getRegion s prn).st = .owned
        (ok → exec (.reepoch h prn) s = .next (begun v (f.begin_ 2 prn (cursorFor s h 2 prn)))) ∧
        (¬ok → refused (.reepoch h prn) v 1)) ∧
      (∀ src dst carry,
        let v := feRegs s h (3 + 16 * b2n carry) src dst
        let a := getRegion s src
        let b := getRegion s dst
        let ok := serves src ∧ serves dst ∧ (stackOf s.cfg src ≠ stackOf s.cfg dst ∨ channelOf s.cfg src ≠ channelOf s.cfg dst) ∧
          a.st = .owned ∧ b.st = .free
        (mayResume s h src dst = true → exec (.migrate h src dst carry) s = .next (begun v { f.begin_ 3 src f.cursor with
          dst := dst, carry := carry, mig := true })) ∧
        (mayResume s h src dst = false → ok → Answers (.migrate h src dst carry) s fun t =>
          src ≠ dst ∧ getRegion t src = { a with st := .migrating } ∧
          getRegion t dst = { b with st := .allocating, pid := a.pid, gen := a.gen } ∧
          (∀ q, q ≠ src → q ≠ dst → getRegion t q = getRegion s q) ∧
          (∀ q, q = src ∨ q = dst → t.reserve.get Region.fresh q = getRegion t q) ∧
          { t with regions := s.regions, reserve := s.reserve } =
            begun v { f.begin_ 3 src 0 with dst := dst, carry := carry, mig := true }) ∧
        (mayResume s h src dst = false → ¬ok → refused (.migrate h src dst carry) v 1)) ∧
      (∀ prn span pseudo,
        let c := Instr.rowRepair h prn span pseudo
        let v := feRegs s h 4 (prn % 2 ^ 19 + 2 ^ 19 * (span % 1024) + 2 ^ 29 * (pseudo % 2)) 0
        let k := stackOf s.cfg prn
        let left := spareLeft s k (channelOf s.cfg prn)
        (¬serves prn → refused c v 1) ∧
        (serves prn → left = 0 → refused c v 2 ∧ Answers c s fun t => bitOf (getPage t (pageNo .mem k)).err 19 = true) ∧
        (serves prn → left ≠ 0 → exec c s = .next (begun v { f.begin_ 4 prn (span % 1024) with pseudo := pseudo % 2 }))) ∧
      (∀ prn pin pseudo,
        let c := Instr.laneErase h prn pin pseudo
        let v := feRegs s h 5 (prn % 2 ^ 19 + 2 ^ 24 * (pin % 32) + 2 ^ 29 * (pseudo % 2)) 0
        let k := stackOf s.cfg prn
        let ch := channelOf s.cfg prn
        let x := getCh s k ch
        let erased := if pseudo % 2 = 0 then x.pin0 else x.pin1
        (¬serves prn → refused c v 1) ∧ (serves prn → erased ≠ none → refused c v 3) ∧
        (serves prn → erased = none → Answers c s fun t =>
          getCh t k ch = (if pseudo % 2 = 0 then { x with pin0 := some (pin % 32) } else { x with pin1 := some (pin % 32) }) ∧
          bitOf (getPage t (pageNo .mem k)).err 18 = true ∧ kregN t .memFill i 0x04C = 2 ∧
          Monitored { v with chans := t.chans, regs := t.regs, fill := t.fill } t)) ∧
      (∀ prn,
        let c := Instr.chRetire h prn
        let v := feRegs s h 6 (prn % 2 ^ 19) 0
        let k := stackOf s.cfg prn
        let ch := channelOf s.cfg prn
        let x := getCh s k ch
        let busy := channelUsed s k ch = true ∨ (getArb s (arbKey .arbStack k ch)).reqs ≠ []
        (¬serves prn → refused c v 1) ∧
        (serves prn → busy → refused c (putCh v k ch { x with st := if x.st = .retired then .retired else .draining }) 4) ∧
        (serves prn → ¬busy → Answers c s fun t =>
          getCh t k ch = { x with st := .retired } ∧ bitOf (kreg t .arbStack k 0x044) ch = true ∧
          bitOf (getPage t (pageNo .mem k)).err 21 = true ∧ kregN t .memFill i 0x04C = 2 ∧
          (∀ q, q < s.cfg.regions → stackOf s.cfg q = k → channelOf s.cfg q = ch → (getRegion t q).st = .retired) ∧
          (∀ q, stackOf s.cfg q ≠ k ∨ channelOf s.cfg q ≠ ch → getRegion t q = getRegion s q) ∧
          Monitored { v with chans := t.chans, regs := t.regs, fill := t.fill, regions := t.regions, reserve := t.reserve } t)))) ∧
  (∀ (s : State) (h : Half) (p : Nat), getRegion (lateTick s h) p ≠ getRegion s p →
    (∃ d, (p, d) ∈ (s.fill.get h).late) ∧ getRegion (lateTick s h) p = { getRegion s p with st := .teardown } ∧
      ∀ k ch, ∀ e ∈ entriesAt s k ch, e.ask.prn ≠ p) ∧
  ∀ (s : State) (h : Half) (ueLine : Option Nat), s.cfg.hasHalf h = true →
    let i := halfIdx h
    let c := Instr.feCommandDone h ueLine
    let f := s.fill.get h
    let r := getRegion s f.src
    let e := (r.epoch + 1) % 2 ^ 40
    let ended (t : State) : Prop := (t.fill.get h).op = none ∧ kregN t .memFill i 0x04C = 2
    let other (t : State) (l : List Nat) : Prop := ∀ q, q ∉ l → getRegion t q = getRegion s q
    (calmOn s h = true ∨ useLeft s (.engine h) = true ∨ ueLine ≠ f.bad ∨ f.op = none → exec c s = .next s) ∧
    (calmOn s h = false → useLeft s (.engine h) = false → ueLine = f.bad →
      (∀ l, f.op ≠ none → f.bad = some l → Answers c s fun t => t.fill = s.fill.put h { f with op := none, span := .rest, bad := none } ∧
        kregN t .memFill i 0x04C = 3 + 2 ^ 16 * (f.cursor % 1024) ∧ kregN t .memFill i 0x050 = l % 2 ^ 32 ∧
        bitOf (getPage t (pageNo .memFill i)).err 16 = true ∧ Monitored { s with fill := t.fill, regs := t.regs } t ∧
        RegsBut s t [regAddr .memFill i 0x04C, regAddr .memFill i 0x050]) ∧
      (f.op = some 4 → f.bad = none → f.span ≠ .writing → exec c s = .next s) ∧
      (∀ op, f.op = some op → op ≠ 4 → f.bad = none → f.cursor < 1024 → exec c s = .next s) ∧
      (f.bad = none → 1024 ≤ f.cursor →
        (f.op = some 1 → Answers c s fun t => ended t ∧ other t [f.src] ∧
          (∀ a, t.mem.get 0 a = if a / 2 ^ 21 = f.src then 0 else s.mem.get 0 a) ∧
          (∀ l, t.badLines.find l = if l / 32768 = f.src then none else s.badLines.find l) ∧ (∀ l, l < 32768 → lineMark t f.src l = 0) ∧
          (r.st = .allocating → getRegion t f.src = { r with st := .owned, epoch := e, era := s.era }) ∧
          (r.st = .teardown → getRegion t f.src = ⟨.free, 0, 0, e, s.era⟩)) ∧
        (f.op = some 2 → Answers c s fun t => ended t ∧ getRegion t f.src = { r with epoch := e } ∧ other t [f.src] ∧
          { t with fill := s.fill, regs := s.regs, regions := s.regions, reserve := s.reserve } = s) ∧
        (f.op = some 3 → f.src ≠ f.dst → Answers c s fun t => ended t ∧
          (t.fill.get h).late = f.late ++ [(f.src, f.dst)] ∧ (t.fill.get h).mig = false ∧
          getRegion t f.dst = { getRegion s f.dst with st := .owned, epoch := ((getRegion s f.dst).epoch + 1) % 2 ^ 40, era := s.era } ∧
          other t [f.dst] ∧
          (∀ q, getPart t q = if q = r.pid then { getPart s q with
            regions := (getPart s q).regions.map fun p => if p = f.src then f.dst else p } else getPart s q) ∧
          { t with fill := s.fill, parts := s.parts, regs := s.regs, regions := s.regions, reserve := s.reserve } = s)) ∧
      (f.op = some 4 → f.bad = none → f.span = .writing →
        let k := stackOf s.cfg f.src
        let ch := channelOf s.cfg f.src
        Answers c s fun t => ended t ∧ getCh t k ch = { getCh s k ch with rows := (getCh s k ch).rows + 1 } ∧
          kregN t .mem k 0x064 = min (2 ^ 32 - 1) (kregN s .mem k 0x064 + 1) ∧
          { t with fill := s.fill, regs := s.regs, chans := s.chans } = s))

/-! ### Partitions -/

/-- A command of PART_CMD while another is in progress or in SPLIT is turned away with STATE; one that R303 refuses changes only
PART_CMD, PART_STATUS and ACCESS. CREATE is accepted only of a FREE certified PID other than 0 whose tiles, regions, sessions, channels and share
R303 allows, SHRINK leaves eight regions, TEARDOWN needs quiet sessions and tiles. CREATE begins the next GENERATION, uncertified, takes FREE
regions of the half named in rising order (of stacks that are ON, log entry 158), and its pages take the owner; once they are OWNED the partition becomes LIVE. GROW takes
regions, SHRINK gives back the tail, ASSIGN_TILES and RELEASE_TILES move pages and clear what is released. TEARDOWN begins the scrub: keys
go first, then regions must all be FREE, then tiles, channels, banks, leaves, meters and reports are cleared and pages go to PID 0, and the
certificate sets CERT and FREE; a Calm holds each step. A service event is sent at most once a second, with the flags. -/
def Obligations.PartitionLife : Prop :=
  (∀ (s : State) (port : Half) (q : Nat), q < 64 → Reaches s port .partCtrl 0 →
    let pg := pageNo .partCtrl 0
    let arg := kregN s .partCtrl 0 0x044
    let n := bitsOf arg 18 0
    let p := getPart s q
    let with_ (code : Nat) : State := setKreg s .partCtrl 0 0x040 (BitVec.ofNat 32 (code + 256 * q))
    let status (code r : Nat) : Word := BitVec.ofNat 32 (code + 256 * r + 2 ^ 16 * q)
    let cmds : List (Instr × Nat) := [(.create port q, 1), (.grow port q, 2), (.shrink port q, 3), (.assignTiles port q, 4),
      (.releaseTiles port q, 5), (.teardown port q, 6)]
    let goes (code : Nat) : Prop := s.partCmd = none ∧ inSplit s = false ∧ partRefusal (with_ code) code q arg = none
    let framed (t : State) : Prop := (∀ r, r ≠ q → getPart t r = getPart s r) ∧
      { t with banks := s.banks, mports := s.mports, pages := s.pages, partCmd := s.partCmd, parts := s.parts, regions := s.regions, regs := s.regs
               reserve := s.reserve, streams := s.streams, sumCyc := s.sumCyc, sumSeq := s.sumSeq, tiles := s.tiles } = s ∧
      t.mports = (okay s port).mports
    let alloc (t : State) (l : List Nat) (g : Nat) : Prop := ∀ r, getRegion t r =
      if r ∈ l then { getRegion s r with st := .allocating, pid := q, gen := g } else getRegion s r
    (s.partCmd.isSome = true ∨ inSplit s = true → ∀ c ∈ cmds, Answers c.1 s fun t => TurnedAway s t port pg respState) ∧
    (∀ c ∈ cmds, ∀ r, s.partCmd = none → inSplit s = false → partRefusal (with_ c.2) c.2 q arg = some r → Answers c.1 s fun t =>
      kreg t .partCtrl 0 0x040 = BitVec.ofNat 32 (c.2 + 256 * q) ∧ kreg t .partCtrl 0 0x048 = status 3 r ∧
      bitOf (getPage t pg).err 2 = true ∧ Monitored { okay s port with regs := t.regs } t ∧
      RegsBut s t [regAddr .partCtrl 0 0x040, regAddr .partCtrl 0 0x048]) ∧
    (partRefusal s 1 q arg = none ↔ p.st = .free ∧ p.cert = true ∧ q ≠ 0 ∧ (∀ lt ∈ partTiles s q, tileIdle s 0 lt = true) ∧
      (regionsFor s q arg).length = n ∧ sessionsBad s q = false ∧ channelsBad s q = false ∧ shareSum s + shareOfPart s q ≤ 1024) ∧
    (∀ code, code = 2 ∨ code = 3 → (partRefusal s code q arg = none ↔ q ≠ 0 ∧ p.st = .live ∧
      (code = 2 → (regionsFor s q arg).length = n) ∧ (code = 3 → 8 + n ≤ p.regions.length))) ∧
    (∀ code, code = 4 ∨ code = 5 → (partRefusal s code q arg = none ↔ q ≠ 0 ∧ p.st = .live ∧
      ∀ lt ∈ argTiles arg, tileIdle s (if code = 4 then 0 else q) lt = true)) ∧
    (partRefusal s 6 q arg = none ↔ q ≠ 0 ∧ (p.st = .live ∨ p.st = .unavailable) ∧ rangeEmpty s q = true ∧
      ∀ lt ∈ partTiles s q, tileIdle s q lt = true) ∧
    ((regionsFor s q arg).Pairwise (· < ·) ∧ (regionsFor s q arg).length ≤ n ∧ ∀ r ∈ regionsFor s q arg, r < s.cfg.regions ∧
      (getRegion s r).st = .free ∧ (getCh s (stackOf s.cfg r) (channelOf s.cfg r)).st = .inService ∧
      pageIsOn s .mem (stackOf s.cfg r) = true ∧ (bitsOf arg 22 21 = 1 → regionHalf s.cfg r = .a) ∧ (bitsOf arg 22 21 = 2 → regionHalf s.cfg r = .b)) ∧
    (goes 1 → Answers (.create port q) s fun t =>
      let l := regionsFor s q arg
      let g := (p.gen + 1) % 65536
      let pages := (physTiles s (partTiles s q)).map (pageNo .tile ·) ++ (partChans s q).map (pageNo .chan ·) ++
        (partBanks s q).map (pageNo .bank ·)
      getPart t q = { p with st := .creating, gen := g, cert := false, regions := [], work := l, scrub := none, flags := 0
                             keys := ⟨false, false⟩ } ∧
      alloc t l g ∧ (∀ x, getPage t x = if x ∈ pages then { getPage s x with owner := q, gen := g } else getPage s x) ∧
      t.partCmd = some (1, q, arg) ∧ kreg t .partCtrl 0 0x048 = status 1 0 ∧ (∀ x, getTile t x = (getTile s x).counts (getTile t x)) ∧ framed t) ∧
    (goes 2 → n ≠ 0 → Answers (.grow port q) s fun t =>
      getPart t q = { p with work := regionsFor s q arg } ∧ alloc t (regionsFor s q arg) p.gen ∧ t.partCmd = some (2, q, arg) ∧
      kreg t .partCtrl 0 0x048 = status 1 0 ∧ t.pages = s.pages ∧ t.tiles = s.tiles ∧ framed t) ∧
    (goes 2 → n = 0 → Answers (.grow port q) s fun t => t.regions = s.regions ∧ t.partCmd = none ∧ kreg t .partCtrl 0 0x048 = status 2 0 ∧
      t.pages = s.pages ∧ t.tiles = s.tiles ∧ framed t) ∧
    (goes 3 → n = 0 → Answers (.shrink port q) s fun t => t.regions = s.regions ∧ t.partCmd = none ∧ kreg t .partCtrl 0 0x048 = status 2 0 ∧
      (getPart t q).regions = p.regions ∧ t.pages = s.pages ∧ t.tiles = s.tiles ∧ framed t) ∧
    (goes 3 → n ≠ 0 → Answers (.shrink port q) s fun t =>
      let keep := p.regions.length - n
      getPart t q = { p with regions := p.regions.take keep, work := p.regions.drop keep } ∧
      (∀ r, getRegion t r = if r ∈ p.regions.drop keep then { getRegion s r with st := .teardown } else getRegion s r) ∧
      t.partCmd = some (3, q, arg) ∧ kreg t .partCtrl 0 0x048 = status 1 0 ∧ t.pages = s.pages ∧ t.tiles = s.tiles ∧ framed t) ∧
    (goes 4 → Answers (.assignTiles port q) s fun t =>
      let l := argTiles arg
      (∀ lt, lt < 1024 → partBit t q 0x028 lt = (decide (lt ∈ l) || partBit s q 0x028 lt)) ∧
      (∀ x, getPage t x = if x ∈ (physTiles s l).map (pageNo .tile ·) then { getPage s x with owner := q, gen := p.gen }
        else getPage s x) ∧
      t.partCmd = none ∧ kreg t .partCtrl 0 0x048 = status 2 0 ∧ (∀ x, getTile t x = (getTile s x).counts (getTile t x)) ∧
      t.regions = s.regions ∧ framed t) ∧
    (goes 5 → Answers (.releaseTiles port q) s fun t =>
      let l := argTiles arg
      (∀ lt, lt < 1024 → partBit t q 0x028 lt = (!decide (lt ∈ l) && partBit s q 0x028 lt)) ∧
      (∀ x, getPage t x = if x ∈ (physTiles s l).map (pageNo .tile ·) then { getPage s x with owner := 0, gen := (getPart s 0).gen }
        else getPage s x) ∧
      (∀ x, getTile t x = if x ∈ physTiles s l then { Tile.fresh with
          bucketCyc := (getTile s x).bucketCyc, idleCyc := (getTile s x).idleCyc, moveSeq := (getTile s x).moveSeq }
        else getTile s x) ∧
      t.partCmd = none ∧ kreg t .partCtrl 0 0x048 = status 2 0 ∧ t.regions = s.regions ∧ framed t) ∧
    (goes 6 → Answers (.teardown port q) s fun t =>
      getPart t q = { p with st := .scrubbing, scrub := some (match p.scrub with
        | some c => ⟨1, 0, 0, 0, [], 0, c.cause, c.restarts + 1⟩
        | none => ⟨1, 0, 0, 0, [], 0, 0, 0⟩) } ∧ t.pages = s.pages ∧ t.tiles = s.tiles ∧
      t.regions = s.regions ∧ t.partCmd = none ∧ kreg t .partCtrl 0 0x048 = status 2 0 ∧ framed t)) ∧
  (∀ (s : State) (q : Nat), q < 64 →
    let p := getPart s q
    let h := mainHalf s
    let made := p.st = .creating ∧ p.work = [] ∧ (s.rtp.get h).booted = true
    (¬made → exec (.partCreateDone q) s = .next s) ∧
    (made → Answers (.partCreateDone q) s fun t => getPart t q = { p with st := .live, keys := ⟨s.ready.a, s.cfg.halfB && s.ready.b⟩ } ∧
      t.partCmd = none ∧ kreg t .partCtrl 0 0x048 = BitVec.ofNat 32 (2 + 2 ^ 16 * q) ∧ (∀ r, r ≠ q → getPart t r = getPart s r) ∧
      { t with partCmd := s.partCmd, parts := s.parts, regs := s.regs, rtp := s.rtp } = s)) ∧
  (∀ (s : State) (q : Nat), q < 64 →
    let p := getPart s q
    let h := scrubHalf s q
    let moves := p.st = .scrubbing ∧ scrubHeld s q = false ∧ (s.rtp.get h).booted = true
    let l := regionsOf s q
    let tiles := physTiles s (partTiles s q)
    (p.scrub = none ∨ ¬moves → exec (.scrubStepDone q) s = .next s ∧ exec (.scrubCertificate q) s = .next s) ∧
    ∀ c, p.scrub = some c → moves →
      (c.step = 1 → (∃ r ∈ l, moving s r = true) → exec (.scrubStepDone q) s = .next s) ∧
      (c.step = 1 → (∀ r ∈ l, moving s r = false) → Answers (.scrubStepDone q) s fun t =>
        (getPart t q).head = ({ p with keys := ⟨false, false⟩, regions := [], work := l, scrub := some { c with
          step := 2, eraseFt := ftOrOnes s h, regions := l.length } } : Part).head ∧
        (∀ r, getRegion t r = if r ∈ l then { getRegion s r with st := .teardown } else getRegion s r) ∧
        t.ownerKeys.find q = none ∧ (∀ x ∈ t.peers, x.1 ≠ q) ∧ (∀ o ∈ t.openings, o.pid ≠ q) ∧
        (∀ r, r ≠ q → (getPart t r).head = (getPart s r).head) ∧ t.mem = s.mem ∧ t.sessions = s.sessions ∧
        ∀ n, (getTile t n).own = (getTile s n).own) ∧
      (c.step = 2 → (∃ r ∈ p.work, (getRegion s r).st ≠ .free) ∨ (s.rtp.get h).deferring = true →
        exec (.scrubStepDone q) s = .next s) ∧
      (c.step = 2 → (∀ r ∈ p.work, (getRegion s r).st = .free) → (s.rtp.get h).deferring = false →
        Answers (.scrubStepDone q) s fun t => getPart t q = { p with work := [], scrub := some { c with step := 3 } } ∧
          (∀ r, r ≠ q → getPart t r = getPart s r) ∧ { t with parts := s.parts, streams := s.streams } = s) ∧
      (c.step = 3 → (s.rtp.get h).deferring = false → Answers (.scrubStepDone q) s fun t =>
        (∃ d, (getPart t q).scrub = some d ∧ d.step = 4 ∧ d.doneFt = ftOrOnes s h ∧ d.eraseFt = c.eraseFt ∧ d.regions = c.regions ∧
          d.cause = c.cause ∧ d.restarts = c.restarts) ∧
        (∀ x ∈ tiles, (getTile t x).own = ({ Tile.fresh with bucketCyc := (getTile s x).bucketCyc, idleCyc := (getTile s x).idleCyc
                                                             moveSeq := (getTile s x).moveSeq } : Tile).own ∧ tileOwner t x = 0) ∧
        (∀ k, k < 64 → pageOwner s (pageNo .chan k) = q → pageOwner t (pageNo .chan k) = 0) ∧
        (∀ k, k < 64 → pageOwner s (pageNo .bank k) = q → pageOwner t (pageNo .bank k) = 0) ∧
        (∀ k, k < 64 → t.meters.find (64 * k + q) = none) ∧ (∀ g, ∀ r ∈ t.reports.get g, r.pid ≠ q) ∧
        (∀ x, x ∉ tiles → (getTile t x).own = (getTile s x).own) ∧ (∀ r, r ≠ q → (getPart t r).head = (getPart s r).head) ∧
        t.mem = s.mem ∧ t.regions = s.regions ∧ t.sessions = s.sessions) ∧
      (c.step = 4 → exec (.scrubStepDone q) s = .next s ∧ Answers (.scrubCertificate q) s fun t =>
        getPart t q = { p with st := .free, cert := true, scrub := none, regions := [], work := [], flags := 0 } ∧
        t.certLog = (q, p.gen, (s.rtp.get h).logCount + 1, c) :: s.certLog ∧ (t.rtp.get h).logCount = (s.rtp.get h).logCount + 1 ∧
        (∀ r, r ≠ q → getPart t r = getPart s r) ∧ { t with certLog := s.certLog, parts := s.parts, rtp := s.rtp } = s) ∧
      (c.step ≠ 4 → exec (.scrubCertificate q) s = .next s)) ∧
  ∀ (s : State) (q : Nat), q < 64 →
    let p := getPart s q
    let h := mainHalf s
    let c := Instr.serviceEvent q
    (lastInstant (ftNs s h) 0 1000000000 = none ∨ q = 0 ∨ p.st ≠ .live ∨ hasTime s h = false → exec c s = .next s) ∧
    ∀ a, lastInstant (ftNs s h) 0 1000000000 = some a → q ≠ 0 → p.st = .live → hasTime s h = true →
      a % 1000000000 = 0 ∧ a ≤ ftNs s h ∧ ftNs s h < a + 1000000000 ∧ (a = p.served → exec c s = .next s) ∧
      (a ≠ p.served → p.flags % 32 = 0 → exec c s = .next (putPart s q { p with flags := 0, served := a })) ∧
      (a ≠ p.served → p.flags % 32 ≠ 0 → exec c s = .next (tenantEvent (putPart s q { p with flags := 0, served := a }) 0x00D q 6 0
        (pageNo .partMap (q / 8)) (p.flags % 32)))

/-! ### The root of trust -/

/-- An RTP that is not running takes no message; one whose mailbox has no room refuses it and sets OUT_FULL; one in SWITCHING answers an
attestation BUSY and lets other work wait; a ROM in RECOVERY answers STATE to all but an image, FW_ACTIVATE and ATTEST. A boot starts
the ACTIVE slot, or else the other, whichever first holds an image with a key not revoked and an SVN of at least MIN_SVN, and logs RESET (its layout is the model's, log entry 132);
with none it stays in RECOVERY. An image is staged in the slot that does not run, or refused with its status. FW_ACTIVATE of a
STAGED image, not while the other RTP is SWITCHING, leads to SWITCHING, the restart to TRIAL, a confirmation within 1,000 ms to a commit
that erases the earlier image and may raise MIN_SVN, or back to the earlier image; a trial that fails erases its slot and returns to the
earlier image. RTP_LOAD sheds at RTP_SHED until it falls below RTP_SHED - 100. -/
def Obligations.FirmwareUpdates : Prop :=
  (∀ (s : State) (h : Half) (tag code : Nat) (rom : Bool) (c : Instr), s.cfg.hasHalf h = true →
    ((∃ img, c = .firmwareImage h img ∧ tag = 0 ∧ code = codeImage ∧ rom = true) ∨
      (c = .fwActivate h tag ∧ code = 2 ∧ rom = true) ∨ (∃ b g, c = .fwCommit h tag b g ∧ code = 3 ∧ rom = false) ∨
      (c = .fwDiscard h tag ∧ code = 4 ∧ rom = false) ∨ (∃ q n g, c = .attest h tag q n g ∧ code = 1 ∧ rom = true) ∨
      (∃ sid e st a b, c = .kex h tag sid e st a b ∧ code = 5 ∧ rom = false) ∨
      (∃ g, c = .gloveHeader h g ∧ tag = 0 ∧ code = codeHeader ∧ rom = false) ∨
      (∃ q i l d, c = .gloveOpen h tag q i l d ∧ code = 6 ∧ rom = false) ∨
      (∃ k, c = .gloveChunk h k ∧ tag = 0 ∧ code = codeChunk ∧ rom = false) ∨
      (∃ q g, c = .admitPrep h tag q g ∧ code = 7 ∧ rom = false) ∨ (∃ r, c = .admitReq h tag r ∧ code = 8 ∧ rom = false) ∨
      (∃ l n, c = .logRead h tag l n ∧ code = 9 ∧ rom = false)) →
    let r := s.rtp.get h
    let up := r.booted = true ∨ r.recovery = true ∨ r.fw = .switching
    let room := rtpRoom s h 4 = true
    (¬up → exec c s = .next s) ∧ (up → ¬room → exec c s = .next (raiseK (decideRtp s h false) .rtp (halfIdx h) 18)) ∧
    (room → r.fw = .switching → (code ≠ 1 → exec c s = .next s) ∧
      (code = 1 → exec c s = .next (onRtp (ended s h false tag 1 1) h fun q => { q with attBusy := min 65535 (q.attBusy + 1) }))) ∧
    (room → r.fw ≠ .switching → r.recovery = true → rom = false → exec c s = .next (ended s h false tag 4 code))) ∧
  (∀ (s : State) (h : Half), s.cfg.hasHalf h = true →
    let c := Instr.rtpBoot h
    let r := s.rtp.get h
    let starts := s.ready.get h = true ∧ r.booted = false ∧ r.recovery = false ∧ r.fw ≠ .switching
    let good (n : Nat) : Prop := ∃ f, r.slot n = some f ∧ s.cfg.revoke.testBit f.key = false ∧ s.minSvn ≤ f.svn
    let report : List Nat := (r.log.getLast?.map (·.ft)).getD 0 :: match s.broken.get h with
      | none => [0]
      | some b => [b.cause, b.credits, b.slots, b.contribs, b.records, b.events] ++ b.live.flatMap fun e => [e.1, e.2]
    let runs (n : Nat) : Prop := Answers c s fun t =>
      (t.rtp.get h).bare = { r with booted := true, running := n, confirmed := false, back := false
                                    fw := if (r.slot (1 - n)).isSome then .staged else .normal }.bare ∧
      Logged s t h 10 report ∧ t.entropyOk = true ∧
      t.minSvn = s.minSvn ∧ t.mem = s.mem
    (¬starts → exec c s = .next s) ∧ (starts → good r.active → runs r.active) ∧
    (starts → ¬good r.active → good (1 - r.active) → runs (1 - r.active)) ∧
    (starts → ¬good r.active → ¬good (1 - r.active) → Answers c s fun t =>
      t.rtp.get h = { r with recovery := true, running := r.active, fw := .normal } ∧
      bitOf (getPage t (pageNo .rtp (halfIdx h))).err 17 = true ∧ Monitored { s with rtp := t.rtp, entropyOk := true } t)) ∧
  (∀ (s : State) (h : Half) (img : FwImage), Hears s h true →
    let c := Instr.firmwareImage h img
    let r := s.rtp.get h
    let may := r.fw = .normal ∨ r.fw = .staged
    let shaped := img.magicOk = true ∧ img.bytes ≤ 8388608 ∧ img.keyIndex < 4
    let allowed := s.cfg.revoke.testBit img.keyIndex = false ∧ s.minSvn ≤ img.svn
    let no (status : Nat) (kind : Option Nat) : Prop := exec c s = .next (refusedWith s h 0 status codeImage kind)
    (¬may → no 4 none) ∧ (may → ¬shaped → no 5 (some 3)) ∧ (may → shaped → img.sigOk = false → no 2 (some 3)) ∧
    (may → shaped → img.sigOk = true → ¬allowed → no 3 (some 3)) ∧
    (may → shaped → img.sigOk = true → allowed → Answers c s fun t =>
      (t.rtp.get h).bare = { r.setSlot (1 - r.running) (some ⟨img.svn % 65536, img.keyIndex, img.digest⟩) with fw := .staged }.bare ∧
      Logged s t h 1 [img.svn, img.digest] ∧ Responded s t h 0 0 codeImage ∧ RtpOnly s t h)) ∧
  (∀ (s : State) (h : Half) (tag : Nat), Hears s h true →
    let c := Instr.fwActivate h tag
    let r := s.rtp.get h
    let may := r.fw = .staged ∧ (s.cfg.halfB = true → (s.rtp.get (if h = .a then .b else .a)).fw ≠ .switching)
    (¬may → exec c s = .next (ended s h false tag 4 2)) ∧
    (may → Answers c s fun t => (t.rtp.get h).bare = { r with fw := .switching, back := false, booted := false }.bare ∧
      Logged s t h 2 [1 - r.running] ∧ Responded s t h tag 0 2 ∧ RtpOnly s t h)) ∧
  (∀ (s : State) (h : Half), s.cfg.hasHalf h = true →
    let r := s.rtp.get h
    let fails (n : Nat) (t : State) : Prop :=
      let ok := slotOk s (r.slot (1 - n))
      (t.rtp.get h).bare = ({ r.setSlot n none with
        running := 1 - n, fw := .normal, confirmed := false, back := false, booted := ok, recovery := !ok } : Rtp).bare ∧
      Logged s t h 4 [n] ∧ bitOf (getPage t (pageNo .rtp (halfIdx h))).err 16 = true ∧ Monitored { s with rtp := t.rtp } t
    let late := trialOver s h = true
    (r.fw ≠ .switching → exec (.fwSwitchRestart h) s = .next s) ∧
    (r.fw = .switching → slotOk s (r.slot (1 - r.running)) = false →
      Answers (.fwSwitchRestart h) s (fails (1 - r.running))) ∧
    (r.fw = .switching → slotOk s (r.slot (1 - r.running)) = true → Answers (.fwSwitchRestart h) s fun t =>
      t.rtp.get h = (if r.back then { r with running := 1 - r.running, fw := .normal, back := false, booted := true, confirmed := false }
        else { r with running := 1 - r.running, fw := .trial, booted := true, recovery := false, confirmed := false, trialCyc := s.cyc }) ∧
      RtpOnly s t h) ∧
    (r.fw ≠ .trial ∨ late → exec (.trialConfirm h) s = .next s) ∧
    (r.fw = .trial → ¬late → exec (.trialConfirm h) s = .next (onRtp s h fun q => { q with confirmed := true })) ∧
    (r.fw ≠ .trial ∨ r.confirmed = true ∨ ¬late → exec (.trialTimeout h) s = .next s) ∧
    (r.fw = .trial → r.confirmed = false → late → Answers (.trialTimeout h) s (fails r.running))) ∧
  (∀ (s : State) (h : Half) (tag : Nat) (burn sig : Bool), Hears s h false →
    let r := s.rtp.get h
    let tried := r.fw = .trial ∧ r.confirmed = true
    (¬tried → exec (.fwCommit h tag burn sig) s = .next (ended s h false tag 4 3)) ∧
    (tried → burn = true → sig = false →
      exec (.fwCommit h tag burn sig) s = .next (ended (rtpEvent s h 8 tag) h false tag 2 3)) ∧
    (tried → burn = false ∨ sig = true → Answers (.fwCommit h tag burn sig) s fun t =>
      let svn := ((r.slot r.running).map (·.svn)).getD 0
      (t.rtp.get h).bare =
        ({ r.setSlot (1 - r.running) none with active := r.running, fw := .normal, confirmed := false } : Rtp).bare ∧
      t.minSvn = (if burn then max s.minSvn (min svn 64) else s.minSvn) ∧ Logged s t h 3 [svn, if burn then 1 else 0] ∧
      Responded s t h tag 0 3 ∧ RtpOnly { s with minSvn := t.minSvn } t h) ∧
    (r.fw = .staged → Answers (.fwDiscard h tag) s fun t =>
      (t.rtp.get h).bare = { r.setSlot (1 - r.running) none with fw := .normal }.bare ∧ Responded s t h tag 0 4 ∧ RtpOnly s t h) ∧
    (tried → Answers (.fwDiscard h tag) s fun t =>
      (t.rtp.get h).bare = { r with fw := .switching, back := true, confirmed := false, booted := false }.bare ∧
      Responded s t h tag 0 4 ∧ RtpOnly s t h) ∧
    (r.fw ≠ .staged → ¬tried → exec (.fwDiscard h tag) s = .next (ended s h false tag 4 4))) ∧
  ∀ (s : State) (h : Half) (load : Nat), s.cfg.hasHalf h = true →
    let r := s.rtp.get h
    let shed := kregN s .rtp (halfIdx h) 0x058
    Answers (.rtpLoad h load) s fun t => t.rtp.get h = { r with load := load, deferring := (t.rtp.get h).deferring } ∧ RtpOnly s t h ∧
      (shed ≤ load → (t.rtp.get h).deferring = true) ∧ (load + 100 < shed → (t.rtp.get h).deferring = false) ∧
      (load < shed → shed ≤ load + 100 → (t.rtp.get h).deferring = r.deferring)

/-- ATTEST with a scope out of range, a FREE or ownerless scope, or a bad signature is answered so; the 65th request is answered BUSY; else it is
queued. ATTEST_ANSWER puts the report in the mailbox of its RTP and advances SEQ, or sets OUT_FULL where it does not fit; after 10 ms
the request is answered BUSY once the mailbox has room. A report begins with its magic, gives STATE by R333's order, the nonce and its own length. KEX is refused
without a session, an owner key or an open exchange, with a bad signature or chain, or a full key store; else the partition holds a secret
with the peer and the exchange is closed. An exchange that has not completed in 1 s is logged and tried again. LOG_READ answers for a
fitted half where the answer fits. SEC_DEBUG_LOCK is only set; an instrument that is not allowed raises DEBUG_DENIED; a failed health test clears ENTROPY_OK. -/
def Obligations.AttestationAndKeys : Prop :=
  (∀ (s : State) (h : Half) (tag scope nonce : Nat) (sig : Bool), Hears s h true →
    let c := Instr.attest h tag scope nonce sig
    let owned := (getPart s scope).st ≠ .free ∧ (s.ownerKeys.find scope).isSome = true
    (64 ≤ scope → exec c s = .next (ended s h false tag 5 1)) ∧
    (scope < 64 → scope ≠ 0 → ¬owned → exec c s = .next (ended s h false tag 4 1)) ∧
    (scope < 64 → scope ≠ 0 → owned → sig = false → exec c s = .next (ended (rtpEvent s h 8 tag) h false tag 2 1)) ∧
    (scope < 64 → scope = 0 ∨ (owned ∧ sig = true) →
      (64 ≤ s.attQueue.length →
        exec c s = .next (onRtp (ended s h false tag 1 1) h fun q => { q with attBusy := min 65535 (q.attBusy + 1) })) ∧
      (s.attQueue.length < 64 → exec c s = .next { decideRtp s h true with attQueue := s.attQueue ++ [⟨h, tag, scope, nonce, s.cyc⟩] }))) ∧
  (∀ (s : State) (i : Nat),
    let a := Instr.attestAnswer i
    let b := Instr.attestTimeout i
    (s.attQueue[i]? = none → exec a s = .next s ∧ exec b s = .next s) ∧
    ∀ q, s.attQueue[i]? = some q →
      let late := cycAgo s q.cyc 10000000 = true
      let r := s.rtp.get q.half
      let runs := (r.booted = true ∨ r.recovery = true) ∧ r.fw ≠ .switching
      let u := { s with attQueue := s.attQueue.eraseIdx i }
      let l := wordsOf (reportBytes u q.half q.scope q.nonce)
      (late ∨ ¬runs → exec a s = .next s) ∧ (¬late → exec b s = .next s) ∧
      (¬late → runs → rtpRoom s q.half (4 + l.length) = true → Answers a s fun t =>
        (t.rtp.get q.half).out = r.out ++ response q.tag 0 1 l ∧ t.attSeq = (s.attSeq + 1) % 2 ^ 32 ∧ t.attQueue = u.attQueue ∧
        t.rtp.get q.half = { r with out := (t.rtp.get q.half).out } ∧ { t with rtp := s.rtp, attSeq := s.attSeq, attQueue := s.attQueue } = s) ∧
      (¬late → runs → rtpRoom s q.half (4 + l.length) = false → exec a s = .next (raiseK s .rtp (halfIdx q.half) 18)) ∧
      (late → rtpRoom s q.half 4 = false → exec b s = .next (raiseK s .rtp (halfIdx q.half) 18)) ∧
      (late → rtpRoom s q.half 4 = true → exec b s = .next (onRtp (rtpAnswer u q.half q.tag 1 1 []) q.half fun r => { r with attBusy := min 65535 (r.attBusy + 1) }))) ∧
  (∀ (s : State) (h : Half) (scope nonce : Nat), nonce < 2 ^ 384 →
    let l := reportBytes s h scope nonce
    l.take 4 = leBytes 4 0x41545331 ∧ (l.drop 5).take 1 = leBytes 1 (reportState s h) ∧ (l.drop 8).take 4 = leBytes 4 l.length ∧
    leNat ((l.drop 16).take 48) = nonce ∧ (l.drop 64).take 8 = leBytes 8 (ftOrOnes s h) ∧
    (reportState s h = 2 ↔ ∃ g, s.cfg.hasHalf g = true ∧ s.ready.get g = false) ∧
    (reportState s h = 1 → ∃ g, s.cfg.hasHalf g = true ∧ (s.rtp.get g).fw ≠ .normal) ∧
    (reportState s h = 3 → (s.rtp.get h).recovery = true) ∧
    (reportState s h = 0 → (s.rtp.get h).recovery = false ∧ ∀ g, s.cfg.hasHalf g = true → (s.rtp.get g).fw = .normal ∧ s.ready.get g = true)) ∧
  (∀ (s : State) (h : Half) (tag : Nat) (log : Half) (first : Nat), Hears s h false →
    (s.cfg.hasHalf log = false → exec (.logRead h tag log first) s = .next (ended s h false tag 5 9)) ∧
    (s.cfg.hasHalf log = true →
      let r := s.rtp.get log
      let body := BitVec.ofNat 32 r.logPruned ::
        freeWords 9 (first :: (r.log.drop (first - 1 - r.logPruned)).flatMap fun e => [e.kind, e.ft] ++ e.body)
      (rtpRoom s h (4 + body.length) = true → exec (.logRead h tag log first) s = .next (rtpAnswer (decideRtp s h true) h tag 0 9 body)) ∧
      (rtpRoom s h (4 + body.length) = false → exec (.logRead h tag log first) s = .next (raiseK (decideRtp s h false) .rtp (halfIdx h) 18)))) ∧
  (∀ (s : State) (h : Half) (tag sid : Nat) (e : Edge) (k : KexStep) (sig chain : Bool), Hears s h false →
    let c := Instr.kex h tag sid e k sig chain
    let x := getSes s sid
    let opened := ∃ y ∈ s.kexs, y.sid = sid ∧ y.edge = e
    let wanted := ((∃ n, e = .contrib n) ∧ k = .resp ∧ opened) ∨ ((∀ n, e ≠ .contrib n) ∧ k = .init)
    let may := x.st ≠ .empty ∧ x.home = h ∧ ownerKeyed s x.pid = true ∧ wanted
    (4096 ≤ sid → exec c s = .next (ended s h false tag 5 5)) ∧
    (sid < 4096 → ¬may → exec c s = .next (ended s h false tag 4 5)) ∧
    (sid < 4096 → may → sig = false ∨ chain = false → exec c s = .next (ended (kexFails s h sid e) h false tag 2 5)) ∧
    (sid < 4096 → may → sig = true → chain = true →
      (keyRoom s h = false → exec c s = .next (ended (keysFull s) h false tag 7 5) ∧
        bitOf (getPage (keysFull s) (pageNo .sec 0)).err 18 = true ∧ bitOf (kreg (keysFull s) .sec 0 0x040) 29 = true) ∧
      (keyRoom s h = true → Answers c s fun t =>
        t.kexs = (s.kexs.filter fun y => !(decide (y.sid = sid) && decide (y.edge = e))) ∧
        peerKnown t x.pid (x.pfaOf x.newest e) = true ∧ (∀ p ∈ s.peers, p ∈ t.peers) ∧ t.sessions = s.sessions ∧
        Monitored { s with kexs := t.kexs, peers := t.peers, rtp := t.rtp, wins := t.wins } t ∧ ∀ g, (t.rtp.get g).bare = (s.rtp.get g).bare))) ∧
  (∀ (s : State) (i : Nat) (k : Kex), s.kexs[i]? = some k →
    let c := Instr.kexTimeout i
    let x := getSes s k.sid
    (cycAgo s k.cyc 1000000000 = false → exec c s = .next s) ∧
    (cycAgo s k.cyc 1000000000 = true → Answers c s fun t =>
      (∀ y ∈ s.kexs.eraseIdx i, y ∈ t.kexs) ∧ t.sessions = s.sessions ∧ t.mem = s.mem ∧
      (4096 ≤ k.sid → t.kexs = s.kexs.eraseIdx i ++ [{ k with cyc := s.cyc }] ∧
        bitOf (getPage t (pageNo .chan (k.sid - 4096))).err 17 = true) ∧
      (∀ n y, k.sid < 4096 → k.edge = .contrib n → x.st ≠ .empty → ownerKeyed s x.pid = true → (s.rtp.get x.home).booted = true →
        (n, y) ∈ x.keyless → peerKnown s x.pid y.pfa = false → ∃ z ∈ t.kexs, z.sid = k.sid ∧ z.edge = k.edge))) ∧
  (∀ (s : State) (port : Half) (data : Word), Reaches s port .sec 0 →
    exec (.secDebugLock port data) s = .next (okay (if bitOf data 0 then setKreg s .sec 0 0x044 (setBit (kreg s .sec 0 0x044) 0) else s) port) ∧
    ∀ t, exec (.secDebugLock port data) s = .next t → debugRestricted s = true ∨ bitOf data 0 = true → debugRestricted t = true) ∧
  (∀ (s : State) (i : Instrument),
    let never := i = .bistRun ∨ i = .scanChains ∨ i = .hbmTest ∨ i = .readKeys
    (i = .boundaryScan ∨ i = .bistStatus → exec (.testAccess i) s = .next s) ∧
    (never → instrumentAllowed s i = false) ∧ (debugRestricted s = true → i ≠ .boundaryScan → i ≠ .bistStatus → instrumentAllowed s i = false) ∧
    (instrumentAllowed s i = true → exec (.testAccess i) s = .next s) ∧
    (instrumentAllowed s i = false →
      exec (.testAccess i) s = .next (secEvent s 6 (instrumentCode i) (pageNo .sec 0) (instrumentCode i)))) ∧
  (∀ (s : State) (kind src pg detail : Nat),
    let i := fieldOf (kreg s .sec 0 0x050) 7 0
    let again := ∃ c, s.secAt.find (secKey kind src) = some c ∧ cycAgo s c 1000000 = false
    let t := secEvent s kind src pg detail
    (¬again → t.secLog.find i = some ⟨ftOrOnes s (mainHalf s), kind, pg, detail⟩ ∧ fieldOf (kreg t .sec 0 0x050) 7 0 = (i + 1) % 256 ∧
      bitOf (getPage t (pageNo .sec 0)).err 16 = true ∧ ∀ n, n ≠ i → t.secLog.find n = s.secLog.find n) ∧
    (again → t.secLog = s.secLog ∧ (kind ≠ 1 → kind ≠ 2 →
      kregN t .sec 0 0x054 = min (2 ^ 32 - 1) (kregN s .sec 0 0x054 + 1)))) ∧
  ∀ s : State, Answers .entropyFail s fun t => t.entropyOk = false ∧ bitOf (getPage t (pageNo .sec 0)).err 17 = true ∧
    Monitored { s with entropyOk := false } t

/-- A header out of range is refused with FORMAT, else it is kept under its GLOVE_ID. GLOVE_OPEN is refused: STATE without a header, with
an opening of that Glove or partition, or a partition not LIVE or too small; else with the first of signature, owner key, membership, lock,
SVN and key check that fails; an admitted spare logs ADMITTED. A chunk is held while a Calm is in force, refused with FORMAT where its
fields are out of range, ignored when its INDEX was taken, and ends the opening with POLICY when its tag fails. Else its bytes are asked of
the stacks, and once they are accepted it is answered, and with the last chunk the digest decides: the partition takes the owner key, if it has none, and the GLOVE_ID, or neither. A spare answers ADMIT_PREP with its
request; a member endorses only what R343 allows, and logs ENDORSED. -/
def Obligations.GlovesOpen : Prop :=
  (∀ (s : State) (h : Half) (g : GloveHdr), Hears s h false →
    let fits := g.version = 1 ∧ 1 ≤ g.quorum ∧ g.quorum ≤ 15 ∧ 1 ≤ g.members ∧ g.members ≤ 32 ∧ g.quorum ≤ g.members
    (¬fits → exec (.gloveHeader h g) s = .next (ended s h false 0 5 codeHeader)) ∧
    (fits → Answers (.gloveHeader h g) s fun t => headerOf t g.gloveId = some g ∧
      (∀ id, id ≠ g.gloveId → headerOf t id = headerOf s id) ∧ Responded s t h 0 0 codeHeader ∧
      RtpOnly { s with gloveHdrs := t.gloveHdrs } t h) ∧
    ∀ tag pid, (
      (64 ≤ pid ∨ ¬fits → exec (.admitPrep h tag pid g) s = .next (ended s h false tag 5 7)) ∧
      let body := wordsOf (leBytes 48 (Config.headerDigest g.gloveId) ++ reportBytes s h 0 (Config.headerDigest g.gloveId)) ++
        freeWords 7 [g.gloveId, s.attSeq]
      (pid < 64 → fits → rtpRoom s h (4 + body.length) = false →
        exec (.admitPrep h tag pid g) s = .next (raiseK (decideRtp s h false) .rtp (halfIdx h) 18)) ∧
      (pid < 64 → fits → rtpRoom s h (4 + body.length) = true → Answers (.admitPrep h tag pid g) s fun t => headerOf t g.gloveId = some g ∧
        t.attSeq = (s.attSeq + 1) % 2 ^ 32 ∧ (t.rtp.get h).out = (s.rtp.get h).out ++ response tag 0 7 body ∧
        Monitored { s with gloveHdrs := t.gloveHdrs, attSeq := t.attSeq, rtp := t.rtp, wins := t.wins } t))) ∧
  (∀ (s : State) (h : Half) (tag pid id : Nat) (l : List Endorsement) (ok : Bool), Hears s h false →
    let c := Instr.gloveOpen h tag pid id l ok
    (headerOf s id = none → exec c s = .next (ended s h false tag 4 6)) ∧
    ∀ g, headerOf s id = some g →
      let p := getPart s pid
      let open_ := ∃ o ∈ s.openings, o.hdr.gloveId = id ∨ o.pid = pid
      let room := p.st = .live ∧ g.highRegion < p.regions.length
      let owner := s.ownerKeys.find pid = none ∨ s.ownerKeys.find pid = some g.ownerKey
      let vouched := g.quorum ≤
        (((l.filter fun e => e.valid && e.ftVouched && decide (1 ≤ e.index) && decide (e.index ≤ g.members)).map (·.index)).eraseDups).length
      let member := g.isMember = true ∨ (g.spareAdmit = true ∧ vouched)
      let locked := g.requireLock = false ∨ (s.cfg.prodLock = true ∧ debugRestricted s = true)
      let firmware := g.minSvn ≤ runningSvn s h
      let no (status : Nat) : Prop := exec c s = .next (ended (rtpEvent s h 4 tag) h false tag status 6)
      let o : Opening := ⟨h, tag, pid, g, [], [], ok, !g.isMember⟩
      (64 ≤ pid → exec c s = .next (ended s h false tag 5 6)) ∧
      (pid < 64 → open_ ∨ ¬room → exec c s = .next (ended s h false tag 4 6)) ∧
      (pid < 64 → ¬open_ → room →
        (g.sigOk = false → no 2) ∧ (g.sigOk = true → ¬owner → no 3) ∧ (g.sigOk = true → owner → ¬member → no 6) ∧
        (g.sigOk = true → owner → member → ¬locked ∨ ¬firmware ∨ g.keyCheckOk = false → no 3) ∧
        (g.sigOk = true → owner → member → locked → firmware → g.keyCheckOk = true → g.chunks = 0 → Answers c s fun t =>
          (∀ p ∈ t.openings, p ≠ o) ∧ (∀ p ∈ s.openings, p ∈ t.openings) ∧
          (ok = true → t.gloveIds.find pid = some id ∧ t.ownerKeys.find pid = some g.ownerKey) ∧
          (ok = false → t.ownerKeys = s.ownerKeys ∧ t.gloveIds = s.gloveIds)) ∧
        (g.sigOk = true → owner → member → locked → firmware → g.keyCheckOk = true → g.chunks ≠ 0 → Answers c s fun t =>
          t.openings = s.openings ++ [o] ∧ t.ownerKeys = s.ownerKeys ∧ t.gloveIds = s.gloveIds ∧
          (t.rtp.get h).bare = (s.rtp.get h).bare ∧ RtpOnly { s with openings := t.openings } t h ∧
          (g.isMember = false → Logged s t h 8 [pid, id]) ∧ (g.isMember = true → t.rtp.get h = s.rtp.get h)))) ∧
  (∀ (s : State) (h : Half) (k : GloveChunk), Hears s h false →
    let c := Instr.gloveChunk h k
    let n := k.bytes.length
    let mine (o : Opening) : Prop := o.hdr.gloveId = k.gloveId
    ((∀ o ∈ s.openings, ¬mine o) → exec c s = .next (ended s h false 0 4 codeChunk)) ∧
    ∀ (i : Nat) (o : Opening), s.openings[i]? = some o → mine o → (∀ j p, j ≠ i → s.openings[j]? = some p → ¬mine p) →
      let held := calmOn s .a = true ∨ (s.cfg.halfB = true ∧ calmOn s .b = true)
      let live := (getPart s o.pid).st = .live
      let fits := k.index < o.hdr.chunks ∧ k.dest % 64 = 0 ∧ n % 64 = 0 ∧ 64 ≤ n ∧ n ≤ 1048576 ∧ rangeMapped s o.pid k.dest n = true
      let taken := k.index ∈ o.got ∨ k.index ∈ o.writes
      let goes := ¬held ∧ live ∧ fits ∧ ¬taken
      let ends (t : State) : Prop := (∀ p ∈ t.openings, p ≠ o ∧ ¬mine p) ∧ (∀ p ∈ s.openings, ¬mine p → p ∈ t.openings)
      let keeps (t : State) : Prop := t.ownerKeys = s.ownerKeys ∧ t.gloveIds = s.gloveIds
      (held → exec c s = .next s) ∧
      (¬held → ¬live → Answers c s fun t => ends t ∧ keeps t ∧ t.mem = s.mem) ∧
      (¬held → live → ¬fits → exec c s = .next (ended s h false 0 5 codeChunk)) ∧
      (¬held → live → fits → taken → exec c s = .next (ended s h true 0 0 codeChunk)) ∧
      (goes → k.tagOk = false → Answers c s fun t => ends t ∧ keeps t ∧ t.mem = s.mem ∧ t.badLines = s.badLines) ∧
      (goes → k.tagOk = true →
        exec c s = .next (askChunk { s with openings := s.openings.set i { o with writes := o.writes ++ [k.index] } } h o.pid k) ∧
        Answers c s fun t => useWaits t (.chunk k.gloveId k.index) = true ∧ { t with arbs := s.arbs, openings := s.openings } = s)) ∧
  (∀ (s : State) (i : Nat) (o : Opening) (n : Nat), s.openings[i]? = some o → o.writes = [n] →
    (∀ j p, j ≠ i → s.openings[j]? = some p → p.hdr.gloveId ≠ o.hdr.gloveId ∧ p.writes = []) →
    let t := settleChunks s
    let mine (p : Opening) : Prop := p.hdr.gloveId = o.hdr.gloveId
    let ends := (∀ p ∈ t.openings, ¬mine p) ∧ (∀ p ∈ s.openings, ¬mine p → p ∈ t.openings)
    let keeps := t.ownerKeys = s.ownerKeys ∧ t.gloveIds = s.gloveIds
    (useWaits s (.chunk o.hdr.gloveId n) = true → t = s) ∧
    (useWaits s (.chunk o.hdr.gloveId n) = false → t.mem = s.mem ∧ t.badLines = s.badLines ∧ t.regions = s.regions ∧
      (o.got.length + 1 < o.hdr.chunks → keeps ∧ t.openings = s.openings.set i { o with got := o.got ++ [n], writes := [] }) ∧
      (o.hdr.chunks ≤ o.got.length + 1 → o.digestOk = false → ends ∧ keeps) ∧
      (o.hdr.chunks ≤ o.got.length + 1 → o.digestOk = true → ends ∧
        (∀ q, t.gloveIds.find q = if q = o.pid then some o.hdr.gloveId else s.gloveIds.find q) ∧
        (∀ q, t.ownerKeys.find q = if q = o.pid then some ((s.ownerKeys.find q).getD o.hdr.ownerKey) else s.ownerKeys.find q) ∧
        (t.rtp.get o.half).logCount = (s.rtp.get o.half).logCount + 1))) ∧
  ∀ (s : State) (h : Half) (tag : Nat) (r : AdmitReq), Hears s h false →
    let c := Instr.admitReq h tag r
    (headerOf s r.gloveId = none → exec c s = .next (ended s h false tag 4 8)) ∧
    ∀ g, headerOf s r.gloveId = some g →
      let now := ftNs s h
      let named := g.isMember = true ∧ r.isMember = true
      let proved := r.sigOk = true ∧ r.reportOk = true
      let allowed := g.spareAdmit = true ∧ r.stateNormal = true ∧ r.prodLock = true ∧ r.debugRestricted = true ∧ g.minSvn ≤ r.svn ∧
        hasTime s h = true ∧ r.reportFt ≤ now + 1000000000 ∧ now ≤ r.reportFt + 1000000000 ∧ r.spareIsMember = false
      (¬named → exec c s = .next (ended s h false tag 6 8)) ∧
      (named → ¬proved → exec c s = .next (ended (rtpEvent s h 8 tag) h false tag 2 8)) ∧
      (named → proved → ¬allowed → exec c s = .next (ended s h false tag 3 8)) ∧
      (named → proved → allowed → Answers c s fun t => Logged s t h 7 [r.gloveId] ∧ (t.rtp.get h).bare = (s.rtp.get h).bare ∧
        Monitored { s with rtp := t.rtp, wins := t.wins } t)

/-! ### Power and resets -/

/-- A good strobe puts its code in force and is counted, BELOW_FLOOR if it is below the floor; any other edge, or one held 1,000 ns, is counted and sets
STB_BAD. ALW_ACK follows a recompute after the code. 100,000 ns after the last good strobe the floor comes into force, ALW_LOST
is set and the FT recorded. A recompute, every 1,800 cycles, gives each partition its share of the tile allowance in each half, splits it
equally among its tiles that draw, never more than the share, none for the others, and cuts a gate above 64 allotments to that. The thermal factor falls an
eighth from THROTTLE on, to two eighths, rises below THROTTLE - HYST, and is zero from 125 °C until it is below that. The tiles named with a reading wear by its 18,000 cycles (log
entry 161). A power reading is taken at each whole 10 ms of FT, or of the clock without time. -/
def Obligations.AllowanceAndHeat : Prop :=
  let pwr (s : State) (i : Nat) : Prop := i = 0 ∨ (s.cfg.halfB = true ∧ i = 1)
  let up (n : Nat) : Nat := min (2 ^ 32 - 1) (n + 1)
  let only (s t : State) : Prop := Monitored { s with power := t.power, regs := t.regs } t
  (codeAmps 0 = 0 ∧ ∀ c, 0 < c → c < 256 → codeAmps c = 360 + 8 * c) ∧
  (∀ (s : State) (code low high : Nat),
    let good := 20 ≤ low ∧ 8 ≤ high ∧ high ≤ 1000 ∧ ∀ c, s.power.goodCyc = some c → cycAgo s c 5000 = true
    let ignored (c : Instr) : Prop := Answers c s fun t => t.power = s.power ∧ only s t ∧ ∀ i, pwr s i →
      kregN t .pwr i 0x050 = up (kregN s .pwr i 0x050) ∧ bitOf (getPage t (pageNo .pwr i)).err 17 = true ∧
      kreg t .pwr i 0x04C = kreg s .pwr i 0x04C
    ignored .alwStbHeld ∧ (¬good → ignored (.alwStb code low high)) ∧
    (good → Answers (.alwStb code low high) s fun t => only s t ∧
      t.power = { s.power with code := code % 256, src := 0, owed := some (code % 256, s.cyc), goodCyc := some s.cyc } ∧
      ∀ i, pwr s i → kreg t .pwr i 0x04C = kreg s .pwr i 0x04C + 1 ∧ kreg t .pwr i 0x050 = kreg s .pwr i 0x050 ∧
        (code % 256 < s.cfg.floor → bitOf (getPage t (pageNo .pwr i)).err 18 = true) ∧
        (codeAmps code < s.cfg.baseAmps → bitOf (getPage t (pageNo .pwr i)).err 19 = true))) ∧
  (∀ s : State,
    (s.power.owed = none → exec .alwAck s = .next s) ∧
    (∀ c k, s.power.owed = some (c, k) → exec .alwAck s = .next (if k < s.power.splitCyc then
      { s with power := { s.power with owed := none, acked := some c } } else s)) ∧
    let lost := ∃ c, s.power.goodCyc = some c ∧ cycAgo s c 100000 = true ∧ s.power.src ≠ 2
    (¬lost → exec .alwLost s = .next s) ∧
    (lost → Answers .alwLost s fun t => only s t ∧
      t.power = { s.power with code := s.cfg.floor % 256, src := 2, owed := some (s.cfg.floor % 256, s.cyc) } ∧
      ∀ i, pwr s i → bitOf (getPage t (pageNo .pwr i)).err 16 = true ∧
        kreg64 t .pwr i 0x054 = ftOrOnes s (mainHalf s) % 2 ^ 64)) ∧
  (∀ s : State,
    (s.cyc < s.power.splitCyc + 1800 → exec .budgetRecompute s = .next s) ∧
    (s.power.splitCyc + 1800 ≤ s.cyc → Answers .budgetRecompute s fun t =>
      t.power = { s.power with splitCyc := s.cyc } ∧
      (∀ h q, s.cfg.hasHalf h = true → q < 64 → t.budgets.get 0 (64 * halfIdx h + q) = halfBudget s q h ∧
        ∀ n, n < 1088 → tileHalf n = h → tileOwner s n = q →
          (drawsBudget s n = true → tileAllot t n = halfBudget s q h / drawers s q h ∧ drawers s q h * tileAllot t n ≤ halfBudget s q h) ∧
          (drawsBudget s n = false → tileAllot t n = 0)) ∧
      (∀ n x, s.tiles.find n = some x → t.tiles.find n = some { x with
        bucket := min ((64 * tileAllot t n : Nat) : Int) (gateLevel s n), bucketCyc := s.cyc }) ∧
      (∀ i, pwr s i → kreg t .pwr i 0x048 = BitVec.ofNat 32 (tileAllowance s)) ∧
      { t with power := s.power, budgets := s.budgets, allots := s.allots, tiles := s.tiles, regs := s.regs } = s)) ∧
  (∀ (s : State) (q : Nat),
    (s.cfg.halfB = true → halfBudget s q .a + halfBudget s q .b ≤ budgetOf s q) ∧ (s.cfg.halfB = false → halfBudget s q .a = budgetOf s q) ∧
    (shareOfPid s q ≤ 1024 → budgetOf s q ≤ tileAllowance s) ∧
    (codeAmps s.power.code ≤ s.cfg.baseAmps ∨ thermalFactor s = 0 → budgetOf s q = 0)) ∧
  (∀ (s : State) (hottest sensor : Nat) (hot : List Nat),
    let w := kregF s .pwr 0 0x05C
    let throttle := fieldOf w 7 0
    let cool := hottest < throttle - fieldOf w 15 8
    let old := thermalFactor s
    let trip := s.power.trip = true
    let goes (f : Nat) (tr : Bool) : Prop := Answers (.thermalReading hottest ⟨sensor, hot⟩) s fun t =>
      t.power = { s.power with trip := tr } ∧ only (worn s t) t ∧
      (∀ k, t.wearLife.get 0 k = s.wearLife.get 0 k +
        18000 * (hot.filter fun n => tileFitted s n && decide (wearKey 4 n = k)).length) ∧ ∀ i, pwr s i →
        fieldOf (kreg t .pwr i 0x060) 3 0 = f ∧ fieldOf (kreg t .pwr i 0x060) 15 8 = hottest % 256 ∧
        fieldOf (kreg t .pwr i 0x060) 20 16 = sensor % 32 ∧
        (old = 8 → f < 8 → bitOf (getPage t (pageNo .pwr i)).err 20 = true) ∧
        (¬trip → tr = true → bitOf (getPage t (pageNo .pwr i)).err 21 = true)
    (125 ≤ hottest → goes 0 true) ∧ (hottest < 125 → trip → ¬cool → goes 0 true) ∧ (hottest < 125 → trip → cool → goes 2 false) ∧
    (hottest < 125 → ¬trip → throttle ≤ hottest → goes (max 2 (old - 1)) false) ∧
    (hottest < 125 → ¬trip → hottest < throttle → ¬cool → goes old false) ∧
    (hottest < 125 → ¬trip → hottest < throttle → cool → goes (min 8 (old + 1)) false)) ∧
  ∀ (s : State) (p : Nat),
    let h := mainHalf s
    let timed := hasTime s h = true
    let ft := ftNs s h / 10000000 * 10000000
    let due := (timed → kreg64 s .pwr 0 0x068 ≠ ft) ∧ (¬timed → cycAgo s s.power.readCyc 10000000 = true)
    (¬due → exec (.powerReading p) s = .next s) ∧
    (due → Answers (.powerReading p) s fun t => t.power = { s.power with readCyc := s.cyc } ∧
      { t with power := s.power, regs := s.regs } = s ∧ ∀ i, pwr s i → kregN t .pwr i 0x064 = p % 65536 ∧
        (timed → kreg64 t .pwr i 0x068 = ft % 2 ^ 64) ∧ (¬timed → kreg64 t .pwr i 0x068 = 2 ^ 64 - 1))

/-- A reset of the block leaves every field as State.reset gives it, but for fuses, maps and repairs, image stores and logs, wear, region
states and the pins; every partition that was not FREE is SCRUBBING at step 1 without keys, and each half reports what it
lost. A reset of one half while the other is up takes its sessions, its tiles' own state, its queues and its keys, leaves memory,
makes LIVE partitions that it meets UNAVAILABLE and CREATING ones SCRUBBING, and puts both halves into SPLIT with HALF_RESET; else it is a
reset of the block. READY raises the half with a fresh nonce, and RAIL where a rail fell. A rail resets what it powers; VDD_AON takes the logs and
wear counts with it, a stack's rail its bytes; the sideband resets nothing. CLK_FAIL is set beyond 1,000 ppm, and BLK_PFA is
refused with STATE while a session is not EMPTY, and of Plane 0xF with OKAY and ACCESS (log entry 131). -/
def Obligations.ResetsAndRails : Prop :=
  let asleep (r q : Rtp) : Prop := q = { r with
    booted := false, recovery := false, fw := .normal, confirmed := false, back := false, trialCyc := 0, out := [], attBusy := 0, load := 0
    deferring := false }
  (∀ (s : State) (cause : Nat),
    let t := blockReset s cause
    let r := State.reset
    let p := !s.cfg.halfB || s.cfg.chargeFuse
    { t with cfg := r.cfg, pending := r.pending, fresh := r.fresh, trigHigh := r.trigHigh, bypStat := r.bypStat, tmap := r.tmap
             srRole := r.srRole, regions := r.regions, reserve := r.reserve, era := r.era, chans := r.chans, parts := r.parts, certLog := r.certLog, rtp := r.rtp
             minSvn := r.minSvn, frameSpares := r.frameSpares, wearLife := r.wearLife, wearDay := r.wearDay, wearDayNo := r.wearDayNo
             fuseUsed := r.fuseUsed, fuseQueue := r.fuseQueue, fuseFull := r.fuseFull, rowsUsed := r.rowsUsed, railFell := r.railFell
             pgSb := r.pgSb, power := r.power, charge := r.charge, broken := r.broken, regs := r.regs } = r ∧
    t.cfg = s.cfg ∧ t.pending = s.pending ∧ t.fresh = s.fresh ∧ t.trigHigh = s.trigHigh ∧ t.bypStat = s.bypStat ∧ t.tmap = s.tmap ∧
    t.srRole = s.srRole ∧ t.regions = s.regions ∧ t.reserve = s.reserve ∧ t.era = s.era + 1 ∧ t.certLog = s.certLog ∧ t.minSvn = s.minSvn ∧ t.frameSpares = s.frameSpares ∧
    t.wearLife = s.wearLife ∧ t.wearDay = s.wearDay ∧ t.wearDayNo = s.wearDayNo ∧ t.fuseUsed = s.fuseUsed ∧ t.fuseQueue = s.fuseQueue ∧
    t.fuseFull = s.fuseFull ∧ t.rowsUsed = s.rowsUsed ∧ t.railFell = s.railFell ∧ t.pgSb = s.pgSb ∧
    t.power = { r.power with code := s.cfg.floor % 256 } ∧ (∀ h, asleep (s.rtp.get h) (t.rtp.get h)) ∧
    RegsBut r t [regAddr .spr 0 0x048, regAddr .spr 1 0x048] ∧
    t.charge = ⟨{ r.charge.a with primary := p }, { r.charge.b with primary := !p }⟩ ∧
    t.broken.a = some (brokenNow s .a cause) ∧ (s.cfg.halfB = true → t.broken.b = some (brokenNow s .b cause)) ∧
    ∀ q, 0 < q → q < 64 →
      ((getPart s q).st = .free → getPart t q = getPart s q) ∧
      ((getPart s q).st ≠ .free → (getPart t q).st = .scrubbing ∧ (getPart t q).keys = ⟨false, false⟩ ∧ (getPart t q).regions = [] ∧
        (getPart t q).gen = (getPart s q).gen ∧ ∃ c, (getPart t q).scrub = some c ∧ c.step = 1)) ∧
  (∀ s : State, exec .rstBlkN s = .next (blockReset s 0)) ∧
  (∀ (s : State) (h : Half), s.cfg.hasHalf h = true →
    let o := otherHalf h
    let c := Instr.rstHalfN h
    (s.cfg.halfB = false ∨ s.ready.get o = false → exec c s = .next (blockReset s 1)) ∧
    (s.cfg.halfB = true → s.ready.get o = true → Answers c s fun t =>
      t.ready.get h = false ∧ t.ready.get o = true ∧ t.mem = s.mem ∧ t.regions = s.regions ∧ t.badLines = s.badLines ∧
      t.broken.get h = some (brokenNow s h 1) ∧ asleep (s.rtp.get h) (t.rtp.get h) ∧ t.rtp.get o = s.rtp.get o ∧
      (t.charge.get h).st = .split ∧ (t.charge.get h).cause = 1 ∧ (t.charge.get h).returned = true ∧
      (t.charge.get o).st = .split ∧ (t.charge.get o).cause = 1 ∧
      (∀ sid, (getSes s sid).home = h → (getSes s sid).st ≠ .empty → (getSes t sid).st = .empty) ∧
      (∀ n, tileHalf n = h → (getTile t n).own = Tile.fresh.own) ∧
      (∀ q, ((getPart t q).keys.get h) = false) ∧
      (∀ q, 0 < q → q < 64 → (partIn s q h = true ∨ scrubIn s q h = true) →
        ((getPart s q).st = .live → (getPart t q).st = .unavailable) ∧ ((getPart s q).st = .creating → (getPart t q).st = .scrubbing)) ∧
      (∀ q, 0 < q → q < 64 → partIn s q h = false → scrubIn s q h = false → (getPart t q).st = (getPart s q).st) ∧
      (∀ k i, i < kindCount k → kindHalf s.cfg k i = some h →
        (getPage t (pageNo k i)).st = (pageReset (pageNo k i)).st ∧ (getPage t (pageNo k i)).enable = (pageReset (pageNo k i)).enable))) ∧
  (∀ (s : State) (h : Half), s.cfg.hasHalf h = true →
    (s.ready.get h = true → exec (.ready h) s = .next s) ∧
    (s.ready.get h = false → Answers (.ready h) s fun t => t.ready = s.ready.put h true ∧ (t.railFell.get h) = false ∧
      t.charge.get h = { s.charge.get h with nonce := (t.charge.get h).nonce, hbCyc := s.cyc } ∧ (t.charge.get h).nonce < 2 ^ 128 ∧
      (s.railFell.get h = true → bitOf (getPage t (pageNo .pwr (halfIdx h))).err 22 = true) ∧
      Monitored { s with ready := t.ready, railFell := t.railFell, charge := t.charge, fresh := t.fresh } t)) ∧
  (∀ (s : State) (h : Half),
    let fell (g : Half) (s : State) : State := { s with railFell := s.railFell.put g true }
    exec (.railFall .sideband h) s = .next { s with pgSb := false } ∧
    (Answers (.railFall .aon h) s fun t => t.ready = ⟨false, false⟩ ∧ t.wearLife = .empty ∧ t.certLog = [] ∧
      (∀ g, (t.rtp.get g).log = [] ∧ (t.rtp.get g).logHead = 0 ∧ (t.rtp.get g).slots = ⟨none, none⟩) ∧ t.sessions = .empty ∧ t.mem = .empty ∧
      ∀ g, s.cfg.hasHalf g = true → t.railFell.get g = true ∧ bitOf (getPage t (pageNo .spr (halfIdx g))).err 19 = true) ∧
    (s.cfg.hasHalf h = true → ∀ r, r = .sram ∨ r = .core → exec (.railFall r h) s = .next (resetHalfOf (fell h s) h 2)) ∧
    (∀ k, k < 8 → s.cfg.hasHalf (stackHalf k) = true →
      exec (.railFall (.hbm k) h) s = .next (resetHalfOf (fell (stackHalf k) (loseStack s k)) (stackHalf k) 2) ∧
      ∀ a, (loseStack s k).mem.get 0 a = if stackOf s.cfg (a / 2 ^ 21) = k then 0 else s.mem.get 0 a)) ∧
  (∀ (s : State) (n : Nat), exec (.pgSbRise n) s = .next { s with pgSb := true, trigHigh := n % 16 }) ∧
  (∀ (s : State) (ppm : Nat), (ppm ≤ 1000 → exec (.clkFail ppm) s = .next s) ∧
    (1000 < ppm → Answers (.clkFail ppm) s fun t => bitOf (getPage t (pageNo .blk 0)).err 16 = true ∧ Monitored s t)) ∧
  ∀ (s : State) (port : Half) (data : Word), Reaches s port .blk 0 →
    ((∃ c ∈ s.sessions.cells, c.2.st ≠ .empty) →
      Answers (.blkPfa port data) s fun t => TurnedAway s t port (pageNo .blk 0) respState) ∧
    ((∀ c ∈ s.sessions.cells, c.2.st = .empty) → planeOf data.toNat = 15 →
      Answers (.blkPfa port data) s fun t => TurnedAway s t port (pageNo .blk 0) respOkay) ∧
    ((∀ c ∈ s.sessions.cells, c.2.st = .empty) → planeOf data.toNat ≠ 15 → exec (.blkPfa port data) s = .next (okay (setKreg s .blk 0 0x060 data) port))

/-! ### Trace, counters and sampling -/

/-- TRACE_DRAIN_REQUEST of a stream that asks raises one request with the LST of its oldest packet. DRAIN_FLIT moves packets in order, at
most 128 B or one, into the frames of the stream's channel: what leaves the stream the channel holds and counts in TRC_CH_GEN, and it keeps
to 64 frames. FRAME_SEAL pads the open frame. The oldest frame of a RING channel asks the stack channel of its place in the ring, once the
stack share covers it, and FRAME_RING_WRITE delivers it when its flits have been accepted. FRAME_COLLECTOR_SEND queues one OBS cell of KIND 4, or sets ROUTE_DOWN while the port is not ON.
TRACE_KEY_REPORT brings a tenant's channel to ON. DISCARD drops the frames of a STOPPING channel and counts their records lost; else it sets
ACCESS. REPORT actions send the report records, ask every stream for a drain, or fire a Gust: fixed, held by a Calm of the channel's half, or
missed and counted. GUST_FREEZE freezes every capturing stream of the channel at one FT; GUST_DRAIN_END returns a drained one. -/
def Obligations.TraceStreamsFramesAndGusts : Prop :=
  (∀ (s : State) (key : Nat), streamKnown key = true → keyHalf s key ∈ fittedHalves s.cfg →
    let h := keyHalf s key
    let x := getStream s key
    let c := Instr.traceDrainRequest key
    let asks := x.ask = true ∨ x.asks (shareOf s key) (kregFN s .funnel (halfIdx h) 0x040) (sixteenths (countOf s h)) = true
    (¬asks ∨ x.pkts = [] ∨ x.cap = .capturing ∨ x.granted = true ∨ anyReq s (fun r => decide (r.what = .drain key)) = true ∨
      keyChan s key = none ∨ pageRuns s .funnel (halfIdx h) = false → exec c s = .next s) ∧
    ∀ p l, asks → x.pkts = p :: l → x.cap ≠ .capturing → x.granted = false → anyReq s (fun r => decide (r.what = .drain key)) = false →
      (keyChan s key).isSome = true → pageRuns s .funnel (halfIdx h) = true → Answers c s fun t =>
        let input := arbKey .arbFunnel (halfIdx h) (streamInput key)
        (getArb t input).reqs = (getArb s input).reqs ++ [Req.fresh (streamSrc s key)
          (lstOf (p.stamp / 16 + kregFN s .funnel (halfIdx h) 0x044)) (streamPid s key) false 1 s.cyc (.drain key)] ∧
        (∀ k, k ≠ input → getArb t k = getArb s k) ∧ { t with arbs := s.arbs } = putStream s key { x with ask := true }) ∧
  (∀ (s : State) (key : Nat), streamKnown key = true → keyHalf s key ∈ fittedHalves s.cfg →
    let x := getStream s key
    let e := Instr.drainFlit key
    (x.granted = false → exec e s = .next s) ∧
    (x.granted = true → (∀ c, keyChan s key = some c → chanTakes s c = false) →
      exec e s = .next (putStream s key { x with granted := false })) ∧
    ∀ c, x.granted = true → keyChan s key = some c → chanTakes s c = true → Answers e s fun t => ∃ n,
      let moved := pktRecs (x.pkts.take n)
      let full (y : Channel) := y.frames.length + b2n y.cur.isSome ≤ 64
      (getStream t key).pkts = x.pkts.drop n ∧ (getStream t key).granted = false ∧
      (∀ p l, x.pkts = p :: l → (n = 0 ↔ putPacket s c key p = none)) ∧
      ((∀ p ∈ x.pkts, p.bytes ≠ []) → n ≤ 1 ∨ pktBytes (x.pkts.take n) ≤ 128) ∧
      (getChan t c).held = (getChan s c).held + moved ∧ (full (getChan s c) → full (getChan t c)) ∧
      kreg64 t .chan c 0x070 = (kreg64 s .chan c 0x070 + moved) % 2 ^ 64 ∧
      (∀ k, k ≠ key → getStream t k = getStream s k) ∧ (∀ d, d ≠ c → getChan t d = getChan s d) ∧
      RegsBut s t [regAddr .chan c 0x070, regAddr .chan c 0x074, regAddr .funnel (halfIdx (chanHalf c)) 0x04C] ∧
      Monitored { s with channels := t.channels, regs := t.regs } t) ∧
  (∀ (s : State) (h : Half) (n : Nat), h ∈ fittedHalves s.cfg → fires s h n = true → calmOn s h = false →
    let e := getEntry s h n
    let u := putEntry s h n e.fired
    let c := e.gustChan
    let x := getChan u c
    e.action = actReport →
      (e.atFunnel = false → e.reportKind = 1 → Answers (.reportWvAction h n) s fun t =>
        t.reports = u.reports.put h [] ∧ Monitored { u with reports := t.reports, repLost := t.repLost } t ∧
        ∀ r, u.reports.get h = [r] → kindAdmitted u (wvKey h r.pid r.chan) 3 = true →
          (getStream u (wvKey h r.pid r.chan)).gen < (getStream t (wvKey h r.pid r.chan)).gen ∧
          (unitLost t h ≤ unitLost s h → t.repLost.get 0 r.pid = 0)) ∧
      (e.atFunnel = true → e.reportKind = 1 → Answers (.reportDrainAction h n) s fun t =>
        (∀ k, getStream t k = if keyHalf u k = h ∧ (getStream u k).pkts ≠ [] then { getStream u k with ask := true } else getStream u k) ∧
        { t with streams := u.streams } = u) ∧
      (e.atFunnel = true → e.reportKind = 2 →
        (captures u c = false → exec (.gustFire h n) s = .next u) ∧
        (captures u c = true → x.frozen = true ∨ x.gust.isSome = true → Answers (.gustFire h n) s fun t =>
          let i := halfIdx (chanHalf c)
          kregN t .funnel i 0x04C = min (2 ^ 32 - 1) (kregN u .funnel i 0x04C + 1) ∧ bitOf (getPage t (pageNo .funnel i)).err 17 = true ∧
          RegsBut u t [regAddr .funnel i 0x04C] ∧ Monitored { u with regs := t.regs } t) ∧
        (captures u c = true → x.frozen = false → x.gust = none → exec (.gustFire h n) s = .next (putChan u c { x with
          gust := some (if calmOn u (chanHalf c) then ⟨0, e.due.getD 0, 0, true⟩ else ⟨0, e.due.getD 0,
            max (e.due.getD 0 + kregFN u .chan c 0x064) (ftNs u (chanHalf c) + ftuLead u (chanHalf c)), false⟩) })))) ∧
  (∀ (s : State) (key c : Nat), streamKnown key = true → keyHalf s key ∈ fittedHalves s.cfg → keyChan s key = some c →
    let h := keyHalf s key
    let x := getStream s key
    (x.cap = .frozen → x.pkts = [] → x.granted = false → Answers (.gustDrainEnd key) s fun t =>
      getStream t key = x.thaw (bitOf (kregF s .chan c 0x060) 1) (hasTime s h) (sixteenths (countOf s h)) ∧
      (getStream t key).cap = (if bitOf (kregF s .chan c 0x060) 1 then .capturing else .streaming) ∧
      (∀ k, k ≠ key → getStream t k = getStream s k) ∧
      getChan t c = { getChan s c with frozen := (getChan t c).frozen } ∧ (∀ d, d ≠ c → getChan t d = getChan s d) ∧
      ((getChan t c).frozen = false → ∀ k, k ≠ key → keyChan s k = some c → (getStream s k).cap ≠ .frozen) ∧
      Monitored { s with channels := t.channels } t) ∧
    (x.cap ≠ .frozen ∨ x.pkts ≠ [] ∨ x.granted = true → exec (.gustDrainEnd key) s = .next s)) ∧
  (∀ (s : State) (ch : Nat), ch < 64 → s.cfg.hasHalf (chanHalf ch) = true →
    let h := chanHalf ch
    let i := halfIdx h
    let x := getChan s ch
    let q := pageOwner s (pageNo .chan ch)
    (∀ f, x.cur = some f →
      let due := cycAgo s f.firstAt (kregFN s .funnel i 0x040) = true ∨ pageSt s .chan ch = .stopping
      (due → exec (.frameSeal ch) s = .next (putChan s ch { x with
        frames := x.frames ++ [⟨x.seq, f.body ++ List.replicate (232 - f.body.length) 0, f.body.length, x.lostSince, f.records, ftNs s h⟩]
        cur := none, seq := x.seq + 1, lostSince := 0 })) ∧
      (¬due → exec (.frameSeal ch) s = .next s)) ∧
    (x.cur = none → exec (.frameSeal ch) s = .next s) ∧
    (x.frames = [] ∨ x.asked = false ∨ useWaits s (.ring ch) = true → exec (.frameRingWrite ch) s = .next s) ∧
    (∀ f l, x.frames = f :: l → x.asked = true → useWaits s (.ring ch) = false → Answers (.frameRingWrite ch) s fun t =>
      getChan t ch = { x with frames := l, winRead := 0, asked := false } ∧ (∀ d, d ≠ ch → getChan t d = getChan s d) ∧
      kreg t .chan ch 0x05C = kreg s .chan ch 0x05C + 1 ∧
      kreg t .chan ch 0x098 = kreg s .chan ch 0x098 + (if kregFN s .chan ch 0x058 ≤ f.seq then 1 else 0) ∧
      kreg64 t .chan ch 0x078 = (kreg64 s .chan ch 0x078 + f.records) % 2 ^ 64 ∧
      Monitored { s with channels := t.channels, regs := t.regs } t ∧
      RegsBut s t [regAddr .chan ch 0x05C, regAddr .chan ch 0x078, regAddr .chan ch 0x07C, regAddr .chan ch 0x098]) ∧
    (ringWants s ch = none ∨ obsCovers s 256 = false → askRing s ch = s) ∧
    (∀ f prn off, ringWants s ch = some (f, prn, off) →
      translate s q (kregFN s .chan ch 0x050 + 2 ^ 32 * kregFN s .chan ch 0x054 + 256 * (f.seq % max 1 (kregFN s .chan ch 0x058))) =
        some (prn, off) ∧ x.frames.head? = some f ∧ chanRoute s ch = 1 ∧ x.asked = false ∧ calmOn s (regionHalf s.cfg prn) = false ∧
      (obsCovers s 256 = true →
        let t := askRing s ch
        let l := writeAsks (.ring ch) prn 2 off (frameBytes s ch f)
        let key := arbKey .arbStack (stackOf s.cfg prn) (channelOf s.cfg prn)
        getChan t ch = { x with asked := true } ∧ t.obsBucket + 256 * 75 = obsFill s ∧ (∀ k, k ≠ key → getArb t k = getArb s k) ∧
        kreg64 t .egress 0 0x048 = (kreg64 s .egress 0 0x048 + 256) % 2 ^ 64 ∧
        (getArb t key).reqs = (getArb s key).reqs ++ [Req.fresh (0x4C4 + halfIdx (regionHalf s.cfg prn))
          (lstOf (f.sealFt + kregFN s .funnel i 0x044)) q true l.length s.cyc (.mem l)])) ∧
    (∀ f l, x.frames = f :: l → chanRoute s ch = 2 → anyCell s (cellOf ch) = false →
      let p := chanPort s ch
      (pageIsOn s .port p = true → ∃ e : Cell,
        e.kind = 4 ∧ e.fmt = 0 ∧ e.cls = 3 ∧ e.pid = q ∧ e.pfa = chanPeer s ch ∧ e.handle = ch + 64 * (f.seq % 1024) ∧
        e.payload = frameBytes s ch f ∧ e.arg = frameTag s ch f ∧ e.lst = lstOf (f.sealFt + kregFN s .funnel i 0x044) ∧
        exec (.frameCollectorSend ch) s = .next (queueCell (putChan s ch { x with routeDown := false }) p (0x4C4 + i) e)) ∧
      (pageIsOn s .port p = false → x.routeDown = false → Answers (.frameCollectorSend ch) s fun t =>
        bitOf (getPage t (pageNo .chan ch)).err 18 = true ∧ Monitored (putChan s ch { x with routeDown := true }) t) ∧
      (pageIsOn s .port p = false → x.routeDown = true → exec (.frameCollectorSend ch) s = .next s)) ∧
    (q ≠ 0 → pageSt s .chan ch = .starting → ownerKeyed s q = true → (s.rtp.get h).booted = true → Answers (.traceKeyReport ch) s fun t =>
      let pg := pageNo .chan ch
      pageSt t .chan ch = .on ∧ (getChan t ch).keyed = true ∧ (q, chanPeer s ch) ∈ t.peers ∧ (∀ k ∈ t.kexs, k.sid ≠ 4096 + ch) ∧
      (∀ k, k ∈ chanTileStreams t ch ∨ (4096 ≤ k ∧ (s.streams.find k).isSome = true ∧ keyChan t k = some ch) →
        (getStream t k).sync = some 7) ∧
      PageMoved { s with peers := t.peers } t pg { getPage s pg with st := .on }) ∧
    (q = 0 ∨ pageSt s .chan ch ≠ .starting ∨ ownerKeyed s q = false ∨ (s.rtp.get h).booted = false →
      exec (.traceKeyReport ch) s = .next s) ∧
    (∀ g, x.gust = some g →
      let due := g.held = false ∧ hasTime s h = true ∧ g.freeze * 2304 ≤ countOf s h
      let capturing (k : Nat) : Prop := k ∈ chanTileStreams s ch ∧
        ((getStream s k).cap = .capturing ∨ (s.streams.find k = none ∧ captures s ch = true))
      (¬due → exec (.gustFreeze ch) s = .next s) ∧
      (due → Answers (.gustFreeze ch) s fun t =>
        (∀ k, capturing k → getStream t k =
          (getStream s k).freeze g (hasTime s (keyHalf s k)) (sixteenths (countOf s (keyHalf s k))) ∧ (getStream t k).cap = .frozen) ∧
        (∀ k, ¬capturing k → getStream t k = getStream s k) ∧
        getChan t ch = { x with gust := none, frozen := (getChan t ch).frozen } ∧ ((getChan t ch).frozen = true ↔ ∃ k, capturing k) ∧
        Monitored { s with channels := t.channels } t))) ∧
  ∀ (s : State) (port : Half) (ch : Nat), Reaches s port .chan ch →
    let x := getChan s ch
    let stays := if cellBegun s ch || ringBegun s ch then x.frames.take 1 else []
    let n := x.held - (stays.map (·.records)).foldl (· + ·) 0
    (pageSt s .chan ch ≠ .stopping → exec (.discard port ch) s = .next (okay (accessErr s .chan ch) port)) ∧
    (pageSt s .chan ch = .stopping → Answers (.discard port ch) s fun t =>
      getChan t ch = { x with frames := stays, cur := none, lostSince := x.lostSince + n, winRead := 0, asked := ringBegun s ch } ∧
      (∀ d, d ≠ ch → getChan t d = getChan s d) ∧ kreg64 t .chan ch 0x080 = (kreg64 s .chan ch 0x080 + n) % 2 ^ 64 ∧
      (n ≠ 0 → bitOf (getPage t (pageNo .chan ch)).err 16 = true) ∧
      Monitored { okay s port with arbs := t.arbs, channels := t.channels, regs := t.regs } t)

/-- INTERVAL at an ON bank whose closed parity has retired ends its interval with the cycle; a second in the cycle, one while the closed
parity is pending, and one at a bank that is STOPPING are refused and counted; at an OFF bank it does nothing. At the cycle's end the open
interval closes with its number, its opening and closing FT and its counts, with those of tiles it governed before, and the next opens
from zero, in the bank and in the tiles it governs. COUNTER_DRAIN_DONE retires the closed parity: with ROUTE NONE in a later cycle than it
closed in, with RING once the memory has accepted the last line of its record, for whose lines the bank asks in order as the stack share
covers them, with REPORT as one record; a bank that is STOPPING then makes its final boundary. PC_SAMPLE at a due instant puts a PC
record into every stream that admits one and counts, or without time is skipped and counted. MITTEN_COPY takes the open counts of every
bank of the half and of each tenant's tiles. -/
def Obligations.IntervalsDrainsAndSamples : Prop :=
  (∀ (s : State) (h : Half) (n b : Nat), h ∈ fittedHalves s.cfg → fires s h n = true → (getEntry s h n).action = actInterval →
    pageOf (getEntry s h n).page = some (.bank, b) →
    let pg := (getEntry s h n).page
    let u := putEntry s h n (getEntry s h n).fired
    let c := Instr.intervalAction h n
    let x := getBank u b
    let twice := bankPending u b = true ∨ (pg, true) ∈ u.ends
    (pageSt u .bank b = .off ∨ pageSt u .bank b = .starting → exec c s = .next u) ∧
    (pageSt u .bank b = .stopping ∨ (pageSt u .bank b = .on ∧ twice) → Answers c s fun t =>
      kregN t .bank b 0x064 = min (2 ^ 32 - 1) (kregN u .bank b 0x064 + 1) ∧ bitOf (getPage t (pageNo .bank b)).err 16 = true ∧
      RegsBut u t [regAddr .bank b 0x064] ∧
      Monitored { putBank u b { x with refusedHere := x.refusedHere + 1 } with regs := t.regs } t) ∧
    (pageSt u .bank b = .on → ¬twice → exec c s = .next { u with ends := u.ends ++ [(pg, true)] })) ∧
  (∀ (s : State) (pg b : Nat), pageOf pg = some (.bank, b) →
    let u := { s with ends := [] }
    let x := getBank s b
    (s.ends = [(pg, true)] → endCycle s = closeInterval u pg) ∧
    (pageSt s .bank b = .on → closeInterval s pg = boundary s b false) ∧
    (pageSt s .bank b = .stopping → x.stopping = false →
      closeInterval s pg = putBank (boundary s b true) b { getBank (boundary s b true) b with stopping := true }) ∧
    ∀ final : Bool,
      let t := boundary s b final
      (∃ r, (getBank t b).closed = some r ∧ (getBank t b).kept = some r ∧ r.iseq = kregN s .bank b 0x054 ∧
        r.ftOpen = kreg64 s .bank b 0x058 ∧ r.ftClose = ftNs s (bankHalf b) ∧ r.refused = x.refusedHere ∧ r.cyc = s.cyc ∧
        r.final = final ∧ r.written = 0 ∧ r.ctrs = (List.range 16).map (fun k => x.ctrs.get 0 k) ∧
        ∀ e, e ∈ r.tiles ↔ e ∈ x.former ∨
          ∃ g ∈ governed s b, e = (g.1, g.2, decide ((getTile s g.2).lull ≠ .awake), sixteen (getTile s g.2).ctrs)) ∧
      (getBank t b).ctrs = .empty ∧ (getBank t b).former = [] ∧ (getBank t b).par = 1 - x.par ∧ (getBank t b).refusedHere = 0 ∧
      kregN t .bank b 0x054 = (kregN s .bank b 0x054 + 1) % 2 ^ 32 ∧
      kreg64 t .bank b 0x058 = nextCycleFt s (bankHalf b) % 2 ^ 64 ∧
      (∀ g ∈ governed s b, (getTile t g.2).ctrs = .empty) ∧ (∀ k, getTile t k = { getTile s k with ctrs := (getTile t k).ctrs }) ∧
      (∀ d, d ≠ b → getBank t d = getBank s d) ∧ RegsBut s t [regAddr .bank b 0x054, regAddr .bank b 0x058, regAddr .bank b 0x05C] ∧
      { t with banks := s.banks, regs := s.regs, tiles := s.tiles } = s) ∧
  (∀ (s : State) (b : Nat), b < 64 → s.cfg.hasHalf (bankHalf b) = true →
    let c := Instr.counterDrainDone b
    let x := getBank s b
    let q := bankOwner s b
    let pg := pageNo .bank b
    let ending := pageSt s .bank b = .stopping ∧ x.stopping = false ∧ (pg, true) ∉ s.ends
    let retires (u : State) : State := if ending then { u with ends := s.ends ++ [(pg, true)] } else u
    (x.closed = none → exec c s = .next s ∧ askDrain s b = s) ∧
    ∀ r, x.closed = some r →
      let slots := max 1 (kregFN s .bank b 0x050)
      let place := kregFN s .bank b 0x048 + 2 ^ 32 * kregFN s .bank b 0x04C +
        r.iseq % slots * slotStride (fieldOf (kregF s .bank b 0x040) 20 10)
      let l := recordBytes s b r
      let lines := (l.length + 63) / 64
      (bankRoute s b = 0 → r.cyc = s.cyc → exec c s = .next s) ∧
      (bankRoute s b = 0 → r.cyc ≠ s.cyc → exec c s = .next (retires (putBank s b { x with closed := none }))) ∧
      (bankRoute s b = 1 → r.written < lines ∨ useWaits s (.drain b) = true → exec c s = .next s) ∧
      (bankRoute s b = 1 → lines ≤ r.written → useWaits s (.drain b) = false → Answers c s fun t =>
        kreg t .bank b 0x068 = kreg s .bank b 0x068 + 1 ∧
        kreg t .bank b 0x06C = kreg s .bank b 0x06C + (if slots ≤ r.iseq then 1 else 0) ∧
        RegsBut s t [regAddr .bank b 0x068, regAddr .bank b 0x06C] ∧
        { t with regs := s.regs } = retires (putBank s b { x with closed := none })) ∧
      (bankRoute s b = 2 → Answers c s fun t =>
        let key := unitKey 0x00D (if q = 0 then none else some q)
        getBank t b = { x with ctrs := (getBank t b).ctrs, closed := none } ∧
        kreg t .bank b 0x068 = kreg s .bank b 0x068 + (if kindAdmitted s key 3 then 1 else 0) ∧
        (kindAdmitted s key 3 = true → (getStream s key).gen < (getStream t key).gen) ∧
        t.ends = (retires s).ends ∧
        RegsBut s t [regAddr .bank b 0x068] ∧ Monitored { s with banks := t.banks, ends := t.ends, regs := t.regs } t) ∧
      ∀ prn off, translate s q (place + 64 * r.written) = some (prn, off) →
        let m := min (min (lines - r.written) (32 - off / 64 % 32)) (obsFill s / 4800)
        let asks := bankRoute s b = 1 ∧ m ≠ 0 ∧ useWaits s (.drain b) = false ∧ calmOn s (bankHalf b) = false
        let a := writeAsks (.drain b) prn 16 off (takeBytes (64 * m) (l.drop (64 * r.written)))
        let key := arbKey .arbStack (stackOf s.cfg prn) (channelOf s.cfg prn)
        let t := askDrain s b
        (¬asks → t = s) ∧
        (asks → getBank t b = { x with closed := some { r with written := r.written + m } } ∧ t.obsBucket + 64 * m * 75 = obsFill s ∧
          kreg64 t .egress 0 0x048 = (kreg64 s .egress 0 0x048 + 64 * m) % 2 ^ 64 ∧ (∀ k, k ≠ key → getArb t k = getArb s k) ∧
          (getArb t key).reqs = (getArb s key).reqs ++ [Req.fresh (0x4C6 + halfIdx (bankHalf b))
            (lstOf (ftNs s (bankHalf b) + kregFN s .funnel (halfIdx (bankHalf b)) 0x044)) q true a.length s.cyc (.mem a)])) ∧
  ∀ (s : State) (h : Half), h ∈ fittedHalves s.cfg →
    let i := halfIdx h
    let p := Instr.pcSample h
    let m := Instr.mittenCopy h
    (pcDue s h = none → exec p s = .next s) ∧
    (∀ a, pcDue s h = some a → a ≤ ftNs s h ∧
      (hasTime s h = true → Answers p s fun t =>
        t.pcLast = s.pcLast.put h a ∧ kreg64 t .prf i 0x050 = (kreg64 s .prf i 0x050 + 1) % 2 ^ 64 ∧
        (∀ k o, k ∈ tilesUp s h → kindAdmitted s (tileKey k o) 0 = true →
          (getStream s (tileKey k o)).gen < (getStream t (tileKey k o)).gen) ∧
        RegsBut s t [regAddr .prf i 0x050, regAddr .prf i 0x054] ∧ Monitored { s with pcLast := t.pcLast, regs := t.regs } t) ∧
      (hasTime s h = false → Answers p s fun t =>
        t.pcLast = s.pcLast.put h a ∧ kregN t .prf i 0x058 = min (2 ^ 32 - 1) (kregN s .prf i 0x058 + 1) ∧
        bitOf (getPage t (pageNo .prf i)).err 16 = true ∧ RegsBut s t [regAddr .prf i 0x058] ∧
        Monitored { s with pcLast := t.pcLast, regs := t.regs } t)) ∧
    (∀ a, lastInstant (ftNs s h) 0 (kregFN s .prf i 0x04C) = some a →
      (hasTime s h = false ∨ pageIsOn s .prf i = false ∨ a = s.mitLast.get h → exec m s = .next s) ∧
      (hasTime s h = true → pageIsOn s .prf i = true → a ≠ s.mitLast.get h → Answers m s fun t =>
        t.mitLast = s.mitLast.put h a ∧
        (∀ b, getBank t b = if bankHalf b = h then { getBank s b with mitten := (getBank s b).ctrs } else getBank s b) ∧
        (∀ k j, keysRise s.tiles.cells = true → tileHalf k = h → tileOwner s k ≠ 0 → j < 16 →
          t.mitTile.get 0 (16 * k + j) = (getTile s k).ctrs.get 0 j) ∧
        (∀ k, tileHalf (k / 16) ≠ h → t.mitTile.get 0 k = s.mitTile.get 0 k) ∧
        { t with banks := s.banks, mitLast := s.mitLast, mitRegs := s.mitRegs, mitTile := s.mitTile } = s))

/-! ### The Calm -/

/-- CALM_ACTION on an ON page with no Calm in force begins one in each half of the plan's scope, with T, E and the plan's resume, the
unsent cells and the waits of that cycle, and every stream says so; else it is counted as ignored. CAPTURE_END at E counts the open credits
and takes the tile, session and arbiter records, of 160, 64 and 32 B. MEM_QUIET and DUMP_SEAL record what they name. A command that ends the
Calm is refused with the first reason of R421, or stands for the half, and on a block Calm for both. RESUME fires the held actions, moves
the session timers by D, acts on held GOs and messages in order, and lets ports, sessions, tiles and Gusts go on. ABANDON cancels
held actions, reports live parities as failed, fails the epochs, stops the programs and ends the fill command with status CALM. A live
wait-for capture replaces the store; a hang report leaves as one packet and one more for every nine entries. -/
def Obligations.CalmsBeginAndEnd : Prop :=
  (∀ (s : State) (h : Half) (n i : Nat), h ∈ fittedHalves s.cfg → fires s h n = true → (getEntry s h n).action = actCalm →
    pageOf (getEntry s h n).page = some (.calm, i) →
    let e := getEntry s h n
    let u := putEntry s h n e.fired
    let scope := calmScope u (halfOf i) e.arg
    let start := e.due.getD 0
    let blocked := pageIsOn u .calm i = false ∨ ∃ g ∈ scope, calmOn u g = true
    scope = (if e.arg % 2 = 1 ∧ u.cfg.halfB = true ∧ inSplit u = false then [Half.a, .b].filter fun g => u.ready.get g
      else [halfOf i]) ∧
    (blocked → Answers (.calmAction h n) s fun t =>
      kregN t .calm i 0x080 = min (2 ^ 32 - 1) (kregN u .calm i 0x080 + 1) ∧ bitOf (getPage t (pageNo .calm i)).err 19 = true ∧
      RegsBut u t [regAddr .calm i 0x080] ∧ Monitored { u with regs := t.regs } t) ∧
    (¬blocked → Answers (.calmAction h n) s fun t =>
      (∀ g ∈ scope,
        let c := t.calm.get g
        let us (hi lo : Nat) : Nat := bitsOf e.arg hi lo
        c.st = .capture ∧ c.t = start ∧ c.e = start + 1000 * (if us 15 8 = 0 then 20 else us 15 8) ∧ c.plan = e.arg ∧
        c.block = decide (scope.length = 2) ∧ c.cmd = (if us 31 16 = 0 then none else some (1, start + 1000 * us 31 16)) ∧
        c.quiet = none ∧ c.dumped = false ∧ c.openCredits = 0 ∧ c.inCut = [] ∧ c.outside = [] ∧ c.unsent = unsentCells u g ∧
        c.store = (u.calm.get g).store ∧ c.wfCut = true ∧ c.wfFt = start ∧ (scope = [g] → c.wf = (allWaits u g).take 65536) ∧
        kreg t .calm (halfIdx g) 0x068 = kreg u .calm (halfIdx g) 0x068 + 1 ∧
        ∀ k ∈ halfStreams u g, (getStream u k).gen < (getStream t k).gen) ∧
      (∀ g, g ∉ scope → t.calm.get g = u.calm.get g) ∧ Monitored { u with calm := t.calm, regs := t.regs } t)) ∧
  (∀ (s : State) (h : Half), s.cfg.hasHalf h = true →
    let c := s.calm.get h
    let i := halfIdx h
    (c.st ≠ .capture ∨ countOf s h < c.e * 2304 → exec (.captureEnd h) s = .next s) ∧
    (c.st = .capture → c.e * 2304 ≤ countOf s h → Answers (.captureEnd h) s fun t =>
      let d := t.calm.get h
      d = { c with st := .stopped, openCredits := openCreditsOf s h c.t, tileRecs := d.tileRecs, sesRecs := d.sesRecs, arbRecs := d.arbRecs } ∧
      d.tileRecs.length = (tilesUp s h).length ∧ (∀ r ∈ d.tileRecs, r.length = 160) ∧
      d.sesRecs.length = (runningSessions s h).length ∧ (∀ r ∈ d.sesRecs, r.length = 64) ∧
      d.arbRecs.length = (busyTargets s h).length ∧ (∀ r ∈ d.arbRecs, r.length = 32) ∧
      t.calm.get (otherHalf h) = s.calm.get (otherHalf h) ∧
      (openCreditsOf s h c.t ≠ 0 → bitOf (getPage t (pageNo .calm i)).err 17 = true) ∧ Monitored { s with calm := t.calm } t) ∧
    (let quiet := c.st ≠ .idle ∧ c.quiet = none ∧ stackBusy s h = false
     (quiet → exec (.memQuiet h) s = .next (onCalm s h fun c => { c with quiet := some (ftOrOnes s h) })) ∧
     (¬quiet → exec (.memQuiet h) s = .next s)) ∧
    (let seals := c.t ≠ 2 ^ 64 - 1 ∧ c.st ≠ .capture ∧ c.quiet ≠ none ∧ c.dumped = false ∧ (s.rtp.get h).booted = true
     (seals → exec (.dumpSeal h) s = .next (onCalm s h fun c => { c with dumped := true })) ∧
     (¬seals → exec (.dumpSeal h) s = .next s)) ∧
    (let asked := c.assemble = true ∧ (s.rtp.get h).booted = true
     let g := hangGraph c.wf
     let key := unitKey (6 + i) none
     (¬asked → exec (.hangReport h) s = .next s) ∧
     (asked → (s.rtp.get h).deferring = true → exec (.hangReport h) s = .next (onCalm s h fun c => { c with deferred := true })) ∧
     (asked → (s.rtp.get h).deferring = false → Answers (.hangReport h) s fun t =>
       t.calm = s.calm.put h { c with assemble := false, deferred := false, reports := c.reports + 1 } ∧
       (∀ l ∈ g.entries, l.length = 24) ∧
       (kindAdmitted s key 3 = true → (getStream s key).gen + 1 + (g.entries.length + 8) / 9 ≤ (getStream t key).gen) ∧
       Monitored { s with calm := t.calm } t)) ∧
    (calmDue s h 1 = none → exec (.calmResume h) s = .next s) ∧
    (∀ f, calmDue s h 1 = some f →
      let stamp := if c.late then ftNs s h else f
      let d := stamp - c.t
      let u := leaveCalm s h
      let fired := (heldEntries u h).foldl (fun v n => fireHeld v h n) u
      let moved := shiftTimers fired h d
      let served := drainPorts (c.store.foldl fromStore (c.gos.foldl actGo moved)) h
      c.cmd = some (1, f) ∧ f * 2304 ≤ countOf s h ∧
      (u.calm.get h).st = .idle ∧ (u.calm.get h).cmd = none ∧ (u.calm.get h).store = [] ∧ (u.calm.get h).gos = [] ∧
      (c.late = true → bitOf (getPage u (pageNo .calm i)).err 21 = true) ∧
      (∀ sid p,
        let x := getSes fired sid
        let e := x.ep p
        (getSes moved sid).ep p = if x.st ≠ .empty ∧ x.home = h ∧ e.live = true then { e with shift := e.shift + d, doneAt := e.doneAt + d } else e) ∧
      (∀ n, n < 1024 → (getEntry s h n).st = .held → heldInCalm (getEntry s h n).action = true → n ∈ heldEntries u h) ∧
      exec (.calmResume h) s = .next (calmPackets (resumeGusts (wakeHeld (reactAll (grantPorts served h) h) h) h) h 1 stamp c.plan)) ∧
    (calmDue s h 2 = none → exec (.calmAbandon h) s = .next s) ∧
    ∀ f, calmDue s h 2 = some f →
      let stamp := if c.late then ftNs s h else f
      let u := leaveCalm s h
      let discarded := (u.tiles.cells.map (·.1)).foldl (fun v t => abandonTile v h t) u
      let failed := (sessionsOf discarded h).foldl abandonSession discarded
      let voided := voidGroups failed fun g => decide ((getSes failed g.sid).home = h) && epochLive s g.sid g.epoch
      let v := cancelHeld (satReg voided .calm i 0x07C c.store.length) h
      let w := dropGusts (abandonFill (stopPrograms (c.gos.foldl refuseGo (abandonCopy v h)) h) h) h
      c.cmd = some (2, f) ∧ (u.calm.get h).st = .idle ∧ (u.calm.get h).store = [] ∧
      (∀ n, n < 1024 → (getEntry voided h n).st = .held → heldInCalm (getEntry voided h n).action = true →
        (getEntry v h n).st = .cancelled) ∧
      ((s.fill.get h).op ≠ none → (w.fill.get h).op = none) ∧
      (∀ k g, (getChan w k).gust = some g → g.held = true → chanHalf k ≠ h) ∧
      (∀ k, k ∈ tilesUp w h → (getTile w k).prog = .running → (getTile w k).stopped = true) ∧
      exec (.calmAbandon h) s = .next (calmPackets (wakeHeld (reactAll (grantPorts (drainPorts w h) h) h) h) h 2 stamp c.plan)) ∧
  ∀ (s : State) (port h : Half), Reaches s port .calm (halfIdx h) →
    let c := s.calm.get h
    let o := otherHalf h
    let i := halfIdx h
    let runs := pageRuns s .calm i = true
    let assemble := Instr.wfAssemble port h
    (¬runs → exec (.wfTake port h) s = .next (okay (accessErr s .calm i) port) ∧ exec assemble s = .next (okay (accessErr s .calm i) port)) ∧
    (runs → exec assemble s = .next (okay (onCalm s h fun c => { c with assemble := true }) port)) ∧
    (runs → Answers (.wfTake port h) s fun t =>
      let l := allWaits s h
      t.calm = s.calm.put h { c with wfCut := false, wfFt := ftOrOnes s h, wf := l.take 65536 } ∧
      kregN t .calm i 0x08C = min (2 ^ 32 - 1) (kregN s .calm i 0x08C + (l.length - 65536)) ∧
      (65536 < l.length → bitOf (getPage t (pageNo .calm i)).err 18 = true) ∧
      RegsBut s t [regAddr .calm i 0x08C] ∧ Monitored { okay s port with calm := t.calm, regs := t.regs } t) ∧
    ∀ (a : Instr) (kind : Nat), (a, kind) ∈ [(Instr.calmResumeCmd port h, 1), (.calmAbandonCmd port h, 2)] →
      let ft := kreg64 s .calm i 0x048
      let soon := ftNs s h + ftuLead s h
      let wrote := okay (setKreg s .calm i 0x044 (BitVec.ofNat 32 kind)) port
      let refused (reason : Nat) : Prop := Answers a s fun t =>
        bitOf (getPage t (pageNo .calm i)).err 20 = true ∧ bitOf (getPage t (pageNo .calm i)).err 2 = true ∧
        Monitored { wrote with calm := s.calm.put h { c with lastRefusal := reason } } t
      let late := ∃ k f, c.cmd = some (k, f) ∧ f < soon
      (c.st = .idle → refused 1) ∧
      (c.st ≠ .idle → ft < c.e → refused 2) ∧
      (c.st ≠ .idle → c.e ≤ ft → ft < soon → refused 3) ∧
      (c.st ≠ .idle → c.e ≤ ft → soon ≤ ft → late → refused 5) ∧
      (c.st ≠ .idle → c.e ≤ ft → soon ≤ ft → ¬late → Answers a s fun t =>
        t.calm.get h = { c with cmd := some (kind, ft) } ∧
        t.calm.get o = (if c.block = true ∧ (s.calm.get o).st ≠ .idle ∧ (s.calm.get o).block = true
          then { s.calm.get o with cmd := some (kind, ft) } else s.calm.get o) ∧
        { t with calm := s.calm } = wrote)

/-! ### Spares and wear -/

/-- LANE_ERROR counts in its lane's two wear counts, and WEAR is set when the day's count reaches SPR_TH_LANE. WEAR_DAY_RESET zeroes the
half's per-day counts once per day. SRAM_ROW_REPAIR uses one of four spare rows of its bank, or sets NO_SPARE. REPAIR_FUSE_WRITE uses
one of 256 entries, or sets FUSE_FULL. TILE_SWAP is refused with BUSY, ARG or NO_SPARE, or is PENDING with the spare named or the nearest in
column; a tile whose page is OFF is swapped at once. SWAP_WINDOW, with the tile at rest and no Calm, freezes the old tile and begins to
copy. NO_WINDOW abandons the swap after SPR_WINDOW_NS. SWAP_COMMIT, when all has been copied and the conditions of R78 still hold, moves
the logical number: the new tile takes the old one's state, page and registers, or with DISCARD its bindings alone, and the old page is
OFF and RETIRED. SR_SWAP and FRAME_SWAP name a unit, which is replaced once it holds nothing. -/
def Obligations.WearSparesAndSwaps : Prop :=
  (∀ (s : State) (p lane : Nat) (fixed : Bool), p < 64 → lane < 19 → portFitted s p = true →
    let k := wearKey 7 (32 * p + lane)
    let i := halfIdx (portHalf p)
    let day := s.wearDay.get 0 k
    Answers (.laneError p lane fixed) s fun t =>
      t.wearLife.get 0 k = s.wearLife.get 0 k + 1 ∧ t.wearDay.get 0 k = day + 1 ∧
      (∀ j, j ≠ k → t.wearLife.get 0 j = s.wearLife.get 0 j ∧ t.wearDay.get 0 j = s.wearDay.get 0 j) ∧
      (day + 1 = kregN s .spr i 0x078 → bitOf (getPage t (pageNo .spr i)).err 16 = true ∧
        t.autoQueue = s.autoQueue ++ if autoOn s (portHalf p) 7 then wearActions 7 (32 * p + lane) else []) ∧
      (day + 1 ≠ kregN s .spr i 0x078 → t.pages = s.pages ∧ t.autoQueue = s.autoQueue) ∧ Monitored (worn s t) t) ∧
  (∀ (s : State) (h : Half), s.cfg.hasHalf h = true →
    let i := halfIdx h
    let day := ftNs s h / 86400000000000
    let n := s.fuseQueue.get h
    (hasTime s h = false ∨ day = s.wearDayNo.get h → exec (.wearDayReset h) s = .next s) ∧
    (hasTime s h = true → day ≠ s.wearDayNo.get h → Answers (.wearDayReset h) s fun t =>
      (∀ k, t.wearDay.get 0 k = if wearHalf s (k / 2 ^ 40) (k % 2 ^ 40) = h then 0 else s.wearDay.get 0 k) ∧
      { t with wearDay := s.wearDay } = { s with wearDayNo := s.wearDayNo.put h day }) ∧
    (n = 0 ∨ (s.rtp.get h).booted = false → exec (.repairFuseWrite h) s = .next s) ∧
    (n ≠ 0 → (s.rtp.get h).booted = true → s.fuseUsed.get h < 256 → exec (.repairFuseWrite h) s = .next
      { s with fuseQueue := s.fuseQueue.put h (n - 1), fuseUsed := s.fuseUsed.put h (s.fuseUsed.get h + 1) }) ∧
    (n ≠ 0 → (s.rtp.get h).booted = true → 256 ≤ s.fuseUsed.get h → Answers (.repairFuseWrite h) s fun t =>
      bitOf (getPage t (pageNo .spr i)).err 18 = true ∧
      Monitored { s with fuseQueue := s.fuseQueue.put h (n - 1), fuseFull := s.fuseFull.put h true } t)) ∧
  (∀ (s : State) (t bank row : Nat), tileFitted s t = true → bank < 16 → row < 512 →
    let n := s.rowsUsed.get 0 (16 * t + bank)
    let h := tileHalf t
    (n < 4 → banksTaken s t [bank] = true → exec (.sramRowRepair t bank row) s = .next s) ∧
    (n < 4 → banksTaken s t [bank] = false → exec (.sramRowRepair t bank row) s = .next (repaired
      { s with rowsUsed := s.rowsUsed.put 0 (16 * t + bank) (n + 1)
               bankUse := s.bankUse.set (16 * t + bank) (8 * (s.cyc + 1) + bankRepair) } h)) ∧
    (4 ≤ n → Answers (.sramRowRepair t bank row) s fun u =>
      bitOf (getPage u (pageNo .spr (halfIdx h))).err 17 = true ∧
      u.autoQueue = s.autoQueue ++ (if autoOn s h 1 then [(1, t)] else []) ∧ Monitored { s with autoQueue := u.autoQueue } u)) ∧
  (∀ (s : State) (port h : Half), Reaches s port .spr (halfIdx h) →
    let i := halfIdx h
    let a := kreg s .spr i 0x044
    let arg := fieldOf a 9 0
    let wrote (cmd : Nat) := setKreg s .spr i 0x040 (BitVec.ofNat 32 cmd)
    let refused (c : Instr) (cmd reason lt : Nat) : Prop := Answers c s fun t =>
      kregN t .spr i 0x048 = 5 + 256 * reason + 65536 * lt ∧ bitOf (getPage t (pageNo .spr i)).err 2 = true ∧
      RegsBut (okay (wrote cmd) port) t [regAddr .spr i 0x048] ∧ Monitored { okay (wrote cmd) port with regs := t.regs } t
    (pageRuns s .spr i = false → ∀ d, ∀ q ∈ [(Instr.tileSwap port h d, 1 + 16 * b2n d), (.srSwap port h, 2), (.frameSwap port h, 3)],
      exec q.1 s = .next (okay (accessErr (wrote q.2) .spr i) port)) ∧
    (pageRuns s .spr i = true →
      (∀ d,
        let c := Instr.tileSwap port h d
        let cmd := 1 + 16 * b2n d
        let named := bitOf a 27 = true
        let n := fieldOf a 26 16
        let misfit := physOf s arg = none ∨ arg / 512 ≠ i ∨ (named ∧ n ∉ spareTiles s h)
        (s.swaps.get h ≠ none → refused c cmd 3 arg) ∧
        (s.swaps.get h = none → misfit → refused c cmd 6 arg) ∧
        (s.swaps.get h = none → ¬misfit → ¬named → spareTiles s h = [] → refused c cmd 2 arg ∧
          Answers c s fun t => bitOf (getPage t (pageNo .spr i)).err 17 = true) ∧
        (∀ old, s.swaps.get h = none → ¬misfit → named ∨ spareTiles s h ≠ [] → physOf s arg = some old →
          ∃ new, (named → new = n) ∧ new ∈ spareTiles s h ∧
            (¬named → ∀ x ∈ spareTiles s h, colDist old new < colDist old x ∨ (colDist old new = colDist old x ∧ new ≤ x)) ∧
            let w : Swap := ⟨arg, old, new, d, false, none, 0, 0⟩
            (pageSt s .tile old ≠ .off →
              exec c s = .next (okay (sprStatus { wrote cmd with swaps := s.swaps.put h (some w) } h 1 0 arg) port)) ∧
            (pageSt s .tile old = .off → old < 1088 → (tileMap s old).role = 0 →
              ∃ v, SwapDone (wrote cmd) v h w false ∧ exec c s = .next (okay (releaseStarts v arg d) port)))) ∧
      (let c := Instr.srSwap port h
       let fits := arg ∈ srsOf s.cfg h ∧ srRoleOf s arg = 0
       (¬fits → refused c 2 6 0) ∧ (fits → arg ∈ s.srSwap → refused c 2 3 0) ∧
       (fits → arg ∉ s.srSwap → exec c s = .next (okay (sprStatus { wrote 2 with srSwap := s.srSwap ++ [arg] } h 1 0 0) port))) ∧
      (let c := Instr.frameSwap port h
       let fits := arg < 64 ∧ chanHalf arg = h
       (¬fits → refused c 3 6 0) ∧ (fits → arg ∈ s.frameSwaps → refused c 3 3 0) ∧
       (fits → arg ∉ s.frameSwaps → s.frameSpares.get h = 0 → refused c 3 2 0) ∧
       (fits → arg ∉ s.frameSwaps → s.frameSpares.get h ≠ 0 →
         exec c s = .next (okay (sprStatus { wrote 3 with frameSwaps := s.frameSwaps ++ [arg] } h 1 0 0) port))))) ∧
  (∀ (s : State) (h : Half), s.cfg.hasHalf h = true →
    let i := halfIdx h
    (s.swaps.get h = none → ∀ c ∈ [Instr.swapWindow h, .noWindow h, .swapCommit h], exec c s = .next s) ∧
    ∀ w, s.swaps.get h = some w →
      let x := getTile s w.old
      let rests := x.anyBind (fun v => v.eps.a.live || v.eps.b.live) = false ∧ x.rxHeld = 0 ∧ x.moves.cells = [] ∧ calmOn s h = false
      (w.copying = true ∨ ¬rests → exec (.swapWindow h) s = .next s) ∧
      (w.copying = false → rests → Answers (.swapWindow h) s fun t =>
        t.swaps = s.swaps.put h (some { w with copying := true }) ∧ kregN t .spr i 0x048 = (2 + 65536 * w.lt) % 2 ^ 32 ∧
        (getPage t (pageNo .tile w.old)) = { getPage s (pageNo .tile w.old) with freeze := true } ∧
        (∀ k, x.lull = .asleep k → calmOn s (tileHalf w.old) = false → (getTile t w.old).lull = .waking k) ∧
        (∀ n, n ≠ w.old → getTile t n = getTile s n) ∧ (getTile t w.old).own = x.own ∧
        (∀ pg, pg ≠ pageNo .tile w.old → getPage t pg = getPage s pg) ∧ RegsBut s t [regAddr .spr i 0x048] ∧
        { t with pages := s.pages, regs := s.regs, streams := s.streams, sumCyc := s.sumCyc, sumSeq := s.sumSeq, swaps := s.swaps
                 tiles := s.tiles } = s) ∧
      (w.copying = true ∨ calmOn s h = true ∨ w.heldAt = none → exec (.noWindow h) s = .next s) ∧
      (∀ f, w.heldAt = some f → w.copying = false → calmOn s h = false →
        (ftNs s h < f + kregFN s .spr i 0x050 → exec (.noWindow h) s = .next s) ∧
        (f + kregFN s .spr i 0x050 ≤ ftNs s h → exec (.noWindow h) s = .next
          (raiseK (releaseStarts (sprStatus (dropFlits { s with swaps := s.swaps.put h none } fun
            | .swap g _ => decide (g = h)
            | _ => false) h 4 1 w.lt) w.lt false) .spr i 20))) ∧
      let ready := w.copying = true ∧ rests ∧ (x.prog = .none ∨ (getPage s (pageNo .tile w.old)).freeze = true) ∧
        (w.discard = true ∨ swapFlits ≤ w.came)
      (¬ready → exec (.swapCommit h) s = .next s) ∧
      (ready → w.old ≠ w.new → w.old < 1088 → w.new < 1088 → ∃ v : State,
        exec (.swapCommit h) s = .next (releaseStarts v w.lt w.discard) ∧ SwapDone s v h w (!w.discard) ∧
        ((∀ q ∈ s.heldStarts, q.1 ≠ w.lt) → releaseStarts v w.lt w.discard = v))) ∧
  (∀ (s : State) (sr : Nat), sr < kindCount .wvSr → sr < s.cfg.srPages →
    let h := (kindHalf s.cfg .wvSr sr).getD .a
    let gone := { s with srSwap := s.srSwap.filter (· ≠ sr), srRole := s.srRole.set sr 2 }
    let left := (srsOf s.cfg h).filter fun r => decide (srRoleOf gone r = 1)
    (sr ∉ s.srSwap ∨ srLoad s sr ≠ 0 → exec (.srSwapCommit sr) s = .next s) ∧
    (sr ∈ s.srSwap → srLoad s sr = 0 → left ≠ [] → ∃ r ∈ left,
      exec (.srSwapCommit sr) s = .next (sprStatus (repaired { gone with srRole := gone.srRole.set r 0 } h) h 3 0 0)) ∧
    (sr ∈ s.srSwap → srLoad s sr = 0 → left = [] → Answers (.srSwapCommit sr) s fun t =>
      bitOf (getPage t (pageNo .spr (halfIdx h))).err 17 = true ∧ srRoleOf t sr = 2 ∧ Monitored { gone with regs := t.regs } t)) ∧
  ∀ (s : State) (ch : Nat), ch < 64 → s.cfg.hasHalf (chanHalf ch) = true →
    let h := chanHalf ch
    let n := s.frameSpares.get h
    let due := ch ∈ s.frameSwaps ∧ (getChan s ch).frames = [] ∧ (getChan s ch).cur = none
    let took := { s with frameSwaps := s.frameSwaps.filter (· ≠ ch) }
    (¬due → exec (.frameBankSwap ch) s = .next s) ∧
    (due → n ≠ 0 → exec (.frameBankSwap ch) s = .next
      (sprStatus (repaired { took with frameSpares := s.frameSpares.put h (n - 1) } h) h 3 0 0)) ∧
    (due → n = 0 → Answers (.frameBankSwap ch) s fun t =>
      bitOf (getPage t (pageNo .spr (halfIdx h))).err 17 = true ∧ kregN t .spr (halfIdx h) 0x048 = 4 + 256 * 2 ∧
      Monitored { took with regs := t.regs } t)

/-! ### Who is in charge -/

/-- HEARTBEAT_SEND counts one heartbeat per 1,000 ns. HEARTBEAT_RECEIVE in NORMAL brings SPLIT where it carries SPLIT (LOST) or a second
PRIMARY (CONFLICT); in SPLIT it brings JOINING where the half has a decision and hears RX_OK, or, after one half's reset, for both with the
half that was reset as follower. HEARTBEAT_LOST brings SPLIT. MGMT_CHARGE takes a word as R446 gives. CHARGE_DECISION settles a complete
message with the first test that fails: BAD_SIG, SERIAL, NONCE, STATE, or ACCEPTED, which logs CHARGE, takes the role, draws a nonce and
sends the decision; a rejection keeps the nonce but for STATE. The other half obeys a decision for its own nonce or for zero: it resets, or
takes its role and joins within 10,000,000 ns or resets. JOINING_DONE makes both halves NORMAL. The status read answers the next word. -/
def Obligations.HeartbeatsAndCharge : Prop :=
  (∀ (s : State) (h : Half), s.cfg.halfB = true →
    let c := s.charge.get h
    let o := otherHalf h
    let up := s.ready.get h = true
    let due := c.sentCyc = none ∨ ∃ k, c.sentCyc = some k ∧ cycAgo s k 1000 = true
    let silent := cycAgo s c.hbCyc 5000 = true
    let holds (d : Charge) : State := { s with charge := s.charge.put h d }
    let splits (e : Instr) (d : Charge) (cause : Nat) : Prop := Answers e s fun t =>
      t.charge = s.charge.put h { d with
        st := .split, cause := cause, splits := (c.splits + 1) % 65536, splitFt := ftOrOnes s h, joinCyc := none, decision := none } ∧
      t.far = { s with charge := t.charge }.far
    (up → due → exec (.heartbeatSend h) s = .next (holds { c with hbSent := c.hbSent + 1, sentCyc := some s.cyc })) ∧
    (¬up ∨ ¬due → exec (.heartbeatSend h) s = .next s) ∧
    (∀ primary split rxOk,
      let e := Instr.heartbeatReceive h primary split rxOk
      let heard := { c with hbCyc := s.cyc, rxOk := true }
      let conflict := primary = true ∧ c.primary = true
      (¬up → exec e s = .next s) ∧
      (up → s.charge.a.returned = false → s.charge.b.returned = false →
        (c.st = .joining ∨ (c.st = .normal ∧ split = false ∧ ¬conflict) ∨ (c.st = .split ∧ (c.decision = none ∨ rxOk = false)) →
          exec e s = .next (holds heard)) ∧
        (c.st = .normal → split = true → splits e heard 0) ∧
        (c.st = .normal → split = false → conflict → splits e heard 2) ∧
        (c.st = .split → c.decision ≠ none → rxOk = true → exec e s = .next (holds { heard with st := .joining, joinCyc := none }))) ∧
      (s.ready.a = true → s.ready.b = true → c.st = .split → c.cause = 1 → s.charge.a.returned ≠ s.charge.b.returned →
        Answers e s fun t =>
          (∀ g, t.charge.get g = { (if g = h then heard else s.charge.get g) with
            st := .joining, primary := !(s.charge.get g).returned, decision := none, joinCyc := none }) ∧
          { t with charge := s.charge, parts := s.parts, partCmd := s.partCmd, regs := s.regs } = s ∧
          RegsBut s t [regAddr .partCtrl 0 0x048] ∧
          ((∀ k, s.partCmd = some k → (getPart s k.2.1).st ≠ .unavailable) → t.partCmd = s.partCmd ∧ t.regs = s.regs))) ∧
    (¬up ∨ ¬silent → exec (.heartbeatLost h) s = .next s) ∧
    (up → silent → c.st = .split → exec (.heartbeatLost h) s = .next (holds { c with rxOk := false })) ∧
    (up → silent → c.st ≠ .split → splits (.heartbeatLost h) { c with rxOk := false } 0) ∧
    (let joined := s.charge.a.st = .joining ∧ s.charge.b.st = .joining ∧ c.primary = false ∧
      ((s.ftu.a.count : Int) - (s.ftu.b.count : Int)).natAbs ≤ 144
     (¬joined → exec (.joiningDone h) s = .next s) ∧
     (joined → Answers (.joiningDone h) s fun t =>
       (∀ g, t.charge.get g = { s.charge.get g with st := .normal, decision := none, joinCyc := none, returned := false }) ∧
       t.far = { s with charge := t.charge }.far)) ∧
    (c.inbox = none ∨ ¬up → exec (.chargeDecisionReceive h) s = .next s) ∧
    (∀ a ro n, c.inbox = some (a, ro, n) → up →
      let e := Instr.chargeDecisionReceive h
      let rest (d : Charge) : Two Charge := (s.charge.put h d).put o { s.charge.get o with pending := false }
      let emptied := { c with inbox := none }
      let obeys := (n = c.nonce ∨ n = 0) ∧ c.st = .split
      (¬obeys → exec e s = .next { s with charge := rest emptied }) ∧
      (obeys → ro = true → exec e s = .next (resetHalfOf { s with charge := rest emptied } h resetOneHalf)) ∧
      (obeys → ro = false → Answers e s fun t =>
        t.charge = rest { emptied with primary := (if h = .a then a else !a), decision := some (a, false), joinCyc := some s.cyc } ∧
        t.far = { s with charge := t.charge }.far)) ∧
    (let fails := c.st = .split ∧ ∃ k, c.joinCyc = some k ∧ cycAgo s k 10000000 = true
     (fails → exec (.joinTimeout h) s = .next (resetHalfOf s h resetJoin)) ∧ (¬fails → exec (.joinTimeout h) s = .next s))) ∧
  (∀ (s : State) (h : Half) (sigOk : Bool), s.cfg.hasHalf h = true →
    let c := s.charge.get h
    let o := otherHalf h
    let e := Instr.chargeDecision h sigOk
    let result := if sigOk = false then 2 else if c.wide 2 2 ≠ s.cfg.serial then 3 else if c.nonceOf h ≠ c.nonce then 4
      else if c.st ≠ .split then 5 else 1
    let drawn := (s.draw Config.entropy).1 % 2 ^ 128
    let a := !(c.word 1).testBit 0
    let ro := (c.word 1).testBit 1
    (c.result ≠ 6 ∨ (s.rtp.get h).booted = false → exec e s = .next s) ∧
    (c.result = 6 → (s.rtp.get h).booted = true →
      (result = 1 → Answers e s fun t =>
        t.charge = (s.charge.put h { c with
          result := 1, words := [], nonce := drawn, primary := (if h = .a then a else !a), decision := some (a, ro), pending := true }).put o
            { s.charge.get o with inbox := some (a, ro, c.nonceOf o) } ∧
        Logged s t h 9 [c.word 1] ∧ (∀ g, g ≠ h → t.rtp.get g = s.rtp.get g) ∧
        t.far = { s with charge := t.charge, fresh := t.fresh, rtp := t.rtp }.far) ∧
      (result ≠ 1 → Answers e s fun t =>
        t.charge = s.charge.put h { c with result := result, words := [], nonce := if result = 5 then drawn else c.nonce } ∧
        (result ≠ 5 → t.fresh = s.fresh) ∧
        Monitored { s with charge := t.charge, fresh := t.fresh, regs := t.regs, secAt := t.secAt, secLog := t.secLog } t))) ∧
  ∀ (s : State) (port h : Half) (data : Word), s.cfg.hasHalf port = true →
    let c := s.charge.get h
    let w := Instr.mgmtCharge port h data
    let r := Instr.chargeStatusRead port h
    let holds (d : Charge) : State := { s with charge := s.charge.put h d }
    (s.cfg.hasHalf h = false → exec w s = .next (respond s port respAbsent 0) ∧ exec r s = .next (respond s port respOkay 0)) ∧
    (s.cfg.hasHalf h = true → s.ready.get h = false →
      exec w s = .next (respond s port respHalfDown 0) ∧ exec r s = .next (respond s port respHalfDown 0)) ∧
    (s.cfg.hasHalf h = true → s.ready.get h = true →
      exec r s = .next (respond (holds { c with readIdx := (c.readIdx + 1) % 16 }) port respOkay (c.status c.readIdx)) ∧
      (c.result = 6 → exec w s = .next (okay (holds c) port)) ∧
      (c.result ≠ 6 → data = 0x43484731 →
        exec w s = .next (okay (holds { c with inMsg := true, received := 1, words := [data], readIdx := 0 }) port)) ∧
      (c.result ≠ 6 → data ≠ 0x43484731 → c.inMsg = false → exec w s = .next (okay (holds c) port)) ∧
      (c.result ≠ 6 → data ≠ 0x43484731 → c.inMsg = true → c.received + 1 < 1173 →
        exec w s = .next (okay (holds { c with received := c.received + 1, words := data :: c.words }) port)) ∧
      (c.result ≠ 6 → data ≠ 0x43484731 → c.inMsg = true → c.received + 1 = 1173 →
        exec w s = .next (okay (holds { c with received := 1173, words := data :: c.words, inMsg := false, result := 6 }) port)))
end

