-- ==== Sys2Proof/Laws/Table.lean ====
section
/-! SUPPORT. The laws of the sparse tables: a read after a write, and that every table operation keeps the canonical form. -/

namespace Sys2Proof

section Reads

variable {α : Type}

@[simp] theorem cellFind_nil (k : Nat) : cellFind ([] : List (Nat × α)) k = none := rfl

theorem cellFind_put (l : List (Nat × α)) (k : Nat) (v : α) (x : Nat) :
    cellFind (cellPut l k v) x = if x = k then some v else cellFind l x := by
  induction l with
  | nil => simp only [cellPut, cellFind, eq_comm (a := k)]
  | cons c r ih =>
    obtain ⟨j, w⟩ := c
    simp only [cellPut]
    split
    · rename_i h; subst h; simp only [cellFind, eq_comm (a := j)]; split <;> rfl
    · split
      · simp only [cellFind, eq_comm (a := k)]
      · rename_i hj _
        simp only [cellFind, ih]
        by_cases hx : j = x
        · rw [if_pos hx, if_pos hx, if_neg (fun e => hj (hx.trans e))]
        · rw [if_neg hx, if_neg hx]

theorem cellFind_drop (l : List (Nat × α)) (k x : Nat) :
    cellFind (cellDrop l k) x = if x = k then none else cellFind l x := by
  induction l with
  | nil => simp [cellDrop]
  | cons c r ih =>
    obtain ⟨j, w⟩ := c
    simp only [cellDrop]
    split
    · rename_i h; subst h; rw [ih]; simp only [cellFind]; split <;> simp_all [eq_comm]
    · simp only [cellFind, ih]; split <;> split <;> simp_all

theorem cellFind_mapVals (l : List (Nat × α)) (f : Nat → α → α) (x : Nat) :
    cellFind (l.map fun c => (c.1, f c.1 c.2)) x = (cellFind l x).map (f x) := by
  induction l with
  | nil => rfl
  | cons c r ih =>
    obtain ⟨j, w⟩ := c
    simp only [List.map_cons, cellFind, ih]
    split
    · rename_i h; subst h; rfl
    · rfl

theorem cellFind_keep (l : List (Nat × α)) (p : Nat → Bool) (x : Nat) :
    cellFind (l.filter fun c => p c.1) x = if p x then cellFind l x else none := by
  induction l with
  | nil => simp
  | cons c r ih =>
    obtain ⟨j, w⟩ := c
    simp only [List.filter_cons]
    by_cases h : j = x
    · subst h; by_cases hp : p j <;> simp [hp, cellFind, ih]
    · by_cases hp : p j <;> simp [hp, cellFind, ih, h]

@[simp] theorem Tbl.find_empty (k : Nat) : (Tbl.empty : Tbl α).find k = none := rfl

@[simp] theorem Tbl.get_empty (d : α) (k : Nat) : (Tbl.empty : Tbl α).get d k = d := rfl

@[simp] theorem Tbl.find_set (t : Tbl α) (k : Nat) (v : α) (x : Nat) :
    (t.set k v).find x = if x = k then some v else t.find x := cellFind_put _ _ _ _

@[simp] theorem Tbl.find_drop (t : Tbl α) (k x : Nat) : (t.drop k).find x = if x = k then none else t.find x :=
  cellFind_drop _ _ _

@[simp] theorem Tbl.find_mapVals (t : Tbl α) (f : Nat → α → α) (x : Nat) : (t.mapVals f).find x = (t.find x).map (f x) :=
  cellFind_mapVals _ _ _

@[simp] theorem Tbl.find_keep (t : Tbl α) (p : Nat → Bool) (x : Nat) :
    (t.keep fun k _ => p k).find x = if p x then t.find x else none := cellFind_keep _ _ _

/-- A read after a write to the same key gives the value; every other key reads as before. -/
@[simp] theorem Tbl.get_put [DecidableEq α] (d : α) (t : Tbl α) (k : Nat) (v : α) (x : Nat) :
    (t.put d k v).get d x = if x = k then v else t.get d x := by
  simp only [Tbl.put]
  split
  · rename_i h; subst h; simp only [Tbl.get]; rw [cellFind_drop]; split <;> rfl
  · simp only [Tbl.get]; rw [cellFind_put]; split <;> rfl

@[simp] theorem Tbl.get_keep (d : α) (t : Tbl α) (p : Nat → Bool) (x : Nat) :
    (t.keep fun k _ => p k).get d x = if p x then t.get d x else d := by
  have := Tbl.find_keep t p x
  simp only [Tbl.find] at this
  simp only [Tbl.get, this]
  split <;> rfl

end Reads

section Canonical

variable {α : Type}

/-- Every key of a list lies above a bound. -/
def keysAbove (b : Nat) (l : List (Nat × α)) : Prop := ∀ c ∈ l, b < c.1

theorem keysRise_cons {j : Nat} {v : α} {r : List (Nat × α)} :
    keysRise ((j, v) :: r) = true ↔ keysAbove j r ∧ keysRise r = true := by
  induction r generalizing j v with
  | nil => simp [keysRise, keysAbove]
  | cons c r ih =>
    obtain ⟨k, w⟩ := c
    simp only [keysRise, Bool.and_eq_true, decide_eq_true_eq]
    constructor
    · rintro ⟨hlt, hr⟩
      refine ⟨?_, hr⟩
      intro c hc
      rcases List.mem_cons.1 hc with h | h
      · subst h; exact hlt
      · exact Nat.lt_trans hlt ((ih.1 hr).1 c h)
    · rintro ⟨ha, hr⟩
      exact ⟨ha _ (List.mem_cons_self ..), hr⟩

theorem mem_cellPut {l : List (Nat × α)} {k : Nat} {v : α} {c : Nat × α} (h : c ∈ cellPut l k v) : c = (k, v) ∨ c ∈ l := by
  induction l with
  | nil => simp_all [cellPut]
  | cons d r ih =>
    obtain ⟨j, w⟩ := d
    simp only [cellPut] at h
    split at h
    · rcases List.mem_cons.1 h with h | h
      · exact .inl h
      · exact .inr (List.mem_cons_of_mem _ h)
    · split at h
      · rcases List.mem_cons.1 h with h | h
        · exact .inl h
        · exact .inr h
      · rcases List.mem_cons.1 h with h | h
        · exact .inr (h ▸ List.mem_cons_self ..)
        · exact (ih h).imp_right (List.mem_cons_of_mem _)

theorem mem_cellDrop {l : List (Nat × α)} {k : Nat} {c : Nat × α} (h : c ∈ cellDrop l k) : c ∈ l := by
  induction l with
  | nil => simp [cellDrop] at h
  | cons d r ih =>
    obtain ⟨j, w⟩ := d
    simp only [cellDrop] at h
    split at h
    · exact List.mem_cons_of_mem _ (ih h)
    · rcases List.mem_cons.1 h with h | h
      · exact h ▸ List.mem_cons_self ..
      · exact List.mem_cons_of_mem _ (ih h)

theorem keysRise_cellPut {l : List (Nat × α)} (h : keysRise l = true) (k : Nat) (v : α) : keysRise (cellPut l k v) = true := by
  induction l with
  | nil => rfl
  | cons d r ih =>
    obtain ⟨j, w⟩ := d
    have hj := keysRise_cons.1 h
    simp only [cellPut]
    split
    · rename_i e; subst e; exact keysRise_cons.2 hj
    · split
      · rename_i hk
        refine keysRise_cons.2 ⟨?_, h⟩
        intro c hc
        rcases List.mem_cons.1 hc with e | e
        · subst e; exact hk
        · exact Nat.lt_trans hk (hj.1 c e)
      · rename_i h1 h2
        refine keysRise_cons.2 ⟨?_, ih hj.2⟩
        intro c hc
        rcases mem_cellPut hc with e | e
        · subst e; show j < k; omega
        · exact hj.1 c e

theorem keysRise_cellDrop {l : List (Nat × α)} (h : keysRise l = true) (k : Nat) : keysRise (cellDrop l k) = true := by
  induction l with
  | nil => rfl
  | cons d r ih =>
    obtain ⟨j, w⟩ := d
    have hj := keysRise_cons.1 h
    simp only [cellDrop]
    split
    · exact ih hj.2
    · exact keysRise_cons.2 ⟨fun c hc => hj.1 c (mem_cellDrop hc), ih hj.2⟩

theorem keysRise_filter {l : List (Nat × α)} (h : keysRise l = true) (p : Nat × α → Bool) : keysRise (l.filter p) = true := by
  induction l with
  | nil => rfl
  | cons d r ih =>
    have hj := keysRise_cons.1 h
    simp only [List.filter_cons]
    split
    · exact keysRise_cons.2 ⟨fun c hc => hj.1 c (List.mem_filter.1 hc).1, ih hj.2⟩
    · exact ih hj.2

variable [DecidableEq α]

theorem Tbl.wf_iff {d : α} {t : Tbl α} : t.wf d = true ↔ keysRise t.cells = true ∧ ∀ c ∈ t.cells, c.2 ≠ d := by
  simp [Tbl.wf]

@[simp] theorem Tbl.wf_empty (d : α) : (Tbl.empty : Tbl α).wf d = true := rfl

/-- A write keeps the canonical form. -/
theorem Tbl.wf_put {d : α} {t : Tbl α} (h : t.wf d = true) (k : Nat) (v : α) : (t.put d k v).wf d = true := by
  rw [Tbl.wf_iff] at h ⊢
  simp only [Tbl.put]
  split
  · exact ⟨keysRise_cellDrop h.1 k, fun c hc => h.2 c (mem_cellDrop hc)⟩
  · rename_i hv
    refine ⟨keysRise_cellPut h.1 k v, fun c hc => ?_⟩
    rcases mem_cellPut hc with e | e
    · subst e; exact hv
    · exact h.2 c e

/-- Taking an entry away keeps the canonical form. -/
theorem Tbl.wf_drop {d : α} {t : Tbl α} (h : t.wf d = true) (k : Nat) : (t.drop k).wf d = true := by
  rw [Tbl.wf_iff] at h ⊢
  exact ⟨keysRise_cellDrop h.1 k, fun c hc => h.2 c (mem_cellDrop hc)⟩

/-- Keeping some entries keeps the canonical form. -/
theorem Tbl.wf_keep {d : α} {t : Tbl α} (h : t.wf d = true) (p : Nat → α → Bool) : (t.keep p).wf d = true := by
  rw [Tbl.wf_iff] at h ⊢
  exact ⟨keysRise_filter h.1 _, fun c hc => h.2 c (List.mem_filter.1 hc).1⟩

end Canonical

namespace Machine

/-- Writing a run of cells keeps the canonical form. -/
theorem putSeq_wf {α : Type} [DecidableEq α] {d : α} (l : List α) :
    ∀ {m : Tbl α} (_ : m.wf d = true) (k : Nat), (putSeq d m k l).wf d = true := by
  induction l with
  | nil => intro m h k; exact h
  | cons v r ih => intro m h k; exact ih (Tbl.wf_put h k v) (k + 1)

/-- A read after a run of writes: inside the run the value written, outside it what stood there. -/
theorem putSeq_get {α : Type} [DecidableEq α] (d : α) (l : List α) :
    ∀ (m : Tbl α) (k x : Nat),
      (putSeq d m k l).get d x = if h : k ≤ x ∧ x < k + l.length then l[x - k]'(by omega) else m.get d x := by
  induction l with
  | nil => intro m k x; simp only [putSeq, List.length_nil]; split <;> first | omega | rfl
  | cons v r ih =>
    intro m k x
    simp only [putSeq]
    rw [ih]
    by_cases hx : x = k
    · subst hx
      have h' : ¬ (x + 1 ≤ x ∧ x < x + 1 + r.length) := by omega
      simp [dif_neg h']
    · by_cases h : k + 1 ≤ x ∧ x < k + 1 + r.length
      · have h' : k ≤ x ∧ x < k + (v :: r).length := by simp only [List.length_cons]; omega
        rw [dif_pos h, dif_pos h']
        have e : x - k = (x - (k + 1)) + 1 := by omega
        simp only [e, List.getElem_cons_succ]
      · have h' : ¬ (k ≤ x ∧ x < k + (v :: r).length) := by simp only [List.length_cons]; omega
        rw [dif_neg h, dif_neg h', Tbl.get_put, if_neg hx]

/-- A byte write keeps the canonical form of a byte memory. -/
theorem writeBytes_wf {m : Tbl Byte} (h : Memory.wf m = true) (a : Nat) (l : List Byte) : Memory.wf (writeBytes m a l) = true :=
  putSeq_wf l h a

@[simp] theorem Two.get_put {α : Type} (t : Two α) (h g : Half) (v : α) : (t.put h v).get g = if g = h then v else t.get g := by
  cases h <;> cases g <;> rfl

end Machine
end Sys2Proof
end

