-- ==== Sys2Proof/Laws/Monitor.lean ====
section
/-! SUPPORT. What reporting changes: every operation that sets an error bit, counts an event or puts a trace record leaves the rest of
the state as it was. -/

namespace Sys2Proof.Machine

/-! ### Bits of a word -/

theorem bitOf_setBit (w : Word) (i b : Nat) (hb : bitOf w b = true) : bitOf (setBit w i) b = true := by
  simp only [bitOf, setBit, BitVec.toNat_or, Nat.testBit_or] at *; simp [hb]

theorem bitOf_setBit_self (w : Word) (i : Nat) (h : i < 32) : bitOf (setBit w i) i = true := by
  simp only [bitOf, setBit, BitVec.toNat_or, Nat.testBit_or, BitVec.toNat_ofNat, Nat.testBit_mod_two_pow, Nat.testBit_two_pow_self]
  simp [h]

/-! ### The relation -/

theorem Page.reported_refl (p : Page) : p.reported p := ⟨rfl, fun _ h => h⟩

theorem Page.reported_trans {p q r : Page} (h : p.reported q) (g : q.reported r) : p.reported r := by
  refine ⟨?_, fun b hb => g.2 b (h.2 b hb)⟩
  rw [g.1, h.1]

theorem Monitored.refl (s : State) : Monitored s s :=
  ⟨rfl, fun _ => Page.reported_refl _, fun _ => rfl, fun _ => rfl, fun _ => rfl⟩

theorem Monitored.trans {s t u : State} (h : Monitored s t) (g : Monitored t u) : Monitored s u := by
  obtain ⟨h1, h2, h3, h4, h5⟩ := h
  obtain ⟨g1, g2, g3, g4, g5⟩ := g
  refine ⟨g1.trans h1, fun pg => Page.reported_trans (h2 pg) (g2 pg), fun n => ?_, fun q => ?_, fun b => ?_⟩
  · rw [g3 n, h3 n]; rfl
  · rw [g4 q, h4 q]
  · rw [g5 b, h5 b]

/-- A loop of monitored operations is one. -/
theorem Monitored.foldl {α : Type} {f : State → α → State} (hf : ∀ s x, Monitored s (f s x)) (l : List α) :
    ∀ s, Monitored s (l.foldl f s) := by
  induction l with
  | nil => exact fun s => Monitored.refl s
  | cons x r ih => exact fun s => (hf s x).trans (ih _)

/-! ### Page headers -/

@[simp] theorem countSummary_pages (s t : State) : (countSummary s t).pages = t.pages := by
  unfold countSummary; split
  · rfl
  · split <;> rfl

@[simp] theorem countSummary_quiet (s t : State) : (countSummary s t).quiet = t.quiet := by
  unfold countSummary; split
  · rfl
  · split <;> rfl

@[simp] theorem countSummary_tiles (s t : State) : (countSummary s t).tiles = t.tiles := by
  unfold countSummary; split
  · rfl
  · split <;> rfl

@[simp] theorem countSummary_parts (s t : State) : (countSummary s t).parts = t.parts := by
  unfold countSummary; split
  · rfl
  · split <;> rfl

@[simp] theorem countSummary_banks (s t : State) : (countSummary s t).banks = t.banks := by
  unfold countSummary; split
  · rfl
  · split <;> rfl

@[simp] theorem putPage_quiet (s : State) (pg : Nat) (p : Page) : (putPage s pg p).quiet = s.quiet := by
  unfold putPage; rw [countSummary_quiet]; rfl

theorem getPage_putPage (s : State) (pg : Nat) (p : Page) (x : Nat) :
    getPage (putPage s pg p) x = if x = pg then p else getPage s x := by
  simp only [getPage, putPage, countSummary_pages]
  by_cases hp : p = pageReset pg
  · rw [if_pos hp, Tbl.find_drop]
    by_cases hx : x = pg
    · rw [if_pos hx, if_pos hx, hx, hp]; rfl
    · rw [if_neg hx, if_neg hx]
  · rw [if_neg hp, Tbl.find_set]
    by_cases hx : x = pg
    · rw [if_pos hx, if_pos hx]; rfl
    · rw [if_neg hx, if_neg hx]

theorem putPage_monitored {s : State} {pg : Nat} {p : Page} (h : (getPage s pg).reported p) : Monitored s (putPage s pg p) := by
  refine ⟨putPage_quiet s pg p, fun x => ?_, fun n => ?_, fun q => ?_, fun b => ?_⟩
  · rw [getPage_putPage]
    by_cases hx : x = pg
    · rw [if_pos hx, hx]; exact h
    · rw [if_neg hx]; exact Page.reported_refl _
  · simp only [getTile, putPage, countSummary_tiles]; rfl
  · simp only [getPart, putPage, countSummary_parts]
  · simp only [getBank, putPage, countSummary_banks]

theorem getTile_putTile (s : State) (t : Nat) (x : Tile) (n : Nat) : getTile (putTile s t x) n = if n = t then x else getTile s n := by
  simp [getTile, putTile]

theorem putTile_monitored {s : State} {t : Nat} {x : Tile} (h : x = (getTile s t).counts x) : Monitored s (putTile s t x) := by
  refine ⟨rfl, fun _ => Page.reported_refl _, fun n => ?_, fun _ => rfl, fun _ => rfl⟩
  rw [getTile_putTile]
  by_cases hn : n = t
  · rw [if_pos hn, hn]; exact h
  · rw [if_neg hn]; rfl

theorem getBank_putBank (s : State) (b : Nat) (x : Bank) (n : Nat) : getBank (putBank s b x) n = if n = b then x else getBank s n := by
  simp [getBank, putBank]

theorem putBank_monitored {s : State} {b : Nat} {x : Bank} (h : x = { getBank s b with ctrs := x.ctrs }) : Monitored s (putBank s b x) := by
  refine ⟨rfl, fun _ => Page.reported_refl _, fun _ => rfl, fun _ => rfl, fun n => ?_⟩
  rw [getBank_putBank]
  by_cases hn : n = b
  · rw [if_pos hn, hn]; exact h
  · rw [if_neg hn]

theorem putStream_monitored (s : State) (key : Nat) (x : Stream) : Monitored s (putStream s key x) :=
  ⟨rfl, fun _ => Page.reported_refl _, fun _ => rfl, fun _ => rfl, fun _ => rfl⟩

/-- Setting a service flag is reporting. -/
theorem flagParts_monitored (s : State) (bit : Nat) : Monitored s (flagParts s bit) := by
  refine ⟨rfl, fun _ => Page.reported_refl _, fun _ => rfl, fun q => ?_, fun _ => rfl⟩
  simp only [getPart, Tbl.get, flagParts]
  have h := Tbl.find_mapVals s.parts (fun _ p => if p.st = .live then { p with flags := p.flags ||| 2 ^ bit } else p) q
  simp only [Tbl.find] at h
  rw [h]
  cases cellFind s.parts.cells q with
  | none => rfl
  | some p => simp only [Option.map_some, Option.getD_some]; split <;> rfl

/-! ### Errors, counters, records and events -/

theorem markErr_monitored (s : State) (pg bit : Nat) : Monitored s (markErr s pg bit).1 := by
  have h (e : Bool) (n l : Nat) (w : Option Nat) : Monitored s (putPage s pg { getPage s pg with
      err := if e then setBit (getPage s pg).err bit else setBit (setBit (getPage s pg).err bit) 3
      errCnt := n, ftLast := l, evtAt := w }) := by
    refine putPage_monitored ⟨rfl, fun b hb => ?_⟩
    cases e
    · exact bitOf_setBit _ _ _ (bitOf_setBit _ _ _ hb)
    · exact bitOf_setBit _ _ _ hb
  unfold markErr
  dsimp only
  split
  · exact (h _ _ _ _).trans (flagParts_monitored _ _)
  · exact h _ _ _ _

theorem bankSat_monitored (s : State) (b : Nat) : Monitored s (bankSat s b) := markErr_monitored _ _ _

theorem addTileCtrs_counts (s : State) (b ev : Nat) (quals : List Nat) (n : Nat) (x : Tile) :
    addTileCtrs s b ev quals n x = x.counts (addTileCtrs s b ev quals n x) := by
  unfold addTileCtrs
  induction (List.range 16) generalizing x with
  | nil => rfl
  | cons k r ih =>
    simp only [List.foldl_cons]
    split
    · rw [ih]; rfl
    · exact ih x

theorem keepCtrs_counts (x : Tile) (cyc : Nat) : x.keepCtrs cyc = x.counts (x.keepCtrs cyc) := by unfold Tile.keepCtrs; split <;> rfl

theorem countTile_monitored (s : State) (t ev : Nat) (quals : List Nat) (n : Nat) : Monitored s (countTile s t ev quals n) := by
  unfold countTile
  split
  · exact Monitored.refl s
  · dsimp only
    have h (b : Nat) : Monitored s (putTile s t (addTileCtrs s b ev quals n ((getTile s t).keepCtrs s.cyc))) :=
      putTile_monitored (by rw [addTileCtrs_counts, keepCtrs_counts]; rfl)
    split
    · exact Monitored.refl s
    · exact Monitored.refl s
    · split
      · exact (h _).trans (bankSat_monitored _ _)
      · exact h _

theorem addBankCtrs_ctrs (s : State) (ev : Nat) (quals : List Nat) (inst : Nat) (pid : Option Nat) (n b : Nat) (x : Bank) :
    addBankCtrs s ev quals inst pid n b x = { x with ctrs := (addBankCtrs s ev quals inst pid n b x).ctrs } := by
  unfold addBankCtrs
  dsimp only
  split
  · induction (List.range 16) generalizing x with
    | nil => rfl
    | cons k r ih =>
      simp only [List.foldl_cons]
      split
      · rw [ih]
      · exact ih x
  · rfl

theorem countBlk_monitored (s : State) (h : Half) (ev : Nat) (quals : List Nat) (inst : Nat) (pid : Option Nat) (n : Nat) :
    Monitored s (countBlk s h ev quals inst pid n) := by
  unfold countBlk
  refine Monitored.foldl (fun u i => ?_) _ s
  dsimp only
  split
  · split
    · exact (putBank_monitored (addBankCtrs_ctrs ..)).trans (bankSat_monitored _ _)
    · exact putBank_monitored (addBankCtrs_ctrs ..)
  · exact Monitored.refl u

theorem genRecord_monitored (s : State) (key : Nat) (base : Bool) (mk : Bool → Nat → List Byte) :
    Monitored s (genRecord s key base mk) := by
  unfold genRecord
  split
  · exact Monitored.refl s
  · dsimp only
    split
    · exact (putStream_monitored _ _ _).trans (countTile_monitored ..)
    · exact putStream_monitored _ _ _

theorem genEvent_monitored (s : State) (key cls code pg arg : Nat) : Monitored s (genEvent s key cls code pg arg) := by
  unfold genEvent; split
  · exact genRecord_monitored ..
  · exact Monitored.refl s

theorem askSync_monitored (s : State) (key reason : Nat) : Monitored s (askSync s key reason) := putStream_monitored ..

theorem pageErrEvent_monitored (s : State) (pg bit cnt : Nat) : Monitored s (pageErrEvent s pg bit cnt) := by
  unfold pageErrEvent
  split
  · dsimp only
    split
    · exact genEvent_monitored ..
    · exact (genEvent_monitored ..).trans (genEvent_monitored ..)
  · split
    · exact genEvent_monitored ..
    · exact Monitored.refl s
  · exact Monitored.refl s

/-- Setting a PAGE_ERR bit is reporting. -/
theorem raiseErr_monitored (s : State) (pg bit : Nat) : Monitored s (raiseErr s pg bit) := by
  unfold raiseErr
  dsimp only
  split
  · exact (markErr_monitored ..).trans (pageErrEvent_monitored ..)
  · exact markErr_monitored ..

theorem raiseK_monitored (s : State) (k : PageKind) (i bit : Nat) : Monitored s (raiseK s k i bit) := raiseErr_monitored ..

theorem accessErr_monitored (s : State) (k : PageKind) (i : Nat) : Monitored s (accessErr s k i) := raiseErr_monitored ..

theorem unitEvent_monitored (s : State) (u : Nat) (pid : Option Nat) (cls code pg arg : Nat) :
    Monitored s (unitEvent s u pid cls code pg arg) := by
  unfold unitEvent
  dsimp only
  split
  · exact (genEvent_monitored ..).trans (raiseK_monitored ..)
  · exact genEvent_monitored ..

theorem tenantEvent_monitored (s : State) (u pid cls code pg arg : Nat) : Monitored s (tenantEvent s u pid cls code pg arg) := by
  unfold tenantEvent; split
  · exact Monitored.refl s
  · exact unitEvent_monitored ..

/-- A PAGE_ERR bit that a unit sets stands in PAGE_ERR afterwards (R41). -/
theorem raiseErr_sets (s : State) (pg bit : Nat) (h : bit < 32) : bitOf (getPage (raiseErr s pg bit) pg).err bit = true := by
  have hm : bitOf (getPage (markErr s pg bit).1 pg).err bit = true := by
    have hs (e : Bool) (n l : Nat) (w : Option Nat) : bitOf (getPage (putPage s pg { getPage s pg with
        err := if e then setBit (getPage s pg).err bit else setBit (setBit (getPage s pg).err bit) 3
        errCnt := n, ftLast := l, evtAt := w }) pg).err bit = true := by
      rw [getPage_putPage, if_pos rfl]
      cases e
      · exact bitOf_setBit _ _ _ (bitOf_setBit_self _ _ h)
      · exact bitOf_setBit_self _ _ h
    unfold markErr
    dsimp only
    split
    · exact hs _ _ _ _
    · exact hs _ _ _ _
  unfold raiseErr
  dsimp only
  split
  · exact ((pageErrEvent_monitored _ pg bit _).2.1 pg).2 bit hm
  · exact hm

end Sys2Proof.Machine
end

