-- ==== Sys2Proof/Laws/Core.lean ====
section
/-! SUPPORT. One lemma for each operation that changes nothing outside the fields which
monitoring moves (`State.core` of Safety.lean holds the rest). -/

open Sys2Proof Sys2Proof.Machine
namespace Sys2Proof.Machine
set_option linter.unusedSimpArgs false
@[simp ↓] theorem State.core_mk (a_cfg a_pending a_cyc a_fresh a_inForce a_regs a_pages a_wins a_mports a_sumSeq a_sumCyc a_ftu a_sched a_ends a_trigCyc a_trigHigh a_bypWin a_bypStat a_tiles a_tmap a_bankUse a_bankLost a_ssends a_gates a_sessions a_copies a_wvGroups a_wvFlits a_wvEpochs a_wvTurn a_srRole a_audits a_denseSeq a_reports a_repLost a_arbs a_arbOn a_flits a_stranded a_ports a_buckets a_meters a_mem a_badLines a_regions a_reserve a_era a_entries a_chans a_memLog a_macAt a_fill a_parts a_partCmd a_certLog a_rtp a_attQueue a_attSeq a_kexs a_peers a_ownerKeys a_gloveIds a_gloveHdrs a_openings a_secLog a_secAt a_minSvn a_entropyOk a_power a_budgets a_allots a_gateHeld a_streams a_channels a_obsBucket a_obsCyc a_banks a_mitTile a_mitRegs a_pcLast a_mitLast a_calm a_charge a_swaps a_heldStarts a_srSwap a_frameSwaps a_frameSpares a_wearLife a_wearDay a_wearDayNo a_autoQueue a_retireCyc a_fuseUsed a_fuseQueue a_fuseFull a_rowsUsed a_laneMap a_ready a_railFell a_pgSb a_broken) : (State.mk a_cfg a_pending a_cyc a_fresh a_inForce a_regs a_pages a_wins a_mports a_sumSeq a_sumCyc a_ftu a_sched a_ends a_trigCyc a_trigHigh a_bypWin a_bypStat a_tiles a_tmap a_bankUse a_bankLost a_ssends a_gates a_sessions a_copies a_wvGroups a_wvFlits a_wvEpochs a_wvTurn a_srRole a_audits a_denseSeq a_reports a_repLost a_arbs a_arbOn a_flits a_stranded a_ports a_buckets a_meters a_mem a_badLines a_regions a_reserve a_era a_entries a_chans a_memLog a_macAt a_fill a_parts a_partCmd a_certLog a_rtp a_attQueue a_attSeq a_kexs a_peers a_ownerKeys a_gloveIds a_gloveHdrs a_openings a_secLog a_secAt a_minSvn a_entropyOk a_power a_budgets a_allots a_gateHeld a_streams a_channels a_obsBucket a_obsCyc a_banks a_mitTile a_mitRegs a_pcLast a_mitLast a_calm a_charge a_swaps a_heldStarts a_srSwap a_frameSwaps a_frameSpares a_wearLife a_wearDay a_wearDayNo a_autoQueue a_retireCyc a_fuseUsed a_fuseQueue a_fuseFull a_rowsUsed a_laneMap a_ready a_railFell a_pgSb a_broken).core = State.mk a_cfg a_pending a_cyc (0) a_inForce (.empty) (.empty) a_wins a_mports (0) (none) a_ftu (.empty) a_ends a_trigCyc a_trigHigh a_bypWin a_bypStat (.empty) a_tmap (.empty) (.empty) ([]) a_gates (.empty) ([]) (.empty) ([]) ([]) (⟨0, 0⟩) a_srRole ([]) (.empty) (⟨[], []⟩) (.empty) (.empty) a_arbOn ([]) ([]) (.empty) a_buckets (.empty) a_mem a_badLines a_regions a_reserve a_era a_entries a_chans a_memLog a_macAt a_fill (.empty) a_partCmd a_certLog a_rtp a_attQueue a_attSeq a_kexs a_peers a_ownerKeys a_gloveIds a_gloveHdrs a_openings (.empty) (.empty) a_minSvn a_entropyOk a_power a_budgets a_allots a_gateHeld (.empty) a_channels a_obsBucket a_obsCyc (.empty) a_mitTile a_mitRegs a_pcLast a_mitLast (State.reset.calm) a_charge (⟨none, none⟩) ([]) a_srSwap a_frameSwaps a_frameSpares a_wearLife a_wearDay a_wearDayNo a_autoQueue (.empty) a_fuseUsed a_fuseQueue a_fuseFull a_rowsUsed a_laneMap a_ready a_railFell a_pgSb a_broken := rfl
@[simp ↓] theorem State.core_fold (s : State) : State.mk s.cfg s.pending s.cyc (0) s.inForce (.empty) (.empty) s.wins s.mports (0) (none) s.ftu (.empty) s.ends s.trigCyc s.trigHigh s.bypWin s.bypStat (.empty) s.tmap (.empty) (.empty) ([]) s.gates (.empty) ([]) (.empty) ([]) ([]) (⟨0, 0⟩) s.srRole ([]) (.empty) (⟨[], []⟩) (.empty) (.empty) s.arbOn ([]) ([]) (.empty) s.buckets (.empty) s.mem s.badLines s.regions s.reserve s.era s.entries s.chans s.memLog s.macAt s.fill (.empty) s.partCmd s.certLog s.rtp s.attQueue s.attSeq s.kexs s.peers s.ownerKeys s.gloveIds s.gloveHdrs s.openings (.empty) (.empty) s.minSvn s.entropyOk s.power s.budgets s.allots s.gateHeld (.empty) s.channels s.obsBucket s.obsCyc (.empty) s.mitTile s.mitRegs s.pcLast s.mitLast (State.reset.calm) s.charge (⟨none, none⟩) ([]) s.srSwap s.frameSwaps s.frameSpares s.wearLife s.wearDay s.wearDayNo s.autoQueue (.empty) s.fuseUsed s.fuseQueue s.fuseFull s.rowsUsed s.laneMap s.ready s.railFell s.pgSb s.broken = s.core := rfl
@[simp] theorem core_ite (c : Prop) [Decidable c] (a b : State) : (if c then a else b).core = if c then a.core else b.core := by split <;> rfl
@[simp] theorem foldl_core {α : Type} (f : State → α → State) (h : ∀ s x, (f s x).core = s.core) (l : List α) (s : State) : (l.foldl f s).core = s.core := by
  induction l generalizing s with
  | nil => rfl
  | cons x r ih => rw [List.foldl_cons]; exact (ih _).trans (h _ _)
@[simp] theorem foldr_core {α : Type} (f : α → State → State) (h : ∀ s x, (f x s).core = s.core) (l : List α) (s : State) : (l.foldr f s).core = s.core := by
  induction l with
  | nil => rfl
  | cons x r ih => rw [List.foldr_cons]; exact (h _ _).trans ih
@[simp] theorem foldl_fst_core {α β : Type} (f : State × β → α → State × β) (h : ∀ s x, (f s x).1.core = s.1.core) (l : List α) (s : State × β) : (l.foldl f s).1.core = s.1.core := by
  induction l generalizing s with
  | nil => rfl
  | cons x r ih => rw [List.foldl_cons]; exact (ih _).trans (h _ _)
@[simp] theorem foldl_snd_core {α β : Type} (f : β × State → α → β × State) (h : ∀ s x, (f s x).2.core = s.2.core) (l : List α) (s : β × State) : (l.foldl f s).2.core = s.2.core := by
  induction l generalizing s with
  | nil => rfl
  | cons x r ih => rw [List.foldl_cons]; exact (ih _).trans (h _ _)
@[simp] theorem draw_core {α : Type} (s : State) (f : Nat → α) : (s.draw f).2.core = s.core := rfl
@[simp] theorem forEach_core {α : Type} (f : State → α → State) (h : ∀ s x, (f s x).core = s.core) (l : List α) (s : State) : (forEach l s f).core = s.core := foldl_core f h l s
@[simp] theorem countSummary_core (s t : State) : (countSummary s t).core = t.core := by unfold countSummary; split <;> (try split) <;> rfl

@[simp] theorem putReg_core (s : State) (x1 : Nat) (x2 : Word) : (putReg s x1 x2).core = s.core := by
  simp [putReg]
@[simp] theorem setKreg_core (s : State) (x1 : PageKind) (x2 : Nat) (x3 : Nat) (x4 : Word) : (setKreg s x1 x2 x3 x4).core = s.core := by
  simp [setKreg]
@[simp] theorem incReg_core (s : State) (x1 : PageKind) (x2 : Nat) (x3 : Nat) (x4 : Nat) : (incReg s x1 x2 x3 x4).core = s.core := by
  simp [incReg]
@[simp] theorem satReg_core (s : State) (x1 : PageKind) (x2 : Nat) (x3 : Nat) (x4 : Nat) : (satReg s x1 x2 x3 x4).core = s.core := by
  simp [satReg]
@[simp] theorem setKreg64_core (s : State) (x1 : PageKind) (x2 : Nat) (x3 : Nat) (x4 : Nat) : (setKreg64 s x1 x2 x3 x4).core = s.core := by
  simp [setKreg64]
@[simp] theorem incReg64_core (s : State) (x1 : PageKind) (x2 : Nat) (x3 : Nat) (x4 : Nat) : (incReg64 s x1 x2 x3 x4).core = s.core := by
  simp [incReg64]
@[simp] theorem putPage_core (s : State) (x1 : Nat) (x2 : Page) : (putPage s x1 x2).core = s.core := by
  simp [putPage]
@[simp] theorem setPageSt_core (s : State) (x1 : Nat) (x2 : PageSt) : (setPageSt s x1 x2).core = s.core := by
  simp [setPageSt]
@[simp] theorem putTile_core (s : State) (x1 : Nat) (x2 : Tile) : (putTile s x1 x2).core = s.core := by
  simp [putTile]
@[simp] theorem onTile_core (s : State) (x1 : Nat) (x2 : Tile → Tile) : (onTile s x1 x2).core = s.core := by
  simp [onTile]
@[simp] theorem flagParts_core (s : State) (x1 : Nat) : (flagParts s x1).core = s.core := by
  simp [flagParts]
@[simp] theorem markErr_core (s : State) (x1 : Nat) (x2 : Nat) : (markErr s x1 x2).1.core = s.core := by
  simp [markErr]
@[simp] theorem bankSat_core (s : State) (x1 : Nat) : (bankSat s x1).core = s.core := by
  simp [bankSat]
@[simp] theorem putBank_core (s : State) (x1 : Nat) (x2 : Bank) : (putBank s x1 x2).core = s.core := by
  simp [putBank]
@[simp] theorem countTile_core (s : State) (x1 : Nat) (x2 : Nat) (x3 : List Nat) (x4 : Nat) : (countTile s x1 x2 x3 x4).core = s.core := by
  unfold countTile; dsimp only; (repeat' split) <;> simp
@[simp] theorem countBlk_core (s : State) (x1 : Half) (x2 : Nat) (x3 : List Nat) (x4 : Nat) (x5 : Option Nat) (x6 : Nat) : (countBlk s x1 x2 x3 x4 x5 x6).core = s.core := by
  simp [countBlk]
@[simp] theorem putStream_core (s : State) (x1 : Nat) (x2 : Stream) : (putStream s x1 x2).core = s.core := by
  simp [putStream]
@[simp] theorem genRecord_core (s : State) (x1 : Nat) (x2 : Bool) (x3 : Bool → Nat → List Byte) : (genRecord s x1 x2 x3).core = s.core := by
  unfold genRecord; split <;> simp
@[simp] theorem askSync_core (s : State) (x1 : Nat) (x2 : Nat) : (askSync s x1 x2).core = s.core := by
  simp [askSync]
@[simp] theorem syncNow_core (s : State) (x1 : Nat) (x2 : Nat) : (syncNow s x1 x2).core = s.core := by
  simp [syncNow]
@[simp] theorem genEvent_core (s : State) (x1 : Nat) (x2 : Nat) (x3 : Nat) (x4 : Nat) (x5 : Nat) : (genEvent s x1 x2 x3 x4 x5).core = s.core := by
  simp [genEvent]
@[simp] theorem pageErrEvent_core (s : State) (x1 : Nat) (x2 : Nat) (x3 : Nat) : (pageErrEvent s x1 x2 x3).core = s.core := by
  unfold pageErrEvent; (repeat' split) <;> simp
@[simp] theorem raiseErr_core (s : State) (x1 : Nat) (x2 : Nat) : (raiseErr s x1 x2).core = s.core := by
  simp [raiseErr]
@[simp] theorem raiseK_core (s : State) (x1 : PageKind) (x2 : Nat) (x3 : Nat) : (raiseK s x1 x2 x3).core = s.core := by
  simp [raiseK]
@[simp] theorem accessErr_core (s : State) (x1 : PageKind) (x2 : Nat) : (accessErr s x1 x2).core = s.core := by
  simp [accessErr]
@[simp] theorem unitEvent_core (s : State) (x1 : Nat) (x2 : Option Nat) (x3 : Nat) (x4 : Nat) (x5 : Nat) (x6 : Nat) : (unitEvent s x1 x2 x3 x4 x5 x6).core = s.core := by
  simp [unitEvent]
@[simp] theorem askSyncHalf_core (s : State) (x1 : Half) (x2 : Nat) : (askSyncHalf s x1 x2).core = s.core := by
  simp [askSyncHalf]
@[simp] theorem serveBanks_core (s : State) (x1 : Nat) (x2 : Nat) (x3 : List Nat) : (serveBanks s x1 x2 x3).core = s.core := by
  simp [serveBanks]
@[simp] theorem loseBanks_core (s : State) (x1 : Nat) (x2 : Nat) (x3 : List Nat) : (loseBanks s x1 x2 x3).core = s.core := by
  simp [loseBanks]
@[simp] theorem wakeTile_core (s : State) (x1 : Nat) : (wakeTile s x1).core = s.core := by
  simp [wakeTile]
@[simp] theorem semInc_core (s : State) (x1 : Nat) (x2 : Nat) (x3 : Nat) : (semInc s x1 x2 x3).core = s.core := by
  simp [semInc]
@[simp] theorem semIncOpt_core (s : State) (x1 : Nat) (x2 : Option Nat) : (semIncOpt s x1 x2).core = s.core := by
  unfold semIncOpt; split <;> simp
@[simp] theorem pushEntry_core (s : State) (x1 : Nat) (x2 : Nat) (x3 : QEntry) : (pushEntry s x1 x2 x3).core = s.core := by
  simp [pushEntry]
@[simp] theorem secAppend_core (s : State) (x1 : Nat) (x2 : Nat) (x3 : Nat) : (secAppend s x1 x2 x3).core = s.core := by
  simp [secAppend]
@[simp] theorem secEvent_core (s : State) (x1 : Nat) (x2 : Nat) (x3 : Nat) (x4 : Nat) : (secEvent s x1 x2 x3 x4).core = s.core := by
  simp [secEvent]
@[simp] theorem tenantEvent_core (s : State) (x1 : Nat) (x2 : Nat) (x3 : Nat) (x4 : Nat) (x5 : Nat) (x6 : Nat) : (tenantEvent s x1 x2 x3 x4 x5 x6).core = s.core := by
  simp [tenantEvent]
@[simp] theorem putArb_core (s : State) (x1 : Nat) (x2 : Arb) : (putArb s x1 x2).core = s.core := by
  simp [putArb]
@[simp] theorem raiseReq_core (s : State) (x1 : Nat) (x2 : Req) : (raiseReq s x1 x2).core = s.core := by
  simp [raiseReq]
@[simp] theorem joinReq_core (s : State) (x1 : Nat) (x2 : Req) (x3 : Req → Bool) (x4 : Req → Req) : (joinReq s x1 x2 x3 x4).core = s.core := by
  simp [joinReq]
@[simp] theorem injectFlit_core (s : State) (x1 : Flit) : (injectFlit s x1).core = s.core := by
  simp [injectFlit]
@[simp] theorem dropFlits_core (s : State) (x1 : FlitWhat → Bool) : (dropFlits s x1).core = s.core := by
  simp [dropFlits]
@[simp] theorem sendCellFlits_core (s : State) (x1 : Flit) (x2 : List Byte) (x3 : List Byte) : (sendCellFlits s x1 x2 x3).core = s.core := by
  simp [sendCellFlits]
@[simp] theorem cellToPort_core (s : State) (x1 : Nat) (x2 : Nat) (x3 : Nat) (x4 : Cell) : (cellToPort s x1 x2 x3 x4).core = s.core := by
  simp [cellToPort]
@[simp] theorem flitToReducer_core (s : State) (x1 : Nat) (x2 : Nat) (x3 : WvFlit) : (flitToReducer s x1 x2 x3).core = s.core := by
  simp [flitToReducer]
@[simp] theorem flitToStack_core (s : State) (x1 : Nat) (x2 : Nat) (x3 : Nat) (x4 : Nat) (x5 : Nat) (x6 : MemAsk) (x7 : List Byte) (x8 : Nat) (x9 : Nat) : (flitToStack s x1 x2 x3 x4 x5 x6 x7 x8 x9).core = s.core := by
  simp [flitToStack]
@[simp] theorem onMove_core (s : State) (x1 : Nat) (x2 : Nat) (x3 : Move → Move) : (onMove s x1 x2 x3).core = s.core := by
  simp [onMove]
@[simp] theorem moveFlitDone_core (s : State) (x1 : Nat) (x2 : Nat) : (moveFlitDone s x1 x2).core = s.core := by
  simp [moveFlitDone]
@[simp] theorem putPort_core (s : State) (x1 : Nat) (x2 : Port) : (putPort s x1 x2).core = s.core := by
  simp [putPort]
@[simp] theorem setPartReg_core (s : State) (x1 : Nat) (x2 : Nat) (x3 : Word) : (setPartReg s x1 x2 x3).core = s.core := by
  simp [setPartReg]
@[simp] theorem spendCredit_core (s : State) (x1 : Nat) (x2 : Cell) : (spendCredit s x1 x2).core = s.core := by
  simp [spendCredit]
@[simp] theorem grantIngress_core (s : State) (x1 : Nat) : (grantIngress s x1).core = s.core := by
  simp [grantIngress]
theorem takeIngress_core {s u : State} {p : Nat} (h : takeIngress s p = some u) : u.core = s.core := by
  unfold takeIngress at h; dsimp only at h
  (repeat' split at h) <;> simp only [reduceCtorEq, Option.some.injEq] at h <;> subst h <;> simp
@[simp] theorem dropNoCredit_core (s : State) (x1 : Nat) : (dropNoCredit s x1).core = s.core := by
  simp [dropNoCredit]
@[simp] theorem freeIngress_core (s : State) (x1 : Nat) : (freeIngress s x1).core = s.core := by
  simp [freeIngress]
@[simp] theorem meterCell_core (s : State) (x1 : Nat) (x2 : Nat) : (meterCell s x1 x2).core = s.core := by
  simp [meterCell]
@[simp] theorem queueCell_core (s : State) (x1 : Nat) (x2 : Nat) (x3 : Cell) : (queueCell s x1 x2 x3).core = s.core := by
  unfold queueCell; split <;> simp
@[simp] theorem portHolds_core (s : State) (x1 : Nat) : (portHolds s x1).core = s.core := by
  simp [portHolds]
@[simp] theorem portsTick_core (s : State) : (portsTick s).core = s.core := by
  simp [portsTick]
@[simp] theorem failStart_core (s : State) (x1 : Nat) (x2 : Nat) : (failStart s x1 x2).core = s.core := by
  simp [failStart]
@[simp] theorem putEntry_core (s : State) (x1 : Half) (x2 : Nat) (x3 : Entry) : (putEntry s x1 x2 x3).core = s.core := by
  simp [putEntry]
@[simp] theorem schedAction_core (s : State) (x : Half) (n code : Nat) (is : Entry → Bool) (f : State → Entry → State) (h : ∀ u e, (f u e).core = u.core) : (schedAction s x n code is f).core = s.core := by
  unfold schedAction; (try dsimp only); (repeat' split) <;> simp [h]
@[simp] theorem countMissed_core (s : State) (x1 : Half) (x2 : Nat) : (countMissed s x1 x2).core = s.core := by
  simp [countMissed]
@[simp] theorem putPart_core (s : State) (x1 : Nat) (x2 : Part) : (putPart s x1 x2).core = s.core := by
  simp [putPart]
@[simp] theorem withdrawUse_core (s : State) (x1 : MemUse → Bool) : (withdrawUse s x1).core = s.core := by
  simp [withdrawUse]
@[simp] theorem askStack_core (s : State) (x1 : Nat) (x2 : Nat) (x3 : Nat) (x4 : Bool) (x5 : List (MemAsk × List Byte)) : (askStack s x1 x2 x3 x4 x5).core = s.core := by
  unfold askStack; split <;> simp
@[simp] theorem suspendBurst_core (s : State) (x1 : Nat) : (suspendBurst s x1).core = s.core := by
  simp [suspendBurst]
@[simp] theorem countGrant_core (s : State) (x1 : PageKind) (x2 : Nat) (x3 : Nat) (x4 : Half) (x5 : Req) : (countGrant s x1 x2 x3 x4 x5).core = s.core := by
  simp [countGrant]
@[simp] theorem clampSeen_core (s : State) (x1 : PageKind) (x2 : Nat) (x3 : Nat) (x4 : Half) : (clampSeen s x1 x2 x3 x4).core = s.core := by
  simp [clampSeen]
@[simp] theorem joinStack_core (s : State) (x1 : Flit) (x2 : MemAsk) (x3 : Nat) : (joinStack s x1 x2 x3).core = s.core := by
  simp [joinStack]
@[simp] theorem joinPort_core (s : State) (x1 : Flit) (x2 : Nat) (x3 : Cell) : (joinPort s x1 x2 x3).core = s.core := by
  simp [joinPort]
@[simp] theorem countSendFlit_core (s : State) (x1 : Option Nat) : (countSendFlit s x1).core = s.core := by
  unfold countSendFlit; split <;> simp
@[simp] theorem freezeTargets_core (s : State) (x1 : PageKind) (x2 : Nat) : (freezeTargets s x1 x2).core = s.core := by
  simp [freezeTargets]
@[simp] theorem countMemErr_core (s : State) (x1 : Nat) (x2 : Nat) : (countMemErr s x1 x2).core = s.core := by
  simp [countMemErr]
@[simp] theorem entryReturns_core (s : State) (x1 : ChEntry) : (entryReturns s x1).core = s.core := by
  unfold entryReturns; split <;> simp
@[simp] theorem feRegs_core (s : State) (x1 : Half) (x2 : Nat) (x3 : Nat) (x4 : Nat) : (feRegs s x1 x2 x3 x4).core = s.core := by
  simp [feRegs]
@[simp] theorem feRefuse_core (s : State) (x1 : Half) (x2 : Nat) : (feRefuse s x1 x2).core = s.core := by
  simp [feRefuse]
@[simp] theorem feStatus_core (s : State) (x1 : Half) (x2 : Nat) (x3 : Nat) : (feStatus s x1 x2 x3).core = s.core := by
  simp [feStatus]
@[simp] theorem askSpan_core (s : State) (x1 : Half) (x2 : Nat) (x3 : Bool) : (askSpan s x1 x2 x3).core = s.core := by
  simp [askSpan]
theorem onPwr_core (s : State) (f : State → Nat → State) (h : ∀ u i, (f u i).core = u.core) : (onPwr s f).core = s.core := by
  unfold onPwr; split
  · exact (h _ _).trans (h _ _)
  · exact h _ _
@[simp] theorem raisePwr_core (s : State) (b : Nat) : (raisePwr s b).core = s.core := onPwr_core _ _ fun _ _ => by simp
@[simp] theorem badStrobe_core (s : State) : (badStrobe s).core = s.core := onPwr_core _ _ fun _ _ => by simp
@[simp] theorem settleGates_core (s : State) : (settleGates s).core = s.core := by
  simp [settleGates]
@[simp] theorem chargeGate_core (s : State) (x1 : Nat) (x2 : Nat) : (chargeGate s x1 x2).core = s.core := by
  simp [chargeGate]
@[simp] theorem putSes_core (s : State) (x1 : Nat) (x2 : Session) : (putSes s x1 x2).core = s.core := by
  simp [putSes]
@[simp] theorem onSes_core (s : State) (x1 : Nat) (x2 : Session → Session) : (onSes s x1 x2).core = s.core := by
  simp [onSes]
@[simp] theorem onEp_core (s : State) (x1 : Nat) (x2 : Nat) (x3 : Epoch → Epoch) : (onEp s x1 x2 x3).core = s.core := by
  simp [onEp]
@[simp] theorem sesCount_core (s : State) (x1 : Session) (x2 : Nat) : (sesCount s x1 x2).core = s.core := by
  simp [sesCount]
@[simp] theorem nextTurn_core (s : State) (x1 : Half) (x2 : Nat) : (nextTurn s x1 x2).core = s.core := by
  simp [nextTurn]
@[simp] theorem onWvEp_core (s : State) (x1 : Nat) (x2 : Nat) (x3 : WvEpoch → WvEpoch) : (onWvEp s x1 x2 x3).core = s.core := by
  simp [onWvEp]
@[simp] theorem dropWvEp_core (s : State) (x1 : Nat) (x2 : Nat) : (dropWvEp s x1 x2).core = s.core := by
  simp [dropWvEp]
@[simp] theorem countSkipped_core (s : State) (x1 : Half) (x2 : Nat) (x3 : Nat) : (countSkipped s x1 x2 x3).core = s.core := by
  simp [countSkipped]
@[simp] theorem distinct_core (s : State) (k n : Nat) (l : List Nat) : (distinct s k n l).2.core = s.core := by
  induction k generalizing n l with
  | zero => rfl
  | succ k ih => unfold distinct; exact ih _ _
@[simp] theorem placeGroup_core (s : State) (x1 : Nat) (x2 : Nat) (x3 : Nat) (x4 : Option Nat) (x5 : Nat) : (placeGroup s x1 x2 x3 x4 x5).core = s.core := by
  unfold placeGroup; dsimp only; split <;> simp
@[simp] theorem sampleEpoch_core (s : State) (x1 : Nat) (x2 : Nat) : (sampleEpoch s x1 x2).core = s.core := by
  simp [sampleEpoch]
@[simp] theorem voidGroup_core (s : State) (x1 : Nat) : (voidGroup s x1).core = s.core := by
  unfold voidGroup; split <;> simp
@[simp] theorem voidGroups_core (s : State) (x1 : WvGroup → Bool) : (voidGroups s x1).core = s.core := by
  simp [voidGroups]
@[simp] theorem voidEpoch_core (s : State) (x1 : Nat) (x2 : Nat) : (voidEpoch s x1 x2).core = s.core := by
  simp [voidEpoch]
@[simp] theorem sendCopies_core (s : State) (x1 : Nat) (x2 : Nat) (x3 : Nat) (x4 : Nat) (x5 : Nat) (x6 : Nat) (x7 : Nat) (x8 : List (Nat × Nat)) : (sendCopies s x1 x2 x3 x4 x5 x6 x7 x8).core = s.core := by
  simp [sendCopies]
@[simp] theorem sendStates_core (s : State) (x1 : Nat) (x2 : Nat) (x3 : Nat) (x4 : Nat) (x5 : Nat) (x6 : Nat) : (sendStates s x1 x2 x3 x4 x5 x6).core = s.core := by
  simp [sendStates]
@[simp] theorem normCode_core (s : State) (x1 : Option (Nat × Int)) (x2 : Nat × Int) : (normCode s x1 x2).2.core = s.core := by
  unfold normCode; dsimp only; (repeat' split) <;> simp
@[simp] theorem measure_core (s : State) (x1 : Session) (x2 : List WvGroup) : (measure s x1 x2).2.core = s.core := by
  unfold measure; dsimp only; (repeat' split) <;> simp
@[simp] theorem noteKids_core (s : State) (x1 : Nat) (x2 : Nat) : (noteKids s x1 x2).core = s.core := by
  simp [noteKids]
@[simp] theorem followAdvice_core (s : State) (x1 : Nat) (x2 : Nat) (x3 : Nat) : (followAdvice s x1 x2 x3).core = s.core := by
  unfold followAdvice; dsimp only; (repeat' split) <;> simp
@[simp] theorem formAdvice_core (s : State) (x1 : Nat) (x2 : Nat) (x3 : Nat) : (formAdvice s x1 x2 x3).1.core = s.core := by
  unfold formAdvice; dsimp only; split <;> simp
@[simp] theorem sendCell_core (s : State) (x1 : Nat) (x2 : Cell) : (sendCell s x1 x2).core = s.core := by
  unfold sendCell; dsimp only; split <;> simp
@[simp] theorem sendCtrl_core (s : State) (x1 : Nat) (x2 : Nat) (x3 : Nat) (x4 : Edge) (x5 : Msg) (x6 : Bool) : (sendCtrl s x1 x2 x3 x4 x5 x6).core = s.core := by
  simp [sendCtrl]
@[simp] theorem sendAll_core (s : State) (x1 : Nat) (x2 : Nat) (x3 : Nat) (x4 : List Nat) (x5 : Msg) (x6 : Bool) : (sendAll s x1 x2 x3 x4 x5 x6).core = s.core := by
  simp [sendAll]
@[simp] theorem sendRanged_core (s : State) (x1 : Nat) (x2 : Nat) (x3 : Nat) (x4 : Edge) (x5 : Msg) (x6 : List RankRange) (x7 : Bool) : (sendRanged s x1 x2 x3 x4 x5 x6 x7).core = s.core := by
  simp [sendRanged]
@[simp] theorem sendDone_core (s : State) (x1 : Nat) (x2 : Nat) (x3 : Bool) : (sendDone s x1 x2 x3).core = s.core := by
  simp [sendDone]
@[simp] theorem pushMarker_core (s : State) (x1 : Nat) (x2 : Nat) (x3 : QEntry) : (pushMarker s x1 x2 x3).core = s.core := by
  unfold pushMarker; dsimp only; split <;> simp
@[simp] theorem flushPart_core (s : State) (x1 : Nat) (x2 : Nat) (x3 : Nat) : (flushPart s x1 x2 x3).core = s.core := by
  unfold flushPart; dsimp only; (repeat' split) <;> simp
@[simp] theorem flushMarkers_core (s : State) (x1 : Nat) (x2 : Nat) : (flushMarkers s x1 x2).core = s.core := by
  simp [flushMarkers]
@[simp] theorem sendCopy_core (s : State) (x1 : Nat) (x2 : OutSeg) (x3 : Nat) : (sendCopy s x1 x2 x3).1.core = s.core := by
  unfold sendCopy; dsimp only; (repeat' split) <;> simp
@[simp] theorem sendSeg_core (s : State) (x1 : Nat) (x2 : OutSeg) : (sendSeg s x1 x2).1.core = s.core := by
  unfold sendSeg; split <;> simp
@[simp] theorem pump_core (s : State) (x1 : Nat) : (pump s x1).core = s.core := by
  simp [pump]
@[simp] theorem sendGrant_core (s : State) (x1 : Nat) (x2 : Nat) (x3 : Nat) (x4 : Edge) (x5 : List Credit) : (sendGrant s x1 x2 x3 x4 x5).core = s.core := by
  simp [sendGrant]
@[simp] theorem batchCredit_core (s : State) (x1 : Nat) (x2 : Nat) (x3 : Nat) (x4 : Edge) (x5 : Credit) : (batchCredit s x1 x2 x3 x4 x5).core = s.core := by
  simp [batchCredit]
@[simp] theorem reserveSlot_core (s : State) (x1 : Nat) (x2 : Nat) (x3 : Nat) (x4 : Nat) (x5 : Nat) (x6 : Nat) (x7 : Nat) (x8 : Nat) (x9 : Nat) : (reserveSlot s x1 x2 x3 x4 x5 x6 x7 x8 x9).core = s.core := by
  simp [reserveSlot]
@[simp] theorem countIssued_core (s : State) (x1 : Nat) (x2 : Nat) (x3 : Nat) : (countIssued s x1 x2 x3).core = s.core := by
  simp [countIssued]
@[simp] theorem creditData_core (s : State) (x1 : Nat) (x2 : Nat) (x3 : Nat) (x4 : Nat) (x5 : Nat) (x6 : Nat × Contrib) (x7 : Nat) : (creditData s x1 x2 x3 x4 x5 x6 x7).core = s.core := by
  simp [creditData]
@[simp] theorem creditResult_core (s : State) (x1 : Nat) (x2 : Nat) (x3 : Nat) (x4 : Nat) (x5 : Nat) (x6 : Nat) : (creditResult s x1 x2 x3 x4 x5 x6).core = s.core := by
  simp [creditResult]
theorem creditOne_core {s u : State} {x1 x2 x3 : Nat} (h : creditOne s x1 x2 x3 = some u) : u.core = s.core := by
  unfold creditOne at h; dsimp only at h
  (repeat' split at h) <;> simp only [reduceCtorEq, Option.map_eq_some_iff] at h <;> obtain ⟨_, _, rfl⟩ := h <;> simp
@[simp] theorem creditPart_core (n : Nat) (s : State) (x2 x3 x4 : Nat) : (creditPart n s x2 x3 x4).core = s.core := by
  induction n generalizing s with
  | zero => rfl
  | succ n ih =>
    unfold creditPart; split
    · rename_i h; rw [ih]; exact creditOne_core h
    · rfl
@[simp] theorem grantAll_core (s : State) (x1 : Nat) (x2 : Nat) : (grantAll s x1 x2).core = s.core := by
  simp [grantAll]
@[simp] theorem cancelStart_core (s : State) (x1 : Nat) (x2 : Nat) : (cancelStart s x1 x2).core = s.core := by
  unfold cancelStart; dsimp only; split <;> simp
@[simp] theorem decided_core (s : State) (x1 : Nat) (x2 : Nat) (x3 : Decision) : (decided s x1 x2 x3).core = s.core := by
  simp [decided]
@[simp] theorem releaseHeld_core (s : State) (x1 : Nat) (x2 : Nat) (x3 : Bool) : (releaseHeld s x1 x2 x3).core = s.core := by
  simp [releaseHeld]
@[simp] theorem takeOutcome_core (s : State) (x1 : Nat) (x2 : Nat) (x3 : Decision) : (takeOutcome s x1 x2 x3).core = s.core := by
  simp [takeOutcome]
@[simp] theorem fixOutcome_core (s : State) (x1 : Nat) (x2 : Nat) : (fixOutcome s x1 x2).core = s.core := by
  simp [fixOutcome]
@[simp] theorem praise_core (s : State) (x1 : Nat) (x2 : Nat) : (praise s x1 x2).core = s.core := by
  simp [praise]
@[simp] theorem settleEpoch_core (s : State) (x1 : Nat) (x2 : Nat) : (settleEpoch s x1 x2).core = s.core := by
  simp [settleEpoch]
@[simp] theorem trySettle_core (s : State) (x1 : Nat) (x2 : Nat) : (trySettle s x1 x2).core = s.core := by
  simp [trySettle]
@[simp] theorem failFixed_core (s : State) (x1 : Nat) (x2 : Nat) (x3 : Nat) : (failFixed s x1 x2 x3).core = s.core := by
  simp [failFixed]
@[simp] theorem failEpoch_core (s : State) (x1 : Nat) (x2 : Nat) (x3 : Nat) : (failEpoch s x1 x2 x3).core = s.core := by
  unfold failEpoch; dsimp only; split <;> simp
@[simp] theorem uncommit_core (s : State) (x1 : Nat) (x2 : Nat) : (uncommit s x1 x2).core = s.core := by
  simp [uncommit]
@[simp] theorem sendOutcome_core (s : State) (x1 : Nat) (x2 : Nat) (x3 : Nat) (x4 : Nat) (x5 : Decision) (x6 : Bool) : (sendOutcome s x1 x2 x3 x4 x5 x6).core = s.core := by
  simp [sendOutcome]
@[simp] theorem tryOutcome_core (s : State) (x1 : Nat) (x2 : Nat) : (tryOutcome s x1 x2).core = s.core := by
  unfold tryOutcome; dsimp only; (repeat' split) <;> simp
@[simp] theorem advance_core (s : State) (x1 : Nat) (x2 : Nat) : (advance s x1 x2).core = s.core := by
  simp [advance]
@[simp] theorem reactEp_core (s : State) (x1 : Nat) (x2 : Nat) : (reactEp s x1 x2).core = s.core := by
  simp [reactEp]
@[simp] theorem react_core (s : State) (x1 : Nat) : (react s x1).core = s.core := by
  simp [react]
@[simp] theorem freeFilledAs_core (s : State) (x1 : Nat) (x2 : Nat) (x3 : Nat) : (freeFilledAs s x1 x2 x3).core = s.core := by
  simp [freeFilledAs]
@[simp] theorem freeFilled_core (s : State) (x1 : Nat) (x2 : Nat) : (freeFilled s x1 x2).core = s.core := by
  simp [freeFilled]
@[simp] theorem failTile_core (s : State) (x1 : Nat) (x2 : Bool) : (failTile s x1 x2).core = s.core := by
  simp [failTile]
@[simp] theorem programFault_core (s : State) (x1 : Nat) (x2 : Nat) (x3 : Nat) : (programFault s x1 x2 x3).core = s.core := by
  simp [programFault]
@[simp] theorem missOnce_core (s : State) (x1 : Nat) (x2 : Nat) : (missOnce s x1 x2).core = s.core := by
  simp [missOnce]
@[simp] theorem excludeOne_core (s : State) (x1 : Nat) (x2 : Nat) (x3 : Nat) : (excludeOne s x1 x2 x3).core = s.core := by
  simp [excludeOne]
@[simp] theorem applyPolicy_core (s : State) (x1 : Nat) (x2 : Nat) (x3 : Nat) : (applyPolicy s x1 x2 x3).core = s.core := by
  simp [applyPolicy]
@[simp] theorem goesMissing_core (s : State) (x1 : Nat) (x2 : Nat) (x3 : Nat) : (goesMissing s x1 x2 x3).core = s.core := by
  simp [goesMissing]
@[simp] theorem noteRefusal_core (s : State) (x1 : Session) (x2 : Nat) : (noteRefusal s x1 x2).core = s.core := by
  simp [noteRefusal]
@[simp] theorem sendAck_core (s : State) (x1 : Nat) (x2 : Nat) (x3 : Nat) : (sendAck s x1 x2 x3).core = s.core := by
  simp [sendAck]
@[simp] theorem tryAck_core (s : State) (x1 : Nat) (x2 : Nat) : (tryAck s x1 x2).core = s.core := by
  simp [tryAck]
@[simp] theorem acceptArm_core (s : State) (x1 : Nat) (x2 : Nat) (x3 : Nat) : (acceptArm s x1 x2 x3).core = s.core := by
  simp [acceptArm]
@[simp] theorem holdStart_core (s : State) (x1 : Nat) (x2 : Nat) (x3 : Nat) : (holdStart s x1 x2 x3).core = s.core := by
  simp [holdStart]
@[simp] theorem openPart_core (s : State) (x1 : Nat) (x2 : Nat) (x3 : Nat) : (openPart s x1 x2 x3).core = s.core := by
  unfold openPart; dsimp only; split <;> simp
@[simp] theorem applyFromStart_core (s : State) (x1 : Nat) (x2 : Nat) : (applyFromStart s x1 x2).core = s.core := by
  simp [applyFromStart]
@[simp] theorem openEpoch_core (s : State) (x1 : Nat) (x2 : Nat) (x3 : Nat) : (openEpoch s x1 x2 x3).core = s.core := by
  unfold openEpoch; dsimp only; (repeat' split) <;> simp
@[simp] theorem noteIssue_core (s : State) (x1 : Nat) (x2 : Nat) : (noteIssue s x1 x2).core = s.core := by
  simp [noteIssue]
@[simp] theorem setPc_core (s : State) (x1 : Nat) (x2 : Nat) : (setPc s x1 x2).core = s.core := by
  simp [setPc]
@[simp] theorem advancePc_core (s : State) (x1 : Nat) (x2 : Nat) : (advancePc s x1 x2).core = s.core := by
  simp [advancePc]
@[simp] theorem completes_core (s : State) (x1 : Nat) (x2 : Ins) : (completes s x1 x2).core = s.core := by
  simp [completes]
/-- What an instruction's own meaning leaves as it was. -/
def Did.core (s : State) : Did → Prop
  | .fault _ => True
  | .done u => u.core = s.core
  | .jump u _ => u.core = s.core
  | .later u => u.core = s.core
  | .waits u => u.core = s.core
  | .halts u => u.core = s.core
theorem finish_core {s : State} {t n : Nat} {i : Ins} {d : Did} (h : d.core s) : (finish s t n i d).core = s.core := by
  cases d <;> simp only [Did.core] at h <;> simp only [finish] <;> (try split) <;> simp [h]
@[simp] theorem payGate_core (s : State) (x1 : Nat) (x2 : Ins) (x3 : Bool) : (payGate s x1 x2 x3).core = s.core := by
  simp [payGate]
@[simp] theorem traceData_core (s : State) (x1 : Nat) (x2 : Nat) (x3 : Nat) (x4 : Nat) (x5 : Nat) (x6 : List Byte) : (traceData s x1 x2 x3 x4 x5 x6).core = s.core := by
  unfold traceData; dsimp only; (repeat' split) <;> simp
@[simp] theorem beginWait_core (s : State) (x1 : Nat) (x2 : ProgSt) (x3 : WaitSt) : (beginWait s x1 x2 x3).core = s.core := by
  simp [beginWait]
@[simp] theorem endWait_core (s : State) (x1 : Nat) (x2 : Tile → Tile) : (endWait s x1 x2).core = s.core := by
  simp [endWait]
@[simp] theorem freeRxSlot_core (s : State) (x1 : Nat) (x2 : Nat) : (freeRxSlot s x1 x2).core = s.core := by
  simp [freeRxSlot]
@[simp] theorem cellTaken_core (s : State) (x1 : RxSlot) : (cellTaken s x1).core = s.core := by
  simp [cellTaken]
@[simp] theorem afterDraws_core (s : State) (x1 : Nat) (x2 : Ins) : (afterDraws s x1 x2).core = s.core := by
  simp [afterDraws]
@[simp] theorem noteNum_core (s : State) (x1 : Nat) (x2 : Bool) (x3 : Bool) (x4 : Bool) (x5 : Bool) : (noteNum s x1 x2 x3 x4 x5).core = s.core := by
  simp [noteNum]
@[simp] theorem noteSat_core (s : State) (x1 : Nat) (x2 : Nat) : (noteSat s x1 x2).core = s.core := by
  simp [noteSat]
@[simp] theorem beginMove_core (s : State) (x1 : Nat) (x2 : Move) : (beginMove s x1 x2).core = s.core := by
  simp [beginMove]
@[simp] theorem readSource_core (s : State) (x1 : Nat) (x2 : Nat) (x3 : Nat) : (readSource s x1 x2 x3).2.core = s.core := by
  unfold readSource; split <;> simp
@[simp] theorem sendBurst_core (s : State) (x1 : Nat) (x2 : Nat) (x3 : Nat) (x4 : Nat) (x5 : Bool) (x6 : List Byte) (x7 : List (Nat × Nat × Nat)) : (sendBurst s x1 x2 x3 x4 x5 x6 x7).core = s.core := by
  unfold sendBurst; (try dsimp only); repeat' (first | (simp; done) | split | (with_reducible refine (foldl_core _ (fun _ _ => ?_) _ _).trans ?_) | simp)
@[simp] theorem sendToStacks_core (s : State) (x1 : Nat) (x2 : Nat) (x3 : Nat) (x4 : Nat) (x5 : Bool) (x6 : Nat) (x7 : List Byte) : (sendToStacks s x1 x2 x3 x4 x5 x6 x7).core = s.core := by
  simp [sendToStacks]
@[simp] theorem beginMem_core (s : State) (x1 : Nat) (x2 : Ins) (x3 : Nat) (x4 : Nat) (x5 : Nat) (x6 : Nat) (x7 : List Byte) : (beginMem s x1 x2 x3 x4 x5 x6 x7).core = s.core := by
  simp [beginMem]
@[simp] theorem sendFlits_core (s : State) (x1 : Nat) (x2 : Nat) (x3 : Nat) (x4 : Nat) (x5 : Nat) (x6 : List Byte) : (sendFlits s x1 x2 x3 x4 x5 x6).core = s.core := by
  simp [sendFlits]
@[simp] theorem consumeRx_core (s : State) (x1 : Nat) (x2 : Nat) (x3 : Nat) : (consumeRx s x1 x2 x3).core = s.core := by
  simp [consumeRx]
@[simp] theorem takeSend_core (s : State) (x1 : Nat) (x2 : Move) (x3 : List Byte) : (takeSend s x1 x2 x3).core = s.core := by
  unfold takeSend; dsimp only; split <;> simp
@[simp] theorem moveEffect_core (s : State) (x1 : Nat) (x2 : Move) : (moveEffect s x1 x2).core = s.core := by
  unfold moveEffect; split <;> simp
@[simp] theorem setLanes_core (s : State) (x1 : Nat) (x2 : Ins) (x3 : List Word) : (setLanes s x1 x2 x3).core = s.core := by
  simp [setLanes]
@[simp] theorem traceLanes_core (s : State) (x1 : Nat) (x2 : Nat) (x3 : Nat) (x4 : Ins) (x5 : List Byte) (x6 : Nat) (x7 : List Byte) : (traceLanes s x1 x2 x3 x4 x5 x6 x7).core = s.core := by
  simp [traceLanes]
@[simp] theorem noteNarrowed_core (s : State) (x1 : Nat) (x2 : NarrowedLanes) (x3 : Bool) : (noteNarrowed s x1 x2 x3).core = s.core := by
  simp [noteNarrowed]
@[simp] theorem chooseAudit_core (s : State) (x1 : Nat) (x2 : Tmma) (x3 : Tbl Word) : (chooseAudit s x1 x2 x3).core = s.core := by
  unfold chooseAudit; dsimp only; (repeat' split) <;> simp
@[simp] theorem fillData_core (s : State) (x1 : Nat) (x2 : Nat) (x3 : RxSlot) : (fillData s x1 x2 x3).core = s.core := by
  simp [fillData]
@[simp] theorem fillResult_core (s : State) (x1 : Nat) (x2 : Nat) (x3 : RxSlot) : (fillResult s x1 x2 x3).core = s.core := by
  simp [fillResult]
@[simp] theorem lullPacket_core (s : State) (x1 : Nat) (x2 : Nat) : (lullPacket s x1 x2).core = s.core := by
  simp [lullPacket]
@[simp] theorem seedTile_core (s : State) (x1 : Nat) : (seedTile s x1).core = s.core := by
  simp [seedTile]
@[simp] theorem wakePacket_core (s : State) (x1 : Nat) (x2 : Nat) (x3 : Nat) : (wakePacket s x1 x2 x3).core = s.core := by
  simp [wakePacket]
@[simp] theorem sramOpened_core (s : State) (x1 : Nat) : (sramOpened s x1).core = s.core := by
  simp [sramOpened]
@[simp] theorem tileStarting_core (s : State) (x1 : Nat) : (tileStarting s x1).core = s.core := by
  simp [tileStarting]
@[simp] theorem tileStarted_core (s : State) (x1 : Nat) : (tileStarted s x1).core = s.core := by
  simp [tileStarted]
@[simp] theorem tileStopping_core (s : State) (x1 : Nat) : (tileStopping s x1).core = s.core := by
  simp [tileStopping]
@[simp] theorem tileStopDone_core (s : State) (x1 : Nat) : (tileStopDone s x1).core = s.core := by
  simp [tileStopDone]
@[simp] theorem tileStopped_core (s : State) (x1 : Nat) : (tileStopped s x1).core = s.core := by
  simp [tileStopped]
@[simp] theorem sessionLosesTime_core (s : State) (x1 : Nat) : (sessionLosesTime s x1).core = s.core := by
  unfold sessionLosesTime; dsimp only; (repeat' split) <;> simp
@[simp] theorem settleSchedule_core (s : State) (x1 : Half) : (settleSchedule s x1).core = s.core := by
  simp [settleSchedule]
@[simp] theorem settlePorts_core (s : State) (x1 : Half) : (settlePorts s x1).core = s.core := by
  simp [settlePorts]
@[simp] theorem settleOrphans_core (s : State) (x1 : Half) : (settleOrphans s x1).core = s.core := by
  simp [settleOrphans]
@[simp] theorem settleCalm_core (s : State) (x1 : Half) : (settleCalm s x1).core = s.core := by
  unfold settleCalm; dsimp only; split <;> simp
@[simp] theorem gainTime_core (s : State) (x1 : Half) : (gainTime s x1).core = s.core := by
  simp [gainTime]
@[simp] theorem notePhase_core (s : State) (x1 : Half) (x2 : Int) : (notePhase s x1 x2).core = s.core := by
  simp [notePhase]
@[simp] theorem checkSkew_core (s : State) (x1 : Half) : (checkSkew s x1).core = s.core := by
  simp [checkSkew]
@[simp] theorem acceptEntry_core (s : State) (x1 : Half) (x2 : Nat) (x3 : Entry) : (acceptEntry s x1 x2 x3).core = s.core := by
  simp [acceptEntry]
@[simp] theorem armTriggers_core (s : State) (x1 : Half) (x2 : Nat) (x3 : Nat) : (armTriggers s x1 x2 x3).core = s.core := by
  simp [armTriggers]
@[simp] theorem tidyWv_core (s : State) (x1 : Nat) (x2 : Nat) : (tidyWv s x1 x2).core = s.core := by
  simp [tidyWv]
@[simp] theorem groupCompletes_core (s : State) (x1 : Nat) (x2 : WvGroup) : (groupCompletes s x1 x2).core = s.core := by
  simp [groupCompletes]
@[simp] theorem tookAudit_core (s : State) (x1 : Nat) (x2 : Nat) : (tookAudit s x1 x2).core = s.core := by
  simp [tookAudit]
@[simp] theorem openCode_core (s : State) (x1 : Option Nat) : (openCode s x1).2.core = s.core := by
  unfold openCode; split <;> simp
@[simp] theorem openCodes_core (s : State) (l : List (Option Nat)) : (openCodes s l).2.core = s.core := by
  induction l generalizing s with
  | nil => rfl
  | cons c l ih => unfold openCodes; dsimp only; rw [ih]; simp
@[simp] theorem wvRetire_core (s : State) (x1 : Nat) (x2 : Nat) : (wvRetire s x1 x2).core = s.core := by
  simp [wvRetire]
@[simp] theorem keysFull_core (s : State) : (keysFull s).core = s.core := by
  simp [keysFull]
@[simp] theorem onCalm_core (s : State) (x1 : Half) (x2 : Calm → Calm) : (onCalm s x1 x2).core = s.core := by
  simp [onCalm]
@[simp] theorem noteArrival_core (s : State) (x1 : Nat) (x2 : Option Nat) (x3 : CalmRec) : (noteArrival s x1 x2 x3).core = s.core := by
  simp [noteArrival]
@[simp] theorem holdCtrl_core (s : State) (x1 : Half) (x2 : Nat) (x3 : Instr) : (holdCtrl s x1 x2 x3).1.core = s.core := by
  unfold holdCtrl; split <;> simp
@[simp] theorem placeTiles_core (s : State) (x1 : Session) : (placeTiles s x1).core = s.core := by
  unfold placeTiles; (try dsimp only); repeat' (first | (simp; done) | split | (with_reducible refine (foldl_core _ (fun _ _ => ?_) _ _).trans ?_) | simp)
@[simp] theorem placeImage_core (s : State) (x1 : Nat) : (placeImage s x1).1.core = s.core := by
  unfold placeImage; dsimp only; (repeat' split) <;> simp
@[simp] theorem enterActive_core (s : State) (x1 : Nat) : (enterActive s x1).core = s.core := by
  unfold enterActive; (try dsimp only); repeat' (first | (simp; done) | split | (with_reducible refine (foldl_core _ (fun _ _ => ?_) _ _).trans ?_) | simp)
@[simp] theorem clearBindings_core (s : State) (x1 : Nat) : (clearBindings s x1).core = s.core := by
  unfold clearBindings; (try dsimp only); repeat' (first | (simp; done) | split | (with_reducible refine (foldl_core _ (fun _ _ => ?_) _ _).trans ?_) | simp)
@[simp] theorem cmdStatus_core (s : State) (x1 : Half) (x2 : Nat) (x3 : Bool) : (cmdStatus s x1 x2 x3).core = s.core := by
  simp [cmdStatus]
@[simp] theorem tryActive_core (s : State) (x1 : Nat) : (tryActive s x1).1.core = s.core := by
  unfold tryActive; dsimp only; (repeat' split) <;> simp
@[simp] theorem drainCheck_core (s : State) (x1 : Nat) : (drainCheck s x1).core = s.core := by
  simp [drainCheck]
@[simp] theorem actStart_core (s : State) (x1 : Half) (x2 : Nat) : (actStart s x1 x2).core = s.core := by
  simp [actStart]
@[simp] theorem actStop_core (s : State) (x1 : Half) (x2 : Nat) : (actStop s x1 x2).core = s.core := by
  simp [actStop]
@[simp] theorem goOrHold_core (s : State) (x : Half) (c : Instr) (f : State → State) (h : ∀ u, (f u).core = u.core) : (goOrHold s x c f).core = s.core := by
  unfold goOrHold; (try dsimp only); (repeat' split) <;> simp [h]
@[simp] theorem armStatus_core (s : State) (x1 : Half) (x2 : Nat) : (armStatus s x1 x2).core = s.core := by
  simp [armStatus]
@[simp] theorem actArm_core (s : State) (x1 : Half) (x2 : Nat) : (actArm s x1 x2).core = s.core := by
  unfold actArm; dsimp only; split <;> simp
@[simp] theorem sweep_core (s : State) (x1 : Nat) (x2 : Nat) (x3 : Nat) : (sweep s x1 x2 x3).core = s.core := by
  unfold sweep; (try dsimp only); repeat' (first | (simp; done) | split | (with_reducible refine (foldl_core _ (fun _ _ => ?_) _ _).trans ?_) | simp)
@[simp] theorem retire_core (s : State) (x1 : Nat) (x2 : Nat) : (retire s x1 x2).core = s.core := by
  simp [retire]
@[simp] theorem countClass_core (s : State) (x1 : Half) (x2 : Nat) (x3 : Option Nat) : (countClass s x1 x2 x3).core = s.core := by
  simp [countClass]
@[simp] theorem authBad_core (s : State) (x1 : Nat) (x2 : Edge) (x3 : Nat) : (authBad s x1 x2 x3).core = s.core := by
  simp [authBad]
@[simp] theorem sawPort_core (s : State) (x1 : Nat) (x2 : Edge) (x3 : Nat) : (sawPort s x1 x2 x3).core = s.core := by
  simp [sawPort]
@[simp] theorem ctrlTake_core (s : State) (k : CtrlIn) (e : Edge) (f : State → State) (h : ∀ u, (f u).core = u.core) : (ctrlTake s k e f).core = s.core := by
  unfold ctrlTake; (try dsimp only); (repeat' split) <;> simp [h]
@[simp] theorem actArmReq_core (x0 : CtrlIn) (x1 : Nat) (s : State) : (actArmReq x0 x1 s).core = s.core := by
  unfold actArmReq; dsimp only; (repeat' split) <;> simp
@[simp] theorem actArmMsg_core (x0 : CtrlIn) (x1 : Nat) (s : State) : (actArmMsg x0 x1 s).core = s.core := by
  unfold actArmMsg; dsimp only; (repeat' split) <;> simp
@[simp] theorem actArmAck_core (x0 : CtrlIn) (x1 : Nat) (s : State) : (actArmAck x0 x1 s).core = s.core := by
  simp [actArmAck]
theorem takeOrder_core {s u : State} {x1 x2 : Nat} {b : Bool} {k : Msg} (h : takeOrder s x1 x2 b k = some u) : u.core = s.core := by
  unfold takeOrder at h; dsimp only at h
  split at h
  · exact absurd h (by simp)
  · rw [Option.some.injEq] at h; rw [← h]; simp
@[simp] theorem actCommit_core (k : CtrlIn) (ft : Nat) (s : State) : (actCommit k ft s).core = s.core := by
  unfold actCommit; dsimp only; split
  · rfl
  · rename_i h; have := takeOrder_core h; (repeat' split) <;> simp [this]
@[simp] theorem disarmEpoch_core (s : State) (x1 : Nat) (x2 : Nat) : (disarmEpoch s x1 x2).core = s.core := by
  simp [disarmEpoch]
@[simp] theorem actDisarm_core (k : CtrlIn) (ft x : Nat) (s : State) : (actDisarm k ft x s).core = s.core := by
  unfold actDisarm; dsimp only; split
  · rfl
  · rename_i h; have := takeOrder_core h; (repeat' split) <;> simp [this]
@[simp] theorem resend_core (s : State) (x1 : Nat) (x2 : Nat) (x3 : SentSeg) (x4 : Nat) (x5 : Nat) (x6 : Bool) : (resend s x1 x2 x3 x4 x5 x6).core = s.core := by
  simp [resend]
@[simp] theorem tookRepeat_core (s : State) (x1 : Nat) (x2 : Nat) (x3 : SentSeg) : (tookRepeat s x1 x2 x3).core = s.core := by
  simp [tookRepeat]
@[simp] theorem takeCredit_core (s : State) (x1 : Nat) (x2 : Nat) (x3 : Edge) (x4 : Nat) (x5 : Credit) : (takeCredit s x1 x2 x3 x4 x5).core = s.core := by
  unfold takeCredit; dsimp only; split <;> simp
@[simp] theorem actGrant_core (x0 : CtrlIn) (x1 : Bool) (x2 : List Credit) (s : State) : (actGrant x0 x1 x2 s).core = s.core := by
  simp [actGrant]
@[simp] theorem actNack_core (x0 : CtrlIn) (x1 : Bool) (x2 : Nat) (x3 : Nat) (s : State) : (actNack x0 x1 x2 x3 s).core = s.core := by
  unfold actNack; dsimp only; (repeat' split) <;> simp
@[simp] theorem childFails_core (s : State) (x1 : Nat) (x2 : Nat) (x3 : Nat) : (childFails s x1 x2 x3).core = s.core := by
  simp [childFails]
@[simp] theorem lateDone_core (s : State) (x1 : CtrlIn) : (lateDone s x1).core = s.core := by
  unfold lateDone; dsimp only; split <;> simp
@[simp] theorem actDone_core (x0 : CtrlIn) (x1 : ChildDone) (s : State) : (actDone x0 x1 s).core = s.core := by
  simp [actDone]
@[simp] theorem outcomeTakes_core (s : State) (x1 : Nat) (x2 : Nat) (x3 : Decision) : (outcomeTakes s x1 x2 x3).core = s.core := by
  simp [outcomeTakes]
@[simp] theorem actOutcome_core (x0 : CtrlIn) (x1 : Decision) (x2 : Bool) (s : State) : (actOutcome x0 x1 x2 s).core = s.core := by
  simp [actOutcome]
@[simp] theorem sendNack_core (s : State) (x1 : Nat) (x2 : Nat) (x3 : Nat) (x4 : Nat) (x5 : Nat) : (sendNack s x1 x2 x3 x4 x5).core = s.core := by
  simp [sendNack]
@[simp] theorem crcNack_core (s : State) (x1 : Nat) (x2 : Nat) (x3 : Nat) (x4 : RxSlot) : (crcNack s x1 x2 x3 x4).core = s.core := by
  simp [crcNack]
@[simp] theorem acceptCell_core (s : State) (c : CellIn) (t slot : Nat) (r : RxSlot) : (acceptCell s c t slot r).core = s.core := by
  unfold acceptCell; dsimp only; rw [sawPort_core, sendCellFlits_core, onSes_core]
  exact onTile_core ..
@[simp] theorem refuseFormat_core (s : State) (x1 : CellIn) (x2 : RxSlot) : (refuseFormat s x1 x2).core = s.core := by
  simp [refuseFormat]
@[simp] theorem lateCell_core (s : State) (x1 : CellId) : (lateCell s x1).core = s.core := by
  simp [lateCell]
@[simp] theorem classAction_core (s : State) (x1 : Nat) (x2 : CellIn) (x3 : Nat) (x4 : Nat) (x5 : Nat) (x6 : RxSlot) : (classAction s x1 x2 x3 x4 x5 x6).core = s.core := by
  unfold classAction; split <;> simp
@[simp] theorem onStream_core (s : State) (x1 : Nat) (x2 : Stream → Stream) : (onStream s x1 x2).core = s.core := by
  simp [onStream]
@[simp] theorem beginCapture_core (s : State) (x1 : Nat) : (beginCapture s x1).core = s.core := by
  simp [beginCapture]
@[simp] theorem recapture_core (b s : State) (l : List Nat) : (recapture b s l).core = s.core := by
  unfold recapture; refine foldl_core _ (fun _ _ => ?_) _ _; (try dsimp only); (repeat' split) <;> simp
@[simp] theorem rechannel_core (b s : State) : (rechannel b s).core = s.core := by
  unfold rechannel; (try dsimp only); repeat' (first | (simp; done) | split | (with_reducible apply foldl_core; intros) | simp)
@[simp] theorem retile_core (b s : State) (k : Nat) : (retile b s k).core = s.core := by
  unfold retile; simp
@[simp] theorem emit_core (s : State) (x1 : Nat) (x2 : Bool) (x3 : Bool → Nat → List Byte) : (emit s x1 x2 x3).core = s.core := by
  simp [emit]
@[simp] theorem calmPackets_core (s : State) (x1 : Half) (x2 : Nat) (x3 : Nat) (x4 : Nat) : (calmPackets s x1 x2 x3 x4).core = s.core := by
  simp [calmPackets]
@[simp] theorem withdrawCell_core (s : State) (x1 : Nat) : (withdrawCell s x1).core = s.core := by
  simp [withdrawCell]
@[simp] theorem chanStarted_core (b s : State) (k : Nat) : (chanStarted b s k).core = s.core := by
  unfold chanStarted; (try dsimp only); repeat' (first | (simp; done) | split | (with_reducible apply foldl_core; intros) | simp)
@[simp] theorem regen_core (s : State) (x1 : Nat) (x2 : Stream → Stream) : (regen s x1 x2).core = s.core := by
  simp [regen]
@[simp] theorem sendReports_core (s : State) (x1 : Half) : (sendReports s x1).core = s.core := by
  simp [sendReports]
@[simp] theorem askDrains_core (s : State) (x1 : Half) : (askDrains s x1).core = s.core := by
  simp [askDrains]
@[simp] theorem markIn_core (s : State) (x1 : Nat) (x2 : Nat) (x3 : Nat) : (markIn s x1 x2 x3).core = s.core := by
  unfold markIn; dsimp only; split <;> simp
@[simp] theorem actMark_core (s : State) (x1 : Half) (x2 : Nat) (x3 : Nat) : (actMark s x1 x2 x3).core = s.core := by
  simp [actMark]
@[simp] theorem oweAgain_core (s : State) (x1 : Nat) (x2 : Nat) (x3 : List (Nat × Nat × Nat)) : (oweAgain s x1 x2 x3).core = s.core := by
  simp [oweAgain]
@[simp] theorem slotRetired_core (s : State) (x1 : Nat) (x2 : Nat) (x3 : RxSlot) : (slotRetired s x1 x2 x3).core = s.core := by
  simp [slotRetired]
@[simp] theorem accumulatorsLost_core (s : State) (x1 : Nat) (x2 : Nat) (x3 : Nat) (x4 : Nat) : (accumulatorsLost s x1 x2 x3 x4).core = s.core := by
  unfold accumulatorsLost; dsimp only; (repeat' split) <;> simp
@[simp] theorem onBank_core (s : State) (x1 : Nat) (x2 : Bank → Bank) : (onBank s x1 x2).core = s.core := by
  simp [onBank]
@[simp] theorem clearTileCtrs_core (s : State) (x1 : List Nat) : (clearTileCtrs s x1).core = s.core := by
  simp [clearTileCtrs]
@[simp] theorem leaveBank_core (s : State) (x1 : Option Nat) (x2 : Nat) : (leaveBank s x1 x2).core = s.core := by
  unfold leaveBank; dsimp only; (repeat' split) <;> simp
@[simp] theorem openInterval_core (s : State) (x1 : Nat) (x2 : Nat) : (openInterval s x1 x2).core = s.core := by
  simp [openInterval]
@[simp] theorem boundary_core (s : State) (x1 : Nat) (x2 : Bool) : (boundary s x1 x2).core = s.core := by
  simp [boundary]
@[simp] theorem refuseBoundary_core (s : State) (x1 : Nat) : (refuseBoundary s x1).core = s.core := by
  simp [refuseBoundary]
@[simp] theorem bankStarted_core (s : State) (x1 : Nat) : (bankStarted s x1).core = s.core := by
  simp [bankStarted]
@[simp] theorem bankTeardown_core (s : State) (x1 : Nat) : (bankTeardown s x1).core = s.core := by
  simp [bankTeardown]
@[simp] theorem sampleTile_core (s : State) (x1 : Nat) : (sampleTile s x1).core = s.core := by
  simp [sampleTile]
@[simp] theorem countCycle_core (s : State) : (countCycle s).core = s.core := by
  simp [countCycle]
@[simp] theorem ownPage_core (s : State) (x1 : Nat) (x2 : Nat) : (ownPage s x1 x2).core = s.core := by
  unfold ownPage; split <;> simp
@[simp] theorem partStatus_core (s : State) (x1 : Nat) (x2 : Nat) (x3 : Nat) : (partStatus s x1 x2 x3).core = s.core := by
  simp [partStatus]
@[simp] theorem setPartTile_core (s : State) (x1 : Nat) (x2 : Nat) (x3 : Bool) : (setPartTile s x1 x2 x3).core = s.core := by
  simp [setPartTile]
@[simp] theorem dropStream_core (s : State) (x1 : Nat) : (dropStream s x1).2.core = s.core := by
  unfold dropStream; split <;> simp
@[simp] theorem dropStreams_core (s : State) (x1 : List Nat) : (dropStreams s x1).2.core = s.core := by
  simp [dropStreams]
@[simp] theorem clearTile_core (s : State) (x1 : Nat) : (clearTile s x1).core = s.core := by
  simp [clearTile]
@[simp] theorem releaseTiles_core (s : State) (x1 : List Nat) : (releaseTiles s x1).2.core = s.core := by
  simp [releaseTiles]
@[simp] theorem startScrub_core (s : State) (x1 : Nat) (x2 : Nat) : (startScrub s x1 x2).core = s.core := by
  simp [startScrub]
@[simp] theorem scrubZeroed_core (s : State) (x1 : Nat) (x2 : Scrub) : (scrubZeroed s x1 x2).core = s.core := by
  simp [scrubZeroed]
@[simp] theorem dropReports_core (s : State) (x1 : Nat) : (dropReports s x1).core = s.core := by
  simp [dropReports]
@[simp] theorem rtpEvent_core (s : State) (x1 : Half) (x2 : Nat) (x3 : Nat) : (rtpEvent s x1 x2 x3).core = s.core := by
  simp [rtpEvent]
@[simp] theorem kexFails_core (s : State) (x1 : Half) (x2 : Nat) (x3 : Edge) : (kexFails s x1 x2 x3).core = s.core := by
  simp [kexFails]
@[simp] theorem askChunk_core (s : State) (x1 : Half) (x2 : Nat) (x3 : GloveChunk) : (askChunk s x1 x2 x3).core = s.core := by
  unfold askChunk; (try dsimp only); repeat' (first | (simp; done) | split | (with_reducible refine (foldl_core _ (fun _ _ => ?_) _ _).trans ?_) | simp)
@[simp] theorem onPage_core (s : State) (x1 : Nat) (x2 : Page → Page) : (onPage s x1 x2).core = s.core := by
  simp [onPage]
@[simp] theorem syncStart_core (s : State) (x1 : PageKind) (x2 : Nat) : (syncStart s x1 x2).core = s.core := by
  unfold syncStart; (repeat' split) <;> simp
@[simp] theorem retryStranded_core (s : State) : (retryStranded s).core = s.core := by
  unfold retryStranded; (try dsimp only); repeat' (first | (simp; done) | split | (with_reducible refine (foldl_core _ (fun _ _ => ?_) _ _).trans ?_) | simp)
@[simp] theorem setFreeze_core (s : State) (x1 : Nat) (x2 : Bool) : (setFreeze s x1 x2).core = s.core := by
  simp [setFreeze]
@[simp] theorem withPage_core (s : State) (pg : Nat) (f : PageKind → Nat → State) (h : ∀ k i, (f k i).core = s.core) : (withPage s pg f).core = s.core := by
  unfold withPage; split <;> simp [h]
@[simp] theorem clearErr_core (s : State) (x1 : Nat) (x2 : Word) (x3 : Word) : (clearErr s x1 x2 x3).core = s.core := by
  simp [clearErr]
@[simp] theorem sprStatus_core (s : State) (x1 : Half) (x2 : Nat) (x3 : Nat) (x4 : Nat) : (sprStatus s x1 x2 x3 x4).core = s.core := by
  simp [sprStatus]
@[simp] theorem sprRefuse_core (s : State) (x1 : Half) (x2 : Nat) (x3 : Nat) : (sprRefuse s x1 x2 x3).core = s.core := by
  simp [sprRefuse]
@[simp] theorem releaseStarts_core (s : State) (x1 : Nat) (x2 : Bool) : (releaseStarts s x1 x2).core = s.core := by
  unfold releaseStarts; (try dsimp only); repeat' (first | (simp; done) | split | (with_reducible refine (foldl_core _ (fun _ _ => ?_) _ _).trans ?_) | simp)
@[simp] theorem abandonSwap_core (s : State) (x1 : Half) (x2 : Nat) : (abandonSwap s x1 x2).core = s.core := by
  unfold abandonSwap; split <;> simp
@[simp] theorem drainTile_core (s : State) (x1 : Nat) : (drainTile s x1).core = s.core := by
  simp [drainTile]
@[simp] theorem swapTick_core (s : State) (x1 : Half) : (swapTick s x1).core = s.core := by
  unfold swapTick; split <;> simp
@[simp] theorem wfCapture_core (s : State) (x1 : Half) (x2 : Bool) (x3 : Nat) : (wfCapture s x1 x2 x3).core = s.core := by
  simp [wfCapture]
@[simp] theorem beginCalm_core (s : State) (x1 : Half) (x2 : Nat) (x3 : Nat) (x4 : Bool) : (beginCalm s x1 x2 x3 x4).core = s.core := by
  simp [beginCalm]
@[simp] theorem fireCalm_core (s : State) (x1 : Entry) : (fireCalm s x1).core = s.core := by
  unfold fireCalm; split <;> simp
@[simp] theorem endCapture_core (s : State) (x1 : Half) : (endCapture s x1).core = s.core := by
  simp [endCapture]
@[simp] theorem calmCommand_core (s : State) (x1 : Half) (x2 : Nat) : (calmCommand s x1 x2).core = s.core := by
  unfold calmCommand; dsimp only; split <;> simp
@[simp] theorem actMessage_core (s : State) (c : Instr) : (actMessage s c).core = s.core := by
  unfold actMessage; split <;> first | rfl | exact ctrlTake_core _ _ _ _ fun _ => by simp
@[simp] theorem fromStore_core (s : State) (x1 : Instr) : (fromStore s x1).core = s.core := by
  unfold fromStore; (repeat' split) <;> simp
@[simp] theorem fromPort_core (s : State) (x1 : Nat) (x2 : Instr) : (fromPort s x1 x2).core = s.core := by
  unfold fromPort; (repeat' split) <;> simp
@[simp] theorem drainPorts_core (s : State) (x1 : Half) : (drainPorts s x1).core = s.core := by
  simp [drainPorts]
@[simp] theorem grantPorts_core (s : State) (x1 : Half) : (grantPorts s x1).core = s.core := by
  simp [grantPorts]
@[simp] theorem reactAll_core (s : State) (x1 : Half) : (reactAll s x1).core = s.core := by
  simp [reactAll]
@[simp] theorem wakeHeld_core (s : State) (x1 : Half) : (wakeHeld s x1).core = s.core := by
  unfold wakeHeld; (try dsimp only); repeat' (first | (simp; done) | split | (with_reducible refine (foldl_core _ (fun _ _ => ?_) _ _).trans ?_) | simp)
@[simp] theorem leaveCalm_core (s : State) (x1 : Half) : (leaveCalm s x1).core = s.core := by
  simp [leaveCalm]
@[simp] theorem shiftTimers_core (s : State) (x1 : Half) (x2 : Nat) : (shiftTimers s x1 x2).core = s.core := by
  simp [shiftTimers]
@[simp] theorem actGo_core (s : State) (x1 : Instr) : (actGo s x1).core = s.core := by
  unfold actGo; split <;> simp
@[simp] theorem refuseGo_core (s : State) (x1 : Instr) : (refuseGo s x1).core = s.core := by
  unfold refuseGo; split <;> simp
@[simp] theorem abandonTile_core (s : State) (x1 : Half) (x2 : Nat) : (abandonTile s x1 x2).core = s.core := by
  simp [abandonTile]
@[simp] theorem stopPrograms_core (s : State) (x1 : Half) : (stopPrograms s x1).core = s.core := by
  simp [stopPrograms]
@[simp] theorem cancelHeld_core (s : State) (x1 : Half) : (cancelHeld s x1).core = s.core := by
  simp [cancelHeld]
@[simp] theorem abandonCopy_core (s : State) (x1 : Half) : (abandonCopy s x1).core = s.core := by
  unfold abandonCopy; split <;> simp
@[simp] theorem abandonSession_core (s : State) (x1 : Nat) : (abandonSession s x1).core = s.core := by
  simp [abandonSession]
@[simp] theorem wfTake_core (s : State) (x1 : Half) : (wfTake s x1).core = s.core := by
  simp [wfTake]
@[simp] theorem wfAssemble_core (s : State) (x1 : Half) : (wfAssemble s x1).core = s.core := by
  simp [wfAssemble]
@[simp] theorem hangPacket_core (s : State) (x1 : Half) (x2 : Nat) (x3 : List Byte) : (hangPacket s x1 x2 x3).core = s.core := by
  simp [hangPacket]
@[simp] theorem freezeSession_core (s : State) (x1 : Nat) : (freezeSession s x1).core = s.core := by
  unfold freezeSession; dsimp only; (repeat' split) <;> simp
@[simp] theorem thawSession_core (s : State) (x1 : Nat) : (thawSession s x1).core = s.core := by
  simp [thawSession]
@[simp] theorem scrubAfter_core (s : State) (x1 : Nat) : (scrubAfter s x1).core = s.core := by
  simp [scrubAfter]
@[simp] theorem swapLost_core (x0 : State) (s : State) (x2 : Half) : (swapLost x0 s x2).core = s.core := by
  unfold swapLost; split <;> simp
@[simp] theorem noteFrac_core (s : State) (x1 : Nat) : (noteFrac s x1).core = s.core := by
  unfold noteFrac; split <;> simp
@[simp] theorem afterCells_core (b s : State) (k : Nat) : (afterCells b s k).core = s.core := by
  unfold afterCells; exact foldl_core _ (fun _ _ => by simp) _ _
@[simp] theorem flushPort_core (s : State) (x1 : Nat) : (flushPort s x1).core = s.core := by
  simp [flushPort]
@[simp] theorem meterWritten_core (b s : State) (k o : Nat) : (meterWritten b s k o).core = s.core := by
  unfold meterWritten; (try dsimp only); repeat' (first | (simp; done) | split | (with_reducible apply foldl_core; intros) | simp)
@[simp] theorem holdCleared_core (x0 : State) (s : State) (x2 : Nat) : (holdCleared x0 s x2).core = s.core := by
  simp [holdCleared]
@[simp] theorem afterStore_core (b s : State) (k : PageKind) (i o : Nat) : (afterStore b s k i o).core = s.core := by
  unfold afterStore; (try dsimp only); repeat' (first | (simp; done) | split | (with_reducible apply foldl_core; intros) | simp)
@[simp] theorem closeInterval_core (s : State) (x1 : Nat) : (closeInterval s x1).core = s.core := by
  unfold closeInterval; split <;> simp
end Sys2Proof.Machine
end

