-- ==== Sys2Proof/Laws/Far.lean ====
section
/-! SUPPORT. One lemma for each operation that changes nothing outside the fields which
monitoring and a page's own block move (`State.far` of Safety.lean holds the rest). -/

open Sys2Proof Sys2Proof.Machine
namespace Sys2Proof.Machine
set_option linter.unusedSimpArgs false
@[simp ↓] theorem State.far_mk (a_cfg a_pending a_cyc a_fresh a_inForce a_regs a_pages a_wins a_mports a_sumSeq a_sumCyc a_ftu a_sched a_ends a_trigCyc a_trigHigh a_bypWin a_bypStat a_tiles a_tmap a_bankUse a_bankLost a_ssends a_gates a_sessions a_copies a_wvGroups a_wvFlits a_wvEpochs a_wvTurn a_srRole a_audits a_denseSeq a_reports a_repLost a_arbs a_arbOn a_flits a_stranded a_ports a_buckets a_meters a_mem a_badLines a_regions a_reserve a_era a_entries a_chans a_memLog a_macAt a_fill a_parts a_partCmd a_certLog a_rtp a_attQueue a_attSeq a_kexs a_peers a_ownerKeys a_gloveIds a_gloveHdrs a_openings a_secLog a_secAt a_minSvn a_entropyOk a_power a_budgets a_allots a_gateHeld a_streams a_channels a_obsBucket a_obsCyc a_banks a_mitTile a_mitRegs a_pcLast a_mitLast a_calm a_charge a_swaps a_heldStarts a_srSwap a_frameSwaps a_frameSpares a_wearLife a_wearDay a_wearDayNo a_autoQueue a_retireCyc a_fuseUsed a_fuseQueue a_fuseFull a_rowsUsed a_laneMap a_ready a_railFell a_pgSb a_broken) : (State.mk a_cfg a_pending a_cyc a_fresh a_inForce a_regs a_pages a_wins a_mports a_sumSeq a_sumCyc a_ftu a_sched a_ends a_trigCyc a_trigHigh a_bypWin a_bypStat a_tiles a_tmap a_bankUse a_bankLost a_ssends a_gates a_sessions a_copies a_wvGroups a_wvFlits a_wvEpochs a_wvTurn a_srRole a_audits a_denseSeq a_reports a_repLost a_arbs a_arbOn a_flits a_stranded a_ports a_buckets a_meters a_mem a_badLines a_regions a_reserve a_era a_entries a_chans a_memLog a_macAt a_fill a_parts a_partCmd a_certLog a_rtp a_attQueue a_attSeq a_kexs a_peers a_ownerKeys a_gloveIds a_gloveHdrs a_openings a_secLog a_secAt a_minSvn a_entropyOk a_power a_budgets a_allots a_gateHeld a_streams a_channels a_obsBucket a_obsCyc a_banks a_mitTile a_mitRegs a_pcLast a_mitLast a_calm a_charge a_swaps a_heldStarts a_srSwap a_frameSwaps a_frameSpares a_wearLife a_wearDay a_wearDayNo a_autoQueue a_retireCyc a_fuseUsed a_fuseQueue a_fuseFull a_rowsUsed a_laneMap a_ready a_railFell a_pgSb a_broken).far = State.mk a_cfg a_pending a_cyc (0) (.empty) (.empty) (.empty) a_wins a_mports (0) (none) (State.reset.ftu) (.empty) ([]) a_trigCyc a_trigHigh (⟨0, 0⟩) a_bypStat (.empty) a_tmap (.empty) (.empty) ([]) a_gates (.empty) ([]) (.empty) ([]) ([]) (⟨0, 0⟩) a_srRole ([]) (.empty) (⟨[], []⟩) (.empty) (.empty) (.empty) ([]) ([]) (.empty) (.empty) (.empty) a_mem a_badLines a_regions a_reserve a_era a_entries a_chans a_memLog a_macAt a_fill (.empty) a_partCmd a_certLog a_rtp a_attQueue a_attSeq ([]) a_peers a_ownerKeys a_gloveIds a_gloveHdrs a_openings (.empty) (.empty) a_minSvn a_entropyOk a_power a_budgets a_allots a_gateHeld (.empty) (.empty) a_obsBucket a_obsCyc (.empty) a_mitTile a_mitRegs (⟨0, 0⟩) (⟨0, 0⟩) (State.reset.calm) a_charge (⟨none, none⟩) ([]) a_srSwap a_frameSwaps a_frameSpares a_wearLife a_wearDay a_wearDayNo a_autoQueue (.empty) a_fuseUsed a_fuseQueue a_fuseFull a_rowsUsed (.empty) a_ready a_railFell a_pgSb a_broken := rfl
@[simp ↓] theorem State.far_fold (s : State) : State.mk s.cfg s.pending s.cyc (0) (.empty) (.empty) (.empty) s.wins s.mports (0) (none) (State.reset.ftu) (.empty) ([]) s.trigCyc s.trigHigh (⟨0, 0⟩) s.bypStat (.empty) s.tmap (.empty) (.empty) ([]) s.gates (.empty) ([]) (.empty) ([]) ([]) (⟨0, 0⟩) s.srRole ([]) (.empty) (⟨[], []⟩) (.empty) (.empty) (.empty) ([]) ([]) (.empty) (.empty) (.empty) s.mem s.badLines s.regions s.reserve s.era s.entries s.chans s.memLog s.macAt s.fill (.empty) s.partCmd s.certLog s.rtp s.attQueue s.attSeq ([]) s.peers s.ownerKeys s.gloveIds s.gloveHdrs s.openings (.empty) (.empty) s.minSvn s.entropyOk s.power s.budgets s.allots s.gateHeld (.empty) (.empty) s.obsBucket s.obsCyc (.empty) s.mitTile s.mitRegs (⟨0, 0⟩) (⟨0, 0⟩) (State.reset.calm) s.charge (⟨none, none⟩) ([]) s.srSwap s.frameSwaps s.frameSpares s.wearLife s.wearDay s.wearDayNo s.autoQueue (.empty) s.fuseUsed s.fuseQueue s.fuseFull s.rowsUsed (.empty) s.ready s.railFell s.pgSb s.broken = s.far := rfl
@[simp] theorem far_ite (c : Prop) [Decidable c] (a b : State) : (if c then a else b).far = if c then a.far else b.far := by split <;> rfl
@[simp] theorem foldl_far {α : Type} (f : State → α → State) (h : ∀ s x, (f s x).far = s.far) (l : List α) (s : State) : (l.foldl f s).far = s.far := by
  induction l generalizing s with
  | nil => rfl
  | cons x r ih => rw [List.foldl_cons]; exact (ih _).trans (h _ _)
@[simp] theorem foldr_far {α : Type} (f : α → State → State) (h : ∀ s x, (f x s).far = s.far) (l : List α) (s : State) : (l.foldr f s).far = s.far := by
  induction l with
  | nil => rfl
  | cons x r ih => rw [List.foldr_cons]; exact (h _ _).trans ih
@[simp] theorem foldl_fst_far {α β : Type} (f : State × β → α → State × β) (h : ∀ s x, (f s x).1.far = s.1.far) (l : List α) (s : State × β) : (l.foldl f s).1.far = s.1.far := by
  induction l generalizing s with
  | nil => rfl
  | cons x r ih => rw [List.foldl_cons]; exact (ih _).trans (h _ _)
@[simp] theorem foldl_snd_far {α β : Type} (f : β × State → α → β × State) (h : ∀ s x, (f s x).2.far = s.2.far) (l : List α) (s : β × State) : (l.foldl f s).2.far = s.2.far := by
  induction l generalizing s with
  | nil => rfl
  | cons x r ih => rw [List.foldl_cons]; exact (ih _).trans (h _ _)
@[simp] theorem draw_far {α : Type} (s : State) (f : Nat → α) : (s.draw f).2.far = s.far := rfl
@[simp] theorem forEach_far {α : Type} (f : State → α → State) (h : ∀ s x, (f s x).far = s.far) (l : List α) (s : State) : (forEach l s f).far = s.far := foldl_far f h l s
@[simp] theorem countSummary_far (s t : State) : (countSummary s t).far = t.far := by unfold countSummary; split <;> (try split) <;> rfl

@[simp] theorem putReg_far (s : State) (x1 : Nat) (x2 : Word) : (putReg s x1 x2).far = s.far := by
  simp [putReg]
@[simp] theorem setKreg_far (s : State) (x1 : PageKind) (x2 : Nat) (x3 : Nat) (x4 : Word) : (setKreg s x1 x2 x3 x4).far = s.far := by
  simp [setKreg]
@[simp] theorem incReg_far (s : State) (x1 : PageKind) (x2 : Nat) (x3 : Nat) (x4 : Nat) : (incReg s x1 x2 x3 x4).far = s.far := by
  simp [incReg]
@[simp] theorem satReg_far (s : State) (x1 : PageKind) (x2 : Nat) (x3 : Nat) (x4 : Nat) : (satReg s x1 x2 x3 x4).far = s.far := by
  simp [satReg]
@[simp] theorem setKreg64_far (s : State) (x1 : PageKind) (x2 : Nat) (x3 : Nat) (x4 : Nat) : (setKreg64 s x1 x2 x3 x4).far = s.far := by
  simp [setKreg64]
@[simp] theorem incReg64_far (s : State) (x1 : PageKind) (x2 : Nat) (x3 : Nat) (x4 : Nat) : (incReg64 s x1 x2 x3 x4).far = s.far := by
  simp [incReg64]
@[simp] theorem putPage_far (s : State) (x1 : Nat) (x2 : Page) : (putPage s x1 x2).far = s.far := by
  simp [putPage]
@[simp] theorem setPageSt_far (s : State) (x1 : Nat) (x2 : PageSt) : (setPageSt s x1 x2).far = s.far := by
  simp [setPageSt]
@[simp] theorem putTile_far (s : State) (x1 : Nat) (x2 : Tile) : (putTile s x1 x2).far = s.far := by
  simp [putTile]
@[simp] theorem onTile_far (s : State) (x1 : Nat) (x2 : Tile → Tile) : (onTile s x1 x2).far = s.far := by
  simp [onTile]
@[simp] theorem flagParts_far (s : State) (x1 : Nat) : (flagParts s x1).far = s.far := by
  simp [flagParts]
@[simp] theorem markErr_far (s : State) (x1 : Nat) (x2 : Nat) : (markErr s x1 x2).1.far = s.far := by
  simp [markErr]
@[simp] theorem bankSat_far (s : State) (x1 : Nat) : (bankSat s x1).far = s.far := by
  simp [bankSat]
@[simp] theorem putBank_far (s : State) (x1 : Nat) (x2 : Bank) : (putBank s x1 x2).far = s.far := by
  simp [putBank]
@[simp] theorem countTile_far (s : State) (x1 : Nat) (x2 : Nat) (x3 : List Nat) (x4 : Nat) : (countTile s x1 x2 x3 x4).far = s.far := by
  unfold countTile; dsimp only; (repeat' split) <;> simp
@[simp] theorem countBlk_far (s : State) (x1 : Half) (x2 : Nat) (x3 : List Nat) (x4 : Nat) (x5 : Option Nat) (x6 : Nat) : (countBlk s x1 x2 x3 x4 x5 x6).far = s.far := by
  simp [countBlk]
@[simp] theorem putStream_far (s : State) (x1 : Nat) (x2 : Stream) : (putStream s x1 x2).far = s.far := by
  simp [putStream]
@[simp] theorem putChan_far (s : State) (x1 : Nat) (x2 : Channel) : (putChan s x1 x2).far = s.far := by
  simp [putChan]
@[simp] theorem genRecord_far (s : State) (x1 : Nat) (x2 : Bool) (x3 : Bool → Nat → List Byte) : (genRecord s x1 x2 x3).far = s.far := by
  unfold genRecord; split <;> simp
@[simp] theorem askSync_far (s : State) (x1 : Nat) (x2 : Nat) : (askSync s x1 x2).far = s.far := by
  simp [askSync]
@[simp] theorem syncNow_far (s : State) (x1 : Nat) (x2 : Nat) : (syncNow s x1 x2).far = s.far := by
  simp [syncNow]
@[simp] theorem genEvent_far (s : State) (x1 : Nat) (x2 : Nat) (x3 : Nat) (x4 : Nat) (x5 : Nat) : (genEvent s x1 x2 x3 x4 x5).far = s.far := by
  simp [genEvent]
@[simp] theorem pageErrEvent_far (s : State) (x1 : Nat) (x2 : Nat) (x3 : Nat) : (pageErrEvent s x1 x2 x3).far = s.far := by
  unfold pageErrEvent; (repeat' split) <;> simp
@[simp] theorem raiseErr_far (s : State) (x1 : Nat) (x2 : Nat) : (raiseErr s x1 x2).far = s.far := by
  simp [raiseErr]
@[simp] theorem raiseK_far (s : State) (x1 : PageKind) (x2 : Nat) (x3 : Nat) : (raiseK s x1 x2 x3).far = s.far := by
  simp [raiseK]
@[simp] theorem accessErr_far (s : State) (x1 : PageKind) (x2 : Nat) : (accessErr s x1 x2).far = s.far := by
  simp [accessErr]
@[simp] theorem unitEvent_far (s : State) (x1 : Nat) (x2 : Option Nat) (x3 : Nat) (x4 : Nat) (x5 : Nat) (x6 : Nat) : (unitEvent s x1 x2 x3 x4 x5 x6).far = s.far := by
  simp [unitEvent]
@[simp] theorem askSyncHalf_far (s : State) (x1 : Half) (x2 : Nat) : (askSyncHalf s x1 x2).far = s.far := by
  simp [askSyncHalf]
@[simp] theorem deliverFrame_far (s : State) (x1 : Nat) : (deliverFrame s x1).far = s.far := by
  unfold deliverFrame; dsimp only; split <;> simp
@[simp] theorem serveBanks_far (s : State) (x1 : Nat) (x2 : Nat) (x3 : List Nat) : (serveBanks s x1 x2 x3).far = s.far := by
  simp [serveBanks]
@[simp] theorem loseBanks_far (s : State) (x1 : Nat) (x2 : Nat) (x3 : List Nat) : (loseBanks s x1 x2 x3).far = s.far := by
  simp [loseBanks]
@[simp] theorem wakeTile_far (s : State) (x1 : Nat) : (wakeTile s x1).far = s.far := by
  simp [wakeTile]
@[simp] theorem semInc_far (s : State) (x1 : Nat) (x2 : Nat) (x3 : Nat) : (semInc s x1 x2 x3).far = s.far := by
  simp [semInc]
@[simp] theorem semIncOpt_far (s : State) (x1 : Nat) (x2 : Option Nat) : (semIncOpt s x1 x2).far = s.far := by
  unfold semIncOpt; split <;> simp
@[simp] theorem pushEntry_far (s : State) (x1 : Nat) (x2 : Nat) (x3 : QEntry) : (pushEntry s x1 x2 x3).far = s.far := by
  simp [pushEntry]
@[simp] theorem secAppend_far (s : State) (x1 : Nat) (x2 : Nat) (x3 : Nat) : (secAppend s x1 x2 x3).far = s.far := by
  simp [secAppend]
@[simp] theorem secEvent_far (s : State) (x1 : Nat) (x2 : Nat) (x3 : Nat) (x4 : Nat) : (secEvent s x1 x2 x3 x4).far = s.far := by
  simp [secEvent]
@[simp] theorem tenantEvent_far (s : State) (x1 : Nat) (x2 : Nat) (x3 : Nat) (x4 : Nat) (x5 : Nat) (x6 : Nat) : (tenantEvent s x1 x2 x3 x4 x5 x6).far = s.far := by
  simp [tenantEvent]
@[simp] theorem putArb_far (s : State) (x1 : Nat) (x2 : Arb) : (putArb s x1 x2).far = s.far := by
  simp [putArb]
@[simp] theorem raiseReq_far (s : State) (x1 : Nat) (x2 : Req) : (raiseReq s x1 x2).far = s.far := by
  simp [raiseReq]
@[simp] theorem joinReq_far (s : State) (x1 : Nat) (x2 : Req) (x3 : Req → Bool) (x4 : Req → Req) : (joinReq s x1 x2 x3 x4).far = s.far := by
  simp [joinReq]
@[simp] theorem injectFlit_far (s : State) (x1 : Flit) : (injectFlit s x1).far = s.far := by
  simp [injectFlit]
@[simp] theorem dropFlits_far (s : State) (x1 : FlitWhat → Bool) : (dropFlits s x1).far = s.far := by
  simp [dropFlits]
@[simp] theorem sendCellFlits_far (s : State) (x1 : Flit) (x2 : List Byte) (x3 : List Byte) : (sendCellFlits s x1 x2 x3).far = s.far := by
  simp [sendCellFlits]
@[simp] theorem cellToPort_far (s : State) (x1 : Nat) (x2 : Nat) (x3 : Nat) (x4 : Cell) : (cellToPort s x1 x2 x3 x4).far = s.far := by
  simp [cellToPort]
@[simp] theorem flitToReducer_far (s : State) (x1 : Nat) (x2 : Nat) (x3 : WvFlit) : (flitToReducer s x1 x2 x3).far = s.far := by
  simp [flitToReducer]
@[simp] theorem flitToStack_far (s : State) (x1 : Nat) (x2 : Nat) (x3 : Nat) (x4 : Nat) (x5 : Nat) (x6 : MemAsk) (x7 : List Byte) (x8 : Nat) (x9 : Nat) : (flitToStack s x1 x2 x3 x4 x5 x6 x7 x8 x9).far = s.far := by
  simp [flitToStack]
@[simp] theorem onMove_far (s : State) (x1 : Nat) (x2 : Nat) (x3 : Move → Move) : (onMove s x1 x2 x3).far = s.far := by
  simp [onMove]
@[simp] theorem moveFlitDone_far (s : State) (x1 : Nat) (x2 : Nat) : (moveFlitDone s x1 x2).far = s.far := by
  simp [moveFlitDone]
@[simp] theorem putPort_far (s : State) (x1 : Nat) (x2 : Port) : (putPort s x1 x2).far = s.far := by
  simp [putPort]
@[simp] theorem putBucket_far (s : State) (x1 : Nat) (x2 : Int) : (putBucket s x1 x2).far = s.far := by
  simp [putBucket]
@[simp] theorem setPartReg_far (s : State) (x1 : Nat) (x2 : Nat) (x3 : Word) : (setPartReg s x1 x2 x3).far = s.far := by
  simp [setPartReg]
@[simp] theorem settlePool_far (s : State) : (settlePool s).far = s.far := by
  simp [settlePool]
@[simp] theorem takeFrom_far (s : State) (x1 : Nat) (x2 : Int) (x3 : Nat) (x4 : Nat) : (takeFrom s x1 x2 x3 x4).far = s.far := by
  simp [takeFrom]
@[simp] theorem chargeCell_far (s : State) (x1 : Nat) (x2 : Cell) : (chargeCell s x1 x2).far = s.far := by
  simp [chargeCell]
@[simp] theorem spendCredit_far (s : State) (x1 : Nat) (x2 : Cell) : (spendCredit s x1 x2).far = s.far := by
  simp [spendCredit]
@[simp] theorem cellBegins_far (s : State) (x1 : Nat) (x2 : Cell) : (cellBegins s x1 x2).far = s.far := by
  simp [cellBegins]
@[simp] theorem cellSent_far (s : State) (x1 : Nat) (x2 : Cell) : (cellSent s x1 x2).far = s.far := by
  simp [cellSent]
@[simp] theorem grantIngress_far (s : State) (x1 : Nat) : (grantIngress s x1).far = s.far := by
  simp [grantIngress]
theorem takeIngress_far {s u : State} {p : Nat} (h : takeIngress s p = some u) : u.far = s.far := by
  unfold takeIngress at h; dsimp only at h
  (repeat' split at h) <;> simp only [reduceCtorEq, Option.some.injEq] at h <;> subst h <;> simp
@[simp] theorem dropNoCredit_far (s : State) (x1 : Nat) : (dropNoCredit s x1).far = s.far := by
  simp [dropNoCredit]
@[simp] theorem freeIngress_far (s : State) (x1 : Nat) : (freeIngress s x1).far = s.far := by
  simp [freeIngress]
@[simp] theorem meterCell_far (s : State) (x1 : Nat) (x2 : Nat) : (meterCell s x1 x2).far = s.far := by
  simp [meterCell]
@[simp] theorem queueCell_far (s : State) (x1 : Nat) (x2 : Nat) (x3 : Cell) : (queueCell s x1 x2 x3).far = s.far := by
  unfold queueCell; split <;> simp
@[simp] theorem portHolds_far (s : State) (x1 : Nat) : (portHolds s x1).far = s.far := by
  simp [portHolds]
@[simp] theorem portsTick_far (s : State) : (portsTick s).far = s.far := by
  simp [portsTick]
@[simp] theorem failStart_far (s : State) (x1 : Nat) (x2 : Nat) : (failStart s x1 x2).far = s.far := by
  simp [failStart]
@[simp] theorem putEntry_far (s : State) (x1 : Half) (x2 : Nat) (x3 : Entry) : (putEntry s x1 x2 x3).far = s.far := by
  simp [putEntry]
@[simp] theorem schedAction_far (s : State) (x : Half) (n code : Nat) (is : Entry → Bool) (f : State → Entry → State) (h : ∀ u e, (f u e).far = u.far) : (schedAction s x n code is f).far = s.far := by
  unfold schedAction; (try dsimp only); (repeat' split) <;> simp [h]
@[simp] theorem countMissed_far (s : State) (x1 : Half) (x2 : Nat) : (countMissed s x1 x2).far = s.far := by
  simp [countMissed]
@[simp] theorem putPart_far (s : State) (x1 : Nat) (x2 : Part) : (putPart s x1 x2).far = s.far := by
  simp [putPart]
@[simp] theorem withdrawUse_far (s : State) (x1 : MemUse → Bool) : (withdrawUse s x1).far = s.far := by
  simp [withdrawUse]
@[simp] theorem askStack_far (s : State) (x1 : Nat) (x2 : Nat) (x3 : Nat) (x4 : Bool) (x5 : List (MemAsk × List Byte)) : (askStack s x1 x2 x3 x4 x5).far = s.far := by
  unfold askStack; split <;> simp
@[simp] theorem suspendBurst_far (s : State) (x1 : Nat) : (suspendBurst s x1).far = s.far := by
  simp [suspendBurst]
@[simp] theorem countGrant_far (s : State) (x1 : PageKind) (x2 : Nat) (x3 : Nat) (x4 : Half) (x5 : Req) : (countGrant s x1 x2 x3 x4 x5).far = s.far := by
  simp [countGrant]
@[simp] theorem clampSeen_far (s : State) (x1 : PageKind) (x2 : Nat) (x3 : Nat) (x4 : Half) : (clampSeen s x1 x2 x3 x4).far = s.far := by
  simp [clampSeen]
@[simp] theorem joinStack_far (s : State) (x1 : Flit) (x2 : MemAsk) (x3 : Nat) : (joinStack s x1 x2 x3).far = s.far := by
  simp [joinStack]
@[simp] theorem joinPort_far (s : State) (x1 : Flit) (x2 : Nat) (x3 : Cell) : (joinPort s x1 x2 x3).far = s.far := by
  simp [joinPort]
@[simp] theorem countSendFlit_far (s : State) (x1 : Option Nat) : (countSendFlit s x1).far = s.far := by
  unfold countSendFlit; split <;> simp
@[simp] theorem freezeTargets_far (s : State) (x1 : PageKind) (x2 : Nat) : (freezeTargets s x1 x2).far = s.far := by
  simp [freezeTargets]
@[simp] theorem countMemErr_far (s : State) (x1 : Nat) (x2 : Nat) : (countMemErr s x1 x2).far = s.far := by
  simp [countMemErr]
@[simp] theorem entryReturns_far (s : State) (x1 : ChEntry) : (entryReturns s x1).far = s.far := by
  unfold entryReturns; split <;> simp
@[simp] theorem feRegs_far (s : State) (x1 : Half) (x2 : Nat) (x3 : Nat) (x4 : Nat) : (feRegs s x1 x2 x3 x4).far = s.far := by
  simp [feRegs]
@[simp] theorem feRefuse_far (s : State) (x1 : Half) (x2 : Nat) : (feRefuse s x1 x2).far = s.far := by
  simp [feRefuse]
@[simp] theorem feStatus_far (s : State) (x1 : Half) (x2 : Nat) (x3 : Nat) : (feStatus s x1 x2 x3).far = s.far := by
  simp [feStatus]
@[simp] theorem askSpan_far (s : State) (x1 : Half) (x2 : Nat) (x3 : Bool) : (askSpan s x1 x2 x3).far = s.far := by
  simp [askSpan]
theorem onPwr_far (s : State) (f : State → Nat → State) (h : ∀ u i, (f u i).far = u.far) : (onPwr s f).far = s.far := by
  unfold onPwr; split
  · exact (h _ _).trans (h _ _)
  · exact h _ _
@[simp] theorem raisePwr_far (s : State) (b : Nat) : (raisePwr s b).far = s.far := onPwr_far _ _ fun _ _ => by simp
@[simp] theorem badStrobe_far (s : State) : (badStrobe s).far = s.far := onPwr_far _ _ fun _ _ => by simp
@[simp] theorem settleGates_far (s : State) : (settleGates s).far = s.far := by
  simp [settleGates]
@[simp] theorem chargeGate_far (s : State) (x1 : Nat) (x2 : Nat) : (chargeGate s x1 x2).far = s.far := by
  simp [chargeGate]
@[simp] theorem putSes_far (s : State) (x1 : Nat) (x2 : Session) : (putSes s x1 x2).far = s.far := by
  simp [putSes]
@[simp] theorem onSes_far (s : State) (x1 : Nat) (x2 : Session → Session) : (onSes s x1 x2).far = s.far := by
  simp [onSes]
@[simp] theorem onEp_far (s : State) (x1 : Nat) (x2 : Nat) (x3 : Epoch → Epoch) : (onEp s x1 x2 x3).far = s.far := by
  simp [onEp]
@[simp] theorem sesCount_far (s : State) (x1 : Session) (x2 : Nat) : (sesCount s x1 x2).far = s.far := by
  simp [sesCount]
@[simp] theorem nextTurn_far (s : State) (x1 : Half) (x2 : Nat) : (nextTurn s x1 x2).far = s.far := by
  simp [nextTurn]
@[simp] theorem onWvEp_far (s : State) (x1 : Nat) (x2 : Nat) (x3 : WvEpoch → WvEpoch) : (onWvEp s x1 x2 x3).far = s.far := by
  simp [onWvEp]
@[simp] theorem dropWvEp_far (s : State) (x1 : Nat) (x2 : Nat) : (dropWvEp s x1 x2).far = s.far := by
  simp [dropWvEp]
@[simp] theorem countSkipped_far (s : State) (x1 : Half) (x2 : Nat) (x3 : Nat) : (countSkipped s x1 x2 x3).far = s.far := by
  simp [countSkipped]
@[simp] theorem distinct_far (s : State) (k n : Nat) (l : List Nat) : (distinct s k n l).2.far = s.far := by
  induction k generalizing n l with
  | zero => rfl
  | succ k ih => unfold distinct; exact ih _ _
@[simp] theorem placeGroup_far (s : State) (x1 : Nat) (x2 : Nat) (x3 : Nat) (x4 : Option Nat) (x5 : Nat) : (placeGroup s x1 x2 x3 x4 x5).far = s.far := by
  unfold placeGroup; dsimp only; split <;> simp
@[simp] theorem sampleEpoch_far (s : State) (x1 : Nat) (x2 : Nat) : (sampleEpoch s x1 x2).far = s.far := by
  simp [sampleEpoch]
@[simp] theorem voidGroup_far (s : State) (x1 : Nat) : (voidGroup s x1).far = s.far := by
  unfold voidGroup; split <;> simp
@[simp] theorem voidGroups_far (s : State) (x1 : WvGroup → Bool) : (voidGroups s x1).far = s.far := by
  simp [voidGroups]
@[simp] theorem voidEpoch_far (s : State) (x1 : Nat) (x2 : Nat) : (voidEpoch s x1 x2).far = s.far := by
  simp [voidEpoch]
@[simp] theorem sendCopies_far (s : State) (x1 : Nat) (x2 : Nat) (x3 : Nat) (x4 : Nat) (x5 : Nat) (x6 : Nat) (x7 : Nat) (x8 : List (Nat × Nat)) : (sendCopies s x1 x2 x3 x4 x5 x6 x7 x8).far = s.far := by
  simp [sendCopies]
@[simp] theorem sendStates_far (s : State) (x1 : Nat) (x2 : Nat) (x3 : Nat) (x4 : Nat) (x5 : Nat) (x6 : Nat) : (sendStates s x1 x2 x3 x4 x5 x6).far = s.far := by
  simp [sendStates]
@[simp] theorem normCode_far (s : State) (x1 : Option (Nat × Int)) (x2 : Nat × Int) : (normCode s x1 x2).2.far = s.far := by
  unfold normCode; dsimp only; (repeat' split) <;> simp
@[simp] theorem measure_far (s : State) (x1 : Session) (x2 : List WvGroup) : (measure s x1 x2).2.far = s.far := by
  unfold measure; dsimp only; (repeat' split) <;> simp
@[simp] theorem noteKids_far (s : State) (x1 : Nat) (x2 : Nat) : (noteKids s x1 x2).far = s.far := by
  simp [noteKids]
@[simp] theorem followAdvice_far (s : State) (x1 : Nat) (x2 : Nat) (x3 : Nat) : (followAdvice s x1 x2 x3).far = s.far := by
  unfold followAdvice; dsimp only; (repeat' split) <;> simp
@[simp] theorem formAdvice_far (s : State) (x1 : Nat) (x2 : Nat) (x3 : Nat) : (formAdvice s x1 x2 x3).1.far = s.far := by
  unfold formAdvice; dsimp only; split <;> simp
@[simp] theorem sendCell_far (s : State) (x1 : Nat) (x2 : Cell) : (sendCell s x1 x2).far = s.far := by
  unfold sendCell; dsimp only; split <;> simp
@[simp] theorem sendCtrl_far (s : State) (x1 : Nat) (x2 : Nat) (x3 : Nat) (x4 : Edge) (x5 : Msg) (x6 : Bool) : (sendCtrl s x1 x2 x3 x4 x5 x6).far = s.far := by
  simp [sendCtrl]
@[simp] theorem sendAll_far (s : State) (x1 : Nat) (x2 : Nat) (x3 : Nat) (x4 : List Nat) (x5 : Msg) (x6 : Bool) : (sendAll s x1 x2 x3 x4 x5 x6).far = s.far := by
  simp [sendAll]
@[simp] theorem sendRanged_far (s : State) (x1 : Nat) (x2 : Nat) (x3 : Nat) (x4 : Edge) (x5 : Msg) (x6 : List RankRange) (x7 : Bool) : (sendRanged s x1 x2 x3 x4 x5 x6 x7).far = s.far := by
  simp [sendRanged]
@[simp] theorem sendDone_far (s : State) (x1 : Nat) (x2 : Nat) (x3 : Bool) : (sendDone s x1 x2 x3).far = s.far := by
  simp [sendDone]
@[simp] theorem pushMarker_far (s : State) (x1 : Nat) (x2 : Nat) (x3 : QEntry) : (pushMarker s x1 x2 x3).far = s.far := by
  unfold pushMarker; dsimp only; split <;> simp
@[simp] theorem flushPart_far (s : State) (x1 : Nat) (x2 : Nat) (x3 : Nat) : (flushPart s x1 x2 x3).far = s.far := by
  unfold flushPart; dsimp only; (repeat' split) <;> simp
@[simp] theorem flushMarkers_far (s : State) (x1 : Nat) (x2 : Nat) : (flushMarkers s x1 x2).far = s.far := by
  simp [flushMarkers]
@[simp] theorem sendCopy_far (s : State) (x1 : Nat) (x2 : OutSeg) (x3 : Nat) : (sendCopy s x1 x2 x3).1.far = s.far := by
  unfold sendCopy; dsimp only; (repeat' split) <;> simp
@[simp] theorem sendSeg_far (s : State) (x1 : Nat) (x2 : OutSeg) : (sendSeg s x1 x2).1.far = s.far := by
  unfold sendSeg; split <;> simp
@[simp] theorem pump_far (s : State) (x1 : Nat) : (pump s x1).far = s.far := by
  simp [pump]
@[simp] theorem sendGrant_far (s : State) (x1 : Nat) (x2 : Nat) (x3 : Nat) (x4 : Edge) (x5 : List Credit) : (sendGrant s x1 x2 x3 x4 x5).far = s.far := by
  simp [sendGrant]
@[simp] theorem batchCredit_far (s : State) (x1 : Nat) (x2 : Nat) (x3 : Nat) (x4 : Edge) (x5 : Credit) : (batchCredit s x1 x2 x3 x4 x5).far = s.far := by
  simp [batchCredit]
@[simp] theorem reserveSlot_far (s : State) (x1 : Nat) (x2 : Nat) (x3 : Nat) (x4 : Nat) (x5 : Nat) (x6 : Nat) (x7 : Nat) (x8 : Nat) (x9 : Nat) : (reserveSlot s x1 x2 x3 x4 x5 x6 x7 x8 x9).far = s.far := by
  simp [reserveSlot]
@[simp] theorem countIssued_far (s : State) (x1 : Nat) (x2 : Nat) (x3 : Nat) : (countIssued s x1 x2 x3).far = s.far := by
  simp [countIssued]
@[simp] theorem creditData_far (s : State) (x1 : Nat) (x2 : Nat) (x3 : Nat) (x4 : Nat) (x5 : Nat) (x6 : Nat × Contrib) (x7 : Nat) : (creditData s x1 x2 x3 x4 x5 x6 x7).far = s.far := by
  simp [creditData]
@[simp] theorem creditResult_far (s : State) (x1 : Nat) (x2 : Nat) (x3 : Nat) (x4 : Nat) (x5 : Nat) (x6 : Nat) : (creditResult s x1 x2 x3 x4 x5 x6).far = s.far := by
  simp [creditResult]
theorem creditOne_far {s u : State} {x1 x2 x3 : Nat} (h : creditOne s x1 x2 x3 = some u) : u.far = s.far := by
  unfold creditOne at h; dsimp only at h
  (repeat' split at h) <;> simp only [reduceCtorEq, Option.map_eq_some_iff] at h <;> obtain ⟨_, _, rfl⟩ := h <;> simp
@[simp] theorem creditPart_far (n : Nat) (s : State) (x2 x3 x4 : Nat) : (creditPart n s x2 x3 x4).far = s.far := by
  induction n generalizing s with
  | zero => rfl
  | succ n ih =>
    unfold creditPart; split
    · rename_i h; rw [ih]; exact creditOne_far h
    · rfl
@[simp] theorem grantAll_far (s : State) (x1 : Nat) (x2 : Nat) : (grantAll s x1 x2).far = s.far := by
  simp [grantAll]
@[simp] theorem cancelStart_far (s : State) (x1 : Nat) (x2 : Nat) : (cancelStart s x1 x2).far = s.far := by
  unfold cancelStart; dsimp only; split <;> simp
@[simp] theorem decided_far (s : State) (x1 : Nat) (x2 : Nat) (x3 : Decision) : (decided s x1 x2 x3).far = s.far := by
  simp [decided]
@[simp] theorem releaseHeld_far (s : State) (x1 : Nat) (x2 : Nat) (x3 : Bool) : (releaseHeld s x1 x2 x3).far = s.far := by
  simp [releaseHeld]
@[simp] theorem takeOutcome_far (s : State) (x1 : Nat) (x2 : Nat) (x3 : Decision) : (takeOutcome s x1 x2 x3).far = s.far := by
  simp [takeOutcome]
@[simp] theorem fixOutcome_far (s : State) (x1 : Nat) (x2 : Nat) : (fixOutcome s x1 x2).far = s.far := by
  simp [fixOutcome]
@[simp] theorem praise_far (s : State) (x1 : Nat) (x2 : Nat) : (praise s x1 x2).far = s.far := by
  simp [praise]
@[simp] theorem settleEpoch_far (s : State) (x1 : Nat) (x2 : Nat) : (settleEpoch s x1 x2).far = s.far := by
  simp [settleEpoch]
@[simp] theorem trySettle_far (s : State) (x1 : Nat) (x2 : Nat) : (trySettle s x1 x2).far = s.far := by
  simp [trySettle]
@[simp] theorem failFixed_far (s : State) (x1 : Nat) (x2 : Nat) (x3 : Nat) : (failFixed s x1 x2 x3).far = s.far := by
  simp [failFixed]
@[simp] theorem failEpoch_far (s : State) (x1 : Nat) (x2 : Nat) (x3 : Nat) : (failEpoch s x1 x2 x3).far = s.far := by
  unfold failEpoch; dsimp only; split <;> simp
@[simp] theorem uncommit_far (s : State) (x1 : Nat) (x2 : Nat) : (uncommit s x1 x2).far = s.far := by
  simp [uncommit]
@[simp] theorem sendOutcome_far (s : State) (x1 : Nat) (x2 : Nat) (x3 : Nat) (x4 : Nat) (x5 : Decision) (x6 : Bool) : (sendOutcome s x1 x2 x3 x4 x5 x6).far = s.far := by
  simp [sendOutcome]
@[simp] theorem tryOutcome_far (s : State) (x1 : Nat) (x2 : Nat) : (tryOutcome s x1 x2).far = s.far := by
  unfold tryOutcome; dsimp only; (repeat' split) <;> simp
@[simp] theorem advance_far (s : State) (x1 : Nat) (x2 : Nat) : (advance s x1 x2).far = s.far := by
  simp [advance]
@[simp] theorem reactEp_far (s : State) (x1 : Nat) (x2 : Nat) : (reactEp s x1 x2).far = s.far := by
  simp [reactEp]
@[simp] theorem react_far (s : State) (x1 : Nat) : (react s x1).far = s.far := by
  simp [react]
@[simp] theorem freeFilledAs_far (s : State) (x1 : Nat) (x2 : Nat) (x3 : Nat) : (freeFilledAs s x1 x2 x3).far = s.far := by
  simp [freeFilledAs]
@[simp] theorem freeFilled_far (s : State) (x1 : Nat) (x2 : Nat) : (freeFilled s x1 x2).far = s.far := by
  simp [freeFilled]
@[simp] theorem failTile_far (s : State) (x1 : Nat) (x2 : Bool) : (failTile s x1 x2).far = s.far := by
  simp [failTile]
@[simp] theorem programFault_far (s : State) (x1 : Nat) (x2 : Nat) (x3 : Nat) : (programFault s x1 x2 x3).far = s.far := by
  simp [programFault]
@[simp] theorem missOnce_far (s : State) (x1 : Nat) (x2 : Nat) : (missOnce s x1 x2).far = s.far := by
  simp [missOnce]
@[simp] theorem excludeOne_far (s : State) (x1 : Nat) (x2 : Nat) (x3 : Nat) : (excludeOne s x1 x2 x3).far = s.far := by
  simp [excludeOne]
@[simp] theorem applyPolicy_far (s : State) (x1 : Nat) (x2 : Nat) (x3 : Nat) : (applyPolicy s x1 x2 x3).far = s.far := by
  simp [applyPolicy]
@[simp] theorem goesMissing_far (s : State) (x1 : Nat) (x2 : Nat) (x3 : Nat) : (goesMissing s x1 x2 x3).far = s.far := by
  simp [goesMissing]
@[simp] theorem noteRefusal_far (s : State) (x1 : Session) (x2 : Nat) : (noteRefusal s x1 x2).far = s.far := by
  simp [noteRefusal]
@[simp] theorem sendAck_far (s : State) (x1 : Nat) (x2 : Nat) (x3 : Nat) : (sendAck s x1 x2 x3).far = s.far := by
  simp [sendAck]
@[simp] theorem tryAck_far (s : State) (x1 : Nat) (x2 : Nat) : (tryAck s x1 x2).far = s.far := by
  simp [tryAck]
@[simp] theorem acceptArm_far (s : State) (x1 : Nat) (x2 : Nat) (x3 : Nat) : (acceptArm s x1 x2 x3).far = s.far := by
  simp [acceptArm]
@[simp] theorem holdStart_far (s : State) (x1 : Nat) (x2 : Nat) (x3 : Nat) : (holdStart s x1 x2 x3).far = s.far := by
  simp [holdStart]
@[simp] theorem openPart_far (s : State) (x1 : Nat) (x2 : Nat) (x3 : Nat) : (openPart s x1 x2 x3).far = s.far := by
  unfold openPart; dsimp only; split <;> simp
@[simp] theorem applyFromStart_far (s : State) (x1 : Nat) (x2 : Nat) : (applyFromStart s x1 x2).far = s.far := by
  simp [applyFromStart]
@[simp] theorem openEpoch_far (s : State) (x1 : Nat) (x2 : Nat) (x3 : Nat) : (openEpoch s x1 x2 x3).far = s.far := by
  unfold openEpoch; dsimp only; (repeat' split) <;> simp
@[simp] theorem noteIssue_far (s : State) (x1 : Nat) (x2 : Nat) : (noteIssue s x1 x2).far = s.far := by
  simp [noteIssue]
@[simp] theorem setPc_far (s : State) (x1 : Nat) (x2 : Nat) : (setPc s x1 x2).far = s.far := by
  simp [setPc]
@[simp] theorem advancePc_far (s : State) (x1 : Nat) (x2 : Nat) : (advancePc s x1 x2).far = s.far := by
  simp [advancePc]
@[simp] theorem completes_far (s : State) (x1 : Nat) (x2 : Ins) : (completes s x1 x2).far = s.far := by
  simp [completes]
/-- What an instruction's own meaning leaves as it was. -/
def Did.far (s : State) : Did → Prop
  | .fault _ => True
  | .done u => u.far = s.far
  | .jump u _ => u.far = s.far
  | .later u => u.far = s.far
  | .waits u => u.far = s.far
  | .halts u => u.far = s.far
theorem finish_far {s : State} {t n : Nat} {i : Ins} {d : Did} (h : d.far s) : (finish s t n i d).far = s.far := by
  cases d <;> simp only [Did.far] at h <;> simp only [finish] <;> (try split) <;> simp [h]
@[simp] theorem payGate_far (s : State) (x1 : Nat) (x2 : Ins) (x3 : Bool) : (payGate s x1 x2 x3).far = s.far := by
  simp [payGate]
@[simp] theorem traceData_far (s : State) (x1 : Nat) (x2 : Nat) (x3 : Nat) (x4 : Nat) (x5 : Nat) (x6 : List Byte) : (traceData s x1 x2 x3 x4 x5 x6).far = s.far := by
  unfold traceData; dsimp only; (repeat' split) <;> simp
@[simp] theorem beginWait_far (s : State) (x1 : Nat) (x2 : ProgSt) (x3 : WaitSt) : (beginWait s x1 x2 x3).far = s.far := by
  simp [beginWait]
@[simp] theorem endWait_far (s : State) (x1 : Nat) (x2 : Tile → Tile) : (endWait s x1 x2).far = s.far := by
  simp [endWait]
@[simp] theorem freeRxSlot_far (s : State) (x1 : Nat) (x2 : Nat) : (freeRxSlot s x1 x2).far = s.far := by
  simp [freeRxSlot]
@[simp] theorem cellTaken_far (s : State) (x1 : RxSlot) : (cellTaken s x1).far = s.far := by
  simp [cellTaken]
@[simp] theorem afterDraws_far (s : State) (x1 : Nat) (x2 : Ins) : (afterDraws s x1 x2).far = s.far := by
  simp [afterDraws]
@[simp] theorem noteNum_far (s : State) (x1 : Nat) (x2 : Bool) (x3 : Bool) (x4 : Bool) (x5 : Bool) : (noteNum s x1 x2 x3 x4 x5).far = s.far := by
  simp [noteNum]
@[simp] theorem noteSat_far (s : State) (x1 : Nat) (x2 : Nat) : (noteSat s x1 x2).far = s.far := by
  simp [noteSat]
@[simp] theorem beginMove_far (s : State) (x1 : Nat) (x2 : Move) : (beginMove s x1 x2).far = s.far := by
  simp [beginMove]
@[simp] theorem readSource_far (s : State) (x1 : Nat) (x2 : Nat) (x3 : Nat) : (readSource s x1 x2 x3).2.far = s.far := by
  unfold readSource; split <;> simp
@[simp] theorem sendBurst_far (s : State) (x1 : Nat) (x2 : Nat) (x3 : Nat) (x4 : Nat) (x5 : Bool) (x6 : List Byte) (x7 : List (Nat × Nat × Nat)) : (sendBurst s x1 x2 x3 x4 x5 x6 x7).far = s.far := by
  unfold sendBurst; (try dsimp only); repeat' (first | (simp; done) | split | (with_reducible refine (foldl_far _ (fun _ _ => ?_) _ _).trans ?_) | simp)
@[simp] theorem sendToStacks_far (s : State) (x1 : Nat) (x2 : Nat) (x3 : Nat) (x4 : Nat) (x5 : Bool) (x6 : Nat) (x7 : List Byte) : (sendToStacks s x1 x2 x3 x4 x5 x6 x7).far = s.far := by
  simp [sendToStacks]
@[simp] theorem beginMem_far (s : State) (x1 : Nat) (x2 : Ins) (x3 : Nat) (x4 : Nat) (x5 : Nat) (x6 : Nat) (x7 : List Byte) : (beginMem s x1 x2 x3 x4 x5 x6 x7).far = s.far := by
  simp [beginMem]
@[simp] theorem sendFlits_far (s : State) (x1 : Nat) (x2 : Nat) (x3 : Nat) (x4 : Nat) (x5 : Nat) (x6 : List Byte) : (sendFlits s x1 x2 x3 x4 x5 x6).far = s.far := by
  simp [sendFlits]
@[simp] theorem consumeRx_far (s : State) (x1 : Nat) (x2 : Nat) (x3 : Nat) : (consumeRx s x1 x2 x3).far = s.far := by
  simp [consumeRx]
@[simp] theorem takeSend_far (s : State) (x1 : Nat) (x2 : Move) (x3 : List Byte) : (takeSend s x1 x2 x3).far = s.far := by
  unfold takeSend; dsimp only; split <;> simp
@[simp] theorem moveEffect_far (s : State) (x1 : Nat) (x2 : Move) : (moveEffect s x1 x2).far = s.far := by
  unfold moveEffect; split <;> simp
@[simp] theorem setLanes_far (s : State) (x1 : Nat) (x2 : Ins) (x3 : List Word) : (setLanes s x1 x2 x3).far = s.far := by
  simp [setLanes]
@[simp] theorem traceLanes_far (s : State) (x1 : Nat) (x2 : Nat) (x3 : Nat) (x4 : Ins) (x5 : List Byte) (x6 : Nat) (x7 : List Byte) : (traceLanes s x1 x2 x3 x4 x5 x6 x7).far = s.far := by
  simp [traceLanes]
@[simp] theorem noteNarrowed_far (s : State) (x1 : Nat) (x2 : NarrowedLanes) (x3 : Bool) : (noteNarrowed s x1 x2 x3).far = s.far := by
  simp [noteNarrowed]
@[simp] theorem chooseAudit_far (s : State) (x1 : Nat) (x2 : Tmma) (x3 : Tbl Word) : (chooseAudit s x1 x2 x3).far = s.far := by
  unfold chooseAudit; dsimp only; (repeat' split) <;> simp
@[simp] theorem fillData_far (s : State) (x1 : Nat) (x2 : Nat) (x3 : RxSlot) : (fillData s x1 x2 x3).far = s.far := by
  simp [fillData]
@[simp] theorem fillResult_far (s : State) (x1 : Nat) (x2 : Nat) (x3 : RxSlot) : (fillResult s x1 x2 x3).far = s.far := by
  simp [fillResult]
@[simp] theorem lullPacket_far (s : State) (x1 : Nat) (x2 : Nat) : (lullPacket s x1 x2).far = s.far := by
  simp [lullPacket]
@[simp] theorem seedTile_far (s : State) (x1 : Nat) : (seedTile s x1).far = s.far := by
  simp [seedTile]
@[simp] theorem wakePacket_far (s : State) (x1 : Nat) (x2 : Nat) (x3 : Nat) : (wakePacket s x1 x2 x3).far = s.far := by
  simp [wakePacket]
@[simp] theorem sramOpened_far (s : State) (x1 : Nat) : (sramOpened s x1).far = s.far := by
  simp [sramOpened]
@[simp] theorem tileStarting_far (s : State) (x1 : Nat) : (tileStarting s x1).far = s.far := by
  simp [tileStarting]
@[simp] theorem tileStarted_far (s : State) (x1 : Nat) : (tileStarted s x1).far = s.far := by
  simp [tileStarted]
@[simp] theorem tileStopping_far (s : State) (x1 : Nat) : (tileStopping s x1).far = s.far := by
  simp [tileStopping]
@[simp] theorem tileStopDone_far (s : State) (x1 : Nat) : (tileStopDone s x1).far = s.far := by
  simp [tileStopDone]
@[simp] theorem tileStopped_far (s : State) (x1 : Nat) : (tileStopped s x1).far = s.far := by
  simp [tileStopped]
@[simp] theorem onFtu_far (s : State) (x1 : Half) (x2 : Ftu → Ftu) : (onFtu s x1 x2).far = s.far := by
  simp [onFtu]
@[simp] theorem sessionLosesTime_far (s : State) (x1 : Nat) : (sessionLosesTime s x1).far = s.far := by
  unfold sessionLosesTime; dsimp only; (repeat' split) <;> simp
@[simp] theorem loseTime_far (b s : State) (x : Half) : (loseTime b s x).far = s.far := by
  unfold loseTime; dsimp only; refine (foldl_far _ (fun _ _ => by simp) _ _).trans ?_; simp
@[simp] theorem settleSchedule_far (s : State) (x1 : Half) : (settleSchedule s x1).far = s.far := by
  simp [settleSchedule]
@[simp] theorem settlePorts_far (s : State) (x1 : Half) : (settlePorts s x1).far = s.far := by
  simp [settlePorts]
@[simp] theorem settleOrphans_far (s : State) (x1 : Half) : (settleOrphans s x1).far = s.far := by
  simp [settleOrphans]
@[simp] theorem settleCalm_far (s : State) (x1 : Half) : (settleCalm s x1).far = s.far := by
  unfold settleCalm; dsimp only; split <;> simp
@[simp] theorem gainTime_far (s : State) (x1 : Half) : (gainTime s x1).far = s.far := by
  simp [gainTime]
@[simp] theorem retimed_far (b s : State) : (retimed b s).far = s.far := by
  unfold retimed; exact foldl_far _ (fun _ _ => by (repeat' split) <;> simp) _ _
@[simp] theorem enterLock_far (s : State) (x1 : Half) (x2 : LockSt) : (enterLock s x1 x2).far = s.far := by
  simp [enterLock]
@[simp] theorem ftuStops_far (s : State) (x1 : Half) : (ftuStops s x1).far = s.far := by
  simp [ftuStops]
@[simp] theorem badBeat_far (s : State) (x1 : Half) (x2 : Bool) (x3 : Bool) : (badBeat s x1 x2 x3).far = s.far := by
  simp [badBeat]
@[simp] theorem notePhase_far (s : State) (x1 : Half) (x2 : Int) : (notePhase s x1 x2).far = s.far := by
  simp [notePhase]
@[simp] theorem markGood_far (s : State) (x1 : Half) (x2 : Nat) : (markGood s x1 x2).far = s.far := by
  simp [markGood]
@[simp] theorem retune_far (s : State) (x1 : Half) (x2 : Nat) : (retune s x1 x2).far = s.far := by
  simp [retune]
@[simp] theorem adopt_far (s : State) (x1 : Half) (x2 : Nat) : (adopt s x1 x2).far = s.far := by
  simp [adopt]
@[simp] theorem goodBeat_far (s : State) (x1 : Half) (x2 : Nat) : (goodBeat s x1 x2).far = s.far := by
  unfold goodBeat; dsimp only; split <;> simp
@[simp] theorem checkSkew_far (s : State) (x1 : Half) : (checkSkew s x1).far = s.far := by
  simp [checkSkew]
@[simp] theorem beatAt_far (s : State) (x1 : Half) (x2 : Nat) (x3 : Bool) (x4 : Nat) : (beatAt s x1 x2 x3 x4).far = s.far := by
  simp [beatAt]
@[simp] theorem stuckAt_far (s : State) (x1 : Half) : (stuckAt s x1).far = s.far := by
  unfold stuckAt; dsimp only; (repeat' split) <;> simp
@[simp] theorem acceptEntry_far (s : State) (x1 : Half) (x2 : Nat) (x3 : Entry) : (acceptEntry s x1 x2 x3).far = s.far := by
  simp [acceptEntry]
@[simp] theorem armTriggers_far (s : State) (x1 : Half) (x2 : Nat) (x3 : Nat) : (armTriggers s x1 x2 x3).far = s.far := by
  simp [armTriggers]
@[simp] theorem tidyWv_far (s : State) (x1 : Nat) (x2 : Nat) : (tidyWv s x1 x2).far = s.far := by
  simp [tidyWv]
@[simp] theorem groupCompletes_far (s : State) (x1 : Nat) (x2 : WvGroup) : (groupCompletes s x1 x2).far = s.far := by
  simp [groupCompletes]
@[simp] theorem tookAudit_far (s : State) (x1 : Nat) (x2 : Nat) : (tookAudit s x1 x2).far = s.far := by
  simp [tookAudit]
@[simp] theorem openCode_far (s : State) (x1 : Option Nat) : (openCode s x1).2.far = s.far := by
  unfold openCode; split <;> simp
@[simp] theorem openCodes_far (s : State) (l : List (Option Nat)) : (openCodes s l).2.far = s.far := by
  induction l generalizing s with
  | nil => rfl
  | cons c l ih => unfold openCodes; dsimp only; rw [ih]; simp
@[simp] theorem wvRetire_far (s : State) (x1 : Nat) (x2 : Nat) : (wvRetire s x1 x2).far = s.far := by
  simp [wvRetire]
@[simp] theorem keysFull_far (s : State) : (keysFull s).far = s.far := by
  simp [keysFull]
@[simp] theorem dropKexes_far (s : State) (x1 : Nat) : (dropKexes s x1).far = s.far := by
  simp [dropKexes]
@[simp] theorem onCalm_far (s : State) (x1 : Half) (x2 : Calm → Calm) : (onCalm s x1 x2).far = s.far := by
  simp [onCalm]
@[simp] theorem noteArrival_far (s : State) (x1 : Nat) (x2 : Option Nat) (x3 : CalmRec) : (noteArrival s x1 x2 x3).far = s.far := by
  simp [noteArrival]
@[simp] theorem holdCtrl_far (s : State) (x1 : Half) (x2 : Nat) (x3 : Instr) : (holdCtrl s x1 x2 x3).1.far = s.far := by
  unfold holdCtrl; split <;> simp
@[simp] theorem placeTiles_far (s : State) (x1 : Session) : (placeTiles s x1).far = s.far := by
  unfold placeTiles; (try dsimp only); repeat' (first | (simp; done) | split | (with_reducible refine (foldl_far _ (fun _ _ => ?_) _ _).trans ?_) | simp)
@[simp] theorem placeImage_far (s : State) (x1 : Nat) : (placeImage s x1).1.far = s.far := by
  unfold placeImage; dsimp only; (repeat' split) <;> simp
@[simp] theorem enterActive_far (s : State) (x1 : Nat) : (enterActive s x1).far = s.far := by
  unfold enterActive; (try dsimp only); repeat' (first | (simp; done) | split | (with_reducible refine (foldl_far _ (fun _ _ => ?_) _ _).trans ?_) | simp)
@[simp] theorem clearBindings_far (s : State) (x1 : Nat) : (clearBindings s x1).far = s.far := by
  unfold clearBindings; (try dsimp only); repeat' (first | (simp; done) | split | (with_reducible refine (foldl_far _ (fun _ _ => ?_) _ _).trans ?_) | simp)
@[simp] theorem cmdStatus_far (s : State) (x1 : Half) (x2 : Nat) (x3 : Bool) : (cmdStatus s x1 x2 x3).far = s.far := by
  simp [cmdStatus]
@[simp] theorem tryActive_far (s : State) (x1 : Nat) : (tryActive s x1).1.far = s.far := by
  unfold tryActive; dsimp only; (repeat' split) <;> simp
@[simp] theorem drainCheck_far (s : State) (x1 : Nat) : (drainCheck s x1).far = s.far := by
  simp [drainCheck]
@[simp] theorem actStart_far (s : State) (x1 : Half) (x2 : Nat) : (actStart s x1 x2).far = s.far := by
  simp [actStart]
@[simp] theorem actStop_far (s : State) (x1 : Half) (x2 : Nat) : (actStop s x1 x2).far = s.far := by
  simp [actStop]
@[simp] theorem goOrHold_far (s : State) (x : Half) (c : Instr) (f : State → State) (h : ∀ u, (f u).far = u.far) : (goOrHold s x c f).far = s.far := by
  unfold goOrHold; (try dsimp only); (repeat' split) <;> simp [h]
@[simp] theorem armStatus_far (s : State) (x1 : Half) (x2 : Nat) : (armStatus s x1 x2).far = s.far := by
  simp [armStatus]
@[simp] theorem actArm_far (s : State) (x1 : Half) (x2 : Nat) : (actArm s x1 x2).far = s.far := by
  unfold actArm; dsimp only; split <;> simp
@[simp] theorem sweep_far (s : State) (x1 : Nat) (x2 : Nat) (x3 : Nat) : (sweep s x1 x2 x3).far = s.far := by
  unfold sweep; (try dsimp only); repeat' (first | (simp; done) | split | (with_reducible refine (foldl_far _ (fun _ _ => ?_) _ _).trans ?_) | simp)
@[simp] theorem retire_far (s : State) (x1 : Nat) (x2 : Nat) : (retire s x1 x2).far = s.far := by
  simp [retire]
@[simp] theorem countClass_far (s : State) (x1 : Half) (x2 : Nat) (x3 : Option Nat) : (countClass s x1 x2 x3).far = s.far := by
  simp [countClass]
@[simp] theorem authBad_far (s : State) (x1 : Nat) (x2 : Edge) (x3 : Nat) : (authBad s x1 x2 x3).far = s.far := by
  simp [authBad]
@[simp] theorem sawPort_far (s : State) (x1 : Nat) (x2 : Edge) (x3 : Nat) : (sawPort s x1 x2 x3).far = s.far := by
  simp [sawPort]
@[simp] theorem ctrlTake_far (s : State) (k : CtrlIn) (e : Edge) (f : State → State) (h : ∀ u, (f u).far = u.far) : (ctrlTake s k e f).far = s.far := by
  unfold ctrlTake; (try dsimp only); (repeat' split) <;> simp [h]
@[simp] theorem actArmReq_far (x0 : CtrlIn) (x1 : Nat) (s : State) : (actArmReq x0 x1 s).far = s.far := by
  unfold actArmReq; dsimp only; (repeat' split) <;> simp
@[simp] theorem actArmMsg_far (x0 : CtrlIn) (x1 : Nat) (s : State) : (actArmMsg x0 x1 s).far = s.far := by
  unfold actArmMsg; dsimp only; (repeat' split) <;> simp
@[simp] theorem actArmAck_far (x0 : CtrlIn) (x1 : Nat) (s : State) : (actArmAck x0 x1 s).far = s.far := by
  simp [actArmAck]
theorem takeOrder_far {s u : State} {x1 x2 : Nat} {b : Bool} {k : Msg} (h : takeOrder s x1 x2 b k = some u) : u.far = s.far := by
  unfold takeOrder at h; dsimp only at h
  split at h
  · exact absurd h (by simp)
  · rw [Option.some.injEq] at h; rw [← h]; simp
@[simp] theorem actCommit_far (k : CtrlIn) (ft : Nat) (s : State) : (actCommit k ft s).far = s.far := by
  unfold actCommit; dsimp only; split
  · rfl
  · rename_i h; have := takeOrder_far h; (repeat' split) <;> simp [this]
@[simp] theorem disarmEpoch_far (s : State) (x1 : Nat) (x2 : Nat) : (disarmEpoch s x1 x2).far = s.far := by
  simp [disarmEpoch]
@[simp] theorem actDisarm_far (k : CtrlIn) (ft x : Nat) (s : State) : (actDisarm k ft x s).far = s.far := by
  unfold actDisarm; dsimp only; split
  · rfl
  · rename_i h; have := takeOrder_far h; (repeat' split) <;> simp [this]
@[simp] theorem resend_far (s : State) (x1 : Nat) (x2 : Nat) (x3 : SentSeg) (x4 : Nat) (x5 : Nat) (x6 : Bool) : (resend s x1 x2 x3 x4 x5 x6).far = s.far := by
  simp [resend]
@[simp] theorem tookRepeat_far (s : State) (x1 : Nat) (x2 : Nat) (x3 : SentSeg) : (tookRepeat s x1 x2 x3).far = s.far := by
  simp [tookRepeat]
@[simp] theorem takeCredit_far (s : State) (x1 : Nat) (x2 : Nat) (x3 : Edge) (x4 : Nat) (x5 : Credit) : (takeCredit s x1 x2 x3 x4 x5).far = s.far := by
  unfold takeCredit; dsimp only; split <;> simp
@[simp] theorem actGrant_far (x0 : CtrlIn) (x1 : Bool) (x2 : List Credit) (s : State) : (actGrant x0 x1 x2 s).far = s.far := by
  simp [actGrant]
@[simp] theorem actNack_far (x0 : CtrlIn) (x1 : Bool) (x2 : Nat) (x3 : Nat) (s : State) : (actNack x0 x1 x2 x3 s).far = s.far := by
  unfold actNack; dsimp only; (repeat' split) <;> simp
@[simp] theorem childFails_far (s : State) (x1 : Nat) (x2 : Nat) (x3 : Nat) : (childFails s x1 x2 x3).far = s.far := by
  simp [childFails]
@[simp] theorem lateDone_far (s : State) (x1 : CtrlIn) : (lateDone s x1).far = s.far := by
  unfold lateDone; dsimp only; split <;> simp
@[simp] theorem actDone_far (x0 : CtrlIn) (x1 : ChildDone) (s : State) : (actDone x0 x1 s).far = s.far := by
  simp [actDone]
@[simp] theorem outcomeTakes_far (s : State) (x1 : Nat) (x2 : Nat) (x3 : Decision) : (outcomeTakes s x1 x2 x3).far = s.far := by
  simp [outcomeTakes]
@[simp] theorem actOutcome_far (x0 : CtrlIn) (x1 : Decision) (x2 : Bool) (s : State) : (actOutcome x0 x1 x2 s).far = s.far := by
  simp [actOutcome]
@[simp] theorem sendNack_far (s : State) (x1 : Nat) (x2 : Nat) (x3 : Nat) (x4 : Nat) (x5 : Nat) : (sendNack s x1 x2 x3 x4 x5).far = s.far := by
  simp [sendNack]
@[simp] theorem crcNack_far (s : State) (x1 : Nat) (x2 : Nat) (x3 : Nat) (x4 : RxSlot) : (crcNack s x1 x2 x3 x4).far = s.far := by
  simp [crcNack]
@[simp] theorem acceptCell_far (s : State) (c : CellIn) (t slot : Nat) (r : RxSlot) : (acceptCell s c t slot r).far = s.far := by
  unfold acceptCell; dsimp only; rw [sawPort_far, sendCellFlits_far, onSes_far]
  exact onTile_far ..
@[simp] theorem refuseFormat_far (s : State) (x1 : CellIn) (x2 : RxSlot) : (refuseFormat s x1 x2).far = s.far := by
  simp [refuseFormat]
@[simp] theorem lateCell_far (s : State) (x1 : CellId) : (lateCell s x1).far = s.far := by
  simp [lateCell]
@[simp] theorem classAction_far (s : State) (x1 : Nat) (x2 : CellIn) (x3 : Nat) (x4 : Nat) (x5 : Nat) (x6 : RxSlot) : (classAction s x1 x2 x3 x4 x5 x6).far = s.far := by
  unfold classAction; split <;> simp
@[simp] theorem onStream_far (s : State) (x1 : Nat) (x2 : Stream → Stream) : (onStream s x1 x2).far = s.far := by
  simp [onStream]
@[simp] theorem onChan_far (s : State) (x1 : Nat) (x2 : Channel → Channel) : (onChan s x1 x2).far = s.far := by
  simp [onChan]
@[simp] theorem beginCapture_far (s : State) (x1 : Nat) : (beginCapture s x1).far = s.far := by
  simp [beginCapture]
@[simp] theorem recapture_far (b s : State) (l : List Nat) : (recapture b s l).far = s.far := by
  unfold recapture; refine foldl_far _ (fun _ _ => ?_) _ _; (try dsimp only); (repeat' split) <;> simp
@[simp] theorem rechannel_far (b s : State) : (rechannel b s).far = s.far := by
  unfold rechannel; (try dsimp only); repeat' (first | (simp; done) | split | (with_reducible apply foldl_far; intros) | simp)
@[simp] theorem retile_far (b s : State) (k : Nat) : (retile b s k).far = s.far := by
  unfold retile; simp
@[simp] theorem emit_far (s : State) (x1 : Nat) (x2 : Bool) (x3 : Bool → Nat → List Byte) : (emit s x1 x2 x3).far = s.far := by
  simp [emit]
@[simp] theorem calmPackets_far (s : State) (x1 : Half) (x2 : Nat) (x3 : Nat) (x4 : Nat) : (calmPackets s x1 x2 x3 x4).far = s.far := by
  simp [calmPackets]
@[simp] theorem sealFrame_far (s : State) (x1 : Nat) : (sealFrame s x1).far = s.far := by
  unfold sealFrame; dsimp only; split <;> simp
theorem putPacket_far {s u : State} {c k : Nat} {p : TPkt} (h : putPacket s c k p = some u) : u.far = s.far := by
  unfold putPacket at h; dsimp only at h
  (repeat' split at h) <;> first | (rw [Option.some.injEq] at h; rw [← h]; simp; done) | (simp at h; done)
@[simp] theorem withdrawCell_far (s : State) (x1 : Nat) : (withdrawCell s x1).far = s.far := by
  simp [withdrawCell]
@[simp] theorem discardFrames_far (s : State) (x1 : Nat) : (discardFrames s x1).far = s.far := by
  simp [discardFrames]
@[simp] theorem chanStarting_far (s : State) (x1 : Nat) : (chanStarting s x1).far = s.far := by
  simp [chanStarting]
@[simp] theorem chanStarted_far (b s : State) (k : Nat) : (chanStarted b s k).far = s.far := by
  unfold chanStarted; (try dsimp only); repeat' (first | (simp; done) | split | (with_reducible apply foldl_far; intros) | simp)
@[simp] theorem chanStopping_far (b s : State) (k : Nat) : (chanStopping b s k).far = s.far := by
  unfold chanStopping; (try dsimp only); repeat' (first | (simp; done) | split | (with_reducible apply foldl_far; intros) | simp)
@[simp] theorem chanStopped_far (s : State) (x1 : Nat) : (chanStopped s x1).far = s.far := by
  simp [chanStopped]
@[simp] theorem fireGust_far (s : State) (x1 : Nat) (x2 : Nat) (x3 : Nat) : (fireGust s x1 x2 x3).far = s.far := by
  simp [fireGust]
@[simp] theorem resumeGusts_far (s : State) (x1 : Half) : (resumeGusts s x1).far = s.far := by
  unfold resumeGusts; (try dsimp only); repeat' (first | (simp; done) | split | (with_reducible refine (foldl_far _ (fun _ _ => ?_) _ _).trans ?_) | simp)
@[simp] theorem gustOn_far (s : State) (x1 : Nat) (x2 : TPkt) : (gustOn s x1 x2).far = s.far := by
  unfold gustOn; split <;> simp
@[simp] theorem regen_far (s : State) (x1 : Nat) (x2 : Stream → Stream) : (regen s x1 x2).far = s.far := by
  simp [regen]
@[simp] theorem sendReports_far (s : State) (x1 : Half) : (sendReports s x1).far = s.far := by
  simp [sendReports]
@[simp] theorem askDrains_far (s : State) (x1 : Half) : (askDrains s x1).far = s.far := by
  simp [askDrains]
@[simp] theorem movePackets_far (c k n used : Nat) (l : List TPkt) (s : State) : (movePackets c k n used l s).2.far = s.far := by
  induction n generalizing used l s with
  | zero => cases l <;> rfl
  | succ n ih =>
    cases l with
    | nil => rfl
    | cons p l =>
      unfold movePackets; split
      · rfl
      · split
        · simp
        · rename_i h; rw [ih]; simp [putPacket_far h]
@[simp] theorem markIn_far (s : State) (x1 : Nat) (x2 : Nat) (x3 : Nat) : (markIn s x1 x2 x3).far = s.far := by
  unfold markIn; dsimp only; split <;> simp
@[simp] theorem actMark_far (s : State) (x1 : Half) (x2 : Nat) (x3 : Nat) : (actMark s x1 x2 x3).far = s.far := by
  simp [actMark]
@[simp] theorem oweAgain_far (s : State) (x1 : Nat) (x2 : Nat) (x3 : List (Nat × Nat × Nat)) : (oweAgain s x1 x2 x3).far = s.far := by
  simp [oweAgain]
@[simp] theorem slotRetired_far (s : State) (x1 : Nat) (x2 : Nat) (x3 : RxSlot) : (slotRetired s x1 x2 x3).far = s.far := by
  simp [slotRetired]
@[simp] theorem accumulatorsLost_far (s : State) (x1 : Nat) (x2 : Nat) (x3 : Nat) (x4 : Nat) : (accumulatorsLost s x1 x2 x3 x4).far = s.far := by
  unfold accumulatorsLost; dsimp only; (repeat' split) <;> simp
@[simp] theorem onBank_far (s : State) (x1 : Nat) (x2 : Bank → Bank) : (onBank s x1 x2).far = s.far := by
  simp [onBank]
@[simp] theorem clearTileCtrs_far (s : State) (x1 : List Nat) : (clearTileCtrs s x1).far = s.far := by
  simp [clearTileCtrs]
@[simp] theorem leaveBank_far (s : State) (x1 : Option Nat) (x2 : Nat) : (leaveBank s x1 x2).far = s.far := by
  unfold leaveBank; dsimp only; (repeat' split) <;> simp
@[simp] theorem openInterval_far (s : State) (x1 : Nat) (x2 : Nat) : (openInterval s x1 x2).far = s.far := by
  simp [openInterval]
@[simp] theorem boundary_far (s : State) (x1 : Nat) (x2 : Bool) : (boundary s x1 x2).far = s.far := by
  simp [boundary]
@[simp] theorem refuseBoundary_far (s : State) (x1 : Nat) : (refuseBoundary s x1).far = s.far := by
  simp [refuseBoundary]
@[simp] theorem bankStarted_far (s : State) (x1 : Nat) : (bankStarted s x1).far = s.far := by
  simp [bankStarted]
@[simp] theorem bankStopping_far (s : State) (x1 : Nat) (x2 : Bool) : (bankStopping s x1 x2).far = s.far := by
  simp [bankStopping]
@[simp] theorem bankTeardown_far (s : State) (x1 : Nat) : (bankTeardown s x1).far = s.far := by
  simp [bankTeardown]
@[simp] theorem afterRetire_far (s : State) (x1 : Nat) : (afterRetire s x1).far = s.far := by
  simp [afterRetire]
@[simp] theorem drainRing_far (s : State) (x1 : Nat) (x2 : ClosedInt) : (drainRing s x1 x2).far = s.far := by
  simp [drainRing]
@[simp] theorem drainReport_far (s : State) (x1 : Nat) (x2 : ClosedInt) : (drainReport s x1 x2).far = s.far := by
  simp [drainReport]
@[simp] theorem sampleTile_far (s : State) (x1 : Nat) : (sampleTile s x1).far = s.far := by
  simp [sampleTile]
@[simp] theorem prfStarted_far (s : State) (x1 : Nat) : (prfStarted s x1).far = s.far := by
  simp [prfStarted]
@[simp] theorem countCycle_far (s : State) : (countCycle s).far = s.far := by
  simp [countCycle]
@[simp] theorem ownPage_far (s : State) (x1 : Nat) (x2 : Nat) : (ownPage s x1 x2).far = s.far := by
  unfold ownPage; split <;> simp
@[simp] theorem partStatus_far (s : State) (x1 : Nat) (x2 : Nat) (x3 : Nat) : (partStatus s x1 x2 x3).far = s.far := by
  simp [partStatus]
@[simp] theorem setPartTile_far (s : State) (x1 : Nat) (x2 : Nat) (x3 : Bool) : (setPartTile s x1 x2 x3).far = s.far := by
  simp [setPartTile]
@[simp] theorem dropStream_far (s : State) (x1 : Nat) : (dropStream s x1).2.far = s.far := by
  unfold dropStream; split <;> simp
@[simp] theorem dropStreams_far (s : State) (x1 : List Nat) : (dropStreams s x1).2.far = s.far := by
  simp [dropStreams]
@[simp] theorem clearTile_far (s : State) (x1 : Nat) : (clearTile s x1).far = s.far := by
  simp [clearTile]
@[simp] theorem releaseTiles_far (s : State) (x1 : List Nat) : (releaseTiles s x1).2.far = s.far := by
  simp [releaseTiles]
@[simp] theorem startScrub_far (s : State) (x1 : Nat) (x2 : Nat) : (startScrub s x1 x2).far = s.far := by
  simp [startScrub]
@[simp] theorem scrubZeroed_far (s : State) (x1 : Nat) (x2 : Scrub) : (scrubZeroed s x1 x2).far = s.far := by
  simp [scrubZeroed]
@[simp] theorem resetShares_far (s : State) (x1 : Nat) : (resetShares s x1).far = s.far := by
  simp [resetShares]
@[simp] theorem dropReports_far (s : State) (x1 : Nat) : (dropReports s x1).far = s.far := by
  simp [dropReports]
@[simp] theorem scrubClear_far (s : State) (x1 : Nat) (x2 : Scrub) : (scrubClear s x1 x2).far = s.far := by
  simp [scrubClear]
@[simp] theorem rtpEvent_far (s : State) (x1 : Half) (x2 : Nat) (x3 : Nat) : (rtpEvent s x1 x2 x3).far = s.far := by
  simp [rtpEvent]
@[simp] theorem dropKex_far (s : State) (x1 : Nat) (x2 : Edge) : (dropKex s x1 x2).far = s.far := by
  simp [dropKex]
@[simp] theorem kexFails_far (s : State) (x1 : Half) (x2 : Nat) (x3 : Edge) : (kexFails s x1 x2 x3).far = s.far := by
  simp [kexFails]
@[simp] theorem askChunk_far (s : State) (x1 : Half) (x2 : Nat) (x3 : GloveChunk) : (askChunk s x1 x2 x3).far = s.far := by
  unfold askChunk; (try dsimp only); repeat' (first | (simp; done) | split | (with_reducible refine (foldl_far _ (fun _ _ => ?_) _ _).trans ?_) | simp)
@[simp] theorem onPage_far (s : State) (x1 : Nat) (x2 : Page → Page) : (onPage s x1 x2).far = s.far := by
  simp [onPage]
@[simp] theorem stage_far (s : State) (x1 : Nat) : (stage s x1).far = s.far := by
  simp [stage]
@[simp] theorem takeLanes_far (s : State) (x1 : Nat) : (takeLanes s x1).far = s.far := by
  simp [takeLanes]
@[simp] theorem starting_far (s : State) (x1 : PageKind) (x2 : Nat) : (starting s x1 x2).far = s.far := by
  unfold starting; split <;> simp
@[simp] theorem enterStarting_far (s : State) (x1 : PageKind) (x2 : Nat) : (enterStarting s x1 x2).far = s.far := by
  simp [enterStarting]
@[simp] theorem syncStart_far (s : State) (x1 : PageKind) (x2 : Nat) : (syncStart s x1 x2).far = s.far := by
  unfold syncStart; (repeat' split) <;> simp
@[simp] theorem retryStranded_far (s : State) : (retryStranded s).far = s.far := by
  unfold retryStranded; (try dsimp only); repeat' (first | (simp; done) | split | (with_reducible refine (foldl_far _ (fun _ _ => ?_) _ _).trans ?_) | simp)
@[simp] theorem stopping_far (b s : State) (k : PageKind) (i : Nat) : (stopping b s k i).far = s.far := by
  unfold stopping; split <;> simp
@[simp] theorem enterStopping_far (s : State) (x1 : PageKind) (x2 : Nat) : (enterStopping s x1 x2).far = s.far := by
  simp [enterStopping]
@[simp] theorem stopped_far (s : State) (x1 : PageKind) (x2 : Nat) (x3 : Bool) : (stopped s x1 x2 x3).far = s.far := by
  unfold stopped; split <;> simp
@[simp] theorem enterOff_far (s : State) (x1 : PageKind) (x2 : Nat) : (enterOff s x1 x2).far = s.far := by
  simp [enterOff]
@[simp] theorem setFreeze_far (s : State) (x1 : Nat) (x2 : Bool) : (setFreeze s x1 x2).far = s.far := by
  simp [setFreeze]
@[simp] theorem enableOne_far (s : State) (x1 : PageKind) (x2 : Nat) : (enableOne s x1 x2).far = s.far := by
  unfold enableOne; dsimp only; split <;> simp
@[simp] theorem enableZero_far (s : State) (x1 : PageKind) (x2 : Nat) : (enableZero s x1 x2).far = s.far := by
  unfold enableZero; dsimp only; split <;> simp
@[simp] theorem writeCtrl_far (s : State) (x1 : PageKind) (x2 : Nat) (x3 : Bool) (x4 : Bool) : (writeCtrl s x1 x2 x3 x4).far = s.far := by
  simp [writeCtrl]
@[simp] theorem withPage_far (s : State) (pg : Nat) (f : PageKind → Nat → State) (h : ∀ k i, (f k i).far = s.far) : (withPage s pg f).far = s.far := by
  unfold withPage; split <;> simp [h]
@[simp] theorem firePageCtrl_far (s : State) (x1 : Half) (x2 : Entry) : (firePageCtrl s x1 x2).far = s.far := by
  simp [firePageCtrl]
@[simp] theorem startFaults_far (s : State) (x1 : PageKind) (x2 : Nat) : (startFaults s x1 x2).far = s.far := by
  unfold startFaults; split <;> simp
@[simp] theorem clearErr_far (s : State) (x1 : Nat) (x2 : Word) (x3 : Word) : (clearErr s x1 x2 x3).far = s.far := by
  simp [clearErr]
@[simp] theorem sprStatus_far (s : State) (x1 : Half) (x2 : Nat) (x3 : Nat) (x4 : Nat) : (sprStatus s x1 x2 x3 x4).far = s.far := by
  simp [sprStatus]
@[simp] theorem sprRefuse_far (s : State) (x1 : Half) (x2 : Nat) (x3 : Nat) : (sprRefuse s x1 x2 x3).far = s.far := by
  simp [sprRefuse]
@[simp] theorem releaseStarts_far (s : State) (x1 : Nat) (x2 : Bool) : (releaseStarts s x1 x2).far = s.far := by
  unfold releaseStarts; (try dsimp only); repeat' (first | (simp; done) | split | (with_reducible refine (foldl_far _ (fun _ _ => ?_) _ _).trans ?_) | simp)
@[simp] theorem abandonSwap_far (s : State) (x1 : Half) (x2 : Nat) : (abandonSwap s x1 x2).far = s.far := by
  unfold abandonSwap; split <;> simp
@[simp] theorem copyRegs_far (s : State) (x1 : Nat) (x2 : Nat) (x3 : List Nat) : (copyRegs s x1 x2 x3).far = s.far := by
  simp [copyRegs]
@[simp] theorem drainTile_far (s : State) (x1 : Nat) : (drainTile s x1).far = s.far := by
  simp [drainTile]
@[simp] theorem swapTick_far (s : State) (x1 : Half) : (swapTick s x1).far = s.far := by
  unfold swapTick; split <;> simp
@[simp] theorem wfCapture_far (s : State) (x1 : Half) (x2 : Bool) (x3 : Nat) : (wfCapture s x1 x2 x3).far = s.far := by
  simp [wfCapture]
@[simp] theorem beginCalm_far (s : State) (x1 : Half) (x2 : Nat) (x3 : Nat) (x4 : Bool) : (beginCalm s x1 x2 x3 x4).far = s.far := by
  simp [beginCalm]
@[simp] theorem fireCalm_far (s : State) (x1 : Entry) : (fireCalm s x1).far = s.far := by
  unfold fireCalm; split <;> simp
@[simp] theorem endCapture_far (s : State) (x1 : Half) : (endCapture s x1).far = s.far := by
  simp [endCapture]
@[simp] theorem calmCommand_far (s : State) (x1 : Half) (x2 : Nat) : (calmCommand s x1 x2).far = s.far := by
  unfold calmCommand; dsimp only; split <;> simp
@[simp] theorem actMessage_far (s : State) (c : Instr) : (actMessage s c).far = s.far := by
  unfold actMessage; split <;> first | rfl | exact ctrlTake_far _ _ _ _ fun _ => by simp
@[simp] theorem fromStore_far (s : State) (x1 : Instr) : (fromStore s x1).far = s.far := by
  unfold fromStore; (repeat' split) <;> simp
@[simp] theorem fromPort_far (s : State) (x1 : Nat) (x2 : Instr) : (fromPort s x1 x2).far = s.far := by
  unfold fromPort; (repeat' split) <;> simp
@[simp] theorem drainPorts_far (s : State) (x1 : Half) : (drainPorts s x1).far = s.far := by
  simp [drainPorts]
@[simp] theorem grantPorts_far (s : State) (x1 : Half) : (grantPorts s x1).far = s.far := by
  simp [grantPorts]
@[simp] theorem reactAll_far (s : State) (x1 : Half) : (reactAll s x1).far = s.far := by
  simp [reactAll]
@[simp] theorem wakeHeld_far (s : State) (x1 : Half) : (wakeHeld s x1).far = s.far := by
  unfold wakeHeld; (try dsimp only); repeat' (first | (simp; done) | split | (with_reducible refine (foldl_far _ (fun _ _ => ?_) _ _).trans ?_) | simp)
@[simp] theorem leaveCalm_far (s : State) (x1 : Half) : (leaveCalm s x1).far = s.far := by
  simp [leaveCalm]
@[simp] theorem fireReport_far (s : State) (x1 : Half) (x2 : Entry) : (fireReport s x1 x2).far = s.far := by
  simp [fireReport]
@[simp] theorem fireHeld_far (s : State) (x1 : Half) (x2 : Nat) : (fireHeld s x1 x2).far = s.far := by
  simp [fireHeld]
@[simp] theorem shiftTimers_far (s : State) (x1 : Half) (x2 : Nat) : (shiftTimers s x1 x2).far = s.far := by
  simp [shiftTimers]
@[simp] theorem actGo_far (s : State) (x1 : Instr) : (actGo s x1).far = s.far := by
  unfold actGo; split <;> simp
@[simp] theorem resumeCalm_far (s : State) (x1 : Half) (x2 : Nat) : (resumeCalm s x1 x2).far = s.far := by
  simp [resumeCalm]
@[simp] theorem refuseGo_far (s : State) (x1 : Instr) : (refuseGo s x1).far = s.far := by
  unfold refuseGo; split <;> simp
@[simp] theorem abandonTile_far (s : State) (x1 : Half) (x2 : Nat) : (abandonTile s x1 x2).far = s.far := by
  simp [abandonTile]
@[simp] theorem stopPrograms_far (s : State) (x1 : Half) : (stopPrograms s x1).far = s.far := by
  simp [stopPrograms]
@[simp] theorem cancelHeld_far (s : State) (x1 : Half) : (cancelHeld s x1).far = s.far := by
  simp [cancelHeld]
@[simp] theorem dropGusts_far (s : State) (x1 : Half) : (dropGusts s x1).far = s.far := by
  simp [dropGusts]
@[simp] theorem abandonCopy_far (s : State) (x1 : Half) : (abandonCopy s x1).far = s.far := by
  unfold abandonCopy; split <;> simp
@[simp] theorem abandonSession_far (s : State) (x1 : Nat) : (abandonSession s x1).far = s.far := by
  simp [abandonSession]
@[simp] theorem wfTake_far (s : State) (x1 : Half) : (wfTake s x1).far = s.far := by
  simp [wfTake]
@[simp] theorem wfAssemble_far (s : State) (x1 : Half) : (wfAssemble s x1).far = s.far := by
  simp [wfAssemble]
@[simp] theorem hangPacket_far (s : State) (x1 : Half) (x2 : Nat) (x3 : List Byte) : (hangPacket s x1 x2 x3).far = s.far := by
  simp [hangPacket]
@[simp] theorem freezeSession_far (s : State) (x1 : Nat) : (freezeSession s x1).far = s.far := by
  unfold freezeSession; dsimp only; (repeat' split) <;> simp
@[simp] theorem thawSession_far (s : State) (x1 : Nat) : (thawSession s x1).far = s.far := by
  simp [thawSession]
@[simp] theorem scrubAfter_far (s : State) (x1 : Nat) : (scrubAfter s x1).far = s.far := by
  simp [scrubAfter]
@[simp] theorem swapLost_far (x0 : State) (s : State) (x2 : Half) : (swapLost x0 s x2).far = s.far := by
  unfold swapLost; split <;> simp
@[simp] theorem slewTick_far (s : State) : (slewTick s).far = s.far := by
  simp [slewTick]
@[simp] theorem noteFrac_far (s : State) (x1 : Nat) : (noteFrac s x1).far = s.far := by
  unfold noteFrac; split <;> simp
@[simp] theorem afterCells_far (b s : State) (k : Nat) : (afterCells b s k).far = s.far := by
  unfold afterCells; exact foldl_far _ (fun _ _ => by simp) _ _
@[simp] theorem flushPort_far (s : State) (x1 : Nat) : (flushPort s x1).far = s.far := by
  simp [flushPort]
@[simp] theorem settleFor_far (s : State) (x1 : PageKind) (x2 : Nat) (x3 : Nat) : (settleFor s x1 x2 x3).far = s.far := by
  unfold settleFor; split <;> simp
@[simp] theorem meterWritten_far (b s : State) (k o : Nat) : (meterWritten b s k o).far = s.far := by
  unfold meterWritten; (try dsimp only); repeat' (first | (simp; done) | split | (with_reducible apply foldl_far; intros) | simp)
@[simp] theorem holdCleared_far (x0 : State) (s : State) (x2 : Nat) : (holdCleared x0 s x2).far = s.far := by
  simp [holdCleared]
@[simp] theorem afterStore_far (b s : State) (k : PageKind) (i o : Nat) : (afterStore b s k i o).far = s.far := by
  unfold afterStore; (try dsimp only); repeat' (first | (simp; done) | split | (with_reducible apply foldl_far; intros) | simp)
@[simp] theorem storeWord_far (s : State) (x1 : PageKind) (x2 : Nat) (x3 : Nat) (x4 : RegRow) (x5 : Word) : (storeWord s x1 x2 x3 x4 x5).far = s.far := by
  unfold storeWord; split <;> simp
@[simp] theorem closeInterval_far (s : State) (x1 : Nat) : (closeInterval s x1).far = s.far := by
  unfold closeInterval; split <;> simp
end Sys2Proof.Machine
end

