-- ==== Sys2Proof/Laws/Fixed.lean ====
section
/-! SUPPORT. One lemma for each operation whose whole effect leaves the build, the
queue, the cycle number and the memory as they were (`State.fixed`).  The meanings that do change
one of these four (a write of memory, the passing of a cycle) have no lemma here. -/

open Sys2Proof Sys2Proof.Machine
namespace Sys2Proof.Machine
set_option linter.unusedSimpArgs false
/-- What no command but a write of memory changes. -/
def State.fixed (s : State) : BlockCfg × List Instr × Nat × Tbl Byte := (s.cfg, s.pending, s.cyc, s.mem)
@[simp] theorem State.fixed_mk (a_cfg a_pending a_cyc a_fresh a_inForce a_regs a_pages a_wins a_mports a_sumSeq a_sumCyc a_ftu a_sched a_ends a_trigCyc a_trigHigh a_bypWin a_bypStat a_tiles a_tmap a_bankUse a_bankLost a_ssends a_gates a_sessions a_copies a_wvGroups a_wvFlits a_wvEpochs a_wvTurn a_srRole a_audits a_denseSeq a_reports a_repLost a_arbs a_arbOn a_flits a_stranded a_ports a_buckets a_meters a_mem a_badLines a_regions a_reserve a_era a_entries a_chans a_memLog a_macAt a_fill a_parts a_partCmd a_certLog a_rtp a_attQueue a_attSeq a_kexs a_peers a_ownerKeys a_gloveIds a_gloveHdrs a_openings a_secLog a_secAt a_minSvn a_entropyOk a_power a_budgets a_allots a_gateHeld a_streams a_channels a_obsBucket a_obsCyc a_banks a_mitTile a_mitRegs a_pcLast a_mitLast a_calm a_charge a_swaps a_heldStarts a_srSwap a_frameSwaps a_frameSpares a_wearLife a_wearDay a_wearDayNo a_autoQueue a_retireCyc a_fuseUsed a_fuseQueue a_fuseFull a_rowsUsed a_laneMap a_ready a_railFell a_pgSb a_broken) : (State.mk a_cfg a_pending a_cyc a_fresh a_inForce a_regs a_pages a_wins a_mports a_sumSeq a_sumCyc a_ftu a_sched a_ends a_trigCyc a_trigHigh a_bypWin a_bypStat a_tiles a_tmap a_bankUse a_bankLost a_ssends a_gates a_sessions a_copies a_wvGroups a_wvFlits a_wvEpochs a_wvTurn a_srRole a_audits a_denseSeq a_reports a_repLost a_arbs a_arbOn a_flits a_stranded a_ports a_buckets a_meters a_mem a_badLines a_regions a_reserve a_era a_entries a_chans a_memLog a_macAt a_fill a_parts a_partCmd a_certLog a_rtp a_attQueue a_attSeq a_kexs a_peers a_ownerKeys a_gloveIds a_gloveHdrs a_openings a_secLog a_secAt a_minSvn a_entropyOk a_power a_budgets a_allots a_gateHeld a_streams a_channels a_obsBucket a_obsCyc a_banks a_mitTile a_mitRegs a_pcLast a_mitLast a_calm a_charge a_swaps a_heldStarts a_srSwap a_frameSwaps a_frameSpares a_wearLife a_wearDay a_wearDayNo a_autoQueue a_retireCyc a_fuseUsed a_fuseQueue a_fuseFull a_rowsUsed a_laneMap a_ready a_railFell a_pgSb a_broken).fixed = (a_cfg, a_pending, a_cyc, a_mem) := rfl
@[simp] theorem State.fixed_fold (s : State) : (s.cfg, s.pending, s.cyc, s.mem) = s.fixed := rfl
@[simp] theorem fixed_ite (c : Prop) [Decidable c] (a b : State) : (if c then a else b).fixed = if c then a.fixed else b.fixed := by split <;> rfl
@[simp] theorem foldl_fixed {α : Type} (f : State → α → State) (h : ∀ s x, (f s x).fixed = s.fixed) (l : List α) (s : State) : (l.foldl f s).fixed = s.fixed := by
  induction l generalizing s with
  | nil => rfl
  | cons x r ih => rw [List.foldl_cons]; exact (ih _).trans (h _ _)
@[simp] theorem foldr_fixed {α : Type} (f : α → State → State) (h : ∀ s x, (f x s).fixed = s.fixed) (l : List α) (s : State) : (l.foldr f s).fixed = s.fixed := by
  induction l with
  | nil => rfl
  | cons x r ih => rw [List.foldr_cons]; exact (h _ _).trans ih
@[simp] theorem foldl_fst_fixed {α β : Type} (f : State × β → α → State × β) (h : ∀ s x, (f s x).1.fixed = s.1.fixed) (l : List α) (s : State × β) : (l.foldl f s).1.fixed = s.1.fixed := by
  induction l generalizing s with
  | nil => rfl
  | cons x r ih => rw [List.foldl_cons]; exact (ih _).trans (h _ _)
@[simp] theorem foldl_snd_fixed {α β : Type} (f : β × State → α → β × State) (h : ∀ s x, (f s x).2.fixed = s.2.fixed) (l : List α) (s : β × State) : (l.foldl f s).2.fixed = s.2.fixed := by
  induction l generalizing s with
  | nil => rfl
  | cons x r ih => rw [List.foldl_cons]; exact (ih _).trans (h _ _)
@[simp] theorem draw_fixed {α : Type} (s : State) (f : Nat → α) : (s.draw f).2.fixed = s.fixed := rfl
@[simp] theorem forEach_fixed {α : Type} (f : State → α → State) (h : ∀ s x, (f s x).fixed = s.fixed) (l : List α) (s : State) : (forEach l s f).fixed = s.fixed := foldl_fixed f h l s
@[simp] theorem countSummary_fixed (s t : State) : (countSummary s t).fixed = t.fixed := by unfold countSummary; split <;> (try split) <;> rfl

@[simp] theorem putReg_fixed (s : State) (x1 : Nat) (x2 : Word) : (putReg s x1 x2).fixed = s.fixed := by
  simp [putReg]
@[simp] theorem setKreg_fixed (s : State) (x1 : PageKind) (x2 : Nat) (x3 : Nat) (x4 : Word) : (setKreg s x1 x2 x3 x4).fixed = s.fixed := by
  simp [setKreg]
@[simp] theorem incReg_fixed (s : State) (x1 : PageKind) (x2 : Nat) (x3 : Nat) (x4 : Nat) : (incReg s x1 x2 x3 x4).fixed = s.fixed := by
  simp [incReg]
@[simp] theorem satReg_fixed (s : State) (x1 : PageKind) (x2 : Nat) (x3 : Nat) (x4 : Nat) : (satReg s x1 x2 x3 x4).fixed = s.fixed := by
  simp [satReg]
@[simp] theorem setKreg64_fixed (s : State) (x1 : PageKind) (x2 : Nat) (x3 : Nat) (x4 : Nat) : (setKreg64 s x1 x2 x3 x4).fixed = s.fixed := by
  simp [setKreg64]
@[simp] theorem incReg64_fixed (s : State) (x1 : PageKind) (x2 : Nat) (x3 : Nat) (x4 : Nat) : (incReg64 s x1 x2 x3 x4).fixed = s.fixed := by
  simp [incReg64]
@[simp] theorem putPage_fixed (s : State) (x1 : Nat) (x2 : Page) : (putPage s x1 x2).fixed = s.fixed := by
  simp [putPage]
@[simp] theorem setPageSt_fixed (s : State) (x1 : Nat) (x2 : PageSt) : (setPageSt s x1 x2).fixed = s.fixed := by
  simp [setPageSt]
@[simp] theorem putTile_fixed (s : State) (x1 : Nat) (x2 : Tile) : (putTile s x1 x2).fixed = s.fixed := by
  simp [putTile]
@[simp] theorem onTile_fixed (s : State) (x1 : Nat) (x2 : Tile → Tile) : (onTile s x1 x2).fixed = s.fixed := by
  simp [onTile]
@[simp] theorem flagParts_fixed (s : State) (x1 : Nat) : (flagParts s x1).fixed = s.fixed := by
  simp [flagParts]
@[simp] theorem markErr_fixed (s : State) (x1 : Nat) (x2 : Nat) : (markErr s x1 x2).1.fixed = s.fixed := by
  simp [markErr]
@[simp] theorem bankSat_fixed (s : State) (x1 : Nat) : (bankSat s x1).fixed = s.fixed := by
  simp [bankSat]
@[simp] theorem putBank_fixed (s : State) (x1 : Nat) (x2 : Bank) : (putBank s x1 x2).fixed = s.fixed := by
  simp [putBank]
@[simp] theorem countTile_fixed (s : State) (x1 : Nat) (x2 : Nat) (x3 : List Nat) (x4 : Nat) : (countTile s x1 x2 x3 x4).fixed = s.fixed := by
  unfold countTile; dsimp only; (repeat' split) <;> simp
@[simp] theorem countBlk_fixed (s : State) (x1 : Half) (x2 : Nat) (x3 : List Nat) (x4 : Nat) (x5 : Option Nat) (x6 : Nat) : (countBlk s x1 x2 x3 x4 x5 x6).fixed = s.fixed := by
  simp [countBlk]
@[simp] theorem putStream_fixed (s : State) (x1 : Nat) (x2 : Stream) : (putStream s x1 x2).fixed = s.fixed := by
  simp [putStream]
@[simp] theorem putChan_fixed (s : State) (x1 : Nat) (x2 : Channel) : (putChan s x1 x2).fixed = s.fixed := by
  simp [putChan]
@[simp] theorem genRecord_fixed (s : State) (x1 : Nat) (x2 : Bool) (x3 : Bool → Nat → List Byte) : (genRecord s x1 x2 x3).fixed = s.fixed := by
  unfold genRecord; split <;> simp
@[simp] theorem askSync_fixed (s : State) (x1 : Nat) (x2 : Nat) : (askSync s x1 x2).fixed = s.fixed := by
  simp [askSync]
@[simp] theorem syncNow_fixed (s : State) (x1 : Nat) (x2 : Nat) : (syncNow s x1 x2).fixed = s.fixed := by
  simp [syncNow]
@[simp] theorem genEvent_fixed (s : State) (x1 : Nat) (x2 : Nat) (x3 : Nat) (x4 : Nat) (x5 : Nat) : (genEvent s x1 x2 x3 x4 x5).fixed = s.fixed := by
  simp [genEvent]
@[simp] theorem pageErrEvent_fixed (s : State) (x1 : Nat) (x2 : Nat) (x3 : Nat) : (pageErrEvent s x1 x2 x3).fixed = s.fixed := by
  unfold pageErrEvent; (repeat' split) <;> simp
@[simp] theorem raiseErr_fixed (s : State) (x1 : Nat) (x2 : Nat) : (raiseErr s x1 x2).fixed = s.fixed := by
  simp [raiseErr]
@[simp] theorem raiseK_fixed (s : State) (x1 : PageKind) (x2 : Nat) (x3 : Nat) : (raiseK s x1 x2 x3).fixed = s.fixed := by
  simp [raiseK]
@[simp] theorem accessErr_fixed (s : State) (x1 : PageKind) (x2 : Nat) : (accessErr s x1 x2).fixed = s.fixed := by
  simp [accessErr]
@[simp] theorem unitEvent_fixed (s : State) (x1 : Nat) (x2 : Option Nat) (x3 : Nat) (x4 : Nat) (x5 : Nat) (x6 : Nat) : (unitEvent s x1 x2 x3 x4 x5 x6).fixed = s.fixed := by
  simp [unitEvent]
@[simp] theorem askSyncHalf_fixed (s : State) (x1 : Half) (x2 : Nat) : (askSyncHalf s x1 x2).fixed = s.fixed := by
  simp [askSyncHalf]
@[simp] theorem deliverFrame_fixed (s : State) (x1 : Nat) : (deliverFrame s x1).fixed = s.fixed := by
  unfold deliverFrame; dsimp only; split <;> simp
@[simp] theorem serveBanks_fixed (s : State) (x1 : Nat) (x2 : Nat) (x3 : List Nat) : (serveBanks s x1 x2 x3).fixed = s.fixed := by
  simp [serveBanks]
@[simp] theorem loseBanks_fixed (s : State) (x1 : Nat) (x2 : Nat) (x3 : List Nat) : (loseBanks s x1 x2 x3).fixed = s.fixed := by
  simp [loseBanks]
@[simp] theorem wakeTile_fixed (s : State) (x1 : Nat) : (wakeTile s x1).fixed = s.fixed := by
  simp [wakeTile]
@[simp] theorem semInc_fixed (s : State) (x1 : Nat) (x2 : Nat) (x3 : Nat) : (semInc s x1 x2 x3).fixed = s.fixed := by
  simp [semInc]
@[simp] theorem semIncOpt_fixed (s : State) (x1 : Nat) (x2 : Option Nat) : (semIncOpt s x1 x2).fixed = s.fixed := by
  unfold semIncOpt; split <;> simp
@[simp] theorem pushEntry_fixed (s : State) (x1 : Nat) (x2 : Nat) (x3 : QEntry) : (pushEntry s x1 x2 x3).fixed = s.fixed := by
  simp [pushEntry]
@[simp] theorem secAppend_fixed (s : State) (x1 : Nat) (x2 : Nat) (x3 : Nat) : (secAppend s x1 x2 x3).fixed = s.fixed := by
  simp [secAppend]
@[simp] theorem secEvent_fixed (s : State) (x1 : Nat) (x2 : Nat) (x3 : Nat) (x4 : Nat) : (secEvent s x1 x2 x3 x4).fixed = s.fixed := by
  simp [secEvent]
@[simp] theorem wearAdd_fixed (s : State) (x1 : Nat) (x2 : Nat) (x3 : Nat) : (wearAdd s x1 x2 x3).fixed = s.fixed := by
  simp [wearAdd]
@[simp] theorem tenantEvent_fixed (s : State) (x1 : Nat) (x2 : Nat) (x3 : Nat) (x4 : Nat) (x5 : Nat) (x6 : Nat) : (tenantEvent s x1 x2 x3 x4 x5 x6).fixed = s.fixed := by
  simp [tenantEvent]
@[simp] theorem putArb_fixed (s : State) (x1 : Nat) (x2 : Arb) : (putArb s x1 x2).fixed = s.fixed := by
  simp [putArb]
@[simp] theorem raiseReq_fixed (s : State) (x1 : Nat) (x2 : Req) : (raiseReq s x1 x2).fixed = s.fixed := by
  simp [raiseReq]
@[simp] theorem joinReq_fixed (s : State) (x1 : Nat) (x2 : Req) (x3 : Req → Bool) (x4 : Req → Req) : (joinReq s x1 x2 x3 x4).fixed = s.fixed := by
  simp [joinReq]
@[simp] theorem injectFlit_fixed (s : State) (x1 : Flit) : (injectFlit s x1).fixed = s.fixed := by
  simp [injectFlit]
@[simp] theorem dropFlits_fixed (s : State) (x1 : FlitWhat → Bool) : (dropFlits s x1).fixed = s.fixed := by
  simp [dropFlits]
@[simp] theorem sendCellFlits_fixed (s : State) (x1 : Flit) (x2 : List Byte) (x3 : List Byte) : (sendCellFlits s x1 x2 x3).fixed = s.fixed := by
  simp [sendCellFlits]
@[simp] theorem cellToPort_fixed (s : State) (x1 : Nat) (x2 : Nat) (x3 : Nat) (x4 : Cell) : (cellToPort s x1 x2 x3 x4).fixed = s.fixed := by
  simp [cellToPort]
@[simp] theorem flitToReducer_fixed (s : State) (x1 : Nat) (x2 : Nat) (x3 : WvFlit) : (flitToReducer s x1 x2 x3).fixed = s.fixed := by
  simp [flitToReducer]
@[simp] theorem flitToStack_fixed (s : State) (x1 : Nat) (x2 : Nat) (x3 : Nat) (x4 : Nat) (x5 : Nat) (x6 : MemAsk) (x7 : List Byte) (x8 : Nat) (x9 : Nat) : (flitToStack s x1 x2 x3 x4 x5 x6 x7 x8 x9).fixed = s.fixed := by
  simp [flitToStack]
@[simp] theorem onMove_fixed (s : State) (x1 : Nat) (x2 : Nat) (x3 : Move → Move) : (onMove s x1 x2 x3).fixed = s.fixed := by
  simp [onMove]
@[simp] theorem moveFlitDone_fixed (s : State) (x1 : Nat) (x2 : Nat) : (moveFlitDone s x1 x2).fixed = s.fixed := by
  simp [moveFlitDone]
@[simp] theorem putPort_fixed (s : State) (x1 : Nat) (x2 : Port) : (putPort s x1 x2).fixed = s.fixed := by
  simp [putPort]
@[simp] theorem putBucket_fixed (s : State) (x1 : Nat) (x2 : Int) : (putBucket s x1 x2).fixed = s.fixed := by
  simp [putBucket]
@[simp] theorem setPartReg_fixed (s : State) (x1 : Nat) (x2 : Nat) (x3 : Word) : (setPartReg s x1 x2 x3).fixed = s.fixed := by
  simp [setPartReg]
@[simp] theorem settlePool_fixed (s : State) : (settlePool s).fixed = s.fixed := by
  simp [settlePool]
@[simp] theorem takeFrom_fixed (s : State) (x1 : Nat) (x2 : Int) (x3 : Nat) (x4 : Nat) : (takeFrom s x1 x2 x3 x4).fixed = s.fixed := by
  simp [takeFrom]
@[simp] theorem chargeCell_fixed (s : State) (x1 : Nat) (x2 : Cell) : (chargeCell s x1 x2).fixed = s.fixed := by
  simp [chargeCell]
@[simp] theorem spendCredit_fixed (s : State) (x1 : Nat) (x2 : Cell) : (spendCredit s x1 x2).fixed = s.fixed := by
  simp [spendCredit]
@[simp] theorem cellBegins_fixed (s : State) (x1 : Nat) (x2 : Cell) : (cellBegins s x1 x2).fixed = s.fixed := by
  simp [cellBegins]
@[simp] theorem cellSent_fixed (s : State) (x1 : Nat) (x2 : Cell) : (cellSent s x1 x2).fixed = s.fixed := by
  simp [cellSent]
@[simp] theorem grantIngress_fixed (s : State) (x1 : Nat) : (grantIngress s x1).fixed = s.fixed := by
  simp [grantIngress]
theorem takeIngress_fixed {s u : State} {p : Nat} (h : takeIngress s p = some u) : u.fixed = s.fixed := by
  unfold takeIngress at h; dsimp only at h
  (repeat' split at h) <;> simp only [reduceCtorEq, Option.some.injEq] at h <;> subst h <;> simp
@[simp] theorem dropNoCredit_fixed (s : State) (x1 : Nat) : (dropNoCredit s x1).fixed = s.fixed := by
  simp [dropNoCredit]
@[simp] theorem freeIngress_fixed (s : State) (x1 : Nat) : (freeIngress s x1).fixed = s.fixed := by
  simp [freeIngress]
@[simp] theorem meterCell_fixed (s : State) (x1 : Nat) (x2 : Nat) : (meterCell s x1 x2).fixed = s.fixed := by
  simp [meterCell]
@[simp] theorem queueCell_fixed (s : State) (x1 : Nat) (x2 : Nat) (x3 : Cell) : (queueCell s x1 x2 x3).fixed = s.fixed := by
  unfold queueCell; split <;> simp
@[simp] theorem portHolds_fixed (s : State) (x1 : Nat) : (portHolds s x1).fixed = s.fixed := by
  simp [portHolds]
@[simp] theorem portsTick_fixed (s : State) : (portsTick s).fixed = s.fixed := by
  simp [portsTick]
@[simp] theorem respond_fixed (s : State) (x1 : Half) (x2 : Nat) (x3 : Word) : (respond s x1 x2 x3).fixed = s.fixed := by
  simp [respond]
@[simp] theorem okay_fixed (s : State) (x1 : Half) : (okay s x1).fixed = s.fixed := by
  simp [okay]
@[simp] theorem turnAway_fixed (s : State) (x1 : Half) (x2 : Nat) (x3 : Nat) : (turnAway s x1 x2 x3).fixed = s.fixed := by
  simp [turnAway]
@[simp] theorem failStart_fixed (s : State) (x1 : Nat) (x2 : Nat) : (failStart s x1 x2).fixed = s.fixed := by
  simp [failStart]
@[simp] theorem putEntry_fixed (s : State) (x1 : Half) (x2 : Nat) (x3 : Entry) : (putEntry s x1 x2 x3).fixed = s.fixed := by
  simp [putEntry]
@[simp] theorem schedAction_fixed (s : State) (x : Half) (n code : Nat) (is : Entry → Bool) (f : State → Entry → State) (h : ∀ u e, (f u e).fixed = u.fixed) : (schedAction s x n code is f).fixed = s.fixed := by
  unfold schedAction; (try dsimp only); (repeat' split) <;> simp [h]
@[simp] theorem countMissed_fixed (s : State) (x1 : Half) (x2 : Nat) : (countMissed s x1 x2).fixed = s.fixed := by
  simp [countMissed]
@[simp] theorem putPart_fixed (s : State) (x1 : Nat) (x2 : Part) : (putPart s x1 x2).fixed = s.fixed := by
  simp [putPart]
@[simp] theorem putRegion_fixed (s : State) (x1 : Nat) (x2 : Region) : (putRegion s x1 x2).fixed = s.fixed := by
  simp [putRegion]
@[simp] theorem putCh_fixed (s : State) (x1 : Nat) (x2 : Nat) (x3 : StackCh) : (putCh s x1 x2 x3).fixed = s.fixed := by
  simp [putCh]
@[simp] theorem putEntries_fixed (s : State) (x1 : Nat) (x2 : Nat) (x3 : List ChEntry) : (putEntries s x1 x2 x3).fixed = s.fixed := by
  simp [putEntries]
@[simp] theorem withdrawUse_fixed (s : State) (x1 : MemUse → Bool) : (withdrawUse s x1).fixed = s.fixed := by
  simp [withdrawUse]
@[simp] theorem dropUse_fixed (s : State) (x1 : MemUse → Bool) : (dropUse s x1).fixed = s.fixed := by
  simp [dropUse]
@[simp] theorem askStack_fixed (s : State) (x1 : Nat) (x2 : Nat) (x3 : Nat) (x4 : Bool) (x5 : List (MemAsk × List Byte)) : (askStack s x1 x2 x3 x4 x5).fixed = s.fixed := by
  unfold askStack; split <;> simp
@[simp] theorem putWin_fixed (s : State) (x1 : Half) (x2 : Nat) (x3 : Window) : (putWin s x1 x2 x3).fixed = s.fixed := by
  simp [putWin]
@[simp] theorem decideWin_fixed (s : State) (x1 : Half) (x2 : Nat) (x3 : Bool) : (decideWin s x1 x2 x3).fixed = s.fixed := by
  simp [decideWin]
@[simp] theorem decideRtp_fixed (s : State) (x1 : Half) (x2 : Bool) : (decideRtp s x1 x2).fixed = s.fixed := by
  unfold decideRtp; split <;> simp
@[simp] theorem suspendBurst_fixed (s : State) (x1 : Nat) : (suspendBurst s x1).fixed = s.fixed := by
  simp [suspendBurst]
@[simp] theorem countGrant_fixed (s : State) (x1 : PageKind) (x2 : Nat) (x3 : Nat) (x4 : Half) (x5 : Req) : (countGrant s x1 x2 x3 x4 x5).fixed = s.fixed := by
  simp [countGrant]
@[simp] theorem clampSeen_fixed (s : State) (x1 : PageKind) (x2 : Nat) (x3 : Nat) (x4 : Half) : (clampSeen s x1 x2 x3 x4).fixed = s.fixed := by
  simp [clampSeen]
@[simp] theorem joinStack_fixed (s : State) (x1 : Flit) (x2 : MemAsk) (x3 : Nat) : (joinStack s x1 x2 x3).fixed = s.fixed := by
  simp [joinStack]
@[simp] theorem joinPort_fixed (s : State) (x1 : Flit) (x2 : Nat) (x3 : Cell) : (joinPort s x1 x2 x3).fixed = s.fixed := by
  simp [joinPort]
@[simp] theorem countSendFlit_fixed (s : State) (x1 : Option Nat) : (countSendFlit s x1).fixed = s.fixed := by
  unfold countSendFlit; split <;> simp
@[simp] theorem freezeTargets_fixed (s : State) (x1 : PageKind) (x2 : Nat) : (freezeTargets s x1 x2).fixed = s.fixed := by
  simp [freezeTargets]
@[simp] theorem logError_fixed (s : State) (x1 : Nat) (x2 : Nat) (x3 : Nat) (x4 : Nat) (x5 : Nat) : (logError s x1 x2 x3 x4 x5).fixed = s.fixed := by
  simp [logError]
@[simp] theorem countMemErr_fixed (s : State) (x1 : Nat) (x2 : Nat) : (countMemErr s x1 x2).fixed = s.fixed := by
  simp [countMemErr]
@[simp] theorem addChErr_fixed (s : State) (x1 : Nat) (x2 : Nat) (x3 : Nat) : (addChErr s x1 x2 x3).fixed = s.fixed := by
  simp [addChErr]
@[simp] theorem lineBad_fixed (s : State) (x1 : Nat) (x2 : Nat) (x3 : Nat) (x4 : Nat) : (lineBad s x1 x2 x3 x4).fixed = s.fixed := by
  unfold lineBad; (repeat' split) <;> simp
@[simp] theorem lineCorrected_fixed (s : State) (x1 : Nat) (x2 : Nat) (x3 : Nat) (x4 : Nat) : (lineCorrected s x1 x2 x3 x4).fixed = s.fixed := by
  simp [lineCorrected]
@[simp] theorem readLine_fixed (s : State) (x1 : Nat) (x2 : Nat) (x3 : Nat) (x4 : LineFinding) : (readLine s x1 x2 x3 x4).fixed = s.fixed := by
  unfold readLine; split <;> simp
@[simp] theorem changeEntry_fixed (s : State) (x1 : Nat) (x2 : Nat) (x3 : Option ChEntry) : (changeEntry s x1 x2 x3).fixed = s.fixed := by
  simp [changeEntry]
@[simp] theorem entryReturns_fixed (s : State) (x1 : ChEntry) : (entryReturns s x1).fixed = s.fixed := by
  unfold entryReturns; split <;> simp
@[simp] theorem engineMeets_fixed (s : State) (x1 : MemUse) (x2 : Nat) : (engineMeets s x1 x2).fixed = s.fixed := by
  unfold engineMeets; split <;> simp
@[simp] theorem lineReturns_fixed (s : State) (x1 : Nat) (x2 : ChEntry) (x3 : Nat) (x4 : LineFinding) : (lineReturns s x1 x2 x3 x4).fixed = s.fixed := by
  simp [lineReturns]
@[simp] theorem feRegs_fixed (s : State) (x1 : Half) (x2 : Nat) (x3 : Nat) (x4 : Nat) : (feRegs s x1 x2 x3 x4).fixed = s.fixed := by
  simp [feRegs]
@[simp] theorem feRefuse_fixed (s : State) (x1 : Half) (x2 : Nat) : (feRefuse s x1 x2).fixed = s.fixed := by
  simp [feRefuse]
@[simp] theorem feStatus_fixed (s : State) (x1 : Half) (x2 : Nat) (x3 : Nat) : (feStatus s x1 x2 x3).fixed = s.fixed := by
  simp [feStatus]
@[simp] theorem feDone_fixed (s : State) (x1 : Half) : (feDone s x1).fixed = s.fixed := by
  simp [feDone]
@[simp] theorem feBegin_fixed (s : State) (x1 : Half) (x2 : Fill) (x3 : Option Nat) : (feBegin s x1 x2 x3).fixed = s.fixed := by
  unfold feBegin; split <;> simp
@[simp] theorem onFill_fixed (s : State) (x1 : Half) (x2 : Fill → Fill) : (onFill s x1 x2).fixed = s.fixed := by
  simp [onFill]
@[simp] theorem patrolNext_fixed (s : State) (x1 : Half) (x2 : Nat) : (patrolNext s x1 x2).fixed = s.fixed := by
  unfold patrolNext; split <;> simp
@[simp] theorem askSpan_fixed (s : State) (x1 : Half) (x2 : Nat) (x3 : Bool) : (askSpan s x1 x2 x3).fixed = s.fixed := by
  simp [askSpan]
@[simp] theorem spanStep_fixed (s : State) (x1 : Half) (x2 : Fill) (x3 : Nat) : (spanStep s x1 x2 x3).fixed = s.fixed := by
  unfold spanStep; split <;> simp
@[simp] theorem foreTick_fixed (s : State) (x1 : Half) : (foreTick s x1).fixed = s.fixed := by
  unfold foreTick; dsimp only; split <;> simp
@[simp] theorem lateTick_fixed (s : State) (x1 : Half) : (lateTick s x1).fixed = s.fixed := by
  simp [lateTick]
@[simp] theorem patrolTick_fixed (s : State) (x1 : Half) : (patrolTick s x1).fixed = s.fixed := by
  unfold patrolTick; dsimp only; (repeat' split) <;> simp
@[simp] theorem fillTick_fixed (s : State) (x1 : Half) : (fillTick s x1).fixed = s.fixed := by
  simp [fillTick]
@[simp] theorem entryTick_fixed (s : State) : (entryTick s).fixed = s.fixed := by
  simp [entryTick]
@[simp] theorem partDone_fixed (s : State) (x1 : Nat) : (partDone s x1).fixed = s.fixed := by
  simp [partDone]
@[simp] theorem workDone_fixed (s : State) (x1 : Nat) : (workDone s x1).fixed = s.fixed := by
  simp [workDone]
@[simp] theorem migrateHalts_fixed (s : State) (x1 : Half) (x2 : Fill) (x3 : Nat) : (migrateHalts s x1 x2 x3).fixed = s.fixed := by
  simp [migrateHalts]
@[simp] theorem migrateDone_fixed (s : State) (x1 : Half) (x2 : Fill) : (migrateDone s x1 x2).fixed = s.fixed := by
  simp [migrateDone]
@[simp] theorem repairDone_fixed (s : State) (x1 : Half) (x2 : Fill) : (repairDone s x1 x2).fixed = s.fixed := by
  simp [repairDone]
theorem onPwr_fixed (s : State) (f : State → Nat → State) (h : ∀ u i, (f u i).fixed = u.fixed) : (onPwr s f).fixed = s.fixed := by
  unfold onPwr; split
  · exact (h _ _).trans (h _ _)
  · exact h _ _
@[simp] theorem raisePwr_fixed (s : State) (b : Nat) : (raisePwr s b).fixed = s.fixed := onPwr_fixed _ _ fun _ _ => by simp
@[simp] theorem setCode_fixed (s : State) (x1 : Nat) (x2 : Nat) : (setCode s x1 x2).fixed = s.fixed := by
  simp [setCode]
@[simp] theorem badStrobe_fixed (s : State) : (badStrobe s).fixed = s.fixed := onPwr_fixed _ _ fun _ _ => by simp
@[simp] theorem settleGates_fixed (s : State) : (settleGates s).fixed = s.fixed := by
  simp [settleGates]
@[simp] theorem chargeGate_fixed (s : State) (x1 : Nat) (x2 : Nat) : (chargeGate s x1 x2).fixed = s.fixed := by
  simp [chargeGate]
@[simp] theorem splitBudgets_fixed (s : State) : (splitBudgets s).fixed = s.fixed := by
  simp [splitBudgets]
@[simp] theorem putSes_fixed (s : State) (x1 : Nat) (x2 : Session) : (putSes s x1 x2).fixed = s.fixed := by
  simp [putSes]
@[simp] theorem onSes_fixed (s : State) (x1 : Nat) (x2 : Session → Session) : (onSes s x1 x2).fixed = s.fixed := by
  simp [onSes]
@[simp] theorem onEp_fixed (s : State) (x1 : Nat) (x2 : Nat) (x3 : Epoch → Epoch) : (onEp s x1 x2 x3).fixed = s.fixed := by
  simp [onEp]
@[simp] theorem sesCount_fixed (s : State) (x1 : Session) (x2 : Nat) : (sesCount s x1 x2).fixed = s.fixed := by
  simp [sesCount]
@[simp] theorem nextTurn_fixed (s : State) (x1 : Half) (x2 : Nat) : (nextTurn s x1 x2).fixed = s.fixed := by
  simp [nextTurn]
@[simp] theorem onWvEp_fixed (s : State) (x1 : Nat) (x2 : Nat) (x3 : WvEpoch → WvEpoch) : (onWvEp s x1 x2 x3).fixed = s.fixed := by
  simp [onWvEp]
@[simp] theorem dropWvEp_fixed (s : State) (x1 : Nat) (x2 : Nat) : (dropWvEp s x1 x2).fixed = s.fixed := by
  simp [dropWvEp]
@[simp] theorem countSkipped_fixed (s : State) (x1 : Half) (x2 : Nat) (x3 : Nat) : (countSkipped s x1 x2 x3).fixed = s.fixed := by
  simp [countSkipped]
@[simp] theorem distinct_fixed (s : State) (k n : Nat) (l : List Nat) : (distinct s k n l).2.fixed = s.fixed := by
  induction k generalizing n l with
  | zero => rfl
  | succ k ih => unfold distinct; exact ih _ _
@[simp] theorem placeGroup_fixed (s : State) (x1 : Nat) (x2 : Nat) (x3 : Nat) (x4 : Option Nat) (x5 : Nat) : (placeGroup s x1 x2 x3 x4 x5).fixed = s.fixed := by
  unfold placeGroup; dsimp only; split <;> simp
@[simp] theorem sampleEpoch_fixed (s : State) (x1 : Nat) (x2 : Nat) : (sampleEpoch s x1 x2).fixed = s.fixed := by
  simp [sampleEpoch]
@[simp] theorem voidGroup_fixed (s : State) (x1 : Nat) : (voidGroup s x1).fixed = s.fixed := by
  unfold voidGroup; split <;> simp
@[simp] theorem voidGroups_fixed (s : State) (x1 : WvGroup → Bool) : (voidGroups s x1).fixed = s.fixed := by
  simp [voidGroups]
@[simp] theorem voidEpoch_fixed (s : State) (x1 : Nat) (x2 : Nat) : (voidEpoch s x1 x2).fixed = s.fixed := by
  simp [voidEpoch]
@[simp] theorem sendCopies_fixed (s : State) (x1 : Nat) (x2 : Nat) (x3 : Nat) (x4 : Nat) (x5 : Nat) (x6 : Nat) (x7 : Nat) (x8 : List (Nat × Nat)) : (sendCopies s x1 x2 x3 x4 x5 x6 x7 x8).fixed = s.fixed := by
  simp [sendCopies]
@[simp] theorem sendStates_fixed (s : State) (x1 : Nat) (x2 : Nat) (x3 : Nat) (x4 : Nat) (x5 : Nat) (x6 : Nat) : (sendStates s x1 x2 x3 x4 x5 x6).fixed = s.fixed := by
  simp [sendStates]
@[simp] theorem normCode_fixed (s : State) (x1 : Option (Nat × Int)) (x2 : Nat × Int) : (normCode s x1 x2).2.fixed = s.fixed := by
  unfold normCode; dsimp only; (repeat' split) <;> simp
@[simp] theorem measure_fixed (s : State) (x1 : Session) (x2 : List WvGroup) : (measure s x1 x2).2.fixed = s.fixed := by
  unfold measure; dsimp only; (repeat' split) <;> simp
@[simp] theorem noteKids_fixed (s : State) (x1 : Nat) (x2 : Nat) : (noteKids s x1 x2).fixed = s.fixed := by
  simp [noteKids]
@[simp] theorem followAdvice_fixed (s : State) (x1 : Nat) (x2 : Nat) (x3 : Nat) : (followAdvice s x1 x2 x3).fixed = s.fixed := by
  unfold followAdvice; dsimp only; (repeat' split) <;> simp
@[simp] theorem formAdvice_fixed (s : State) (x1 : Nat) (x2 : Nat) (x3 : Nat) : (formAdvice s x1 x2 x3).1.fixed = s.fixed := by
  unfold formAdvice; dsimp only; split <;> simp
@[simp] theorem sendCell_fixed (s : State) (x1 : Nat) (x2 : Cell) : (sendCell s x1 x2).fixed = s.fixed := by
  unfold sendCell; dsimp only; split <;> simp
@[simp] theorem sendCtrl_fixed (s : State) (x1 : Nat) (x2 : Nat) (x3 : Nat) (x4 : Edge) (x5 : Msg) (x6 : Bool) : (sendCtrl s x1 x2 x3 x4 x5 x6).fixed = s.fixed := by
  simp [sendCtrl]
@[simp] theorem sendAll_fixed (s : State) (x1 : Nat) (x2 : Nat) (x3 : Nat) (x4 : List Nat) (x5 : Msg) (x6 : Bool) : (sendAll s x1 x2 x3 x4 x5 x6).fixed = s.fixed := by
  simp [sendAll]
@[simp] theorem sendRanged_fixed (s : State) (x1 : Nat) (x2 : Nat) (x3 : Nat) (x4 : Edge) (x5 : Msg) (x6 : List RankRange) (x7 : Bool) : (sendRanged s x1 x2 x3 x4 x5 x6 x7).fixed = s.fixed := by
  simp [sendRanged]
@[simp] theorem sendDone_fixed (s : State) (x1 : Nat) (x2 : Nat) (x3 : Bool) : (sendDone s x1 x2 x3).fixed = s.fixed := by
  simp [sendDone]
@[simp] theorem pushMarker_fixed (s : State) (x1 : Nat) (x2 : Nat) (x3 : QEntry) : (pushMarker s x1 x2 x3).fixed = s.fixed := by
  unfold pushMarker; dsimp only; split <;> simp
@[simp] theorem flushPart_fixed (s : State) (x1 : Nat) (x2 : Nat) (x3 : Nat) : (flushPart s x1 x2 x3).fixed = s.fixed := by
  unfold flushPart; dsimp only; (repeat' split) <;> simp
@[simp] theorem flushMarkers_fixed (s : State) (x1 : Nat) (x2 : Nat) : (flushMarkers s x1 x2).fixed = s.fixed := by
  simp [flushMarkers]
@[simp] theorem sendCopy_fixed (s : State) (x1 : Nat) (x2 : OutSeg) (x3 : Nat) : (sendCopy s x1 x2 x3).1.fixed = s.fixed := by
  unfold sendCopy; dsimp only; (repeat' split) <;> simp
@[simp] theorem sendSeg_fixed (s : State) (x1 : Nat) (x2 : OutSeg) : (sendSeg s x1 x2).1.fixed = s.fixed := by
  unfold sendSeg; split <;> simp
@[simp] theorem pump_fixed (s : State) (x1 : Nat) : (pump s x1).fixed = s.fixed := by
  simp [pump]
@[simp] theorem sendGrant_fixed (s : State) (x1 : Nat) (x2 : Nat) (x3 : Nat) (x4 : Edge) (x5 : List Credit) : (sendGrant s x1 x2 x3 x4 x5).fixed = s.fixed := by
  simp [sendGrant]
@[simp] theorem batchCredit_fixed (s : State) (x1 : Nat) (x2 : Nat) (x3 : Nat) (x4 : Edge) (x5 : Credit) : (batchCredit s x1 x2 x3 x4 x5).fixed = s.fixed := by
  simp [batchCredit]
@[simp] theorem reserveSlot_fixed (s : State) (x1 : Nat) (x2 : Nat) (x3 : Nat) (x4 : Nat) (x5 : Nat) (x6 : Nat) (x7 : Nat) (x8 : Nat) (x9 : Nat) : (reserveSlot s x1 x2 x3 x4 x5 x6 x7 x8 x9).fixed = s.fixed := by
  simp [reserveSlot]
@[simp] theorem countIssued_fixed (s : State) (x1 : Nat) (x2 : Nat) (x3 : Nat) : (countIssued s x1 x2 x3).fixed = s.fixed := by
  simp [countIssued]
@[simp] theorem creditData_fixed (s : State) (x1 : Nat) (x2 : Nat) (x3 : Nat) (x4 : Nat) (x5 : Nat) (x6 : Nat × Contrib) (x7 : Nat) : (creditData s x1 x2 x3 x4 x5 x6 x7).fixed = s.fixed := by
  simp [creditData]
@[simp] theorem creditResult_fixed (s : State) (x1 : Nat) (x2 : Nat) (x3 : Nat) (x4 : Nat) (x5 : Nat) (x6 : Nat) : (creditResult s x1 x2 x3 x4 x5 x6).fixed = s.fixed := by
  simp [creditResult]
theorem creditOne_fixed {s u : State} {x1 x2 x3 : Nat} (h : creditOne s x1 x2 x3 = some u) : u.fixed = s.fixed := by
  unfold creditOne at h; dsimp only at h
  (repeat' split at h) <;> simp only [reduceCtorEq, Option.map_eq_some_iff] at h <;> obtain ⟨_, _, rfl⟩ := h <;> simp
@[simp] theorem creditPart_fixed (n : Nat) (s : State) (x2 x3 x4 : Nat) : (creditPart n s x2 x3 x4).fixed = s.fixed := by
  induction n generalizing s with
  | zero => rfl
  | succ n ih =>
    unfold creditPart; split
    · rename_i h; rw [ih]; exact creditOne_fixed h
    · rfl
@[simp] theorem grantAll_fixed (s : State) (x1 : Nat) (x2 : Nat) : (grantAll s x1 x2).fixed = s.fixed := by
  simp [grantAll]
@[simp] theorem cancelStart_fixed (s : State) (x1 : Nat) (x2 : Nat) : (cancelStart s x1 x2).fixed = s.fixed := by
  unfold cancelStart; dsimp only; split <;> simp
@[simp] theorem decided_fixed (s : State) (x1 : Nat) (x2 : Nat) (x3 : Decision) : (decided s x1 x2 x3).fixed = s.fixed := by
  simp [decided]
@[simp] theorem releaseHeld_fixed (s : State) (x1 : Nat) (x2 : Nat) (x3 : Bool) : (releaseHeld s x1 x2 x3).fixed = s.fixed := by
  simp [releaseHeld]
@[simp] theorem takeOutcome_fixed (s : State) (x1 : Nat) (x2 : Nat) (x3 : Decision) : (takeOutcome s x1 x2 x3).fixed = s.fixed := by
  simp [takeOutcome]
@[simp] theorem fixOutcome_fixed (s : State) (x1 : Nat) (x2 : Nat) : (fixOutcome s x1 x2).fixed = s.fixed := by
  simp [fixOutcome]
@[simp] theorem praise_fixed (s : State) (x1 : Nat) (x2 : Nat) : (praise s x1 x2).fixed = s.fixed := by
  simp [praise]
@[simp] theorem settleEpoch_fixed (s : State) (x1 : Nat) (x2 : Nat) : (settleEpoch s x1 x2).fixed = s.fixed := by
  simp [settleEpoch]
@[simp] theorem trySettle_fixed (s : State) (x1 : Nat) (x2 : Nat) : (trySettle s x1 x2).fixed = s.fixed := by
  simp [trySettle]
@[simp] theorem failFixed_fixed (s : State) (x1 : Nat) (x2 : Nat) (x3 : Nat) : (failFixed s x1 x2 x3).fixed = s.fixed := by
  simp [failFixed]
@[simp] theorem failEpoch_fixed (s : State) (x1 : Nat) (x2 : Nat) (x3 : Nat) : (failEpoch s x1 x2 x3).fixed = s.fixed := by
  unfold failEpoch; dsimp only; split <;> simp
@[simp] theorem uncommit_fixed (s : State) (x1 : Nat) (x2 : Nat) : (uncommit s x1 x2).fixed = s.fixed := by
  simp [uncommit]
@[simp] theorem sendOutcome_fixed (s : State) (x1 : Nat) (x2 : Nat) (x3 : Nat) (x4 : Nat) (x5 : Decision) (x6 : Bool) : (sendOutcome s x1 x2 x3 x4 x5 x6).fixed = s.fixed := by
  simp [sendOutcome]
@[simp] theorem tryOutcome_fixed (s : State) (x1 : Nat) (x2 : Nat) : (tryOutcome s x1 x2).fixed = s.fixed := by
  unfold tryOutcome; dsimp only; (repeat' split) <;> simp
@[simp] theorem advance_fixed (s : State) (x1 : Nat) (x2 : Nat) : (advance s x1 x2).fixed = s.fixed := by
  simp [advance]
@[simp] theorem reactEp_fixed (s : State) (x1 : Nat) (x2 : Nat) : (reactEp s x1 x2).fixed = s.fixed := by
  simp [reactEp]
@[simp] theorem react_fixed (s : State) (x1 : Nat) : (react s x1).fixed = s.fixed := by
  simp [react]
@[simp] theorem freeFilledAs_fixed (s : State) (x1 : Nat) (x2 : Nat) (x3 : Nat) : (freeFilledAs s x1 x2 x3).fixed = s.fixed := by
  simp [freeFilledAs]
@[simp] theorem freeFilled_fixed (s : State) (x1 : Nat) (x2 : Nat) : (freeFilled s x1 x2).fixed = s.fixed := by
  simp [freeFilled]
@[simp] theorem failTile_fixed (s : State) (x1 : Nat) (x2 : Bool) : (failTile s x1 x2).fixed = s.fixed := by
  simp [failTile]
@[simp] theorem programFault_fixed (s : State) (x1 : Nat) (x2 : Nat) (x3 : Nat) : (programFault s x1 x2 x3).fixed = s.fixed := by
  simp [programFault]
@[simp] theorem missOnce_fixed (s : State) (x1 : Nat) (x2 : Nat) : (missOnce s x1 x2).fixed = s.fixed := by
  simp [missOnce]
@[simp] theorem excludeOne_fixed (s : State) (x1 : Nat) (x2 : Nat) (x3 : Nat) : (excludeOne s x1 x2 x3).fixed = s.fixed := by
  simp [excludeOne]
@[simp] theorem applyPolicy_fixed (s : State) (x1 : Nat) (x2 : Nat) (x3 : Nat) : (applyPolicy s x1 x2 x3).fixed = s.fixed := by
  simp [applyPolicy]
@[simp] theorem goesMissing_fixed (s : State) (x1 : Nat) (x2 : Nat) (x3 : Nat) : (goesMissing s x1 x2 x3).fixed = s.fixed := by
  simp [goesMissing]
@[simp] theorem noteRefusal_fixed (s : State) (x1 : Session) (x2 : Nat) : (noteRefusal s x1 x2).fixed = s.fixed := by
  simp [noteRefusal]
@[simp] theorem sendAck_fixed (s : State) (x1 : Nat) (x2 : Nat) (x3 : Nat) : (sendAck s x1 x2 x3).fixed = s.fixed := by
  simp [sendAck]
@[simp] theorem tryAck_fixed (s : State) (x1 : Nat) (x2 : Nat) : (tryAck s x1 x2).fixed = s.fixed := by
  simp [tryAck]
@[simp] theorem acceptArm_fixed (s : State) (x1 : Nat) (x2 : Nat) (x3 : Nat) : (acceptArm s x1 x2 x3).fixed = s.fixed := by
  simp [acceptArm]
@[simp] theorem holdStart_fixed (s : State) (x1 : Nat) (x2 : Nat) (x3 : Nat) : (holdStart s x1 x2 x3).fixed = s.fixed := by
  simp [holdStart]
@[simp] theorem openPart_fixed (s : State) (x1 : Nat) (x2 : Nat) (x3 : Nat) : (openPart s x1 x2 x3).fixed = s.fixed := by
  unfold openPart; dsimp only; split <;> simp
@[simp] theorem applyFromStart_fixed (s : State) (x1 : Nat) (x2 : Nat) : (applyFromStart s x1 x2).fixed = s.fixed := by
  simp [applyFromStart]
@[simp] theorem openEpoch_fixed (s : State) (x1 : Nat) (x2 : Nat) (x3 : Nat) : (openEpoch s x1 x2 x3).fixed = s.fixed := by
  unfold openEpoch; dsimp only; (repeat' split) <;> simp
@[simp] theorem sramFault_fixed (s : State) (x1 : Nat) (x2 : Nat) : (sramFault s x1 x2).fixed = s.fixed := by
  simp [sramFault]
@[simp] theorem windowUe_fixed (s : State) (x1 : Nat) : (windowUe s x1).fixed = s.fixed := by
  simp [windowUe]
@[simp] theorem noteIssue_fixed (s : State) (x1 : Nat) (x2 : Nat) : (noteIssue s x1 x2).fixed = s.fixed := by
  simp [noteIssue]
@[simp] theorem setPc_fixed (s : State) (x1 : Nat) (x2 : Nat) : (setPc s x1 x2).fixed = s.fixed := by
  simp [setPc]
@[simp] theorem advancePc_fixed (s : State) (x1 : Nat) (x2 : Nat) : (advancePc s x1 x2).fixed = s.fixed := by
  simp [advancePc]
@[simp] theorem completes_fixed (s : State) (x1 : Nat) (x2 : Ins) : (completes s x1 x2).fixed = s.fixed := by
  simp [completes]
/-- What an instruction's own meaning leaves as it was. -/
def Did.fixed (s : State) : Did → Prop
  | .fault _ => True
  | .done u => u.fixed = s.fixed
  | .jump u _ => u.fixed = s.fixed
  | .later u => u.fixed = s.fixed
  | .waits u => u.fixed = s.fixed
  | .halts u => u.fixed = s.fixed
theorem finish_fixed {s : State} {t n : Nat} {i : Ins} {d : Did} (h : d.fixed s) : (finish s t n i d).fixed = s.fixed := by
  cases d <;> simp only [Did.fixed] at h <;> simp only [finish] <;> (try split) <;> simp [h]
@[simp] theorem payGate_fixed (s : State) (x1 : Nat) (x2 : Ins) (x3 : Bool) : (payGate s x1 x2 x3).fixed = s.fixed := by
  simp [payGate]
@[simp] theorem traceData_fixed (s : State) (x1 : Nat) (x2 : Nat) (x3 : Nat) (x4 : Nat) (x5 : Nat) (x6 : List Byte) : (traceData s x1 x2 x3 x4 x5 x6).fixed = s.fixed := by
  unfold traceData; dsimp only; (repeat' split) <;> simp
@[simp] theorem beginWait_fixed (s : State) (x1 : Nat) (x2 : ProgSt) (x3 : WaitSt) : (beginWait s x1 x2 x3).fixed = s.fixed := by
  simp [beginWait]
@[simp] theorem endWait_fixed (s : State) (x1 : Nat) (x2 : Tile → Tile) : (endWait s x1 x2).fixed = s.fixed := by
  simp [endWait]
@[simp] theorem freeRxSlot_fixed (s : State) (x1 : Nat) (x2 : Nat) : (freeRxSlot s x1 x2).fixed = s.fixed := by
  simp [freeRxSlot]
@[simp] theorem cellTaken_fixed (s : State) (x1 : RxSlot) : (cellTaken s x1).fixed = s.fixed := by
  simp [cellTaken]
@[simp] theorem afterDraws_fixed (s : State) (x1 : Nat) (x2 : Ins) : (afterDraws s x1 x2).fixed = s.fixed := by
  simp [afterDraws]
@[simp] theorem noteNum_fixed (s : State) (x1 : Nat) (x2 : Bool) (x3 : Bool) (x4 : Bool) (x5 : Bool) : (noteNum s x1 x2 x3 x4 x5).fixed = s.fixed := by
  simp [noteNum]
@[simp] theorem noteSat_fixed (s : State) (x1 : Nat) (x2 : Nat) : (noteSat s x1 x2).fixed = s.fixed := by
  simp [noteSat]
@[simp] theorem beginMove_fixed (s : State) (x1 : Nat) (x2 : Move) : (beginMove s x1 x2).fixed = s.fixed := by
  simp [beginMove]
@[simp] theorem readSource_fixed (s : State) (x1 : Nat) (x2 : Nat) (x3 : Nat) : (readSource s x1 x2 x3).2.fixed = s.fixed := by
  unfold readSource; split <;> simp
@[simp] theorem sendBurst_fixed (s : State) (x1 : Nat) (x2 : Nat) (x3 : Nat) (x4 : Nat) (x5 : Bool) (x6 : List Byte) (x7 : List (Nat × Nat × Nat)) : (sendBurst s x1 x2 x3 x4 x5 x6 x7).fixed = s.fixed := by
  unfold sendBurst; (try dsimp only); repeat' (first | (simp; done) | split | (with_reducible refine (foldl_fixed _ (fun _ _ => ?_) _ _).trans ?_) | simp)
@[simp] theorem sendToStacks_fixed (s : State) (x1 : Nat) (x2 : Nat) (x3 : Nat) (x4 : Nat) (x5 : Bool) (x6 : Nat) (x7 : List Byte) : (sendToStacks s x1 x2 x3 x4 x5 x6 x7).fixed = s.fixed := by
  simp [sendToStacks]
@[simp] theorem beginMem_fixed (s : State) (x1 : Nat) (x2 : Ins) (x3 : Nat) (x4 : Nat) (x5 : Nat) (x6 : Nat) (x7 : List Byte) : (beginMem s x1 x2 x3 x4 x5 x6 x7).fixed = s.fixed := by
  simp [beginMem]
@[simp] theorem sendFlits_fixed (s : State) (x1 : Nat) (x2 : Nat) (x3 : Nat) (x4 : Nat) (x5 : Nat) (x6 : List Byte) : (sendFlits s x1 x2 x3 x4 x5 x6).fixed = s.fixed := by
  simp [sendFlits]
@[simp] theorem consumeRx_fixed (s : State) (x1 : Nat) (x2 : Nat) (x3 : Nat) : (consumeRx s x1 x2 x3).fixed = s.fixed := by
  simp [consumeRx]
@[simp] theorem takeSend_fixed (s : State) (x1 : Nat) (x2 : Move) (x3 : List Byte) : (takeSend s x1 x2 x3).fixed = s.fixed := by
  unfold takeSend; dsimp only; split <;> simp
@[simp] theorem moveEffect_fixed (s : State) (x1 : Nat) (x2 : Move) : (moveEffect s x1 x2).fixed = s.fixed := by
  unfold moveEffect; split <;> simp
@[simp] theorem setLanes_fixed (s : State) (x1 : Nat) (x2 : Ins) (x3 : List Word) : (setLanes s x1 x2 x3).fixed = s.fixed := by
  simp [setLanes]
@[simp] theorem traceLanes_fixed (s : State) (x1 : Nat) (x2 : Nat) (x3 : Nat) (x4 : Ins) (x5 : List Byte) (x6 : Nat) (x7 : List Byte) : (traceLanes s x1 x2 x3 x4 x5 x6 x7).fixed = s.fixed := by
  simp [traceLanes]
@[simp] theorem noteNarrowed_fixed (s : State) (x1 : Nat) (x2 : NarrowedLanes) (x3 : Bool) : (noteNarrowed s x1 x2 x3).fixed = s.fixed := by
  simp [noteNarrowed]
@[simp] theorem chooseAudit_fixed (s : State) (x1 : Nat) (x2 : Tmma) (x3 : Tbl Word) : (chooseAudit s x1 x2 x3).fixed = s.fixed := by
  unfold chooseAudit; dsimp only; (repeat' split) <;> simp
@[simp] theorem fillData_fixed (s : State) (x1 : Nat) (x2 : Nat) (x3 : RxSlot) : (fillData s x1 x2 x3).fixed = s.fixed := by
  simp [fillData]
@[simp] theorem fillResult_fixed (s : State) (x1 : Nat) (x2 : Nat) (x3 : RxSlot) : (fillResult s x1 x2 x3).fixed = s.fixed := by
  simp [fillResult]
@[simp] theorem lullPacket_fixed (s : State) (x1 : Nat) (x2 : Nat) : (lullPacket s x1 x2).fixed = s.fixed := by
  simp [lullPacket]
@[simp] theorem seedTile_fixed (s : State) (x1 : Nat) : (seedTile s x1).fixed = s.fixed := by
  simp [seedTile]
@[simp] theorem wakePacket_fixed (s : State) (x1 : Nat) (x2 : Nat) (x3 : Nat) : (wakePacket s x1 x2 x3).fixed = s.fixed := by
  simp [wakePacket]
@[simp] theorem sramOpened_fixed (s : State) (x1 : Nat) : (sramOpened s x1).fixed = s.fixed := by
  simp [sramOpened]
@[simp] theorem tileStarting_fixed (s : State) (x1 : Nat) : (tileStarting s x1).fixed = s.fixed := by
  simp [tileStarting]
@[simp] theorem tileStarted_fixed (s : State) (x1 : Nat) : (tileStarted s x1).fixed = s.fixed := by
  simp [tileStarted]
@[simp] theorem tileStopping_fixed (s : State) (x1 : Nat) : (tileStopping s x1).fixed = s.fixed := by
  simp [tileStopping]
@[simp] theorem tileStopDone_fixed (s : State) (x1 : Nat) : (tileStopDone s x1).fixed = s.fixed := by
  simp [tileStopDone]
@[simp] theorem tileStopped_fixed (s : State) (x1 : Nat) : (tileStopped s x1).fixed = s.fixed := by
  simp [tileStopped]
@[simp] theorem onFtu_fixed (s : State) (x1 : Half) (x2 : Ftu → Ftu) : (onFtu s x1 x2).fixed = s.fixed := by
  simp [onFtu]
@[simp] theorem sessionLosesTime_fixed (s : State) (x1 : Nat) : (sessionLosesTime s x1).fixed = s.fixed := by
  unfold sessionLosesTime; dsimp only; (repeat' split) <;> simp
@[simp] theorem loseTime_fixed (b s : State) (x : Half) : (loseTime b s x).fixed = s.fixed := by
  unfold loseTime; dsimp only; refine (foldl_fixed _ (fun _ _ => by simp) _ _).trans ?_; simp
@[simp] theorem settleSchedule_fixed (s : State) (x1 : Half) : (settleSchedule s x1).fixed = s.fixed := by
  simp [settleSchedule]
@[simp] theorem settlePorts_fixed (s : State) (x1 : Half) : (settlePorts s x1).fixed = s.fixed := by
  simp [settlePorts]
@[simp] theorem settleOrphans_fixed (s : State) (x1 : Half) : (settleOrphans s x1).fixed = s.fixed := by
  simp [settleOrphans]
@[simp] theorem settleCalm_fixed (s : State) (x1 : Half) : (settleCalm s x1).fixed = s.fixed := by
  unfold settleCalm; dsimp only; split <;> simp
@[simp] theorem gainTime_fixed (s : State) (x1 : Half) : (gainTime s x1).fixed = s.fixed := by
  simp [gainTime]
@[simp] theorem retimed_fixed (b s : State) : (retimed b s).fixed = s.fixed := by
  unfold retimed; exact foldl_fixed _ (fun _ _ => by (repeat' split) <;> simp) _ _
@[simp] theorem enterLock_fixed (s : State) (x1 : Half) (x2 : LockSt) : (enterLock s x1 x2).fixed = s.fixed := by
  simp [enterLock]
@[simp] theorem ftuStops_fixed (s : State) (x1 : Half) : (ftuStops s x1).fixed = s.fixed := by
  simp [ftuStops]
@[simp] theorem badBeat_fixed (s : State) (x1 : Half) (x2 : Bool) (x3 : Bool) : (badBeat s x1 x2 x3).fixed = s.fixed := by
  simp [badBeat]
@[simp] theorem notePhase_fixed (s : State) (x1 : Half) (x2 : Int) : (notePhase s x1 x2).fixed = s.fixed := by
  simp [notePhase]
@[simp] theorem markGood_fixed (s : State) (x1 : Half) (x2 : Nat) : (markGood s x1 x2).fixed = s.fixed := by
  simp [markGood]
@[simp] theorem retune_fixed (s : State) (x1 : Half) (x2 : Nat) : (retune s x1 x2).fixed = s.fixed := by
  simp [retune]
@[simp] theorem adopt_fixed (s : State) (x1 : Half) (x2 : Nat) : (adopt s x1 x2).fixed = s.fixed := by
  simp [adopt]
@[simp] theorem goodBeat_fixed (s : State) (x1 : Half) (x2 : Nat) : (goodBeat s x1 x2).fixed = s.fixed := by
  unfold goodBeat; dsimp only; split <;> simp
@[simp] theorem checkSkew_fixed (s : State) (x1 : Half) : (checkSkew s x1).fixed = s.fixed := by
  simp [checkSkew]
@[simp] theorem beatAt_fixed (s : State) (x1 : Half) (x2 : Nat) (x3 : Bool) (x4 : Nat) : (beatAt s x1 x2 x3 x4).fixed = s.fixed := by
  simp [beatAt]
@[simp] theorem stuckAt_fixed (s : State) (x1 : Half) : (stuckAt s x1).fixed = s.fixed := by
  unfold stuckAt; dsimp only; (repeat' split) <;> simp
@[simp] theorem acceptEntry_fixed (s : State) (x1 : Half) (x2 : Nat) (x3 : Entry) : (acceptEntry s x1 x2 x3).fixed = s.fixed := by
  simp [acceptEntry]
@[simp] theorem armTriggers_fixed (s : State) (x1 : Half) (x2 : Nat) (x3 : Nat) : (armTriggers s x1 x2 x3).fixed = s.fixed := by
  simp [armTriggers]
@[simp] theorem overrun_fixed (s : State) (x1 : Half) (x2 : Nat) : (overrun s x1 x2).fixed = s.fixed := by
  simp [overrun]
@[simp] theorem trigAt_fixed (x0 : Nat) (s : State) (x2 : Half) : (trigAt x0 s x2).fixed = s.fixed := by
  simp [trigAt]
@[simp] theorem lineFalls_fixed (s : State) (x1 : Nat) : (lineFalls s x1).fixed = s.fixed := by
  simp [lineFalls]
@[simp] theorem tidyWv_fixed (s : State) (x1 : Nat) (x2 : Nat) : (tidyWv s x1 x2).fixed = s.fixed := by
  simp [tidyWv]
@[simp] theorem groupCompletes_fixed (s : State) (x1 : Nat) (x2 : WvGroup) : (groupCompletes s x1 x2).fixed = s.fixed := by
  simp [groupCompletes]
@[simp] theorem tookAudit_fixed (s : State) (x1 : Nat) (x2 : Nat) : (tookAudit s x1 x2).fixed = s.fixed := by
  simp [tookAudit]
@[simp] theorem openCode_fixed (s : State) (x1 : Option Nat) : (openCode s x1).2.fixed = s.fixed := by
  unfold openCode; split <;> simp
@[simp] theorem openCodes_fixed (s : State) (l : List (Option Nat)) : (openCodes s l).2.fixed = s.fixed := by
  induction l generalizing s with
  | nil => rfl
  | cons c l ih => unfold openCodes; dsimp only; rw [ih]; simp
@[simp] theorem wvRetire_fixed (s : State) (x1 : Nat) (x2 : Nat) : (wvRetire s x1 x2).fixed = s.fixed := by
  simp [wvRetire]
@[simp] theorem onRtp_fixed (s : State) (x1 : Half) (x2 : Rtp → Rtp) : (onRtp s x1 x2).fixed = s.fixed := by
  simp [onRtp]
@[simp] theorem rtpSay_fixed (s : State) (x1 : Half) (x2 : List Word) : (rtpSay s x1 x2).fixed = s.fixed := by
  simp [rtpSay]
@[simp] theorem rtpAnswer_fixed (s : State) (x1 : Half) (x2 : Nat) (x3 : Nat) (x4 : Nat) (x5 : List Word) : (rtpAnswer s x1 x2 x3 x4 x5).fixed = s.fixed := by
  simp [rtpAnswer]
@[simp] theorem rtpLog_fixed (s : State) (x1 : Half) (x2 : Nat) (x3 : List Nat) : (rtpLog s x1 x2 x3).fixed = s.fixed := by
  simp [rtpLog]
@[simp] theorem keysFull_fixed (s : State) : (keysFull s).fixed = s.fixed := by
  simp [keysFull]
@[simp] theorem openKex_fixed (s : State) (x1 : Nat) (x2 : Nat) : (openKex s x1 x2).fixed = s.fixed := by
  simp [openKex]
@[simp] theorem openKexes_fixed (s : State) (x1 : Nat) : (openKexes s x1).fixed = s.fixed := by
  simp [openKexes]
@[simp] theorem dropKexes_fixed (s : State) (x1 : Nat) : (dropKexes s x1).fixed = s.fixed := by
  simp [dropKexes]
@[simp] theorem onCalm_fixed (s : State) (x1 : Half) (x2 : Calm → Calm) : (onCalm s x1 x2).fixed = s.fixed := by
  simp [onCalm]
@[simp] theorem noteArrival_fixed (s : State) (x1 : Nat) (x2 : Option Nat) (x3 : CalmRec) : (noteArrival s x1 x2 x3).fixed = s.fixed := by
  simp [noteArrival]
@[simp] theorem holdCtrl_fixed (s : State) (x1 : Half) (x2 : Nat) (x3 : Instr) : (holdCtrl s x1 x2 x3).1.fixed = s.fixed := by
  unfold holdCtrl; split <;> simp
@[simp] theorem rejectSes_fixed (s : State) (x1 : Half) (x2 : Nat) (x3 : Half) (x4 : Nat) (x5 : Nat) : (rejectSes s x1 x2 x3 x4 x5).fixed = s.fixed := by
  simp [rejectSes]
@[simp] theorem acceptDesc_fixed (s : State) (x1 : Nat) (x2 : Session) : (acceptDesc s x1 x2).fixed = s.fixed := by
  simp [acceptDesc]
@[simp] theorem placeTiles_fixed (s : State) (x1 : Session) : (placeTiles s x1).fixed = s.fixed := by
  unfold placeTiles; (try dsimp only); repeat' (first | (simp; done) | split | (with_reducible refine (foldl_fixed _ (fun _ _ => ?_) _ _).trans ?_) | simp)
@[simp] theorem placeImage_fixed (s : State) (x1 : Nat) : (placeImage s x1).1.fixed = s.fixed := by
  unfold placeImage; dsimp only; (repeat' split) <;> simp
@[simp] theorem enterActive_fixed (s : State) (x1 : Nat) : (enterActive s x1).fixed = s.fixed := by
  unfold enterActive; (try dsimp only); repeat' (first | (simp; done) | split | (with_reducible refine (foldl_fixed _ (fun _ _ => ?_) _ _).trans ?_) | simp)
@[simp] theorem clearBindings_fixed (s : State) (x1 : Nat) : (clearBindings s x1).fixed = s.fixed := by
  unfold clearBindings; (try dsimp only); repeat' (first | (simp; done) | split | (with_reducible refine (foldl_fixed _ (fun _ _ => ?_) _ _).trans ?_) | simp)
@[simp] theorem cmdStatus_fixed (s : State) (x1 : Half) (x2 : Nat) (x3 : Bool) : (cmdStatus s x1 x2 x3).fixed = s.fixed := by
  simp [cmdStatus]
@[simp] theorem tryActive_fixed (s : State) (x1 : Nat) : (tryActive s x1).1.fixed = s.fixed := by
  unfold tryActive; dsimp only; (repeat' split) <;> simp
@[simp] theorem drainCheck_fixed (s : State) (x1 : Nat) : (drainCheck s x1).fixed = s.fixed := by
  simp [drainCheck]
@[simp] theorem actStart_fixed (s : State) (x1 : Half) (x2 : Nat) : (actStart s x1 x2).fixed = s.fixed := by
  simp [actStart]
@[simp] theorem actStop_fixed (s : State) (x1 : Half) (x2 : Nat) : (actStop s x1 x2).fixed = s.fixed := by
  simp [actStop]
@[simp] theorem goOrHold_fixed (s : State) (x : Half) (c : Instr) (f : State → State) (h : ∀ u, (f u).fixed = u.fixed) : (goOrHold s x c f).fixed = s.fixed := by
  unfold goOrHold; (try dsimp only); (repeat' split) <;> simp [h]
@[simp] theorem armStatus_fixed (s : State) (x1 : Half) (x2 : Nat) : (armStatus s x1 x2).fixed = s.fixed := by
  simp [armStatus]
@[simp] theorem actArm_fixed (s : State) (x1 : Half) (x2 : Nat) : (actArm s x1 x2).fixed = s.fixed := by
  unfold actArm; dsimp only; split <;> simp
@[simp] theorem sweep_fixed (s : State) (x1 : Nat) (x2 : Nat) (x3 : Nat) : (sweep s x1 x2 x3).fixed = s.fixed := by
  unfold sweep; (try dsimp only); repeat' (first | (simp; done) | split | (with_reducible refine (foldl_fixed _ (fun _ _ => ?_) _ _).trans ?_) | simp)
@[simp] theorem retire_fixed (s : State) (x1 : Nat) (x2 : Nat) : (retire s x1 x2).fixed = s.fixed := by
  simp [retire]
@[simp] theorem countClass_fixed (s : State) (x1 : Half) (x2 : Nat) (x3 : Option Nat) : (countClass s x1 x2 x3).fixed = s.fixed := by
  simp [countClass]
@[simp] theorem authBad_fixed (s : State) (x1 : Nat) (x2 : Edge) (x3 : Nat) : (authBad s x1 x2 x3).fixed = s.fixed := by
  simp [authBad]
@[simp] theorem sawPort_fixed (s : State) (x1 : Nat) (x2 : Edge) (x3 : Nat) : (sawPort s x1 x2 x3).fixed = s.fixed := by
  simp [sawPort]
@[simp] theorem ctrlTake_fixed (s : State) (k : CtrlIn) (e : Edge) (f : State → State) (h : ∀ u, (f u).fixed = u.fixed) : (ctrlTake s k e f).fixed = s.fixed := by
  unfold ctrlTake; (try dsimp only); (repeat' split) <;> simp [h]
@[simp] theorem actArmReq_fixed (x0 : CtrlIn) (x1 : Nat) (s : State) : (actArmReq x0 x1 s).fixed = s.fixed := by
  unfold actArmReq; dsimp only; (repeat' split) <;> simp
@[simp] theorem actArmMsg_fixed (x0 : CtrlIn) (x1 : Nat) (s : State) : (actArmMsg x0 x1 s).fixed = s.fixed := by
  unfold actArmMsg; dsimp only; (repeat' split) <;> simp
@[simp] theorem actArmAck_fixed (x0 : CtrlIn) (x1 : Nat) (s : State) : (actArmAck x0 x1 s).fixed = s.fixed := by
  simp [actArmAck]
theorem takeOrder_fixed {s u : State} {x1 x2 : Nat} {b : Bool} {k : Msg} (h : takeOrder s x1 x2 b k = some u) : u.fixed = s.fixed := by
  unfold takeOrder at h; dsimp only at h
  split at h
  · exact absurd h (by simp)
  · rw [Option.some.injEq] at h; rw [← h]; simp
@[simp] theorem actCommit_fixed (k : CtrlIn) (ft : Nat) (s : State) : (actCommit k ft s).fixed = s.fixed := by
  unfold actCommit; dsimp only; split
  · rfl
  · rename_i h; have := takeOrder_fixed h; (repeat' split) <;> simp [this]
@[simp] theorem disarmEpoch_fixed (s : State) (x1 : Nat) (x2 : Nat) : (disarmEpoch s x1 x2).fixed = s.fixed := by
  simp [disarmEpoch]
@[simp] theorem actDisarm_fixed (k : CtrlIn) (ft x : Nat) (s : State) : (actDisarm k ft x s).fixed = s.fixed := by
  unfold actDisarm; dsimp only; split
  · rfl
  · rename_i h; have := takeOrder_fixed h; (repeat' split) <;> simp [this]
@[simp] theorem resend_fixed (s : State) (x1 : Nat) (x2 : Nat) (x3 : SentSeg) (x4 : Nat) (x5 : Nat) (x6 : Bool) : (resend s x1 x2 x3 x4 x5 x6).fixed = s.fixed := by
  simp [resend]
@[simp] theorem tookRepeat_fixed (s : State) (x1 : Nat) (x2 : Nat) (x3 : SentSeg) : (tookRepeat s x1 x2 x3).fixed = s.fixed := by
  simp [tookRepeat]
@[simp] theorem takeCredit_fixed (s : State) (x1 : Nat) (x2 : Nat) (x3 : Edge) (x4 : Nat) (x5 : Credit) : (takeCredit s x1 x2 x3 x4 x5).fixed = s.fixed := by
  unfold takeCredit; dsimp only; split <;> simp
@[simp] theorem actGrant_fixed (x0 : CtrlIn) (x1 : Bool) (x2 : List Credit) (s : State) : (actGrant x0 x1 x2 s).fixed = s.fixed := by
  simp [actGrant]
@[simp] theorem actNack_fixed (x0 : CtrlIn) (x1 : Bool) (x2 : Nat) (x3 : Nat) (s : State) : (actNack x0 x1 x2 x3 s).fixed = s.fixed := by
  unfold actNack; dsimp only; (repeat' split) <;> simp
@[simp] theorem childFails_fixed (s : State) (x1 : Nat) (x2 : Nat) (x3 : Nat) : (childFails s x1 x2 x3).fixed = s.fixed := by
  simp [childFails]
@[simp] theorem lateDone_fixed (s : State) (x1 : CtrlIn) : (lateDone s x1).fixed = s.fixed := by
  unfold lateDone; dsimp only; split <;> simp
@[simp] theorem actDone_fixed (x0 : CtrlIn) (x1 : ChildDone) (s : State) : (actDone x0 x1 s).fixed = s.fixed := by
  simp [actDone]
@[simp] theorem outcomeTakes_fixed (s : State) (x1 : Nat) (x2 : Nat) (x3 : Decision) : (outcomeTakes s x1 x2 x3).fixed = s.fixed := by
  simp [outcomeTakes]
@[simp] theorem actOutcome_fixed (x0 : CtrlIn) (x1 : Decision) (x2 : Bool) (s : State) : (actOutcome x0 x1 x2 s).fixed = s.fixed := by
  simp [actOutcome]
@[simp] theorem sendNack_fixed (s : State) (x1 : Nat) (x2 : Nat) (x3 : Nat) (x4 : Nat) (x5 : Nat) : (sendNack s x1 x2 x3 x4 x5).fixed = s.fixed := by
  simp [sendNack]
@[simp] theorem crcNack_fixed (s : State) (x1 : Nat) (x2 : Nat) (x3 : Nat) (x4 : RxSlot) : (crcNack s x1 x2 x3 x4).fixed = s.fixed := by
  simp [crcNack]
@[simp] theorem acceptCell_fixed (s : State) (c : CellIn) (t slot : Nat) (r : RxSlot) : (acceptCell s c t slot r).fixed = s.fixed := by
  unfold acceptCell; dsimp only; rw [sawPort_fixed, sendCellFlits_fixed, onSes_fixed]
  exact onTile_fixed ..
@[simp] theorem refuseFormat_fixed (s : State) (x1 : CellIn) (x2 : RxSlot) : (refuseFormat s x1 x2).fixed = s.fixed := by
  simp [refuseFormat]
@[simp] theorem lateCell_fixed (s : State) (x1 : CellId) : (lateCell s x1).fixed = s.fixed := by
  simp [lateCell]
@[simp] theorem classAction_fixed (s : State) (x1 : Nat) (x2 : CellIn) (x3 : Nat) (x4 : Nat) (x5 : Nat) (x6 : RxSlot) : (classAction s x1 x2 x3 x4 x5 x6).fixed = s.fixed := by
  unfold classAction; split <;> simp
@[simp] theorem onStream_fixed (s : State) (x1 : Nat) (x2 : Stream → Stream) : (onStream s x1 x2).fixed = s.fixed := by
  simp [onStream]
@[simp] theorem onChan_fixed (s : State) (x1 : Nat) (x2 : Channel → Channel) : (onChan s x1 x2).fixed = s.fixed := by
  simp [onChan]
@[simp] theorem beginCapture_fixed (s : State) (x1 : Nat) : (beginCapture s x1).fixed = s.fixed := by
  simp [beginCapture]
@[simp] theorem recapture_fixed (b s : State) (l : List Nat) : (recapture b s l).fixed = s.fixed := by
  unfold recapture; refine foldl_fixed _ (fun _ _ => ?_) _ _; (try dsimp only); (repeat' split) <;> simp
@[simp] theorem rechannel_fixed (b s : State) : (rechannel b s).fixed = s.fixed := by
  unfold rechannel; (try dsimp only); repeat' (first | (simp; done) | split | (with_reducible apply foldl_fixed; intros) | simp)
@[simp] theorem retile_fixed (b s : State) (k : Nat) : (retile b s k).fixed = s.fixed := by
  unfold retile; simp
@[simp] theorem emit_fixed (s : State) (x1 : Nat) (x2 : Bool) (x3 : Bool → Nat → List Byte) : (emit s x1 x2 x3).fixed = s.fixed := by
  simp [emit]
@[simp] theorem calmPackets_fixed (s : State) (x1 : Half) (x2 : Nat) (x3 : Nat) (x4 : Nat) : (calmPackets s x1 x2 x3 x4).fixed = s.fixed := by
  simp [calmPackets]
@[simp] theorem sealFrame_fixed (s : State) (x1 : Nat) : (sealFrame s x1).fixed = s.fixed := by
  unfold sealFrame; dsimp only; split <;> simp
theorem putPacket_fixed {s u : State} {c k : Nat} {p : TPkt} (h : putPacket s c k p = some u) : u.fixed = s.fixed := by
  unfold putPacket at h; dsimp only at h
  (repeat' split at h) <;> first | (rw [Option.some.injEq] at h; rw [← h]; simp; done) | (simp at h; done)
@[simp] theorem withdrawCell_fixed (s : State) (x1 : Nat) : (withdrawCell s x1).fixed = s.fixed := by
  simp [withdrawCell]
@[simp] theorem discardFrames_fixed (s : State) (x1 : Nat) : (discardFrames s x1).fixed = s.fixed := by
  simp [discardFrames]
@[simp] theorem frameFails_fixed (s : State) (x1 : Nat) : (frameFails s x1).fixed = s.fixed := by
  unfold frameFails; dsimp only; split <;> simp
@[simp] theorem obsDraw_fixed (s : State) (x1 : Nat) : (obsDraw s x1).fixed = s.fixed := by
  simp [obsDraw]
@[simp] theorem chanStarting_fixed (s : State) (x1 : Nat) : (chanStarting s x1).fixed = s.fixed := by
  simp [chanStarting]
@[simp] theorem chanStarted_fixed (b s : State) (k : Nat) : (chanStarted b s k).fixed = s.fixed := by
  unfold chanStarted; (try dsimp only); repeat' (first | (simp; done) | split | (with_reducible apply foldl_fixed; intros) | simp)
@[simp] theorem chanStopping_fixed (b s : State) (k : Nat) : (chanStopping b s k).fixed = s.fixed := by
  unfold chanStopping; (try dsimp only); repeat' (first | (simp; done) | split | (with_reducible apply foldl_fixed; intros) | simp)
@[simp] theorem chanStopped_fixed (s : State) (x1 : Nat) : (chanStopped s x1).fixed = s.fixed := by
  simp [chanStopped]
@[simp] theorem fireGust_fixed (s : State) (x1 : Nat) (x2 : Nat) (x3 : Nat) : (fireGust s x1 x2 x3).fixed = s.fixed := by
  simp [fireGust]
@[simp] theorem resumeGusts_fixed (s : State) (x1 : Half) : (resumeGusts s x1).fixed = s.fixed := by
  unfold resumeGusts; (try dsimp only); repeat' (first | (simp; done) | split | (with_reducible refine (foldl_fixed _ (fun _ _ => ?_) _ _).trans ?_) | simp)
@[simp] theorem gustOn_fixed (s : State) (x1 : Nat) (x2 : TPkt) : (gustOn s x1 x2).fixed = s.fixed := by
  unfold gustOn; split <;> simp
@[simp] theorem regen_fixed (s : State) (x1 : Nat) (x2 : Stream → Stream) : (regen s x1 x2).fixed = s.fixed := by
  simp [regen]
@[simp] theorem sendReports_fixed (s : State) (x1 : Half) : (sendReports s x1).fixed = s.fixed := by
  simp [sendReports]
@[simp] theorem askDrains_fixed (s : State) (x1 : Half) : (askDrains s x1).fixed = s.fixed := by
  simp [askDrains]
@[simp] theorem movePackets_fixed (c k n used : Nat) (l : List TPkt) (s : State) : (movePackets c k n used l s).2.fixed = s.fixed := by
  induction n generalizing used l s with
  | zero => cases l <;> rfl
  | succ n ih =>
    cases l with
    | nil => rfl
    | cons p l =>
      unfold movePackets; split
      · rfl
      · split
        · simp
        · rename_i h; rw [ih]; simp [putPacket_fixed h]
@[simp] theorem askRing_fixed (s : State) (x1 : Nat) : (askRing s x1).fixed = s.fixed := by
  unfold askRing; split <;> simp
@[simp] theorem ringTick_fixed (s : State) : (ringTick s).fixed = s.fixed := by
  simp [ringTick]
@[simp] theorem markIn_fixed (s : State) (x1 : Nat) (x2 : Nat) (x3 : Nat) : (markIn s x1 x2 x3).fixed = s.fixed := by
  unfold markIn; dsimp only; split <;> simp
@[simp] theorem actMark_fixed (s : State) (x1 : Half) (x2 : Nat) (x3 : Nat) : (actMark s x1 x2 x3).fixed = s.fixed := by
  simp [actMark]
@[simp] theorem oweAgain_fixed (s : State) (x1 : Nat) (x2 : Nat) (x3 : List (Nat × Nat × Nat)) : (oweAgain s x1 x2 x3).fixed = s.fixed := by
  simp [oweAgain]
@[simp] theorem slotRetired_fixed (s : State) (x1 : Nat) (x2 : Nat) (x3 : RxSlot) : (slotRetired s x1 x2 x3).fixed = s.fixed := by
  simp [slotRetired]
@[simp] theorem accumulatorsLost_fixed (s : State) (x1 : Nat) (x2 : Nat) (x3 : Nat) (x4 : Nat) : (accumulatorsLost s x1 x2 x3 x4).fixed = s.fixed := by
  unfold accumulatorsLost; dsimp only; (repeat' split) <;> simp
@[simp] theorem reducerFails_fixed (s : State) (x1 : Nat) : (reducerFails s x1).fixed = s.fixed := by
  simp [reducerFails]
@[simp] theorem onBank_fixed (s : State) (x1 : Nat) (x2 : Bank → Bank) : (onBank s x1 x2).fixed = s.fixed := by
  simp [onBank]
@[simp] theorem clearTileCtrs_fixed (s : State) (x1 : List Nat) : (clearTileCtrs s x1).fixed = s.fixed := by
  simp [clearTileCtrs]
@[simp] theorem leaveBank_fixed (s : State) (x1 : Option Nat) (x2 : Nat) : (leaveBank s x1 x2).fixed = s.fixed := by
  unfold leaveBank; dsimp only; (repeat' split) <;> simp
@[simp] theorem openInterval_fixed (s : State) (x1 : Nat) (x2 : Nat) : (openInterval s x1 x2).fixed = s.fixed := by
  simp [openInterval]
@[simp] theorem boundary_fixed (s : State) (x1 : Nat) (x2 : Bool) : (boundary s x1 x2).fixed = s.fixed := by
  simp [boundary]
@[simp] theorem refuseBoundary_fixed (s : State) (x1 : Nat) : (refuseBoundary s x1).fixed = s.fixed := by
  simp [refuseBoundary]
@[simp] theorem bankStarted_fixed (s : State) (x1 : Nat) : (bankStarted s x1).fixed = s.fixed := by
  simp [bankStarted]
@[simp] theorem bankStopping_fixed (s : State) (x1 : Nat) (x2 : Bool) : (bankStopping s x1 x2).fixed = s.fixed := by
  simp [bankStopping]
@[simp] theorem bankTeardown_fixed (s : State) (x1 : Nat) : (bankTeardown s x1).fixed = s.fixed := by
  simp [bankTeardown]
@[simp] theorem afterRetire_fixed (s : State) (x1 : Nat) : (afterRetire s x1).fixed = s.fixed := by
  simp [afterRetire]
@[simp] theorem askDrain_fixed (s : State) (x1 : Nat) : (askDrain s x1).fixed = s.fixed := by
  unfold askDrain; dsimp only; (repeat' split) <;> simp
@[simp] theorem drainTick_fixed (s : State) : (drainTick s).fixed = s.fixed := by
  simp [drainTick]
@[simp] theorem drainRing_fixed (s : State) (x1 : Nat) (x2 : ClosedInt) : (drainRing s x1 x2).fixed = s.fixed := by
  simp [drainRing]
@[simp] theorem drainReport_fixed (s : State) (x1 : Nat) (x2 : ClosedInt) : (drainReport s x1 x2).fixed = s.fixed := by
  simp [drainReport]
@[simp] theorem sampleTile_fixed (s : State) (x1 : Nat) : (sampleTile s x1).fixed = s.fixed := by
  simp [sampleTile]
@[simp] theorem prfStarted_fixed (s : State) (x1 : Nat) : (prfStarted s x1).fixed = s.fixed := by
  simp [prfStarted]
@[simp] theorem countCycle_fixed (s : State) : (countCycle s).fixed = s.fixed := by
  simp [countCycle]
@[simp] theorem tileCycle_fixed (s : State) (x1 : Nat) : (tileCycle s x1).fixed = s.fixed := by
  simp [tileCycle]
@[simp] theorem profileTick_fixed (s : State) : (profileTick s).fixed = s.fixed := by
  simp [profileTick]
@[simp] theorem ownPage_fixed (s : State) (x1 : Nat) (x2 : Nat) : (ownPage s x1 x2).fixed = s.fixed := by
  unfold ownPage; split <;> simp
@[simp] theorem allocRegions_fixed (s : State) (x1 : Nat) (x2 : List Nat) : (allocRegions s x1 x2).fixed = s.fixed := by
  simp [allocRegions]
@[simp] theorem partStatus_fixed (s : State) (x1 : Nat) (x2 : Nat) (x3 : Nat) : (partStatus s x1 x2 x3).fixed = s.fixed := by
  simp [partStatus]
@[simp] theorem setPartTile_fixed (s : State) (x1 : Nat) (x2 : Nat) (x3 : Bool) : (setPartTile s x1 x2 x3).fixed = s.fixed := by
  simp [setPartTile]
@[simp] theorem dropStream_fixed (s : State) (x1 : Nat) : (dropStream s x1).2.fixed = s.fixed := by
  unfold dropStream; split <;> simp
@[simp] theorem dropStreams_fixed (s : State) (x1 : List Nat) : (dropStreams s x1).2.fixed = s.fixed := by
  simp [dropStreams]
@[simp] theorem clearTile_fixed (s : State) (x1 : Nat) : (clearTile s x1).fixed = s.fixed := by
  simp [clearTile]
@[simp] theorem releaseTiles_fixed (s : State) (x1 : List Nat) : (releaseTiles s x1).2.fixed = s.fixed := by
  simp [releaseTiles]
@[simp] theorem startScrub_fixed (s : State) (x1 : Nat) (x2 : Nat) : (startScrub s x1 x2).fixed = s.fixed := by
  simp [startScrub]
@[simp] theorem endCommand_fixed (s : State) (x1 : Nat) : (endCommand s x1).fixed = s.fixed := by
  simp [endCommand]
@[simp] theorem dropOpenings_fixed (s : State) (x1 : Nat) : (dropOpenings s x1).fixed = s.fixed := by
  simp [dropOpenings]
@[simp] theorem scrubErase_fixed (s : State) (x1 : Nat) (x2 : Scrub) : (scrubErase s x1 x2).fixed = s.fixed := by
  simp [scrubErase]
@[simp] theorem scrubZeroed_fixed (s : State) (x1 : Nat) (x2 : Scrub) : (scrubZeroed s x1 x2).fixed = s.fixed := by
  simp [scrubZeroed]
@[simp] theorem resetShares_fixed (s : State) (x1 : Nat) : (resetShares s x1).fixed = s.fixed := by
  simp [resetShares]
@[simp] theorem dropReports_fixed (s : State) (x1 : Nat) : (dropReports s x1).fixed = s.fixed := by
  simp [dropReports]
@[simp] theorem scrubClear_fixed (s : State) (x1 : Nat) (x2 : Scrub) : (scrubClear s x1 x2).fixed = s.fixed := by
  simp [scrubClear]
@[simp] theorem rtpReject_fixed (s : State) (x1 : Half) (x2 : Nat) (x3 : Nat) (x4 : Nat) : (rtpReject s x1 x2 x3 x4).fixed = s.fixed := by
  simp [rtpReject]
@[simp] theorem rtpAccept_fixed (s : State) (x1 : Half) (x2 : Nat) (x3 : Nat) (x4 : List Word) : (rtpAccept s x1 x2 x3 x4).fixed = s.fixed := by
  simp [rtpAccept]
@[simp] theorem rtpEvent_fixed (s : State) (x1 : Half) (x2 : Nat) (x3 : Nat) : (rtpEvent s x1 x2 x3).fixed = s.fixed := by
  simp [rtpEvent]
@[simp] theorem returnParts_fixed (s : State) (x1 : Half) : (returnParts s x1).fixed = s.fixed := by
  simp [returnParts]
@[simp] theorem trialFails_fixed (s : State) (x1 : Half) (x2 : Nat) : (trialFails s x1 x2).fixed = s.fixed := by
  simp [trialFails]
@[simp] theorem addPeer_fixed (s : State) (x1 : Nat) (x2 : Nat) : (addPeer s x1 x2).fixed = s.fixed := by
  simp [addPeer]
@[simp] theorem dropKex_fixed (s : State) (x1 : Nat) (x2 : Edge) : (dropKex s x1 x2).fixed = s.fixed := by
  simp [dropKex]
@[simp] theorem kexFails_fixed (s : State) (x1 : Half) (x2 : Nat) (x3 : Edge) : (kexFails s x1 x2 x3).fixed = s.fixed := by
  simp [kexFails]
@[simp] theorem openingFails_fixed (s : State) (x1 : Opening) (x2 : Nat) : (openingFails s x1 x2).fixed = s.fixed := by
  simp [openingFails]
@[simp] theorem openingDone_fixed (s : State) (x1 : Opening) : (openingDone s x1).fixed = s.fixed := by
  simp [openingDone]
@[simp] theorem openingCloses_fixed (s : State) (x1 : Opening) : (openingCloses s x1).fixed = s.fixed := by
  simp [openingCloses]
@[simp] theorem askChunk_fixed (s : State) (x1 : Half) (x2 : Nat) (x3 : GloveChunk) : (askChunk s x1 x2 x3).fixed = s.fixed := by
  unfold askChunk; (try dsimp only); repeat' (first | (simp; done) | split | (with_reducible refine (foldl_fixed _ (fun _ _ => ?_) _ _).trans ?_) | simp)
@[simp] theorem settleChunks_fixed (s : State) : (settleChunks s).fixed = s.fixed := by
  unfold settleChunks; (try dsimp only); repeat' (first | (simp; done) | split | (with_reducible refine (foldl_fixed _ (fun _ _ => ?_) _ _).trans ?_) | simp)
@[simp] theorem onPage_fixed (s : State) (x1 : Nat) (x2 : Page → Page) : (onPage s x1 x2).fixed = s.fixed := by
  simp [onPage]
@[simp] theorem stage_fixed (s : State) (x1 : Nat) : (stage s x1).fixed = s.fixed := by
  simp [stage]
@[simp] theorem takeLanes_fixed (s : State) (x1 : Nat) : (takeLanes s x1).fixed = s.fixed := by
  simp [takeLanes]
@[simp] theorem starting_fixed (s : State) (x1 : PageKind) (x2 : Nat) : (starting s x1 x2).fixed = s.fixed := by
  unfold starting; split <;> simp
@[simp] theorem enterStarting_fixed (s : State) (x1 : PageKind) (x2 : Nat) : (enterStarting s x1 x2).fixed = s.fixed := by
  simp [enterStarting]
@[simp] theorem syncStart_fixed (s : State) (x1 : PageKind) (x2 : Nat) : (syncStart s x1 x2).fixed = s.fixed := by
  unfold syncStart; (repeat' split) <;> simp
@[simp] theorem retryStranded_fixed (s : State) : (retryStranded s).fixed = s.fixed := by
  unfold retryStranded; (try dsimp only); repeat' (first | (simp; done) | split | (with_reducible refine (foldl_fixed _ (fun _ _ => ?_) _ _).trans ?_) | simp)
@[simp] theorem loadRegions_fixed (s : State) (x1 : Nat) : (loadRegions s x1).fixed = s.fixed := by
  simp [loadRegions]
@[simp] theorem started_fixed (b s : State) (k : PageKind) (i : Nat) : (started b s k i).fixed = s.fixed := by
  unfold started; split <;> simp
@[simp] theorem enterOn_fixed (s : State) (x1 : PageKind) (x2 : Nat) : (enterOn s x1 x2).fixed = s.fixed := by
  simp [enterOn]
@[simp] theorem stopping_fixed (b s : State) (k : PageKind) (i : Nat) : (stopping b s k i).fixed = s.fixed := by
  unfold stopping; split <;> simp
@[simp] theorem enterStopping_fixed (s : State) (x1 : PageKind) (x2 : Nat) : (enterStopping s x1 x2).fixed = s.fixed := by
  simp [enterStopping]
@[simp] theorem stopped_fixed (s : State) (x1 : PageKind) (x2 : Nat) (x3 : Bool) : (stopped s x1 x2 x3).fixed = s.fixed := by
  unfold stopped; split <;> simp
@[simp] theorem enterOff_fixed (s : State) (x1 : PageKind) (x2 : Nat) : (enterOff s x1 x2).fixed = s.fixed := by
  simp [enterOff]
@[simp] theorem setFreeze_fixed (s : State) (x1 : Nat) (x2 : Bool) : (setFreeze s x1 x2).fixed = s.fixed := by
  simp [setFreeze]
@[simp] theorem enableOne_fixed (s : State) (x1 : PageKind) (x2 : Nat) : (enableOne s x1 x2).fixed = s.fixed := by
  unfold enableOne; dsimp only; split <;> simp
@[simp] theorem enableZero_fixed (s : State) (x1 : PageKind) (x2 : Nat) : (enableZero s x1 x2).fixed = s.fixed := by
  unfold enableZero; dsimp only; split <;> simp
@[simp] theorem writeCtrl_fixed (s : State) (x1 : PageKind) (x2 : Nat) (x3 : Bool) (x4 : Bool) : (writeCtrl s x1 x2 x3 x4).fixed = s.fixed := by
  simp [writeCtrl]
@[simp] theorem withPage_fixed (s : State) (pg : Nat) (f : PageKind → Nat → State) (h : ∀ k i, (f k i).fixed = s.fixed) : (withPage s pg f).fixed = s.fixed := by
  unfold withPage; split <;> simp [h]
@[simp] theorem firePageCtrl_fixed (s : State) (x1 : Half) (x2 : Entry) : (firePageCtrl s x1 x2).fixed = s.fixed := by
  simp [firePageCtrl]
@[simp] theorem startFaults_fixed (s : State) (x1 : PageKind) (x2 : Nat) : (startFaults s x1 x2).fixed = s.fixed := by
  unfold startFaults; split <;> simp
@[simp] theorem clearErr_fixed (s : State) (x1 : Nat) (x2 : Word) (x3 : Word) : (clearErr s x1 x2 x3).fixed = s.fixed := by
  simp [clearErr]
@[simp] theorem repaired_fixed (s : State) (x1 : Half) : (repaired s x1).fixed = s.fixed := by
  simp [repaired]
@[simp] theorem sprStatus_fixed (s : State) (x1 : Half) (x2 : Nat) (x3 : Nat) (x4 : Nat) : (sprStatus s x1 x2 x3 x4).fixed = s.fixed := by
  simp [sprStatus]
@[simp] theorem sprRefuse_fixed (s : State) (x1 : Half) (x2 : Nat) (x3 : Nat) : (sprRefuse s x1 x2 x3).fixed = s.fixed := by
  simp [sprRefuse]
@[simp] theorem releaseStarts_fixed (s : State) (x1 : Nat) (x2 : Bool) : (releaseStarts s x1 x2).fixed = s.fixed := by
  unfold releaseStarts; (try dsimp only); repeat' (first | (simp; done) | split | (with_reducible refine (foldl_fixed _ (fun _ _ => ?_) _ _).trans ?_) | simp)
@[simp] theorem abandonSwap_fixed (s : State) (x1 : Half) (x2 : Nat) : (abandonSwap s x1 x2).fixed = s.fixed := by
  unfold abandonSwap; split <;> simp
@[simp] theorem copyRegs_fixed (s : State) (x1 : Nat) (x2 : Nat) (x3 : List Nat) : (copyRegs s x1 x2 x3).fixed = s.fixed := by
  simp [copyRegs]
@[simp] theorem commitSwap_fixed (s : State) (x1 : Half) (x2 : Swap) (x3 : Bool) : (commitSwap s x1 x2 x3).fixed = s.fixed := by
  unfold commitSwap; dsimp only; (repeat' split) <;> simp
@[simp] theorem startSwap_fixed (s : State) (x1 : Half) (x2 : Nat) (x3 : Option Nat) (x4 : Bool) : (startSwap s x1 x2 x3 x4).fixed = s.fixed := by
  unfold startSwap; (repeat' split) <;> simp
@[simp] theorem tileSwap_fixed (s : State) (x1 : Half) (x2 : Bool) : (tileSwap s x1 x2).fixed = s.fixed := by
  simp [tileSwap]
@[simp] theorem drainTile_fixed (s : State) (x1 : Nat) : (drainTile s x1).fixed = s.fixed := by
  simp [drainTile]
@[simp] theorem swapTick_fixed (s : State) (x1 : Half) : (swapTick s x1).fixed = s.fixed := by
  unfold swapTick; split <;> simp
@[simp] theorem startSrSwap_fixed (s : State) (x1 : Half) (x2 : Nat) : (startSrSwap s x1 x2).fixed = s.fixed := by
  simp [startSrSwap]
@[simp] theorem startFrameSwap_fixed (s : State) (x1 : Half) (x2 : Nat) : (startFrameSwap s x1 x2).fixed = s.fixed := by
  simp [startFrameSwap]
@[simp] theorem autoDrop_fixed (s : State) (x1 : Nat × Nat) : (autoDrop s x1).fixed = s.fixed := by
  simp [autoDrop]
@[simp] theorem autoLane_fixed (s : State) (x1 : Half) (x2 : Nat × Nat) : (autoLane s x1 x2).fixed = s.fixed := by
  unfold autoLane; dsimp only; split <;> simp
@[simp] theorem wfCapture_fixed (s : State) (x1 : Half) (x2 : Bool) (x3 : Nat) : (wfCapture s x1 x2 x3).fixed = s.fixed := by
  simp [wfCapture]
@[simp] theorem beginCalm_fixed (s : State) (x1 : Half) (x2 : Nat) (x3 : Nat) (x4 : Bool) : (beginCalm s x1 x2 x3 x4).fixed = s.fixed := by
  simp [beginCalm]
@[simp] theorem fireCalm_fixed (s : State) (x1 : Entry) : (fireCalm s x1).fixed = s.fixed := by
  unfold fireCalm; split <;> simp
@[simp] theorem endCapture_fixed (s : State) (x1 : Half) : (endCapture s x1).fixed = s.fixed := by
  simp [endCapture]
@[simp] theorem calmCommand_fixed (s : State) (x1 : Half) (x2 : Nat) : (calmCommand s x1 x2).fixed = s.fixed := by
  unfold calmCommand; dsimp only; split <;> simp
@[simp] theorem actMessage_fixed (s : State) (c : Instr) : (actMessage s c).fixed = s.fixed := by
  unfold actMessage; split <;> first | rfl | exact ctrlTake_fixed _ _ _ _ fun _ => by simp
@[simp] theorem fromStore_fixed (s : State) (x1 : Instr) : (fromStore s x1).fixed = s.fixed := by
  unfold fromStore; (repeat' split) <;> simp
@[simp] theorem fromPort_fixed (s : State) (x1 : Nat) (x2 : Instr) : (fromPort s x1 x2).fixed = s.fixed := by
  unfold fromPort; (repeat' split) <;> simp
@[simp] theorem drainPorts_fixed (s : State) (x1 : Half) : (drainPorts s x1).fixed = s.fixed := by
  simp [drainPorts]
@[simp] theorem grantPorts_fixed (s : State) (x1 : Half) : (grantPorts s x1).fixed = s.fixed := by
  simp [grantPorts]
@[simp] theorem reactAll_fixed (s : State) (x1 : Half) : (reactAll s x1).fixed = s.fixed := by
  simp [reactAll]
@[simp] theorem wakeHeld_fixed (s : State) (x1 : Half) : (wakeHeld s x1).fixed = s.fixed := by
  unfold wakeHeld; (try dsimp only); repeat' (first | (simp; done) | split | (with_reducible refine (foldl_fixed _ (fun _ _ => ?_) _ _).trans ?_) | simp)
@[simp] theorem leaveCalm_fixed (s : State) (x1 : Half) : (leaveCalm s x1).fixed = s.fixed := by
  simp [leaveCalm]
@[simp] theorem fireReport_fixed (s : State) (x1 : Half) (x2 : Entry) : (fireReport s x1 x2).fixed = s.fixed := by
  simp [fireReport]
@[simp] theorem fireHeld_fixed (s : State) (x1 : Half) (x2 : Nat) : (fireHeld s x1 x2).fixed = s.fixed := by
  simp [fireHeld]
@[simp] theorem shiftTimers_fixed (s : State) (x1 : Half) (x2 : Nat) : (shiftTimers s x1 x2).fixed = s.fixed := by
  simp [shiftTimers]
@[simp] theorem actGo_fixed (s : State) (x1 : Instr) : (actGo s x1).fixed = s.fixed := by
  unfold actGo; split <;> simp
@[simp] theorem resumeCalm_fixed (s : State) (x1 : Half) (x2 : Nat) : (resumeCalm s x1 x2).fixed = s.fixed := by
  simp [resumeCalm]
@[simp] theorem refuseGo_fixed (s : State) (x1 : Instr) : (refuseGo s x1).fixed = s.fixed := by
  unfold refuseGo; split <;> simp
@[simp] theorem abandonTile_fixed (s : State) (x1 : Half) (x2 : Nat) : (abandonTile s x1 x2).fixed = s.fixed := by
  simp [abandonTile]
@[simp] theorem stopPrograms_fixed (s : State) (x1 : Half) : (stopPrograms s x1).fixed = s.fixed := by
  simp [stopPrograms]
@[simp] theorem cancelHeld_fixed (s : State) (x1 : Half) : (cancelHeld s x1).fixed = s.fixed := by
  simp [cancelHeld]
@[simp] theorem abandonFill_fixed (s : State) (x1 : Half) : (abandonFill s x1).fixed = s.fixed := by
  simp [abandonFill]
@[simp] theorem dropGusts_fixed (s : State) (x1 : Half) : (dropGusts s x1).fixed = s.fixed := by
  simp [dropGusts]
@[simp] theorem abandonCopy_fixed (s : State) (x1 : Half) : (abandonCopy s x1).fixed = s.fixed := by
  unfold abandonCopy; split <;> simp
@[simp] theorem abandonSession_fixed (s : State) (x1 : Nat) : (abandonSession s x1).fixed = s.fixed := by
  simp [abandonSession]
@[simp] theorem abandonCalm_fixed (s : State) (x1 : Half) (x2 : Nat) : (abandonCalm s x1 x2).fixed = s.fixed := by
  simp [abandonCalm]
@[simp] theorem wfTake_fixed (s : State) (x1 : Half) : (wfTake s x1).fixed = s.fixed := by
  simp [wfTake]
@[simp] theorem wfAssemble_fixed (s : State) (x1 : Half) : (wfAssemble s x1).fixed = s.fixed := by
  simp [wfAssemble]
@[simp] theorem hangPacket_fixed (s : State) (x1 : Half) (x2 : Nat) (x3 : List Byte) : (hangPacket s x1 x2 x3).fixed = s.fixed := by
  simp [hangPacket]
@[simp] theorem onCharge_fixed (s : State) (x1 : Half) (x2 : Charge → Charge) : (onCharge s x1 x2).fixed = s.fixed := by
  simp [onCharge]
@[simp] theorem freezeSession_fixed (s : State) (x1 : Nat) : (freezeSession s x1).fixed = s.fixed := by
  unfold freezeSession; dsimp only; (repeat' split) <;> simp
@[simp] theorem enterSplit_fixed (s : State) (x1 : Half) (x2 : Nat) : (enterSplit s x1 x2).fixed = s.fixed := by
  simp [enterSplit]
@[simp] theorem thawSession_fixed (s : State) (x1 : Nat) : (thawSession s x1).fixed = s.fixed := by
  simp [thawSession]
@[simp] theorem leaveSplit_fixed (s : State) : (leaveSplit s).fixed = s.fixed := by
  simp [leaveSplit]
@[simp] theorem scrubAfter_fixed (s : State) (x1 : Nat) : (scrubAfter s x1).fixed = s.fixed := by
  simp [scrubAfter]
@[simp] theorem swapLost_fixed (x0 : State) (s : State) (x2 : Half) : (swapLost x0 s x2).fixed = s.fixed := by
  unfold swapLost; split <;> simp
@[simp] theorem partMeets_fixed (s : State) (x1 : Half) (x2 : Nat) : (partMeets s x1 x2).fixed = s.fixed := by
  unfold partMeets; dsimp only; (repeat' split) <;> simp
@[simp] theorem resetPages_fixed (s : State) (x1 : Half) (x2 : List Nat) : (resetPages s x1 x2).fixed = s.fixed := by
  simp [resetPages]
@[simp] theorem resetTiles_fixed (s : State) (x1 : Half) (x2 : List Nat) : (resetTiles s x1 x2).fixed = s.fixed := by
  simp [resetTiles]
@[simp] theorem resetSessions_fixed (s : State) (x1 : Half) (x2 : List Nat) : (resetSessions s x1 x2).fixed = s.fixed := by
  simp [resetSessions]
@[simp] theorem resetTrust_fixed (s : State) (x1 : Half) : (resetTrust s x1).fixed = s.fixed := by
  simp [resetTrust]
@[simp] theorem rejoin_fixed (s : State) : (rejoin s).fixed = s.fixed := by
  simp [rejoin]
@[simp] theorem returnKeys_fixed (s : State) : (returnKeys s).fixed = s.fixed := by
  simp [returnKeys]
@[simp] theorem heartbeatAt_fixed (s : State) (x1 : Half) (x2 : Bool) (x3 : Bool) (x4 : Bool) : (heartbeatAt s x1 x2 x3 x4).fixed = s.fixed := by
  unfold heartbeatAt; dsimp only; split <;> simp
@[simp] theorem freshNonce_fixed (s : State) (x1 : Half) : (freshNonce s x1).fixed = s.fixed := by
  simp [freshNonce]
@[simp] theorem slewTick_fixed (s : State) : (slewTick s).fixed = s.fixed := by
  simp [slewTick]
@[simp] theorem noteFrac_fixed (s : State) (x1 : Nat) : (noteFrac s x1).fixed = s.fixed := by
  unfold noteFrac; split <;> simp
@[simp] theorem onLatch_fixed (s : State) (x1 : Half) (x2 : Tbl Word → Tbl Word) : (onLatch s x1 x2).fixed = s.fixed := by
  simp [onLatch]
@[simp] theorem afterCells_fixed (b s : State) (k : Nat) : (afterCells b s k).fixed = s.fixed := by
  unfold afterCells; exact foldl_fixed _ (fun _ _ => by simp) _ _
@[simp] theorem flushPort_fixed (s : State) (x1 : Nat) : (flushPort s x1).fixed = s.fixed := by
  simp [flushPort]
@[simp] theorem winAnswer_fixed (s : State) (x1 : Half) (x2 : Half) (x3 : Nat) : (winAnswer s x1 x2 x3).fixed = s.fixed := by
  simp [winAnswer]
@[simp] theorem openWin_fixed (s : State) (x1 : Half) (x2 : Half) (x3 : Nat) (x4 : Bool) : (openWin s x1 x2 x3 x4).fixed = s.fixed := by
  simp [openWin]
@[simp] theorem handMessage_fixed (s : State) (x1 : Half) (x2 : Nat) : (handMessage s x1 x2).fixed = s.fixed := by
  simp [handMessage]
@[simp] theorem closeWin_fixed (s : State) (x1 : Half) (x2 : Nat) : (closeWin s x1 x2).fixed = s.fixed := by
  simp [closeWin]
@[simp] theorem settleFor_fixed (s : State) (x1 : PageKind) (x2 : Nat) (x3 : Nat) : (settleFor s x1 x2 x3).fixed = s.fixed := by
  unfold settleFor; split <;> simp
@[simp] theorem meterWritten_fixed (b s : State) (k o : Nat) : (meterWritten b s k o).fixed = s.fixed := by
  unfold meterWritten; (try dsimp only); repeat' (first | (simp; done) | split | (with_reducible apply foldl_fixed; intros) | simp)
@[simp] theorem holdCleared_fixed (x0 : State) (s : State) (x2 : Nat) : (holdCleared x0 s x2).fixed = s.fixed := by
  simp [holdCleared]
@[simp] theorem afterStore_fixed (b s : State) (k : PageKind) (i o : Nat) : (afterStore b s k i o).fixed = s.fixed := by
  unfold afterStore; (try dsimp only); repeat' (first | (simp; done) | split | (with_reducible apply foldl_fixed; intros) | simp)
@[simp] theorem storeWord_fixed (s : State) (x1 : PageKind) (x2 : Nat) (x3 : Nat) (x4 : RegRow) (x5 : Word) : (storeWord s x1 x2 x3 x4 x5).fixed = s.fixed := by
  unfold storeWord; split <;> simp
@[simp] theorem writeWord_fixed (s : State) (x1 : Half) (x2 : PageKind) (x3 : Nat) (x4 : Nat) (x5 : Word) : (writeWord s x1 x2 x3 x4 x5).fixed = s.fixed := by
  unfold writeWord; (repeat' split) <;> simp
@[simp] theorem closeInterval_fixed (s : State) (x1 : Nat) : (closeInterval s x1).fixed = s.fixed := by
  unfold closeInterval; split <;> simp
@[simp] theorem stackTick_fixed (s : State) : (stackTick s).fixed = s.fixed := by
  simp [stackTick]
end Sys2Proof.Machine
end

