-- ==== Sys2Proof/Laws/Pages.lean ====
section
/-! SUPPORT. The page map as a map: a row and an instance have one page number, and reading a header after writing one. -/

namespace Sys2Proof.Machine

theorem pageOf_pageNo_all (k : PageKind) : (List.range (kindCount k)).all (fun i => decide (pageOf (pageNo k i) = some (k, i))) = true := by
  cases k <;> decide +kernel

/-- A page number leads back to its row and instance (R38). -/
theorem pageOf_pageNo (k : PageKind) (i : Nat) (h : i < kindCount k) : pageOf (pageNo k i) = some (k, i) := by
  have := List.all_eq_true.1 (pageOf_pageNo_all k) i (List.mem_range.2 h)
  simpa using this

@[simp] theorem countSummary_headless (s t : State) : (countSummary s t).headless = t.headless := by
  unfold countSummary; split
  · rfl
  · split <;> rfl

@[simp] theorem putPage_headless (s : State) (pg : Nat) (p : Page) : (putPage s pg p).headless = s.headless := by
  unfold putPage; rw [countSummary_headless]; rfl

theorem headerWritten_putPage (s : State) (pg : Nat) (p : Page) : HeaderWritten s (putPage s pg p) pg p :=
  ⟨by rw [getPage_putPage, if_pos rfl], fun q h => by rw [getPage_putPage, if_neg h], putPage_headless s pg p⟩

/-- A second write of the same header takes the place of the first. -/
theorem HeaderWritten.again {s t : State} {pg : Nat} {p : Page} (h : HeaderWritten s t pg p) (q : Page) :
    HeaderWritten s (putPage t pg q) pg q :=
  ⟨by rw [getPage_putPage, if_pos rfl], fun x hx => by rw [getPage_putPage, if_neg hx, h.2.1 x hx],
    (putPage_headless t pg q).trans h.2.2⟩

/-- What a port that reaches a page may do there is what the write does. -/
theorem mgmtWrite_reaches {s : State} {port : Half} {k : PageKind} {i : Nat} (h : Reaches s port k i) (f : State → State) :
    mgmtWrite s port (pageNo k i) f = .next (f s) := by
  simp only [mgmtWrite, h.2.1, h.2.2]; rfl

theorem mgmtWriteK_reaches {s : State} {port : Half} {k : PageKind} {i : Nat} (h : Reaches s port k i) (f : State → State) :
    mgmtWriteK s port k i f = .next (f s) := by
  rw [mgmtWriteK, if_neg (Nat.not_le.2 h.1), mgmtWrite_reaches h]

end Sys2Proof.Machine
end

