-- ==== Sys2Proof/Laws/Report.lean ====
section
/-! SUPPORT. How long a report and the other answers of an RTP are (R334): what an empty mailbox always holds. -/

namespace Sys2Proof.Machine

theorem takeBytes_length (n : Nat) (l : List Byte) : (takeBytes n l).length = n := by simp [takeBytes]; omega

theorem leBytes_length (k n : Nat) : (leBytes k n).length = k := by
  induction k generalizing n with
  | zero => rfl
  | succ k ih => simp [leBytes, ih]

theorem fwRecord_length (s : State) (h : Half) : (fwRecord s h).length = 104 := by
  unfold fwRecord; dsimp only; split <;> simp [leBytes_length]

theorem certBytes_length (h : Half) (k : Nat) : (certBytes h k).length ≤ 16388 := by
  simp only [certBytes, List.length_append, leBytes_length, List.length_take]; omega

theorem reportHead_length (s : State) (h : Half) (a b c d e f g : Nat) : (reportHead s h a b c d e f g).length = 576 := by
  unfold reportHead
  dsimp only
  repeat rw [List.length_append]
  simp only [leBytes_length, fwRecord_length, List.length_replicate]

/-- A report that lists no partition and no certificate fits a mailbox. -/
theorem report_length (s : State) (h : Half) (n : Nat) (hc : s.certLog = []) (hp : (reportParts s h 0).1 = []) :
    (reportBytes s h 0 n).length ≤ 60000 := by
  have h0 := certBytes_length h 0
  have h1 := certBytes_length h 1
  have hl : ((List.range 64).filterMap fun q => s.certLog.find? fun c => decide (c.1 = q)) = [] := by rw [hc]; simp
  unfold reportBytes
  dsimp only
  rw [List.length_append, takeBytes_length, List.length_append, reportHead_length, hp, hl]
  simp only [List.length_append, List.flatMap_nil, List.filter_nil, ite_self, List.length_nil]
  omega

theorem report_cons (s : State) (h : Half) (n : Nat) : ∃ b l, reportBytes s h 0 n = b :: l := by
  have : (reportBytes s h 0 n).length ≠ 0 := by
    unfold reportBytes; dsimp only; rw [List.length_append, List.length_append, reportHead_length]; omega
  cases he : reportBytes s h 0 n with
  | nil => simp [he] at this
  | cons b l => exact ⟨b, l, rfl⟩

theorem wordsOf_length (l : List Byte) : 4 * (wordsOf l).length ≤ l.length + 3 ∧ (l ≠ [] → wordsOf l ≠ []) := by
  induction l using wordsOf.induct with
  | case1 a b c d r ih => simp only [wordsOf, List.length_cons]; exact ⟨by omega, by simp⟩
  | case2 => simp [wordsOf]
  | case3 l h1 h2 => rw [wordsOf]; · cases l <;> simp_all
                     all_goals simp_all

theorem rtpRoom_iff (s : State) (h : Half) (n : Nat) : rtpRoom s h n = true ↔ (s.rtp.get h).out.length + n ≤ 65536 := by
  unfold rtpRoom outCapacity; exact decide_eq_true_iff

theorem freeWords_length (k : Nat) (l : List Nat) : (freeWords k l).length ≤ 32768 := by simp only [freeWords, List.length_take]; omega

end Sys2Proof.Machine
end

