-- ==== Sys2Proof/Laws/State.lean ====
section
/-! SUPPORT. One lemma for each field under each single write of the state: the field a write does not name is the field as it
was; and what each keyed read gives after the write of the same kind. -/

namespace Sys2Proof.Machine

/-! ### A read after a write -/

@[simp] theorem getStream_putStream (s k x n) : getStream (putStream s k x) n = if n = k then x else getStream s n := by
  simp [getStream, putStream]
@[simp] theorem getChan_putChan (s k x n) : getChan (putChan s k x) n = if n = k then x else getChan s n := by
  simp [getChan, putChan]
@[simp] theorem getPart_putPart (s k x n) : getPart (putPart s k x) n = if n = k then x else getPart s n := by
  simp [getPart, putPart]
@[simp] theorem getRegion_putRegion (s k x n) : getRegion (putRegion s k x) n = if n = k then x else getRegion s n := by
  simp [getRegion, putRegion]
@[simp] theorem getPort_putPort (s k x n) : getPort (putPort s k x) n = if n = k then x else getPort s n := by
  simp [getPort, putPort]
@[simp] theorem getArb_putArb (s k x n) : getArb (putArb s k x) n = if n = k then x else getArb s n := by
  simp [getArb, putArb]
@[simp] theorem getSes_putSes (s k x n) : getSes (putSes s k x) n = if n = k then x else getSes s n := by
  simp [getSes, putSes]
@[simp] theorem onCalm_at (s h f) : (onCalm s h f).calm.get h = f (s.calm.get h) := by
  cases h <;> rfl
@[simp] theorem onCalm_other (s h f g) (hn : g ≠ h) : (onCalm s h f).calm.get g = s.calm.get g := by
  cases h <;> cases g <;> first | rfl | exact absurd rfl hn
@[simp] theorem onFtu_at (s h f) : (onFtu s h f).ftu.get h = f (s.ftu.get h) := by
  cases h <;> rfl
@[simp] theorem onFtu_other (s h f g) (hn : g ≠ h) : (onFtu s h f).ftu.get g = s.ftu.get g := by
  cases h <;> cases g <;> first | rfl | exact absurd rfl hn
@[simp] theorem onRtp_at (s h f) : (onRtp s h f).rtp.get h = f (s.rtp.get h) := by
  cases h <;> rfl
@[simp] theorem onRtp_other (s h f g) (hn : g ≠ h) : (onRtp s h f).rtp.get g = s.rtp.get g := by
  cases h <;> cases g <;> first | rfl | exact absurd rfl hn
@[simp] theorem onCharge_at (s h f) : (onCharge s h f).charge.get h = f (s.charge.get h) := by
  cases h <;> rfl
@[simp] theorem onCharge_other (s h f g) (hn : g ≠ h) : (onCharge s h f).charge.get g = s.charge.get g := by
  cases h <;> cases g <;> first | rfl | exact absurd rfl hn

/-! ### `putReg` writes `regs` alone -/

@[simp] theorem putReg_cfg (s a w) : (putReg s a w).cfg = s.cfg := rfl
@[simp] theorem putReg_pending (s a w) : (putReg s a w).pending = s.pending := rfl
@[simp] theorem putReg_cyc (s a w) : (putReg s a w).cyc = s.cyc := rfl
@[simp] theorem putReg_fresh (s a w) : (putReg s a w).fresh = s.fresh := rfl
@[simp] theorem putReg_inForce (s a w) : (putReg s a w).inForce = s.inForce := rfl
@[simp] theorem putReg_pages (s a w) : (putReg s a w).pages = s.pages := rfl
@[simp] theorem putReg_wins (s a w) : (putReg s a w).wins = s.wins := rfl
@[simp] theorem putReg_mports (s a w) : (putReg s a w).mports = s.mports := rfl
@[simp] theorem putReg_sumSeq (s a w) : (putReg s a w).sumSeq = s.sumSeq := rfl
@[simp] theorem putReg_sumCyc (s a w) : (putReg s a w).sumCyc = s.sumCyc := rfl
@[simp] theorem putReg_ftu (s a w) : (putReg s a w).ftu = s.ftu := rfl
@[simp] theorem putReg_sched (s a w) : (putReg s a w).sched = s.sched := rfl
@[simp] theorem putReg_ends (s a w) : (putReg s a w).ends = s.ends := rfl
@[simp] theorem putReg_trigCyc (s a w) : (putReg s a w).trigCyc = s.trigCyc := rfl
@[simp] theorem putReg_trigHigh (s a w) : (putReg s a w).trigHigh = s.trigHigh := rfl
@[simp] theorem putReg_bypWin (s a w) : (putReg s a w).bypWin = s.bypWin := rfl
@[simp] theorem putReg_bypStat (s a w) : (putReg s a w).bypStat = s.bypStat := rfl
@[simp] theorem putReg_tiles (s a w) : (putReg s a w).tiles = s.tiles := rfl
@[simp] theorem putReg_tmap (s a w) : (putReg s a w).tmap = s.tmap := rfl
@[simp] theorem putReg_bankUse (s a w) : (putReg s a w).bankUse = s.bankUse := rfl
@[simp] theorem putReg_bankLost (s a w) : (putReg s a w).bankLost = s.bankLost := rfl
@[simp] theorem putReg_ssends (s a w) : (putReg s a w).ssends = s.ssends := rfl
@[simp] theorem putReg_gates (s a w) : (putReg s a w).gates = s.gates := rfl
@[simp] theorem putReg_sessions (s a w) : (putReg s a w).sessions = s.sessions := rfl
@[simp] theorem putReg_copies (s a w) : (putReg s a w).copies = s.copies := rfl
@[simp] theorem putReg_wvGroups (s a w) : (putReg s a w).wvGroups = s.wvGroups := rfl
@[simp] theorem putReg_wvFlits (s a w) : (putReg s a w).wvFlits = s.wvFlits := rfl
@[simp] theorem putReg_wvEpochs (s a w) : (putReg s a w).wvEpochs = s.wvEpochs := rfl
@[simp] theorem putReg_wvTurn (s a w) : (putReg s a w).wvTurn = s.wvTurn := rfl
@[simp] theorem putReg_srRole (s a w) : (putReg s a w).srRole = s.srRole := rfl
@[simp] theorem putReg_audits (s a w) : (putReg s a w).audits = s.audits := rfl
@[simp] theorem putReg_denseSeq (s a w) : (putReg s a w).denseSeq = s.denseSeq := rfl
@[simp] theorem putReg_reports (s a w) : (putReg s a w).reports = s.reports := rfl
@[simp] theorem putReg_repLost (s a w) : (putReg s a w).repLost = s.repLost := rfl
@[simp] theorem putReg_arbs (s a w) : (putReg s a w).arbs = s.arbs := rfl
@[simp] theorem putReg_arbOn (s a w) : (putReg s a w).arbOn = s.arbOn := rfl
@[simp] theorem putReg_flits (s a w) : (putReg s a w).flits = s.flits := rfl
@[simp] theorem putReg_stranded (s a w) : (putReg s a w).stranded = s.stranded := rfl
@[simp] theorem putReg_ports (s a w) : (putReg s a w).ports = s.ports := rfl
@[simp] theorem putReg_buckets (s a w) : (putReg s a w).buckets = s.buckets := rfl
@[simp] theorem putReg_meters (s a w) : (putReg s a w).meters = s.meters := rfl
@[simp] theorem putReg_mem (s a w) : (putReg s a w).mem = s.mem := rfl
@[simp] theorem putReg_badLines (s a w) : (putReg s a w).badLines = s.badLines := rfl
@[simp] theorem putReg_regions (s a w) : (putReg s a w).regions = s.regions := rfl
@[simp] theorem putReg_reserve (s a w) : (putReg s a w).reserve = s.reserve := rfl
@[simp] theorem putReg_era (s a w) : (putReg s a w).era = s.era := rfl
@[simp] theorem putReg_entries (s a w) : (putReg s a w).entries = s.entries := rfl
@[simp] theorem putReg_chans (s a w) : (putReg s a w).chans = s.chans := rfl
@[simp] theorem putReg_memLog (s a w) : (putReg s a w).memLog = s.memLog := rfl
@[simp] theorem putReg_macAt (s a w) : (putReg s a w).macAt = s.macAt := rfl
@[simp] theorem putReg_fill (s a w) : (putReg s a w).fill = s.fill := rfl
@[simp] theorem putReg_parts (s a w) : (putReg s a w).parts = s.parts := rfl
@[simp] theorem putReg_partCmd (s a w) : (putReg s a w).partCmd = s.partCmd := rfl
@[simp] theorem putReg_certLog (s a w) : (putReg s a w).certLog = s.certLog := rfl
@[simp] theorem putReg_rtp (s a w) : (putReg s a w).rtp = s.rtp := rfl
@[simp] theorem putReg_attQueue (s a w) : (putReg s a w).attQueue = s.attQueue := rfl
@[simp] theorem putReg_attSeq (s a w) : (putReg s a w).attSeq = s.attSeq := rfl
@[simp] theorem putReg_kexs (s a w) : (putReg s a w).kexs = s.kexs := rfl
@[simp] theorem putReg_peers (s a w) : (putReg s a w).peers = s.peers := rfl
@[simp] theorem putReg_ownerKeys (s a w) : (putReg s a w).ownerKeys = s.ownerKeys := rfl
@[simp] theorem putReg_gloveIds (s a w) : (putReg s a w).gloveIds = s.gloveIds := rfl
@[simp] theorem putReg_gloveHdrs (s a w) : (putReg s a w).gloveHdrs = s.gloveHdrs := rfl
@[simp] theorem putReg_openings (s a w) : (putReg s a w).openings = s.openings := rfl
@[simp] theorem putReg_secLog (s a w) : (putReg s a w).secLog = s.secLog := rfl
@[simp] theorem putReg_secAt (s a w) : (putReg s a w).secAt = s.secAt := rfl
@[simp] theorem putReg_minSvn (s a w) : (putReg s a w).minSvn = s.minSvn := rfl
@[simp] theorem putReg_entropyOk (s a w) : (putReg s a w).entropyOk = s.entropyOk := rfl
@[simp] theorem putReg_power (s a w) : (putReg s a w).power = s.power := rfl
@[simp] theorem putReg_budgets (s a w) : (putReg s a w).budgets = s.budgets := rfl
@[simp] theorem putReg_allots (s a w) : (putReg s a w).allots = s.allots := rfl
@[simp] theorem putReg_gateHeld (s a w) : (putReg s a w).gateHeld = s.gateHeld := rfl
@[simp] theorem putReg_streams (s a w) : (putReg s a w).streams = s.streams := rfl
@[simp] theorem putReg_channels (s a w) : (putReg s a w).channels = s.channels := rfl
@[simp] theorem putReg_obsBucket (s a w) : (putReg s a w).obsBucket = s.obsBucket := rfl
@[simp] theorem putReg_obsCyc (s a w) : (putReg s a w).obsCyc = s.obsCyc := rfl
@[simp] theorem putReg_banks (s a w) : (putReg s a w).banks = s.banks := rfl
@[simp] theorem putReg_mitTile (s a w) : (putReg s a w).mitTile = s.mitTile := rfl
@[simp] theorem putReg_mitRegs (s a w) : (putReg s a w).mitRegs = s.mitRegs := rfl
@[simp] theorem putReg_pcLast (s a w) : (putReg s a w).pcLast = s.pcLast := rfl
@[simp] theorem putReg_mitLast (s a w) : (putReg s a w).mitLast = s.mitLast := rfl
@[simp] theorem putReg_calm (s a w) : (putReg s a w).calm = s.calm := rfl
@[simp] theorem putReg_charge (s a w) : (putReg s a w).charge = s.charge := rfl
@[simp] theorem putReg_swaps (s a w) : (putReg s a w).swaps = s.swaps := rfl
@[simp] theorem putReg_heldStarts (s a w) : (putReg s a w).heldStarts = s.heldStarts := rfl
@[simp] theorem putReg_srSwap (s a w) : (putReg s a w).srSwap = s.srSwap := rfl
@[simp] theorem putReg_frameSwaps (s a w) : (putReg s a w).frameSwaps = s.frameSwaps := rfl
@[simp] theorem putReg_frameSpares (s a w) : (putReg s a w).frameSpares = s.frameSpares := rfl
@[simp] theorem putReg_wearLife (s a w) : (putReg s a w).wearLife = s.wearLife := rfl
@[simp] theorem putReg_wearDay (s a w) : (putReg s a w).wearDay = s.wearDay := rfl
@[simp] theorem putReg_wearDayNo (s a w) : (putReg s a w).wearDayNo = s.wearDayNo := rfl
@[simp] theorem putReg_autoQueue (s a w) : (putReg s a w).autoQueue = s.autoQueue := rfl
@[simp] theorem putReg_retireCyc (s a w) : (putReg s a w).retireCyc = s.retireCyc := rfl
@[simp] theorem putReg_fuseUsed (s a w) : (putReg s a w).fuseUsed = s.fuseUsed := rfl
@[simp] theorem putReg_fuseQueue (s a w) : (putReg s a w).fuseQueue = s.fuseQueue := rfl
@[simp] theorem putReg_fuseFull (s a w) : (putReg s a w).fuseFull = s.fuseFull := rfl
@[simp] theorem putReg_rowsUsed (s a w) : (putReg s a w).rowsUsed = s.rowsUsed := rfl
@[simp] theorem putReg_laneMap (s a w) : (putReg s a w).laneMap = s.laneMap := rfl
@[simp] theorem putReg_ready (s a w) : (putReg s a w).ready = s.ready := rfl
@[simp] theorem putReg_railFell (s a w) : (putReg s a w).railFell = s.railFell := rfl
@[simp] theorem putReg_pgSb (s a w) : (putReg s a w).pgSb = s.pgSb := rfl
@[simp] theorem putReg_broken (s a w) : (putReg s a w).broken = s.broken := rfl

/-! ### `putTile` writes `tiles` alone -/

@[simp] theorem putTile_cfg (s k x) : (putTile s k x).cfg = s.cfg := rfl
@[simp] theorem putTile_pending (s k x) : (putTile s k x).pending = s.pending := rfl
@[simp] theorem putTile_cyc (s k x) : (putTile s k x).cyc = s.cyc := rfl
@[simp] theorem putTile_fresh (s k x) : (putTile s k x).fresh = s.fresh := rfl
@[simp] theorem putTile_inForce (s k x) : (putTile s k x).inForce = s.inForce := rfl
@[simp] theorem putTile_regs (s k x) : (putTile s k x).regs = s.regs := rfl
@[simp] theorem putTile_pages (s k x) : (putTile s k x).pages = s.pages := rfl
@[simp] theorem putTile_wins (s k x) : (putTile s k x).wins = s.wins := rfl
@[simp] theorem putTile_mports (s k x) : (putTile s k x).mports = s.mports := rfl
@[simp] theorem putTile_sumSeq (s k x) : (putTile s k x).sumSeq = s.sumSeq := rfl
@[simp] theorem putTile_sumCyc (s k x) : (putTile s k x).sumCyc = s.sumCyc := rfl
@[simp] theorem putTile_ftu (s k x) : (putTile s k x).ftu = s.ftu := rfl
@[simp] theorem putTile_sched (s k x) : (putTile s k x).sched = s.sched := rfl
@[simp] theorem putTile_ends (s k x) : (putTile s k x).ends = s.ends := rfl
@[simp] theorem putTile_trigCyc (s k x) : (putTile s k x).trigCyc = s.trigCyc := rfl
@[simp] theorem putTile_trigHigh (s k x) : (putTile s k x).trigHigh = s.trigHigh := rfl
@[simp] theorem putTile_bypWin (s k x) : (putTile s k x).bypWin = s.bypWin := rfl
@[simp] theorem putTile_bypStat (s k x) : (putTile s k x).bypStat = s.bypStat := rfl
@[simp] theorem putTile_tmap (s k x) : (putTile s k x).tmap = s.tmap := rfl
@[simp] theorem putTile_bankUse (s k x) : (putTile s k x).bankUse = s.bankUse := rfl
@[simp] theorem putTile_bankLost (s k x) : (putTile s k x).bankLost = s.bankLost := rfl
@[simp] theorem putTile_ssends (s k x) : (putTile s k x).ssends = s.ssends := rfl
@[simp] theorem putTile_gates (s k x) : (putTile s k x).gates = s.gates := rfl
@[simp] theorem putTile_sessions (s k x) : (putTile s k x).sessions = s.sessions := rfl
@[simp] theorem putTile_copies (s k x) : (putTile s k x).copies = s.copies := rfl
@[simp] theorem putTile_wvGroups (s k x) : (putTile s k x).wvGroups = s.wvGroups := rfl
@[simp] theorem putTile_wvFlits (s k x) : (putTile s k x).wvFlits = s.wvFlits := rfl
@[simp] theorem putTile_wvEpochs (s k x) : (putTile s k x).wvEpochs = s.wvEpochs := rfl
@[simp] theorem putTile_wvTurn (s k x) : (putTile s k x).wvTurn = s.wvTurn := rfl
@[simp] theorem putTile_srRole (s k x) : (putTile s k x).srRole = s.srRole := rfl
@[simp] theorem putTile_audits (s k x) : (putTile s k x).audits = s.audits := rfl
@[simp] theorem putTile_denseSeq (s k x) : (putTile s k x).denseSeq = s.denseSeq := rfl
@[simp] theorem putTile_reports (s k x) : (putTile s k x).reports = s.reports := rfl
@[simp] theorem putTile_repLost (s k x) : (putTile s k x).repLost = s.repLost := rfl
@[simp] theorem putTile_arbs (s k x) : (putTile s k x).arbs = s.arbs := rfl
@[simp] theorem putTile_arbOn (s k x) : (putTile s k x).arbOn = s.arbOn := rfl
@[simp] theorem putTile_flits (s k x) : (putTile s k x).flits = s.flits := rfl
@[simp] theorem putTile_stranded (s k x) : (putTile s k x).stranded = s.stranded := rfl
@[simp] theorem putTile_ports (s k x) : (putTile s k x).ports = s.ports := rfl
@[simp] theorem putTile_buckets (s k x) : (putTile s k x).buckets = s.buckets := rfl
@[simp] theorem putTile_meters (s k x) : (putTile s k x).meters = s.meters := rfl
@[simp] theorem putTile_mem (s k x) : (putTile s k x).mem = s.mem := rfl
@[simp] theorem putTile_badLines (s k x) : (putTile s k x).badLines = s.badLines := rfl
@[simp] theorem putTile_regions (s k x) : (putTile s k x).regions = s.regions := rfl
@[simp] theorem putTile_reserve (s k x) : (putTile s k x).reserve = s.reserve := rfl
@[simp] theorem putTile_era (s k x) : (putTile s k x).era = s.era := rfl
@[simp] theorem putTile_entries (s k x) : (putTile s k x).entries = s.entries := rfl
@[simp] theorem putTile_chans (s k x) : (putTile s k x).chans = s.chans := rfl
@[simp] theorem putTile_memLog (s k x) : (putTile s k x).memLog = s.memLog := rfl
@[simp] theorem putTile_macAt (s k x) : (putTile s k x).macAt = s.macAt := rfl
@[simp] theorem putTile_fill (s k x) : (putTile s k x).fill = s.fill := rfl
@[simp] theorem putTile_parts (s k x) : (putTile s k x).parts = s.parts := rfl
@[simp] theorem putTile_partCmd (s k x) : (putTile s k x).partCmd = s.partCmd := rfl
@[simp] theorem putTile_certLog (s k x) : (putTile s k x).certLog = s.certLog := rfl
@[simp] theorem putTile_rtp (s k x) : (putTile s k x).rtp = s.rtp := rfl
@[simp] theorem putTile_attQueue (s k x) : (putTile s k x).attQueue = s.attQueue := rfl
@[simp] theorem putTile_attSeq (s k x) : (putTile s k x).attSeq = s.attSeq := rfl
@[simp] theorem putTile_kexs (s k x) : (putTile s k x).kexs = s.kexs := rfl
@[simp] theorem putTile_peers (s k x) : (putTile s k x).peers = s.peers := rfl
@[simp] theorem putTile_ownerKeys (s k x) : (putTile s k x).ownerKeys = s.ownerKeys := rfl
@[simp] theorem putTile_gloveIds (s k x) : (putTile s k x).gloveIds = s.gloveIds := rfl
@[simp] theorem putTile_gloveHdrs (s k x) : (putTile s k x).gloveHdrs = s.gloveHdrs := rfl
@[simp] theorem putTile_openings (s k x) : (putTile s k x).openings = s.openings := rfl
@[simp] theorem putTile_secLog (s k x) : (putTile s k x).secLog = s.secLog := rfl
@[simp] theorem putTile_secAt (s k x) : (putTile s k x).secAt = s.secAt := rfl
@[simp] theorem putTile_minSvn (s k x) : (putTile s k x).minSvn = s.minSvn := rfl
@[simp] theorem putTile_entropyOk (s k x) : (putTile s k x).entropyOk = s.entropyOk := rfl
@[simp] theorem putTile_power (s k x) : (putTile s k x).power = s.power := rfl
@[simp] theorem putTile_budgets (s k x) : (putTile s k x).budgets = s.budgets := rfl
@[simp] theorem putTile_allots (s k x) : (putTile s k x).allots = s.allots := rfl
@[simp] theorem putTile_gateHeld (s k x) : (putTile s k x).gateHeld = s.gateHeld := rfl
@[simp] theorem putTile_streams (s k x) : (putTile s k x).streams = s.streams := rfl
@[simp] theorem putTile_channels (s k x) : (putTile s k x).channels = s.channels := rfl
@[simp] theorem putTile_obsBucket (s k x) : (putTile s k x).obsBucket = s.obsBucket := rfl
@[simp] theorem putTile_obsCyc (s k x) : (putTile s k x).obsCyc = s.obsCyc := rfl
@[simp] theorem putTile_banks (s k x) : (putTile s k x).banks = s.banks := rfl
@[simp] theorem putTile_mitTile (s k x) : (putTile s k x).mitTile = s.mitTile := rfl
@[simp] theorem putTile_mitRegs (s k x) : (putTile s k x).mitRegs = s.mitRegs := rfl
@[simp] theorem putTile_pcLast (s k x) : (putTile s k x).pcLast = s.pcLast := rfl
@[simp] theorem putTile_mitLast (s k x) : (putTile s k x).mitLast = s.mitLast := rfl
@[simp] theorem putTile_calm (s k x) : (putTile s k x).calm = s.calm := rfl
@[simp] theorem putTile_charge (s k x) : (putTile s k x).charge = s.charge := rfl
@[simp] theorem putTile_swaps (s k x) : (putTile s k x).swaps = s.swaps := rfl
@[simp] theorem putTile_heldStarts (s k x) : (putTile s k x).heldStarts = s.heldStarts := rfl
@[simp] theorem putTile_srSwap (s k x) : (putTile s k x).srSwap = s.srSwap := rfl
@[simp] theorem putTile_frameSwaps (s k x) : (putTile s k x).frameSwaps = s.frameSwaps := rfl
@[simp] theorem putTile_frameSpares (s k x) : (putTile s k x).frameSpares = s.frameSpares := rfl
@[simp] theorem putTile_wearLife (s k x) : (putTile s k x).wearLife = s.wearLife := rfl
@[simp] theorem putTile_wearDay (s k x) : (putTile s k x).wearDay = s.wearDay := rfl
@[simp] theorem putTile_wearDayNo (s k x) : (putTile s k x).wearDayNo = s.wearDayNo := rfl
@[simp] theorem putTile_autoQueue (s k x) : (putTile s k x).autoQueue = s.autoQueue := rfl
@[simp] theorem putTile_retireCyc (s k x) : (putTile s k x).retireCyc = s.retireCyc := rfl
@[simp] theorem putTile_fuseUsed (s k x) : (putTile s k x).fuseUsed = s.fuseUsed := rfl
@[simp] theorem putTile_fuseQueue (s k x) : (putTile s k x).fuseQueue = s.fuseQueue := rfl
@[simp] theorem putTile_fuseFull (s k x) : (putTile s k x).fuseFull = s.fuseFull := rfl
@[simp] theorem putTile_rowsUsed (s k x) : (putTile s k x).rowsUsed = s.rowsUsed := rfl
@[simp] theorem putTile_laneMap (s k x) : (putTile s k x).laneMap = s.laneMap := rfl
@[simp] theorem putTile_ready (s k x) : (putTile s k x).ready = s.ready := rfl
@[simp] theorem putTile_railFell (s k x) : (putTile s k x).railFell = s.railFell := rfl
@[simp] theorem putTile_pgSb (s k x) : (putTile s k x).pgSb = s.pgSb := rfl
@[simp] theorem putTile_broken (s k x) : (putTile s k x).broken = s.broken := rfl

/-! ### `putBank` writes `banks` alone -/

@[simp] theorem putBank_cfg (s k x) : (putBank s k x).cfg = s.cfg := rfl
@[simp] theorem putBank_pending (s k x) : (putBank s k x).pending = s.pending := rfl
@[simp] theorem putBank_cyc (s k x) : (putBank s k x).cyc = s.cyc := rfl
@[simp] theorem putBank_fresh (s k x) : (putBank s k x).fresh = s.fresh := rfl
@[simp] theorem putBank_inForce (s k x) : (putBank s k x).inForce = s.inForce := rfl
@[simp] theorem putBank_regs (s k x) : (putBank s k x).regs = s.regs := rfl
@[simp] theorem putBank_pages (s k x) : (putBank s k x).pages = s.pages := rfl
@[simp] theorem putBank_wins (s k x) : (putBank s k x).wins = s.wins := rfl
@[simp] theorem putBank_mports (s k x) : (putBank s k x).mports = s.mports := rfl
@[simp] theorem putBank_sumSeq (s k x) : (putBank s k x).sumSeq = s.sumSeq := rfl
@[simp] theorem putBank_sumCyc (s k x) : (putBank s k x).sumCyc = s.sumCyc := rfl
@[simp] theorem putBank_ftu (s k x) : (putBank s k x).ftu = s.ftu := rfl
@[simp] theorem putBank_sched (s k x) : (putBank s k x).sched = s.sched := rfl
@[simp] theorem putBank_ends (s k x) : (putBank s k x).ends = s.ends := rfl
@[simp] theorem putBank_trigCyc (s k x) : (putBank s k x).trigCyc = s.trigCyc := rfl
@[simp] theorem putBank_trigHigh (s k x) : (putBank s k x).trigHigh = s.trigHigh := rfl
@[simp] theorem putBank_bypWin (s k x) : (putBank s k x).bypWin = s.bypWin := rfl
@[simp] theorem putBank_bypStat (s k x) : (putBank s k x).bypStat = s.bypStat := rfl
@[simp] theorem putBank_tiles (s k x) : (putBank s k x).tiles = s.tiles := rfl
@[simp] theorem putBank_tmap (s k x) : (putBank s k x).tmap = s.tmap := rfl
@[simp] theorem putBank_bankUse (s k x) : (putBank s k x).bankUse = s.bankUse := rfl
@[simp] theorem putBank_bankLost (s k x) : (putBank s k x).bankLost = s.bankLost := rfl
@[simp] theorem putBank_ssends (s k x) : (putBank s k x).ssends = s.ssends := rfl
@[simp] theorem putBank_gates (s k x) : (putBank s k x).gates = s.gates := rfl
@[simp] theorem putBank_sessions (s k x) : (putBank s k x).sessions = s.sessions := rfl
@[simp] theorem putBank_copies (s k x) : (putBank s k x).copies = s.copies := rfl
@[simp] theorem putBank_wvGroups (s k x) : (putBank s k x).wvGroups = s.wvGroups := rfl
@[simp] theorem putBank_wvFlits (s k x) : (putBank s k x).wvFlits = s.wvFlits := rfl
@[simp] theorem putBank_wvEpochs (s k x) : (putBank s k x).wvEpochs = s.wvEpochs := rfl
@[simp] theorem putBank_wvTurn (s k x) : (putBank s k x).wvTurn = s.wvTurn := rfl
@[simp] theorem putBank_srRole (s k x) : (putBank s k x).srRole = s.srRole := rfl
@[simp] theorem putBank_audits (s k x) : (putBank s k x).audits = s.audits := rfl
@[simp] theorem putBank_denseSeq (s k x) : (putBank s k x).denseSeq = s.denseSeq := rfl
@[simp] theorem putBank_reports (s k x) : (putBank s k x).reports = s.reports := rfl
@[simp] theorem putBank_repLost (s k x) : (putBank s k x).repLost = s.repLost := rfl
@[simp] theorem putBank_arbs (s k x) : (putBank s k x).arbs = s.arbs := rfl
@[simp] theorem putBank_arbOn (s k x) : (putBank s k x).arbOn = s.arbOn := rfl
@[simp] theorem putBank_flits (s k x) : (putBank s k x).flits = s.flits := rfl
@[simp] theorem putBank_stranded (s k x) : (putBank s k x).stranded = s.stranded := rfl
@[simp] theorem putBank_ports (s k x) : (putBank s k x).ports = s.ports := rfl
@[simp] theorem putBank_buckets (s k x) : (putBank s k x).buckets = s.buckets := rfl
@[simp] theorem putBank_meters (s k x) : (putBank s k x).meters = s.meters := rfl
@[simp] theorem putBank_mem (s k x) : (putBank s k x).mem = s.mem := rfl
@[simp] theorem putBank_badLines (s k x) : (putBank s k x).badLines = s.badLines := rfl
@[simp] theorem putBank_regions (s k x) : (putBank s k x).regions = s.regions := rfl
@[simp] theorem putBank_reserve (s k x) : (putBank s k x).reserve = s.reserve := rfl
@[simp] theorem putBank_era (s k x) : (putBank s k x).era = s.era := rfl
@[simp] theorem putBank_entries (s k x) : (putBank s k x).entries = s.entries := rfl
@[simp] theorem putBank_chans (s k x) : (putBank s k x).chans = s.chans := rfl
@[simp] theorem putBank_memLog (s k x) : (putBank s k x).memLog = s.memLog := rfl
@[simp] theorem putBank_macAt (s k x) : (putBank s k x).macAt = s.macAt := rfl
@[simp] theorem putBank_fill (s k x) : (putBank s k x).fill = s.fill := rfl
@[simp] theorem putBank_parts (s k x) : (putBank s k x).parts = s.parts := rfl
@[simp] theorem putBank_partCmd (s k x) : (putBank s k x).partCmd = s.partCmd := rfl
@[simp] theorem putBank_certLog (s k x) : (putBank s k x).certLog = s.certLog := rfl
@[simp] theorem putBank_rtp (s k x) : (putBank s k x).rtp = s.rtp := rfl
@[simp] theorem putBank_attQueue (s k x) : (putBank s k x).attQueue = s.attQueue := rfl
@[simp] theorem putBank_attSeq (s k x) : (putBank s k x).attSeq = s.attSeq := rfl
@[simp] theorem putBank_kexs (s k x) : (putBank s k x).kexs = s.kexs := rfl
@[simp] theorem putBank_peers (s k x) : (putBank s k x).peers = s.peers := rfl
@[simp] theorem putBank_ownerKeys (s k x) : (putBank s k x).ownerKeys = s.ownerKeys := rfl
@[simp] theorem putBank_gloveIds (s k x) : (putBank s k x).gloveIds = s.gloveIds := rfl
@[simp] theorem putBank_gloveHdrs (s k x) : (putBank s k x).gloveHdrs = s.gloveHdrs := rfl
@[simp] theorem putBank_openings (s k x) : (putBank s k x).openings = s.openings := rfl
@[simp] theorem putBank_secLog (s k x) : (putBank s k x).secLog = s.secLog := rfl
@[simp] theorem putBank_secAt (s k x) : (putBank s k x).secAt = s.secAt := rfl
@[simp] theorem putBank_minSvn (s k x) : (putBank s k x).minSvn = s.minSvn := rfl
@[simp] theorem putBank_entropyOk (s k x) : (putBank s k x).entropyOk = s.entropyOk := rfl
@[simp] theorem putBank_power (s k x) : (putBank s k x).power = s.power := rfl
@[simp] theorem putBank_budgets (s k x) : (putBank s k x).budgets = s.budgets := rfl
@[simp] theorem putBank_allots (s k x) : (putBank s k x).allots = s.allots := rfl
@[simp] theorem putBank_gateHeld (s k x) : (putBank s k x).gateHeld = s.gateHeld := rfl
@[simp] theorem putBank_streams (s k x) : (putBank s k x).streams = s.streams := rfl
@[simp] theorem putBank_channels (s k x) : (putBank s k x).channels = s.channels := rfl
@[simp] theorem putBank_obsBucket (s k x) : (putBank s k x).obsBucket = s.obsBucket := rfl
@[simp] theorem putBank_obsCyc (s k x) : (putBank s k x).obsCyc = s.obsCyc := rfl
@[simp] theorem putBank_mitTile (s k x) : (putBank s k x).mitTile = s.mitTile := rfl
@[simp] theorem putBank_mitRegs (s k x) : (putBank s k x).mitRegs = s.mitRegs := rfl
@[simp] theorem putBank_pcLast (s k x) : (putBank s k x).pcLast = s.pcLast := rfl
@[simp] theorem putBank_mitLast (s k x) : (putBank s k x).mitLast = s.mitLast := rfl
@[simp] theorem putBank_calm (s k x) : (putBank s k x).calm = s.calm := rfl
@[simp] theorem putBank_charge (s k x) : (putBank s k x).charge = s.charge := rfl
@[simp] theorem putBank_swaps (s k x) : (putBank s k x).swaps = s.swaps := rfl
@[simp] theorem putBank_heldStarts (s k x) : (putBank s k x).heldStarts = s.heldStarts := rfl
@[simp] theorem putBank_srSwap (s k x) : (putBank s k x).srSwap = s.srSwap := rfl
@[simp] theorem putBank_frameSwaps (s k x) : (putBank s k x).frameSwaps = s.frameSwaps := rfl
@[simp] theorem putBank_frameSpares (s k x) : (putBank s k x).frameSpares = s.frameSpares := rfl
@[simp] theorem putBank_wearLife (s k x) : (putBank s k x).wearLife = s.wearLife := rfl
@[simp] theorem putBank_wearDay (s k x) : (putBank s k x).wearDay = s.wearDay := rfl
@[simp] theorem putBank_wearDayNo (s k x) : (putBank s k x).wearDayNo = s.wearDayNo := rfl
@[simp] theorem putBank_autoQueue (s k x) : (putBank s k x).autoQueue = s.autoQueue := rfl
@[simp] theorem putBank_retireCyc (s k x) : (putBank s k x).retireCyc = s.retireCyc := rfl
@[simp] theorem putBank_fuseUsed (s k x) : (putBank s k x).fuseUsed = s.fuseUsed := rfl
@[simp] theorem putBank_fuseQueue (s k x) : (putBank s k x).fuseQueue = s.fuseQueue := rfl
@[simp] theorem putBank_fuseFull (s k x) : (putBank s k x).fuseFull = s.fuseFull := rfl
@[simp] theorem putBank_rowsUsed (s k x) : (putBank s k x).rowsUsed = s.rowsUsed := rfl
@[simp] theorem putBank_laneMap (s k x) : (putBank s k x).laneMap = s.laneMap := rfl
@[simp] theorem putBank_ready (s k x) : (putBank s k x).ready = s.ready := rfl
@[simp] theorem putBank_railFell (s k x) : (putBank s k x).railFell = s.railFell := rfl
@[simp] theorem putBank_pgSb (s k x) : (putBank s k x).pgSb = s.pgSb := rfl
@[simp] theorem putBank_broken (s k x) : (putBank s k x).broken = s.broken := rfl

/-! ### `putStream` writes `streams` alone -/

@[simp] theorem putStream_cfg (s k x) : (putStream s k x).cfg = s.cfg := rfl
@[simp] theorem putStream_pending (s k x) : (putStream s k x).pending = s.pending := rfl
@[simp] theorem putStream_cyc (s k x) : (putStream s k x).cyc = s.cyc := rfl
@[simp] theorem putStream_fresh (s k x) : (putStream s k x).fresh = s.fresh := rfl
@[simp] theorem putStream_inForce (s k x) : (putStream s k x).inForce = s.inForce := rfl
@[simp] theorem putStream_regs (s k x) : (putStream s k x).regs = s.regs := rfl
@[simp] theorem putStream_pages (s k x) : (putStream s k x).pages = s.pages := rfl
@[simp] theorem putStream_wins (s k x) : (putStream s k x).wins = s.wins := rfl
@[simp] theorem putStream_mports (s k x) : (putStream s k x).mports = s.mports := rfl
@[simp] theorem putStream_sumSeq (s k x) : (putStream s k x).sumSeq = s.sumSeq := rfl
@[simp] theorem putStream_sumCyc (s k x) : (putStream s k x).sumCyc = s.sumCyc := rfl
@[simp] theorem putStream_ftu (s k x) : (putStream s k x).ftu = s.ftu := rfl
@[simp] theorem putStream_sched (s k x) : (putStream s k x).sched = s.sched := rfl
@[simp] theorem putStream_ends (s k x) : (putStream s k x).ends = s.ends := rfl
@[simp] theorem putStream_trigCyc (s k x) : (putStream s k x).trigCyc = s.trigCyc := rfl
@[simp] theorem putStream_trigHigh (s k x) : (putStream s k x).trigHigh = s.trigHigh := rfl
@[simp] theorem putStream_bypWin (s k x) : (putStream s k x).bypWin = s.bypWin := rfl
@[simp] theorem putStream_bypStat (s k x) : (putStream s k x).bypStat = s.bypStat := rfl
@[simp] theorem putStream_tiles (s k x) : (putStream s k x).tiles = s.tiles := rfl
@[simp] theorem putStream_tmap (s k x) : (putStream s k x).tmap = s.tmap := rfl
@[simp] theorem putStream_bankUse (s k x) : (putStream s k x).bankUse = s.bankUse := rfl
@[simp] theorem putStream_bankLost (s k x) : (putStream s k x).bankLost = s.bankLost := rfl
@[simp] theorem putStream_ssends (s k x) : (putStream s k x).ssends = s.ssends := rfl
@[simp] theorem putStream_gates (s k x) : (putStream s k x).gates = s.gates := rfl
@[simp] theorem putStream_sessions (s k x) : (putStream s k x).sessions = s.sessions := rfl
@[simp] theorem putStream_copies (s k x) : (putStream s k x).copies = s.copies := rfl
@[simp] theorem putStream_wvGroups (s k x) : (putStream s k x).wvGroups = s.wvGroups := rfl
@[simp] theorem putStream_wvFlits (s k x) : (putStream s k x).wvFlits = s.wvFlits := rfl
@[simp] theorem putStream_wvEpochs (s k x) : (putStream s k x).wvEpochs = s.wvEpochs := rfl
@[simp] theorem putStream_wvTurn (s k x) : (putStream s k x).wvTurn = s.wvTurn := rfl
@[simp] theorem putStream_srRole (s k x) : (putStream s k x).srRole = s.srRole := rfl
@[simp] theorem putStream_audits (s k x) : (putStream s k x).audits = s.audits := rfl
@[simp] theorem putStream_denseSeq (s k x) : (putStream s k x).denseSeq = s.denseSeq := rfl
@[simp] theorem putStream_reports (s k x) : (putStream s k x).reports = s.reports := rfl
@[simp] theorem putStream_repLost (s k x) : (putStream s k x).repLost = s.repLost := rfl
@[simp] theorem putStream_arbs (s k x) : (putStream s k x).arbs = s.arbs := rfl
@[simp] theorem putStream_arbOn (s k x) : (putStream s k x).arbOn = s.arbOn := rfl
@[simp] theorem putStream_flits (s k x) : (putStream s k x).flits = s.flits := rfl
@[simp] theorem putStream_stranded (s k x) : (putStream s k x).stranded = s.stranded := rfl
@[simp] theorem putStream_ports (s k x) : (putStream s k x).ports = s.ports := rfl
@[simp] theorem putStream_buckets (s k x) : (putStream s k x).buckets = s.buckets := rfl
@[simp] theorem putStream_meters (s k x) : (putStream s k x).meters = s.meters := rfl
@[simp] theorem putStream_mem (s k x) : (putStream s k x).mem = s.mem := rfl
@[simp] theorem putStream_badLines (s k x) : (putStream s k x).badLines = s.badLines := rfl
@[simp] theorem putStream_regions (s k x) : (putStream s k x).regions = s.regions := rfl
@[simp] theorem putStream_reserve (s k x) : (putStream s k x).reserve = s.reserve := rfl
@[simp] theorem putStream_era (s k x) : (putStream s k x).era = s.era := rfl
@[simp] theorem putStream_entries (s k x) : (putStream s k x).entries = s.entries := rfl
@[simp] theorem putStream_chans (s k x) : (putStream s k x).chans = s.chans := rfl
@[simp] theorem putStream_memLog (s k x) : (putStream s k x).memLog = s.memLog := rfl
@[simp] theorem putStream_macAt (s k x) : (putStream s k x).macAt = s.macAt := rfl
@[simp] theorem putStream_fill (s k x) : (putStream s k x).fill = s.fill := rfl
@[simp] theorem putStream_parts (s k x) : (putStream s k x).parts = s.parts := rfl
@[simp] theorem putStream_partCmd (s k x) : (putStream s k x).partCmd = s.partCmd := rfl
@[simp] theorem putStream_certLog (s k x) : (putStream s k x).certLog = s.certLog := rfl
@[simp] theorem putStream_rtp (s k x) : (putStream s k x).rtp = s.rtp := rfl
@[simp] theorem putStream_attQueue (s k x) : (putStream s k x).attQueue = s.attQueue := rfl
@[simp] theorem putStream_attSeq (s k x) : (putStream s k x).attSeq = s.attSeq := rfl
@[simp] theorem putStream_kexs (s k x) : (putStream s k x).kexs = s.kexs := rfl
@[simp] theorem putStream_peers (s k x) : (putStream s k x).peers = s.peers := rfl
@[simp] theorem putStream_ownerKeys (s k x) : (putStream s k x).ownerKeys = s.ownerKeys := rfl
@[simp] theorem putStream_gloveIds (s k x) : (putStream s k x).gloveIds = s.gloveIds := rfl
@[simp] theorem putStream_gloveHdrs (s k x) : (putStream s k x).gloveHdrs = s.gloveHdrs := rfl
@[simp] theorem putStream_openings (s k x) : (putStream s k x).openings = s.openings := rfl
@[simp] theorem putStream_secLog (s k x) : (putStream s k x).secLog = s.secLog := rfl
@[simp] theorem putStream_secAt (s k x) : (putStream s k x).secAt = s.secAt := rfl
@[simp] theorem putStream_minSvn (s k x) : (putStream s k x).minSvn = s.minSvn := rfl
@[simp] theorem putStream_entropyOk (s k x) : (putStream s k x).entropyOk = s.entropyOk := rfl
@[simp] theorem putStream_power (s k x) : (putStream s k x).power = s.power := rfl
@[simp] theorem putStream_budgets (s k x) : (putStream s k x).budgets = s.budgets := rfl
@[simp] theorem putStream_allots (s k x) : (putStream s k x).allots = s.allots := rfl
@[simp] theorem putStream_gateHeld (s k x) : (putStream s k x).gateHeld = s.gateHeld := rfl
@[simp] theorem putStream_channels (s k x) : (putStream s k x).channels = s.channels := rfl
@[simp] theorem putStream_obsBucket (s k x) : (putStream s k x).obsBucket = s.obsBucket := rfl
@[simp] theorem putStream_obsCyc (s k x) : (putStream s k x).obsCyc = s.obsCyc := rfl
@[simp] theorem putStream_banks (s k x) : (putStream s k x).banks = s.banks := rfl
@[simp] theorem putStream_mitTile (s k x) : (putStream s k x).mitTile = s.mitTile := rfl
@[simp] theorem putStream_mitRegs (s k x) : (putStream s k x).mitRegs = s.mitRegs := rfl
@[simp] theorem putStream_pcLast (s k x) : (putStream s k x).pcLast = s.pcLast := rfl
@[simp] theorem putStream_mitLast (s k x) : (putStream s k x).mitLast = s.mitLast := rfl
@[simp] theorem putStream_calm (s k x) : (putStream s k x).calm = s.calm := rfl
@[simp] theorem putStream_charge (s k x) : (putStream s k x).charge = s.charge := rfl
@[simp] theorem putStream_swaps (s k x) : (putStream s k x).swaps = s.swaps := rfl
@[simp] theorem putStream_heldStarts (s k x) : (putStream s k x).heldStarts = s.heldStarts := rfl
@[simp] theorem putStream_srSwap (s k x) : (putStream s k x).srSwap = s.srSwap := rfl
@[simp] theorem putStream_frameSwaps (s k x) : (putStream s k x).frameSwaps = s.frameSwaps := rfl
@[simp] theorem putStream_frameSpares (s k x) : (putStream s k x).frameSpares = s.frameSpares := rfl
@[simp] theorem putStream_wearLife (s k x) : (putStream s k x).wearLife = s.wearLife := rfl
@[simp] theorem putStream_wearDay (s k x) : (putStream s k x).wearDay = s.wearDay := rfl
@[simp] theorem putStream_wearDayNo (s k x) : (putStream s k x).wearDayNo = s.wearDayNo := rfl
@[simp] theorem putStream_autoQueue (s k x) : (putStream s k x).autoQueue = s.autoQueue := rfl
@[simp] theorem putStream_retireCyc (s k x) : (putStream s k x).retireCyc = s.retireCyc := rfl
@[simp] theorem putStream_fuseUsed (s k x) : (putStream s k x).fuseUsed = s.fuseUsed := rfl
@[simp] theorem putStream_fuseQueue (s k x) : (putStream s k x).fuseQueue = s.fuseQueue := rfl
@[simp] theorem putStream_fuseFull (s k x) : (putStream s k x).fuseFull = s.fuseFull := rfl
@[simp] theorem putStream_rowsUsed (s k x) : (putStream s k x).rowsUsed = s.rowsUsed := rfl
@[simp] theorem putStream_laneMap (s k x) : (putStream s k x).laneMap = s.laneMap := rfl
@[simp] theorem putStream_ready (s k x) : (putStream s k x).ready = s.ready := rfl
@[simp] theorem putStream_railFell (s k x) : (putStream s k x).railFell = s.railFell := rfl
@[simp] theorem putStream_pgSb (s k x) : (putStream s k x).pgSb = s.pgSb := rfl
@[simp] theorem putStream_broken (s k x) : (putStream s k x).broken = s.broken := rfl

/-! ### `putChan` writes `channels` alone -/

@[simp] theorem putChan_cfg (s k x) : (putChan s k x).cfg = s.cfg := rfl
@[simp] theorem putChan_pending (s k x) : (putChan s k x).pending = s.pending := rfl
@[simp] theorem putChan_cyc (s k x) : (putChan s k x).cyc = s.cyc := rfl
@[simp] theorem putChan_fresh (s k x) : (putChan s k x).fresh = s.fresh := rfl
@[simp] theorem putChan_inForce (s k x) : (putChan s k x).inForce = s.inForce := rfl
@[simp] theorem putChan_regs (s k x) : (putChan s k x).regs = s.regs := rfl
@[simp] theorem putChan_pages (s k x) : (putChan s k x).pages = s.pages := rfl
@[simp] theorem putChan_wins (s k x) : (putChan s k x).wins = s.wins := rfl
@[simp] theorem putChan_mports (s k x) : (putChan s k x).mports = s.mports := rfl
@[simp] theorem putChan_sumSeq (s k x) : (putChan s k x).sumSeq = s.sumSeq := rfl
@[simp] theorem putChan_sumCyc (s k x) : (putChan s k x).sumCyc = s.sumCyc := rfl
@[simp] theorem putChan_ftu (s k x) : (putChan s k x).ftu = s.ftu := rfl
@[simp] theorem putChan_sched (s k x) : (putChan s k x).sched = s.sched := rfl
@[simp] theorem putChan_ends (s k x) : (putChan s k x).ends = s.ends := rfl
@[simp] theorem putChan_trigCyc (s k x) : (putChan s k x).trigCyc = s.trigCyc := rfl
@[simp] theorem putChan_trigHigh (s k x) : (putChan s k x).trigHigh = s.trigHigh := rfl
@[simp] theorem putChan_bypWin (s k x) : (putChan s k x).bypWin = s.bypWin := rfl
@[simp] theorem putChan_bypStat (s k x) : (putChan s k x).bypStat = s.bypStat := rfl
@[simp] theorem putChan_tiles (s k x) : (putChan s k x).tiles = s.tiles := rfl
@[simp] theorem putChan_tmap (s k x) : (putChan s k x).tmap = s.tmap := rfl
@[simp] theorem putChan_bankUse (s k x) : (putChan s k x).bankUse = s.bankUse := rfl
@[simp] theorem putChan_bankLost (s k x) : (putChan s k x).bankLost = s.bankLost := rfl
@[simp] theorem putChan_ssends (s k x) : (putChan s k x).ssends = s.ssends := rfl
@[simp] theorem putChan_gates (s k x) : (putChan s k x).gates = s.gates := rfl
@[simp] theorem putChan_sessions (s k x) : (putChan s k x).sessions = s.sessions := rfl
@[simp] theorem putChan_copies (s k x) : (putChan s k x).copies = s.copies := rfl
@[simp] theorem putChan_wvGroups (s k x) : (putChan s k x).wvGroups = s.wvGroups := rfl
@[simp] theorem putChan_wvFlits (s k x) : (putChan s k x).wvFlits = s.wvFlits := rfl
@[simp] theorem putChan_wvEpochs (s k x) : (putChan s k x).wvEpochs = s.wvEpochs := rfl
@[simp] theorem putChan_wvTurn (s k x) : (putChan s k x).wvTurn = s.wvTurn := rfl
@[simp] theorem putChan_srRole (s k x) : (putChan s k x).srRole = s.srRole := rfl
@[simp] theorem putChan_audits (s k x) : (putChan s k x).audits = s.audits := rfl
@[simp] theorem putChan_denseSeq (s k x) : (putChan s k x).denseSeq = s.denseSeq := rfl
@[simp] theorem putChan_reports (s k x) : (putChan s k x).reports = s.reports := rfl
@[simp] theorem putChan_repLost (s k x) : (putChan s k x).repLost = s.repLost := rfl
@[simp] theorem putChan_arbs (s k x) : (putChan s k x).arbs = s.arbs := rfl
@[simp] theorem putChan_arbOn (s k x) : (putChan s k x).arbOn = s.arbOn := rfl
@[simp] theorem putChan_flits (s k x) : (putChan s k x).flits = s.flits := rfl
@[simp] theorem putChan_stranded (s k x) : (putChan s k x).stranded = s.stranded := rfl
@[simp] theorem putChan_ports (s k x) : (putChan s k x).ports = s.ports := rfl
@[simp] theorem putChan_buckets (s k x) : (putChan s k x).buckets = s.buckets := rfl
@[simp] theorem putChan_meters (s k x) : (putChan s k x).meters = s.meters := rfl
@[simp] theorem putChan_mem (s k x) : (putChan s k x).mem = s.mem := rfl
@[simp] theorem putChan_badLines (s k x) : (putChan s k x).badLines = s.badLines := rfl
@[simp] theorem putChan_regions (s k x) : (putChan s k x).regions = s.regions := rfl
@[simp] theorem putChan_reserve (s k x) : (putChan s k x).reserve = s.reserve := rfl
@[simp] theorem putChan_era (s k x) : (putChan s k x).era = s.era := rfl
@[simp] theorem putChan_entries (s k x) : (putChan s k x).entries = s.entries := rfl
@[simp] theorem putChan_chans (s k x) : (putChan s k x).chans = s.chans := rfl
@[simp] theorem putChan_memLog (s k x) : (putChan s k x).memLog = s.memLog := rfl
@[simp] theorem putChan_macAt (s k x) : (putChan s k x).macAt = s.macAt := rfl
@[simp] theorem putChan_fill (s k x) : (putChan s k x).fill = s.fill := rfl
@[simp] theorem putChan_parts (s k x) : (putChan s k x).parts = s.parts := rfl
@[simp] theorem putChan_partCmd (s k x) : (putChan s k x).partCmd = s.partCmd := rfl
@[simp] theorem putChan_certLog (s k x) : (putChan s k x).certLog = s.certLog := rfl
@[simp] theorem putChan_rtp (s k x) : (putChan s k x).rtp = s.rtp := rfl
@[simp] theorem putChan_attQueue (s k x) : (putChan s k x).attQueue = s.attQueue := rfl
@[simp] theorem putChan_attSeq (s k x) : (putChan s k x).attSeq = s.attSeq := rfl
@[simp] theorem putChan_kexs (s k x) : (putChan s k x).kexs = s.kexs := rfl
@[simp] theorem putChan_peers (s k x) : (putChan s k x).peers = s.peers := rfl
@[simp] theorem putChan_ownerKeys (s k x) : (putChan s k x).ownerKeys = s.ownerKeys := rfl
@[simp] theorem putChan_gloveIds (s k x) : (putChan s k x).gloveIds = s.gloveIds := rfl
@[simp] theorem putChan_gloveHdrs (s k x) : (putChan s k x).gloveHdrs = s.gloveHdrs := rfl
@[simp] theorem putChan_openings (s k x) : (putChan s k x).openings = s.openings := rfl
@[simp] theorem putChan_secLog (s k x) : (putChan s k x).secLog = s.secLog := rfl
@[simp] theorem putChan_secAt (s k x) : (putChan s k x).secAt = s.secAt := rfl
@[simp] theorem putChan_minSvn (s k x) : (putChan s k x).minSvn = s.minSvn := rfl
@[simp] theorem putChan_entropyOk (s k x) : (putChan s k x).entropyOk = s.entropyOk := rfl
@[simp] theorem putChan_power (s k x) : (putChan s k x).power = s.power := rfl
@[simp] theorem putChan_budgets (s k x) : (putChan s k x).budgets = s.budgets := rfl
@[simp] theorem putChan_allots (s k x) : (putChan s k x).allots = s.allots := rfl
@[simp] theorem putChan_gateHeld (s k x) : (putChan s k x).gateHeld = s.gateHeld := rfl
@[simp] theorem putChan_streams (s k x) : (putChan s k x).streams = s.streams := rfl
@[simp] theorem putChan_obsBucket (s k x) : (putChan s k x).obsBucket = s.obsBucket := rfl
@[simp] theorem putChan_obsCyc (s k x) : (putChan s k x).obsCyc = s.obsCyc := rfl
@[simp] theorem putChan_banks (s k x) : (putChan s k x).banks = s.banks := rfl
@[simp] theorem putChan_mitTile (s k x) : (putChan s k x).mitTile = s.mitTile := rfl
@[simp] theorem putChan_mitRegs (s k x) : (putChan s k x).mitRegs = s.mitRegs := rfl
@[simp] theorem putChan_pcLast (s k x) : (putChan s k x).pcLast = s.pcLast := rfl
@[simp] theorem putChan_mitLast (s k x) : (putChan s k x).mitLast = s.mitLast := rfl
@[simp] theorem putChan_calm (s k x) : (putChan s k x).calm = s.calm := rfl
@[simp] theorem putChan_charge (s k x) : (putChan s k x).charge = s.charge := rfl
@[simp] theorem putChan_swaps (s k x) : (putChan s k x).swaps = s.swaps := rfl
@[simp] theorem putChan_heldStarts (s k x) : (putChan s k x).heldStarts = s.heldStarts := rfl
@[simp] theorem putChan_srSwap (s k x) : (putChan s k x).srSwap = s.srSwap := rfl
@[simp] theorem putChan_frameSwaps (s k x) : (putChan s k x).frameSwaps = s.frameSwaps := rfl
@[simp] theorem putChan_frameSpares (s k x) : (putChan s k x).frameSpares = s.frameSpares := rfl
@[simp] theorem putChan_wearLife (s k x) : (putChan s k x).wearLife = s.wearLife := rfl
@[simp] theorem putChan_wearDay (s k x) : (putChan s k x).wearDay = s.wearDay := rfl
@[simp] theorem putChan_wearDayNo (s k x) : (putChan s k x).wearDayNo = s.wearDayNo := rfl
@[simp] theorem putChan_autoQueue (s k x) : (putChan s k x).autoQueue = s.autoQueue := rfl
@[simp] theorem putChan_retireCyc (s k x) : (putChan s k x).retireCyc = s.retireCyc := rfl
@[simp] theorem putChan_fuseUsed (s k x) : (putChan s k x).fuseUsed = s.fuseUsed := rfl
@[simp] theorem putChan_fuseQueue (s k x) : (putChan s k x).fuseQueue = s.fuseQueue := rfl
@[simp] theorem putChan_fuseFull (s k x) : (putChan s k x).fuseFull = s.fuseFull := rfl
@[simp] theorem putChan_rowsUsed (s k x) : (putChan s k x).rowsUsed = s.rowsUsed := rfl
@[simp] theorem putChan_laneMap (s k x) : (putChan s k x).laneMap = s.laneMap := rfl
@[simp] theorem putChan_ready (s k x) : (putChan s k x).ready = s.ready := rfl
@[simp] theorem putChan_railFell (s k x) : (putChan s k x).railFell = s.railFell := rfl
@[simp] theorem putChan_pgSb (s k x) : (putChan s k x).pgSb = s.pgSb := rfl
@[simp] theorem putChan_broken (s k x) : (putChan s k x).broken = s.broken := rfl

/-! ### `putPart` writes `parts` alone -/

@[simp] theorem putPart_cfg (s k x) : (putPart s k x).cfg = s.cfg := rfl
@[simp] theorem putPart_pending (s k x) : (putPart s k x).pending = s.pending := rfl
@[simp] theorem putPart_cyc (s k x) : (putPart s k x).cyc = s.cyc := rfl
@[simp] theorem putPart_fresh (s k x) : (putPart s k x).fresh = s.fresh := rfl
@[simp] theorem putPart_inForce (s k x) : (putPart s k x).inForce = s.inForce := rfl
@[simp] theorem putPart_regs (s k x) : (putPart s k x).regs = s.regs := rfl
@[simp] theorem putPart_pages (s k x) : (putPart s k x).pages = s.pages := rfl
@[simp] theorem putPart_wins (s k x) : (putPart s k x).wins = s.wins := rfl
@[simp] theorem putPart_mports (s k x) : (putPart s k x).mports = s.mports := rfl
@[simp] theorem putPart_sumSeq (s k x) : (putPart s k x).sumSeq = s.sumSeq := rfl
@[simp] theorem putPart_sumCyc (s k x) : (putPart s k x).sumCyc = s.sumCyc := rfl
@[simp] theorem putPart_ftu (s k x) : (putPart s k x).ftu = s.ftu := rfl
@[simp] theorem putPart_sched (s k x) : (putPart s k x).sched = s.sched := rfl
@[simp] theorem putPart_ends (s k x) : (putPart s k x).ends = s.ends := rfl
@[simp] theorem putPart_trigCyc (s k x) : (putPart s k x).trigCyc = s.trigCyc := rfl
@[simp] theorem putPart_trigHigh (s k x) : (putPart s k x).trigHigh = s.trigHigh := rfl
@[simp] theorem putPart_bypWin (s k x) : (putPart s k x).bypWin = s.bypWin := rfl
@[simp] theorem putPart_bypStat (s k x) : (putPart s k x).bypStat = s.bypStat := rfl
@[simp] theorem putPart_tiles (s k x) : (putPart s k x).tiles = s.tiles := rfl
@[simp] theorem putPart_tmap (s k x) : (putPart s k x).tmap = s.tmap := rfl
@[simp] theorem putPart_bankUse (s k x) : (putPart s k x).bankUse = s.bankUse := rfl
@[simp] theorem putPart_bankLost (s k x) : (putPart s k x).bankLost = s.bankLost := rfl
@[simp] theorem putPart_ssends (s k x) : (putPart s k x).ssends = s.ssends := rfl
@[simp] theorem putPart_gates (s k x) : (putPart s k x).gates = s.gates := rfl
@[simp] theorem putPart_sessions (s k x) : (putPart s k x).sessions = s.sessions := rfl
@[simp] theorem putPart_copies (s k x) : (putPart s k x).copies = s.copies := rfl
@[simp] theorem putPart_wvGroups (s k x) : (putPart s k x).wvGroups = s.wvGroups := rfl
@[simp] theorem putPart_wvFlits (s k x) : (putPart s k x).wvFlits = s.wvFlits := rfl
@[simp] theorem putPart_wvEpochs (s k x) : (putPart s k x).wvEpochs = s.wvEpochs := rfl
@[simp] theorem putPart_wvTurn (s k x) : (putPart s k x).wvTurn = s.wvTurn := rfl
@[simp] theorem putPart_srRole (s k x) : (putPart s k x).srRole = s.srRole := rfl
@[simp] theorem putPart_audits (s k x) : (putPart s k x).audits = s.audits := rfl
@[simp] theorem putPart_denseSeq (s k x) : (putPart s k x).denseSeq = s.denseSeq := rfl
@[simp] theorem putPart_reports (s k x) : (putPart s k x).reports = s.reports := rfl
@[simp] theorem putPart_repLost (s k x) : (putPart s k x).repLost = s.repLost := rfl
@[simp] theorem putPart_arbs (s k x) : (putPart s k x).arbs = s.arbs := rfl
@[simp] theorem putPart_arbOn (s k x) : (putPart s k x).arbOn = s.arbOn := rfl
@[simp] theorem putPart_flits (s k x) : (putPart s k x).flits = s.flits := rfl
@[simp] theorem putPart_stranded (s k x) : (putPart s k x).stranded = s.stranded := rfl
@[simp] theorem putPart_ports (s k x) : (putPart s k x).ports = s.ports := rfl
@[simp] theorem putPart_buckets (s k x) : (putPart s k x).buckets = s.buckets := rfl
@[simp] theorem putPart_meters (s k x) : (putPart s k x).meters = s.meters := rfl
@[simp] theorem putPart_mem (s k x) : (putPart s k x).mem = s.mem := rfl
@[simp] theorem putPart_badLines (s k x) : (putPart s k x).badLines = s.badLines := rfl
@[simp] theorem putPart_regions (s k x) : (putPart s k x).regions = s.regions := rfl
@[simp] theorem putPart_reserve (s k x) : (putPart s k x).reserve = s.reserve := rfl
@[simp] theorem putPart_era (s k x) : (putPart s k x).era = s.era := rfl
@[simp] theorem putPart_entries (s k x) : (putPart s k x).entries = s.entries := rfl
@[simp] theorem putPart_chans (s k x) : (putPart s k x).chans = s.chans := rfl
@[simp] theorem putPart_memLog (s k x) : (putPart s k x).memLog = s.memLog := rfl
@[simp] theorem putPart_macAt (s k x) : (putPart s k x).macAt = s.macAt := rfl
@[simp] theorem putPart_fill (s k x) : (putPart s k x).fill = s.fill := rfl
@[simp] theorem putPart_partCmd (s k x) : (putPart s k x).partCmd = s.partCmd := rfl
@[simp] theorem putPart_certLog (s k x) : (putPart s k x).certLog = s.certLog := rfl
@[simp] theorem putPart_rtp (s k x) : (putPart s k x).rtp = s.rtp := rfl
@[simp] theorem putPart_attQueue (s k x) : (putPart s k x).attQueue = s.attQueue := rfl
@[simp] theorem putPart_attSeq (s k x) : (putPart s k x).attSeq = s.attSeq := rfl
@[simp] theorem putPart_kexs (s k x) : (putPart s k x).kexs = s.kexs := rfl
@[simp] theorem putPart_peers (s k x) : (putPart s k x).peers = s.peers := rfl
@[simp] theorem putPart_ownerKeys (s k x) : (putPart s k x).ownerKeys = s.ownerKeys := rfl
@[simp] theorem putPart_gloveIds (s k x) : (putPart s k x).gloveIds = s.gloveIds := rfl
@[simp] theorem putPart_gloveHdrs (s k x) : (putPart s k x).gloveHdrs = s.gloveHdrs := rfl
@[simp] theorem putPart_openings (s k x) : (putPart s k x).openings = s.openings := rfl
@[simp] theorem putPart_secLog (s k x) : (putPart s k x).secLog = s.secLog := rfl
@[simp] theorem putPart_secAt (s k x) : (putPart s k x).secAt = s.secAt := rfl
@[simp] theorem putPart_minSvn (s k x) : (putPart s k x).minSvn = s.minSvn := rfl
@[simp] theorem putPart_entropyOk (s k x) : (putPart s k x).entropyOk = s.entropyOk := rfl
@[simp] theorem putPart_power (s k x) : (putPart s k x).power = s.power := rfl
@[simp] theorem putPart_budgets (s k x) : (putPart s k x).budgets = s.budgets := rfl
@[simp] theorem putPart_allots (s k x) : (putPart s k x).allots = s.allots := rfl
@[simp] theorem putPart_gateHeld (s k x) : (putPart s k x).gateHeld = s.gateHeld := rfl
@[simp] theorem putPart_streams (s k x) : (putPart s k x).streams = s.streams := rfl
@[simp] theorem putPart_channels (s k x) : (putPart s k x).channels = s.channels := rfl
@[simp] theorem putPart_obsBucket (s k x) : (putPart s k x).obsBucket = s.obsBucket := rfl
@[simp] theorem putPart_obsCyc (s k x) : (putPart s k x).obsCyc = s.obsCyc := rfl
@[simp] theorem putPart_banks (s k x) : (putPart s k x).banks = s.banks := rfl
@[simp] theorem putPart_mitTile (s k x) : (putPart s k x).mitTile = s.mitTile := rfl
@[simp] theorem putPart_mitRegs (s k x) : (putPart s k x).mitRegs = s.mitRegs := rfl
@[simp] theorem putPart_pcLast (s k x) : (putPart s k x).pcLast = s.pcLast := rfl
@[simp] theorem putPart_mitLast (s k x) : (putPart s k x).mitLast = s.mitLast := rfl
@[simp] theorem putPart_calm (s k x) : (putPart s k x).calm = s.calm := rfl
@[simp] theorem putPart_charge (s k x) : (putPart s k x).charge = s.charge := rfl
@[simp] theorem putPart_swaps (s k x) : (putPart s k x).swaps = s.swaps := rfl
@[simp] theorem putPart_heldStarts (s k x) : (putPart s k x).heldStarts = s.heldStarts := rfl
@[simp] theorem putPart_srSwap (s k x) : (putPart s k x).srSwap = s.srSwap := rfl
@[simp] theorem putPart_frameSwaps (s k x) : (putPart s k x).frameSwaps = s.frameSwaps := rfl
@[simp] theorem putPart_frameSpares (s k x) : (putPart s k x).frameSpares = s.frameSpares := rfl
@[simp] theorem putPart_wearLife (s k x) : (putPart s k x).wearLife = s.wearLife := rfl
@[simp] theorem putPart_wearDay (s k x) : (putPart s k x).wearDay = s.wearDay := rfl
@[simp] theorem putPart_wearDayNo (s k x) : (putPart s k x).wearDayNo = s.wearDayNo := rfl
@[simp] theorem putPart_autoQueue (s k x) : (putPart s k x).autoQueue = s.autoQueue := rfl
@[simp] theorem putPart_retireCyc (s k x) : (putPart s k x).retireCyc = s.retireCyc := rfl
@[simp] theorem putPart_fuseUsed (s k x) : (putPart s k x).fuseUsed = s.fuseUsed := rfl
@[simp] theorem putPart_fuseQueue (s k x) : (putPart s k x).fuseQueue = s.fuseQueue := rfl
@[simp] theorem putPart_fuseFull (s k x) : (putPart s k x).fuseFull = s.fuseFull := rfl
@[simp] theorem putPart_rowsUsed (s k x) : (putPart s k x).rowsUsed = s.rowsUsed := rfl
@[simp] theorem putPart_laneMap (s k x) : (putPart s k x).laneMap = s.laneMap := rfl
@[simp] theorem putPart_ready (s k x) : (putPart s k x).ready = s.ready := rfl
@[simp] theorem putPart_railFell (s k x) : (putPart s k x).railFell = s.railFell := rfl
@[simp] theorem putPart_pgSb (s k x) : (putPart s k x).pgSb = s.pgSb := rfl
@[simp] theorem putPart_broken (s k x) : (putPart s k x).broken = s.broken := rfl

/-! ### `putRegion` writes `regions` alone, and its mirror -/

@[simp] theorem putRegion_cfg (s k x) : (putRegion s k x).cfg = s.cfg := rfl
@[simp] theorem putRegion_pending (s k x) : (putRegion s k x).pending = s.pending := rfl
@[simp] theorem putRegion_cyc (s k x) : (putRegion s k x).cyc = s.cyc := rfl
@[simp] theorem putRegion_fresh (s k x) : (putRegion s k x).fresh = s.fresh := rfl
@[simp] theorem putRegion_inForce (s k x) : (putRegion s k x).inForce = s.inForce := rfl
@[simp] theorem putRegion_regs (s k x) : (putRegion s k x).regs = s.regs := rfl
@[simp] theorem putRegion_pages (s k x) : (putRegion s k x).pages = s.pages := rfl
@[simp] theorem putRegion_wins (s k x) : (putRegion s k x).wins = s.wins := rfl
@[simp] theorem putRegion_mports (s k x) : (putRegion s k x).mports = s.mports := rfl
@[simp] theorem putRegion_sumSeq (s k x) : (putRegion s k x).sumSeq = s.sumSeq := rfl
@[simp] theorem putRegion_sumCyc (s k x) : (putRegion s k x).sumCyc = s.sumCyc := rfl
@[simp] theorem putRegion_ftu (s k x) : (putRegion s k x).ftu = s.ftu := rfl
@[simp] theorem putRegion_sched (s k x) : (putRegion s k x).sched = s.sched := rfl
@[simp] theorem putRegion_ends (s k x) : (putRegion s k x).ends = s.ends := rfl
@[simp] theorem putRegion_trigCyc (s k x) : (putRegion s k x).trigCyc = s.trigCyc := rfl
@[simp] theorem putRegion_trigHigh (s k x) : (putRegion s k x).trigHigh = s.trigHigh := rfl
@[simp] theorem putRegion_bypWin (s k x) : (putRegion s k x).bypWin = s.bypWin := rfl
@[simp] theorem putRegion_bypStat (s k x) : (putRegion s k x).bypStat = s.bypStat := rfl
@[simp] theorem putRegion_tiles (s k x) : (putRegion s k x).tiles = s.tiles := rfl
@[simp] theorem putRegion_tmap (s k x) : (putRegion s k x).tmap = s.tmap := rfl
@[simp] theorem putRegion_bankUse (s k x) : (putRegion s k x).bankUse = s.bankUse := rfl
@[simp] theorem putRegion_bankLost (s k x) : (putRegion s k x).bankLost = s.bankLost := rfl
@[simp] theorem putRegion_ssends (s k x) : (putRegion s k x).ssends = s.ssends := rfl
@[simp] theorem putRegion_gates (s k x) : (putRegion s k x).gates = s.gates := rfl
@[simp] theorem putRegion_sessions (s k x) : (putRegion s k x).sessions = s.sessions := rfl
@[simp] theorem putRegion_copies (s k x) : (putRegion s k x).copies = s.copies := rfl
@[simp] theorem putRegion_wvGroups (s k x) : (putRegion s k x).wvGroups = s.wvGroups := rfl
@[simp] theorem putRegion_wvFlits (s k x) : (putRegion s k x).wvFlits = s.wvFlits := rfl
@[simp] theorem putRegion_wvEpochs (s k x) : (putRegion s k x).wvEpochs = s.wvEpochs := rfl
@[simp] theorem putRegion_wvTurn (s k x) : (putRegion s k x).wvTurn = s.wvTurn := rfl
@[simp] theorem putRegion_srRole (s k x) : (putRegion s k x).srRole = s.srRole := rfl
@[simp] theorem putRegion_audits (s k x) : (putRegion s k x).audits = s.audits := rfl
@[simp] theorem putRegion_denseSeq (s k x) : (putRegion s k x).denseSeq = s.denseSeq := rfl
@[simp] theorem putRegion_reports (s k x) : (putRegion s k x).reports = s.reports := rfl
@[simp] theorem putRegion_repLost (s k x) : (putRegion s k x).repLost = s.repLost := rfl
@[simp] theorem putRegion_arbs (s k x) : (putRegion s k x).arbs = s.arbs := rfl
@[simp] theorem putRegion_arbOn (s k x) : (putRegion s k x).arbOn = s.arbOn := rfl
@[simp] theorem putRegion_flits (s k x) : (putRegion s k x).flits = s.flits := rfl
@[simp] theorem putRegion_stranded (s k x) : (putRegion s k x).stranded = s.stranded := rfl
@[simp] theorem putRegion_ports (s k x) : (putRegion s k x).ports = s.ports := rfl
@[simp] theorem putRegion_buckets (s k x) : (putRegion s k x).buckets = s.buckets := rfl
@[simp] theorem putRegion_meters (s k x) : (putRegion s k x).meters = s.meters := rfl
@[simp] theorem putRegion_mem (s k x) : (putRegion s k x).mem = s.mem := rfl
@[simp] theorem putRegion_badLines (s k x) : (putRegion s k x).badLines = s.badLines := rfl
@[simp] theorem putRegion_era (s k x) : (putRegion s k x).era = s.era := rfl
@[simp] theorem putRegion_entries (s k x) : (putRegion s k x).entries = s.entries := rfl
@[simp] theorem putRegion_chans (s k x) : (putRegion s k x).chans = s.chans := rfl
@[simp] theorem putRegion_memLog (s k x) : (putRegion s k x).memLog = s.memLog := rfl
@[simp] theorem putRegion_macAt (s k x) : (putRegion s k x).macAt = s.macAt := rfl
@[simp] theorem putRegion_fill (s k x) : (putRegion s k x).fill = s.fill := rfl
@[simp] theorem putRegion_parts (s k x) : (putRegion s k x).parts = s.parts := rfl
@[simp] theorem putRegion_partCmd (s k x) : (putRegion s k x).partCmd = s.partCmd := rfl
@[simp] theorem putRegion_certLog (s k x) : (putRegion s k x).certLog = s.certLog := rfl
@[simp] theorem putRegion_rtp (s k x) : (putRegion s k x).rtp = s.rtp := rfl
@[simp] theorem putRegion_attQueue (s k x) : (putRegion s k x).attQueue = s.attQueue := rfl
@[simp] theorem putRegion_attSeq (s k x) : (putRegion s k x).attSeq = s.attSeq := rfl
@[simp] theorem putRegion_kexs (s k x) : (putRegion s k x).kexs = s.kexs := rfl
@[simp] theorem putRegion_peers (s k x) : (putRegion s k x).peers = s.peers := rfl
@[simp] theorem putRegion_ownerKeys (s k x) : (putRegion s k x).ownerKeys = s.ownerKeys := rfl
@[simp] theorem putRegion_gloveIds (s k x) : (putRegion s k x).gloveIds = s.gloveIds := rfl
@[simp] theorem putRegion_gloveHdrs (s k x) : (putRegion s k x).gloveHdrs = s.gloveHdrs := rfl
@[simp] theorem putRegion_openings (s k x) : (putRegion s k x).openings = s.openings := rfl
@[simp] theorem putRegion_secLog (s k x) : (putRegion s k x).secLog = s.secLog := rfl
@[simp] theorem putRegion_secAt (s k x) : (putRegion s k x).secAt = s.secAt := rfl
@[simp] theorem putRegion_minSvn (s k x) : (putRegion s k x).minSvn = s.minSvn := rfl
@[simp] theorem putRegion_entropyOk (s k x) : (putRegion s k x).entropyOk = s.entropyOk := rfl
@[simp] theorem putRegion_power (s k x) : (putRegion s k x).power = s.power := rfl
@[simp] theorem putRegion_budgets (s k x) : (putRegion s k x).budgets = s.budgets := rfl
@[simp] theorem putRegion_allots (s k x) : (putRegion s k x).allots = s.allots := rfl
@[simp] theorem putRegion_gateHeld (s k x) : (putRegion s k x).gateHeld = s.gateHeld := rfl
@[simp] theorem putRegion_streams (s k x) : (putRegion s k x).streams = s.streams := rfl
@[simp] theorem putRegion_channels (s k x) : (putRegion s k x).channels = s.channels := rfl
@[simp] theorem putRegion_obsBucket (s k x) : (putRegion s k x).obsBucket = s.obsBucket := rfl
@[simp] theorem putRegion_obsCyc (s k x) : (putRegion s k x).obsCyc = s.obsCyc := rfl
@[simp] theorem putRegion_banks (s k x) : (putRegion s k x).banks = s.banks := rfl
@[simp] theorem putRegion_mitTile (s k x) : (putRegion s k x).mitTile = s.mitTile := rfl
@[simp] theorem putRegion_mitRegs (s k x) : (putRegion s k x).mitRegs = s.mitRegs := rfl
@[simp] theorem putRegion_pcLast (s k x) : (putRegion s k x).pcLast = s.pcLast := rfl
@[simp] theorem putRegion_mitLast (s k x) : (putRegion s k x).mitLast = s.mitLast := rfl
@[simp] theorem putRegion_calm (s k x) : (putRegion s k x).calm = s.calm := rfl
@[simp] theorem putRegion_charge (s k x) : (putRegion s k x).charge = s.charge := rfl
@[simp] theorem putRegion_swaps (s k x) : (putRegion s k x).swaps = s.swaps := rfl
@[simp] theorem putRegion_heldStarts (s k x) : (putRegion s k x).heldStarts = s.heldStarts := rfl
@[simp] theorem putRegion_srSwap (s k x) : (putRegion s k x).srSwap = s.srSwap := rfl
@[simp] theorem putRegion_frameSwaps (s k x) : (putRegion s k x).frameSwaps = s.frameSwaps := rfl
@[simp] theorem putRegion_frameSpares (s k x) : (putRegion s k x).frameSpares = s.frameSpares := rfl
@[simp] theorem putRegion_wearLife (s k x) : (putRegion s k x).wearLife = s.wearLife := rfl
@[simp] theorem putRegion_wearDay (s k x) : (putRegion s k x).wearDay = s.wearDay := rfl
@[simp] theorem putRegion_wearDayNo (s k x) : (putRegion s k x).wearDayNo = s.wearDayNo := rfl
@[simp] theorem putRegion_autoQueue (s k x) : (putRegion s k x).autoQueue = s.autoQueue := rfl
@[simp] theorem putRegion_retireCyc (s k x) : (putRegion s k x).retireCyc = s.retireCyc := rfl
@[simp] theorem putRegion_fuseUsed (s k x) : (putRegion s k x).fuseUsed = s.fuseUsed := rfl
@[simp] theorem putRegion_fuseQueue (s k x) : (putRegion s k x).fuseQueue = s.fuseQueue := rfl
@[simp] theorem putRegion_fuseFull (s k x) : (putRegion s k x).fuseFull = s.fuseFull := rfl
@[simp] theorem putRegion_rowsUsed (s k x) : (putRegion s k x).rowsUsed = s.rowsUsed := rfl
@[simp] theorem putRegion_laneMap (s k x) : (putRegion s k x).laneMap = s.laneMap := rfl
@[simp] theorem putRegion_ready (s k x) : (putRegion s k x).ready = s.ready := rfl
@[simp] theorem putRegion_railFell (s k x) : (putRegion s k x).railFell = s.railFell := rfl
@[simp] theorem putRegion_pgSb (s k x) : (putRegion s k x).pgSb = s.pgSb := rfl
@[simp] theorem putRegion_broken (s k x) : (putRegion s k x).broken = s.broken := rfl

/-! ### `putCh` writes `chans` alone -/

@[simp] theorem putCh_cfg (s i k x) : (putCh s i k x).cfg = s.cfg := rfl
@[simp] theorem putCh_pending (s i k x) : (putCh s i k x).pending = s.pending := rfl
@[simp] theorem putCh_cyc (s i k x) : (putCh s i k x).cyc = s.cyc := rfl
@[simp] theorem putCh_fresh (s i k x) : (putCh s i k x).fresh = s.fresh := rfl
@[simp] theorem putCh_inForce (s i k x) : (putCh s i k x).inForce = s.inForce := rfl
@[simp] theorem putCh_regs (s i k x) : (putCh s i k x).regs = s.regs := rfl
@[simp] theorem putCh_pages (s i k x) : (putCh s i k x).pages = s.pages := rfl
@[simp] theorem putCh_wins (s i k x) : (putCh s i k x).wins = s.wins := rfl
@[simp] theorem putCh_mports (s i k x) : (putCh s i k x).mports = s.mports := rfl
@[simp] theorem putCh_sumSeq (s i k x) : (putCh s i k x).sumSeq = s.sumSeq := rfl
@[simp] theorem putCh_sumCyc (s i k x) : (putCh s i k x).sumCyc = s.sumCyc := rfl
@[simp] theorem putCh_ftu (s i k x) : (putCh s i k x).ftu = s.ftu := rfl
@[simp] theorem putCh_sched (s i k x) : (putCh s i k x).sched = s.sched := rfl
@[simp] theorem putCh_ends (s i k x) : (putCh s i k x).ends = s.ends := rfl
@[simp] theorem putCh_trigCyc (s i k x) : (putCh s i k x).trigCyc = s.trigCyc := rfl
@[simp] theorem putCh_trigHigh (s i k x) : (putCh s i k x).trigHigh = s.trigHigh := rfl
@[simp] theorem putCh_bypWin (s i k x) : (putCh s i k x).bypWin = s.bypWin := rfl
@[simp] theorem putCh_bypStat (s i k x) : (putCh s i k x).bypStat = s.bypStat := rfl
@[simp] theorem putCh_tiles (s i k x) : (putCh s i k x).tiles = s.tiles := rfl
@[simp] theorem putCh_tmap (s i k x) : (putCh s i k x).tmap = s.tmap := rfl
@[simp] theorem putCh_bankUse (s i k x) : (putCh s i k x).bankUse = s.bankUse := rfl
@[simp] theorem putCh_bankLost (s i k x) : (putCh s i k x).bankLost = s.bankLost := rfl
@[simp] theorem putCh_ssends (s i k x) : (putCh s i k x).ssends = s.ssends := rfl
@[simp] theorem putCh_gates (s i k x) : (putCh s i k x).gates = s.gates := rfl
@[simp] theorem putCh_sessions (s i k x) : (putCh s i k x).sessions = s.sessions := rfl
@[simp] theorem putCh_copies (s i k x) : (putCh s i k x).copies = s.copies := rfl
@[simp] theorem putCh_wvGroups (s i k x) : (putCh s i k x).wvGroups = s.wvGroups := rfl
@[simp] theorem putCh_wvFlits (s i k x) : (putCh s i k x).wvFlits = s.wvFlits := rfl
@[simp] theorem putCh_wvEpochs (s i k x) : (putCh s i k x).wvEpochs = s.wvEpochs := rfl
@[simp] theorem putCh_wvTurn (s i k x) : (putCh s i k x).wvTurn = s.wvTurn := rfl
@[simp] theorem putCh_srRole (s i k x) : (putCh s i k x).srRole = s.srRole := rfl
@[simp] theorem putCh_audits (s i k x) : (putCh s i k x).audits = s.audits := rfl
@[simp] theorem putCh_denseSeq (s i k x) : (putCh s i k x).denseSeq = s.denseSeq := rfl
@[simp] theorem putCh_reports (s i k x) : (putCh s i k x).reports = s.reports := rfl
@[simp] theorem putCh_repLost (s i k x) : (putCh s i k x).repLost = s.repLost := rfl
@[simp] theorem putCh_arbs (s i k x) : (putCh s i k x).arbs = s.arbs := rfl
@[simp] theorem putCh_arbOn (s i k x) : (putCh s i k x).arbOn = s.arbOn := rfl
@[simp] theorem putCh_flits (s i k x) : (putCh s i k x).flits = s.flits := rfl
@[simp] theorem putCh_stranded (s i k x) : (putCh s i k x).stranded = s.stranded := rfl
@[simp] theorem putCh_ports (s i k x) : (putCh s i k x).ports = s.ports := rfl
@[simp] theorem putCh_buckets (s i k x) : (putCh s i k x).buckets = s.buckets := rfl
@[simp] theorem putCh_meters (s i k x) : (putCh s i k x).meters = s.meters := rfl
@[simp] theorem putCh_mem (s i k x) : (putCh s i k x).mem = s.mem := rfl
@[simp] theorem putCh_badLines (s i k x) : (putCh s i k x).badLines = s.badLines := rfl
@[simp] theorem putCh_regions (s i k x) : (putCh s i k x).regions = s.regions := rfl
@[simp] theorem putCh_reserve (s i k x) : (putCh s i k x).reserve = s.reserve := rfl
@[simp] theorem putCh_era (s i k x) : (putCh s i k x).era = s.era := rfl
@[simp] theorem putCh_entries (s i k x) : (putCh s i k x).entries = s.entries := rfl
@[simp] theorem putCh_memLog (s i k x) : (putCh s i k x).memLog = s.memLog := rfl
@[simp] theorem putCh_macAt (s i k x) : (putCh s i k x).macAt = s.macAt := rfl
@[simp] theorem putCh_fill (s i k x) : (putCh s i k x).fill = s.fill := rfl
@[simp] theorem putCh_parts (s i k x) : (putCh s i k x).parts = s.parts := rfl
@[simp] theorem putCh_partCmd (s i k x) : (putCh s i k x).partCmd = s.partCmd := rfl
@[simp] theorem putCh_certLog (s i k x) : (putCh s i k x).certLog = s.certLog := rfl
@[simp] theorem putCh_rtp (s i k x) : (putCh s i k x).rtp = s.rtp := rfl
@[simp] theorem putCh_attQueue (s i k x) : (putCh s i k x).attQueue = s.attQueue := rfl
@[simp] theorem putCh_attSeq (s i k x) : (putCh s i k x).attSeq = s.attSeq := rfl
@[simp] theorem putCh_kexs (s i k x) : (putCh s i k x).kexs = s.kexs := rfl
@[simp] theorem putCh_peers (s i k x) : (putCh s i k x).peers = s.peers := rfl
@[simp] theorem putCh_ownerKeys (s i k x) : (putCh s i k x).ownerKeys = s.ownerKeys := rfl
@[simp] theorem putCh_gloveIds (s i k x) : (putCh s i k x).gloveIds = s.gloveIds := rfl
@[simp] theorem putCh_gloveHdrs (s i k x) : (putCh s i k x).gloveHdrs = s.gloveHdrs := rfl
@[simp] theorem putCh_openings (s i k x) : (putCh s i k x).openings = s.openings := rfl
@[simp] theorem putCh_secLog (s i k x) : (putCh s i k x).secLog = s.secLog := rfl
@[simp] theorem putCh_secAt (s i k x) : (putCh s i k x).secAt = s.secAt := rfl
@[simp] theorem putCh_minSvn (s i k x) : (putCh s i k x).minSvn = s.minSvn := rfl
@[simp] theorem putCh_entropyOk (s i k x) : (putCh s i k x).entropyOk = s.entropyOk := rfl
@[simp] theorem putCh_power (s i k x) : (putCh s i k x).power = s.power := rfl
@[simp] theorem putCh_budgets (s i k x) : (putCh s i k x).budgets = s.budgets := rfl
@[simp] theorem putCh_allots (s i k x) : (putCh s i k x).allots = s.allots := rfl
@[simp] theorem putCh_gateHeld (s i k x) : (putCh s i k x).gateHeld = s.gateHeld := rfl
@[simp] theorem putCh_streams (s i k x) : (putCh s i k x).streams = s.streams := rfl
@[simp] theorem putCh_channels (s i k x) : (putCh s i k x).channels = s.channels := rfl
@[simp] theorem putCh_obsBucket (s i k x) : (putCh s i k x).obsBucket = s.obsBucket := rfl
@[simp] theorem putCh_obsCyc (s i k x) : (putCh s i k x).obsCyc = s.obsCyc := rfl
@[simp] theorem putCh_banks (s i k x) : (putCh s i k x).banks = s.banks := rfl
@[simp] theorem putCh_mitTile (s i k x) : (putCh s i k x).mitTile = s.mitTile := rfl
@[simp] theorem putCh_mitRegs (s i k x) : (putCh s i k x).mitRegs = s.mitRegs := rfl
@[simp] theorem putCh_pcLast (s i k x) : (putCh s i k x).pcLast = s.pcLast := rfl
@[simp] theorem putCh_mitLast (s i k x) : (putCh s i k x).mitLast = s.mitLast := rfl
@[simp] theorem putCh_calm (s i k x) : (putCh s i k x).calm = s.calm := rfl
@[simp] theorem putCh_charge (s i k x) : (putCh s i k x).charge = s.charge := rfl
@[simp] theorem putCh_swaps (s i k x) : (putCh s i k x).swaps = s.swaps := rfl
@[simp] theorem putCh_heldStarts (s i k x) : (putCh s i k x).heldStarts = s.heldStarts := rfl
@[simp] theorem putCh_srSwap (s i k x) : (putCh s i k x).srSwap = s.srSwap := rfl
@[simp] theorem putCh_frameSwaps (s i k x) : (putCh s i k x).frameSwaps = s.frameSwaps := rfl
@[simp] theorem putCh_frameSpares (s i k x) : (putCh s i k x).frameSpares = s.frameSpares := rfl
@[simp] theorem putCh_wearLife (s i k x) : (putCh s i k x).wearLife = s.wearLife := rfl
@[simp] theorem putCh_wearDay (s i k x) : (putCh s i k x).wearDay = s.wearDay := rfl
@[simp] theorem putCh_wearDayNo (s i k x) : (putCh s i k x).wearDayNo = s.wearDayNo := rfl
@[simp] theorem putCh_autoQueue (s i k x) : (putCh s i k x).autoQueue = s.autoQueue := rfl
@[simp] theorem putCh_retireCyc (s i k x) : (putCh s i k x).retireCyc = s.retireCyc := rfl
@[simp] theorem putCh_fuseUsed (s i k x) : (putCh s i k x).fuseUsed = s.fuseUsed := rfl
@[simp] theorem putCh_fuseQueue (s i k x) : (putCh s i k x).fuseQueue = s.fuseQueue := rfl
@[simp] theorem putCh_fuseFull (s i k x) : (putCh s i k x).fuseFull = s.fuseFull := rfl
@[simp] theorem putCh_rowsUsed (s i k x) : (putCh s i k x).rowsUsed = s.rowsUsed := rfl
@[simp] theorem putCh_laneMap (s i k x) : (putCh s i k x).laneMap = s.laneMap := rfl
@[simp] theorem putCh_ready (s i k x) : (putCh s i k x).ready = s.ready := rfl
@[simp] theorem putCh_railFell (s i k x) : (putCh s i k x).railFell = s.railFell := rfl
@[simp] theorem putCh_pgSb (s i k x) : (putCh s i k x).pgSb = s.pgSb := rfl
@[simp] theorem putCh_broken (s i k x) : (putCh s i k x).broken = s.broken := rfl

/-! ### `putEntries` writes `entries` alone -/

@[simp] theorem putEntries_cfg (s i k x) : (putEntries s i k x).cfg = s.cfg := rfl
@[simp] theorem putEntries_pending (s i k x) : (putEntries s i k x).pending = s.pending := rfl
@[simp] theorem putEntries_cyc (s i k x) : (putEntries s i k x).cyc = s.cyc := rfl
@[simp] theorem putEntries_fresh (s i k x) : (putEntries s i k x).fresh = s.fresh := rfl
@[simp] theorem putEntries_inForce (s i k x) : (putEntries s i k x).inForce = s.inForce := rfl
@[simp] theorem putEntries_regs (s i k x) : (putEntries s i k x).regs = s.regs := rfl
@[simp] theorem putEntries_pages (s i k x) : (putEntries s i k x).pages = s.pages := rfl
@[simp] theorem putEntries_wins (s i k x) : (putEntries s i k x).wins = s.wins := rfl
@[simp] theorem putEntries_mports (s i k x) : (putEntries s i k x).mports = s.mports := rfl
@[simp] theorem putEntries_sumSeq (s i k x) : (putEntries s i k x).sumSeq = s.sumSeq := rfl
@[simp] theorem putEntries_sumCyc (s i k x) : (putEntries s i k x).sumCyc = s.sumCyc := rfl
@[simp] theorem putEntries_ftu (s i k x) : (putEntries s i k x).ftu = s.ftu := rfl
@[simp] theorem putEntries_sched (s i k x) : (putEntries s i k x).sched = s.sched := rfl
@[simp] theorem putEntries_ends (s i k x) : (putEntries s i k x).ends = s.ends := rfl
@[simp] theorem putEntries_trigCyc (s i k x) : (putEntries s i k x).trigCyc = s.trigCyc := rfl
@[simp] theorem putEntries_trigHigh (s i k x) : (putEntries s i k x).trigHigh = s.trigHigh := rfl
@[simp] theorem putEntries_bypWin (s i k x) : (putEntries s i k x).bypWin = s.bypWin := rfl
@[simp] theorem putEntries_bypStat (s i k x) : (putEntries s i k x).bypStat = s.bypStat := rfl
@[simp] theorem putEntries_tiles (s i k x) : (putEntries s i k x).tiles = s.tiles := rfl
@[simp] theorem putEntries_tmap (s i k x) : (putEntries s i k x).tmap = s.tmap := rfl
@[simp] theorem putEntries_bankUse (s i k x) : (putEntries s i k x).bankUse = s.bankUse := rfl
@[simp] theorem putEntries_bankLost (s i k x) : (putEntries s i k x).bankLost = s.bankLost := rfl
@[simp] theorem putEntries_ssends (s i k x) : (putEntries s i k x).ssends = s.ssends := rfl
@[simp] theorem putEntries_gates (s i k x) : (putEntries s i k x).gates = s.gates := rfl
@[simp] theorem putEntries_sessions (s i k x) : (putEntries s i k x).sessions = s.sessions := rfl
@[simp] theorem putEntries_copies (s i k x) : (putEntries s i k x).copies = s.copies := rfl
@[simp] theorem putEntries_wvGroups (s i k x) : (putEntries s i k x).wvGroups = s.wvGroups := rfl
@[simp] theorem putEntries_wvFlits (s i k x) : (putEntries s i k x).wvFlits = s.wvFlits := rfl
@[simp] theorem putEntries_wvEpochs (s i k x) : (putEntries s i k x).wvEpochs = s.wvEpochs := rfl
@[simp] theorem putEntries_wvTurn (s i k x) : (putEntries s i k x).wvTurn = s.wvTurn := rfl
@[simp] theorem putEntries_srRole (s i k x) : (putEntries s i k x).srRole = s.srRole := rfl
@[simp] theorem putEntries_audits (s i k x) : (putEntries s i k x).audits = s.audits := rfl
@[simp] theorem putEntries_denseSeq (s i k x) : (putEntries s i k x).denseSeq = s.denseSeq := rfl
@[simp] theorem putEntries_reports (s i k x) : (putEntries s i k x).reports = s.reports := rfl
@[simp] theorem putEntries_repLost (s i k x) : (putEntries s i k x).repLost = s.repLost := rfl
@[simp] theorem putEntries_arbs (s i k x) : (putEntries s i k x).arbs = s.arbs := rfl
@[simp] theorem putEntries_arbOn (s i k x) : (putEntries s i k x).arbOn = s.arbOn := rfl
@[simp] theorem putEntries_flits (s i k x) : (putEntries s i k x).flits = s.flits := rfl
@[simp] theorem putEntries_stranded (s i k x) : (putEntries s i k x).stranded = s.stranded := rfl
@[simp] theorem putEntries_ports (s i k x) : (putEntries s i k x).ports = s.ports := rfl
@[simp] theorem putEntries_buckets (s i k x) : (putEntries s i k x).buckets = s.buckets := rfl
@[simp] theorem putEntries_meters (s i k x) : (putEntries s i k x).meters = s.meters := rfl
@[simp] theorem putEntries_mem (s i k x) : (putEntries s i k x).mem = s.mem := rfl
@[simp] theorem putEntries_badLines (s i k x) : (putEntries s i k x).badLines = s.badLines := rfl
@[simp] theorem putEntries_regions (s i k x) : (putEntries s i k x).regions = s.regions := rfl
@[simp] theorem putEntries_reserve (s i k x) : (putEntries s i k x).reserve = s.reserve := rfl
@[simp] theorem putEntries_era (s i k x) : (putEntries s i k x).era = s.era := rfl
@[simp] theorem putEntries_chans (s i k x) : (putEntries s i k x).chans = s.chans := rfl
@[simp] theorem putEntries_memLog (s i k x) : (putEntries s i k x).memLog = s.memLog := rfl
@[simp] theorem putEntries_macAt (s i k x) : (putEntries s i k x).macAt = s.macAt := rfl
@[simp] theorem putEntries_fill (s i k x) : (putEntries s i k x).fill = s.fill := rfl
@[simp] theorem putEntries_parts (s i k x) : (putEntries s i k x).parts = s.parts := rfl
@[simp] theorem putEntries_partCmd (s i k x) : (putEntries s i k x).partCmd = s.partCmd := rfl
@[simp] theorem putEntries_certLog (s i k x) : (putEntries s i k x).certLog = s.certLog := rfl
@[simp] theorem putEntries_rtp (s i k x) : (putEntries s i k x).rtp = s.rtp := rfl
@[simp] theorem putEntries_attQueue (s i k x) : (putEntries s i k x).attQueue = s.attQueue := rfl
@[simp] theorem putEntries_attSeq (s i k x) : (putEntries s i k x).attSeq = s.attSeq := rfl
@[simp] theorem putEntries_kexs (s i k x) : (putEntries s i k x).kexs = s.kexs := rfl
@[simp] theorem putEntries_peers (s i k x) : (putEntries s i k x).peers = s.peers := rfl
@[simp] theorem putEntries_ownerKeys (s i k x) : (putEntries s i k x).ownerKeys = s.ownerKeys := rfl
@[simp] theorem putEntries_gloveIds (s i k x) : (putEntries s i k x).gloveIds = s.gloveIds := rfl
@[simp] theorem putEntries_gloveHdrs (s i k x) : (putEntries s i k x).gloveHdrs = s.gloveHdrs := rfl
@[simp] theorem putEntries_openings (s i k x) : (putEntries s i k x).openings = s.openings := rfl
@[simp] theorem putEntries_secLog (s i k x) : (putEntries s i k x).secLog = s.secLog := rfl
@[simp] theorem putEntries_secAt (s i k x) : (putEntries s i k x).secAt = s.secAt := rfl
@[simp] theorem putEntries_minSvn (s i k x) : (putEntries s i k x).minSvn = s.minSvn := rfl
@[simp] theorem putEntries_entropyOk (s i k x) : (putEntries s i k x).entropyOk = s.entropyOk := rfl
@[simp] theorem putEntries_power (s i k x) : (putEntries s i k x).power = s.power := rfl
@[simp] theorem putEntries_budgets (s i k x) : (putEntries s i k x).budgets = s.budgets := rfl
@[simp] theorem putEntries_allots (s i k x) : (putEntries s i k x).allots = s.allots := rfl
@[simp] theorem putEntries_gateHeld (s i k x) : (putEntries s i k x).gateHeld = s.gateHeld := rfl
@[simp] theorem putEntries_streams (s i k x) : (putEntries s i k x).streams = s.streams := rfl
@[simp] theorem putEntries_channels (s i k x) : (putEntries s i k x).channels = s.channels := rfl
@[simp] theorem putEntries_obsBucket (s i k x) : (putEntries s i k x).obsBucket = s.obsBucket := rfl
@[simp] theorem putEntries_obsCyc (s i k x) : (putEntries s i k x).obsCyc = s.obsCyc := rfl
@[simp] theorem putEntries_banks (s i k x) : (putEntries s i k x).banks = s.banks := rfl
@[simp] theorem putEntries_mitTile (s i k x) : (putEntries s i k x).mitTile = s.mitTile := rfl
@[simp] theorem putEntries_mitRegs (s i k x) : (putEntries s i k x).mitRegs = s.mitRegs := rfl
@[simp] theorem putEntries_pcLast (s i k x) : (putEntries s i k x).pcLast = s.pcLast := rfl
@[simp] theorem putEntries_mitLast (s i k x) : (putEntries s i k x).mitLast = s.mitLast := rfl
@[simp] theorem putEntries_calm (s i k x) : (putEntries s i k x).calm = s.calm := rfl
@[simp] theorem putEntries_charge (s i k x) : (putEntries s i k x).charge = s.charge := rfl
@[simp] theorem putEntries_swaps (s i k x) : (putEntries s i k x).swaps = s.swaps := rfl
@[simp] theorem putEntries_heldStarts (s i k x) : (putEntries s i k x).heldStarts = s.heldStarts := rfl
@[simp] theorem putEntries_srSwap (s i k x) : (putEntries s i k x).srSwap = s.srSwap := rfl
@[simp] theorem putEntries_frameSwaps (s i k x) : (putEntries s i k x).frameSwaps = s.frameSwaps := rfl
@[simp] theorem putEntries_frameSpares (s i k x) : (putEntries s i k x).frameSpares = s.frameSpares := rfl
@[simp] theorem putEntries_wearLife (s i k x) : (putEntries s i k x).wearLife = s.wearLife := rfl
@[simp] theorem putEntries_wearDay (s i k x) : (putEntries s i k x).wearDay = s.wearDay := rfl
@[simp] theorem putEntries_wearDayNo (s i k x) : (putEntries s i k x).wearDayNo = s.wearDayNo := rfl
@[simp] theorem putEntries_autoQueue (s i k x) : (putEntries s i k x).autoQueue = s.autoQueue := rfl
@[simp] theorem putEntries_retireCyc (s i k x) : (putEntries s i k x).retireCyc = s.retireCyc := rfl
@[simp] theorem putEntries_fuseUsed (s i k x) : (putEntries s i k x).fuseUsed = s.fuseUsed := rfl
@[simp] theorem putEntries_fuseQueue (s i k x) : (putEntries s i k x).fuseQueue = s.fuseQueue := rfl
@[simp] theorem putEntries_fuseFull (s i k x) : (putEntries s i k x).fuseFull = s.fuseFull := rfl
@[simp] theorem putEntries_rowsUsed (s i k x) : (putEntries s i k x).rowsUsed = s.rowsUsed := rfl
@[simp] theorem putEntries_laneMap (s i k x) : (putEntries s i k x).laneMap = s.laneMap := rfl
@[simp] theorem putEntries_ready (s i k x) : (putEntries s i k x).ready = s.ready := rfl
@[simp] theorem putEntries_railFell (s i k x) : (putEntries s i k x).railFell = s.railFell := rfl
@[simp] theorem putEntries_pgSb (s i k x) : (putEntries s i k x).pgSb = s.pgSb := rfl
@[simp] theorem putEntries_broken (s i k x) : (putEntries s i k x).broken = s.broken := rfl

/-! ### `putPort` writes `ports` alone -/

@[simp] theorem putPort_cfg (s k x) : (putPort s k x).cfg = s.cfg := rfl
@[simp] theorem putPort_pending (s k x) : (putPort s k x).pending = s.pending := rfl
@[simp] theorem putPort_cyc (s k x) : (putPort s k x).cyc = s.cyc := rfl
@[simp] theorem putPort_fresh (s k x) : (putPort s k x).fresh = s.fresh := rfl
@[simp] theorem putPort_inForce (s k x) : (putPort s k x).inForce = s.inForce := rfl
@[simp] theorem putPort_regs (s k x) : (putPort s k x).regs = s.regs := rfl
@[simp] theorem putPort_pages (s k x) : (putPort s k x).pages = s.pages := rfl
@[simp] theorem putPort_wins (s k x) : (putPort s k x).wins = s.wins := rfl
@[simp] theorem putPort_mports (s k x) : (putPort s k x).mports = s.mports := rfl
@[simp] theorem putPort_sumSeq (s k x) : (putPort s k x).sumSeq = s.sumSeq := rfl
@[simp] theorem putPort_sumCyc (s k x) : (putPort s k x).sumCyc = s.sumCyc := rfl
@[simp] theorem putPort_ftu (s k x) : (putPort s k x).ftu = s.ftu := rfl
@[simp] theorem putPort_sched (s k x) : (putPort s k x).sched = s.sched := rfl
@[simp] theorem putPort_ends (s k x) : (putPort s k x).ends = s.ends := rfl
@[simp] theorem putPort_trigCyc (s k x) : (putPort s k x).trigCyc = s.trigCyc := rfl
@[simp] theorem putPort_trigHigh (s k x) : (putPort s k x).trigHigh = s.trigHigh := rfl
@[simp] theorem putPort_bypWin (s k x) : (putPort s k x).bypWin = s.bypWin := rfl
@[simp] theorem putPort_bypStat (s k x) : (putPort s k x).bypStat = s.bypStat := rfl
@[simp] theorem putPort_tiles (s k x) : (putPort s k x).tiles = s.tiles := rfl
@[simp] theorem putPort_tmap (s k x) : (putPort s k x).tmap = s.tmap := rfl
@[simp] theorem putPort_bankUse (s k x) : (putPort s k x).bankUse = s.bankUse := rfl
@[simp] theorem putPort_bankLost (s k x) : (putPort s k x).bankLost = s.bankLost := rfl
@[simp] theorem putPort_ssends (s k x) : (putPort s k x).ssends = s.ssends := rfl
@[simp] theorem putPort_gates (s k x) : (putPort s k x).gates = s.gates := rfl
@[simp] theorem putPort_sessions (s k x) : (putPort s k x).sessions = s.sessions := rfl
@[simp] theorem putPort_copies (s k x) : (putPort s k x).copies = s.copies := rfl
@[simp] theorem putPort_wvGroups (s k x) : (putPort s k x).wvGroups = s.wvGroups := rfl
@[simp] theorem putPort_wvFlits (s k x) : (putPort s k x).wvFlits = s.wvFlits := rfl
@[simp] theorem putPort_wvEpochs (s k x) : (putPort s k x).wvEpochs = s.wvEpochs := rfl
@[simp] theorem putPort_wvTurn (s k x) : (putPort s k x).wvTurn = s.wvTurn := rfl
@[simp] theorem putPort_srRole (s k x) : (putPort s k x).srRole = s.srRole := rfl
@[simp] theorem putPort_audits (s k x) : (putPort s k x).audits = s.audits := rfl
@[simp] theorem putPort_denseSeq (s k x) : (putPort s k x).denseSeq = s.denseSeq := rfl
@[simp] theorem putPort_reports (s k x) : (putPort s k x).reports = s.reports := rfl
@[simp] theorem putPort_repLost (s k x) : (putPort s k x).repLost = s.repLost := rfl
@[simp] theorem putPort_arbs (s k x) : (putPort s k x).arbs = s.arbs := rfl
@[simp] theorem putPort_arbOn (s k x) : (putPort s k x).arbOn = s.arbOn := rfl
@[simp] theorem putPort_flits (s k x) : (putPort s k x).flits = s.flits := rfl
@[simp] theorem putPort_stranded (s k x) : (putPort s k x).stranded = s.stranded := rfl
@[simp] theorem putPort_buckets (s k x) : (putPort s k x).buckets = s.buckets := rfl
@[simp] theorem putPort_meters (s k x) : (putPort s k x).meters = s.meters := rfl
@[simp] theorem putPort_mem (s k x) : (putPort s k x).mem = s.mem := rfl
@[simp] theorem putPort_badLines (s k x) : (putPort s k x).badLines = s.badLines := rfl
@[simp] theorem putPort_regions (s k x) : (putPort s k x).regions = s.regions := rfl
@[simp] theorem putPort_reserve (s k x) : (putPort s k x).reserve = s.reserve := rfl
@[simp] theorem putPort_era (s k x) : (putPort s k x).era = s.era := rfl
@[simp] theorem putPort_entries (s k x) : (putPort s k x).entries = s.entries := rfl
@[simp] theorem putPort_chans (s k x) : (putPort s k x).chans = s.chans := rfl
@[simp] theorem putPort_memLog (s k x) : (putPort s k x).memLog = s.memLog := rfl
@[simp] theorem putPort_macAt (s k x) : (putPort s k x).macAt = s.macAt := rfl
@[simp] theorem putPort_fill (s k x) : (putPort s k x).fill = s.fill := rfl
@[simp] theorem putPort_parts (s k x) : (putPort s k x).parts = s.parts := rfl
@[simp] theorem putPort_partCmd (s k x) : (putPort s k x).partCmd = s.partCmd := rfl
@[simp] theorem putPort_certLog (s k x) : (putPort s k x).certLog = s.certLog := rfl
@[simp] theorem putPort_rtp (s k x) : (putPort s k x).rtp = s.rtp := rfl
@[simp] theorem putPort_attQueue (s k x) : (putPort s k x).attQueue = s.attQueue := rfl
@[simp] theorem putPort_attSeq (s k x) : (putPort s k x).attSeq = s.attSeq := rfl
@[simp] theorem putPort_kexs (s k x) : (putPort s k x).kexs = s.kexs := rfl
@[simp] theorem putPort_peers (s k x) : (putPort s k x).peers = s.peers := rfl
@[simp] theorem putPort_ownerKeys (s k x) : (putPort s k x).ownerKeys = s.ownerKeys := rfl
@[simp] theorem putPort_gloveIds (s k x) : (putPort s k x).gloveIds = s.gloveIds := rfl
@[simp] theorem putPort_gloveHdrs (s k x) : (putPort s k x).gloveHdrs = s.gloveHdrs := rfl
@[simp] theorem putPort_openings (s k x) : (putPort s k x).openings = s.openings := rfl
@[simp] theorem putPort_secLog (s k x) : (putPort s k x).secLog = s.secLog := rfl
@[simp] theorem putPort_secAt (s k x) : (putPort s k x).secAt = s.secAt := rfl
@[simp] theorem putPort_minSvn (s k x) : (putPort s k x).minSvn = s.minSvn := rfl
@[simp] theorem putPort_entropyOk (s k x) : (putPort s k x).entropyOk = s.entropyOk := rfl
@[simp] theorem putPort_power (s k x) : (putPort s k x).power = s.power := rfl
@[simp] theorem putPort_budgets (s k x) : (putPort s k x).budgets = s.budgets := rfl
@[simp] theorem putPort_allots (s k x) : (putPort s k x).allots = s.allots := rfl
@[simp] theorem putPort_gateHeld (s k x) : (putPort s k x).gateHeld = s.gateHeld := rfl
@[simp] theorem putPort_streams (s k x) : (putPort s k x).streams = s.streams := rfl
@[simp] theorem putPort_channels (s k x) : (putPort s k x).channels = s.channels := rfl
@[simp] theorem putPort_obsBucket (s k x) : (putPort s k x).obsBucket = s.obsBucket := rfl
@[simp] theorem putPort_obsCyc (s k x) : (putPort s k x).obsCyc = s.obsCyc := rfl
@[simp] theorem putPort_banks (s k x) : (putPort s k x).banks = s.banks := rfl
@[simp] theorem putPort_mitTile (s k x) : (putPort s k x).mitTile = s.mitTile := rfl
@[simp] theorem putPort_mitRegs (s k x) : (putPort s k x).mitRegs = s.mitRegs := rfl
@[simp] theorem putPort_pcLast (s k x) : (putPort s k x).pcLast = s.pcLast := rfl
@[simp] theorem putPort_mitLast (s k x) : (putPort s k x).mitLast = s.mitLast := rfl
@[simp] theorem putPort_calm (s k x) : (putPort s k x).calm = s.calm := rfl
@[simp] theorem putPort_charge (s k x) : (putPort s k x).charge = s.charge := rfl
@[simp] theorem putPort_swaps (s k x) : (putPort s k x).swaps = s.swaps := rfl
@[simp] theorem putPort_heldStarts (s k x) : (putPort s k x).heldStarts = s.heldStarts := rfl
@[simp] theorem putPort_srSwap (s k x) : (putPort s k x).srSwap = s.srSwap := rfl
@[simp] theorem putPort_frameSwaps (s k x) : (putPort s k x).frameSwaps = s.frameSwaps := rfl
@[simp] theorem putPort_frameSpares (s k x) : (putPort s k x).frameSpares = s.frameSpares := rfl
@[simp] theorem putPort_wearLife (s k x) : (putPort s k x).wearLife = s.wearLife := rfl
@[simp] theorem putPort_wearDay (s k x) : (putPort s k x).wearDay = s.wearDay := rfl
@[simp] theorem putPort_wearDayNo (s k x) : (putPort s k x).wearDayNo = s.wearDayNo := rfl
@[simp] theorem putPort_autoQueue (s k x) : (putPort s k x).autoQueue = s.autoQueue := rfl
@[simp] theorem putPort_retireCyc (s k x) : (putPort s k x).retireCyc = s.retireCyc := rfl
@[simp] theorem putPort_fuseUsed (s k x) : (putPort s k x).fuseUsed = s.fuseUsed := rfl
@[simp] theorem putPort_fuseQueue (s k x) : (putPort s k x).fuseQueue = s.fuseQueue := rfl
@[simp] theorem putPort_fuseFull (s k x) : (putPort s k x).fuseFull = s.fuseFull := rfl
@[simp] theorem putPort_rowsUsed (s k x) : (putPort s k x).rowsUsed = s.rowsUsed := rfl
@[simp] theorem putPort_laneMap (s k x) : (putPort s k x).laneMap = s.laneMap := rfl
@[simp] theorem putPort_ready (s k x) : (putPort s k x).ready = s.ready := rfl
@[simp] theorem putPort_railFell (s k x) : (putPort s k x).railFell = s.railFell := rfl
@[simp] theorem putPort_pgSb (s k x) : (putPort s k x).pgSb = s.pgSb := rfl
@[simp] theorem putPort_broken (s k x) : (putPort s k x).broken = s.broken := rfl

/-! ### `putBucket` writes `buckets` alone -/

@[simp] theorem putBucket_cfg (s k x) : (putBucket s k x).cfg = s.cfg := rfl
@[simp] theorem putBucket_pending (s k x) : (putBucket s k x).pending = s.pending := rfl
@[simp] theorem putBucket_cyc (s k x) : (putBucket s k x).cyc = s.cyc := rfl
@[simp] theorem putBucket_fresh (s k x) : (putBucket s k x).fresh = s.fresh := rfl
@[simp] theorem putBucket_inForce (s k x) : (putBucket s k x).inForce = s.inForce := rfl
@[simp] theorem putBucket_regs (s k x) : (putBucket s k x).regs = s.regs := rfl
@[simp] theorem putBucket_pages (s k x) : (putBucket s k x).pages = s.pages := rfl
@[simp] theorem putBucket_wins (s k x) : (putBucket s k x).wins = s.wins := rfl
@[simp] theorem putBucket_mports (s k x) : (putBucket s k x).mports = s.mports := rfl
@[simp] theorem putBucket_sumSeq (s k x) : (putBucket s k x).sumSeq = s.sumSeq := rfl
@[simp] theorem putBucket_sumCyc (s k x) : (putBucket s k x).sumCyc = s.sumCyc := rfl
@[simp] theorem putBucket_ftu (s k x) : (putBucket s k x).ftu = s.ftu := rfl
@[simp] theorem putBucket_sched (s k x) : (putBucket s k x).sched = s.sched := rfl
@[simp] theorem putBucket_ends (s k x) : (putBucket s k x).ends = s.ends := rfl
@[simp] theorem putBucket_trigCyc (s k x) : (putBucket s k x).trigCyc = s.trigCyc := rfl
@[simp] theorem putBucket_trigHigh (s k x) : (putBucket s k x).trigHigh = s.trigHigh := rfl
@[simp] theorem putBucket_bypWin (s k x) : (putBucket s k x).bypWin = s.bypWin := rfl
@[simp] theorem putBucket_bypStat (s k x) : (putBucket s k x).bypStat = s.bypStat := rfl
@[simp] theorem putBucket_tiles (s k x) : (putBucket s k x).tiles = s.tiles := rfl
@[simp] theorem putBucket_tmap (s k x) : (putBucket s k x).tmap = s.tmap := rfl
@[simp] theorem putBucket_bankUse (s k x) : (putBucket s k x).bankUse = s.bankUse := rfl
@[simp] theorem putBucket_bankLost (s k x) : (putBucket s k x).bankLost = s.bankLost := rfl
@[simp] theorem putBucket_ssends (s k x) : (putBucket s k x).ssends = s.ssends := rfl
@[simp] theorem putBucket_gates (s k x) : (putBucket s k x).gates = s.gates := rfl
@[simp] theorem putBucket_sessions (s k x) : (putBucket s k x).sessions = s.sessions := rfl
@[simp] theorem putBucket_copies (s k x) : (putBucket s k x).copies = s.copies := rfl
@[simp] theorem putBucket_wvGroups (s k x) : (putBucket s k x).wvGroups = s.wvGroups := rfl
@[simp] theorem putBucket_wvFlits (s k x) : (putBucket s k x).wvFlits = s.wvFlits := rfl
@[simp] theorem putBucket_wvEpochs (s k x) : (putBucket s k x).wvEpochs = s.wvEpochs := rfl
@[simp] theorem putBucket_wvTurn (s k x) : (putBucket s k x).wvTurn = s.wvTurn := rfl
@[simp] theorem putBucket_srRole (s k x) : (putBucket s k x).srRole = s.srRole := rfl
@[simp] theorem putBucket_audits (s k x) : (putBucket s k x).audits = s.audits := rfl
@[simp] theorem putBucket_denseSeq (s k x) : (putBucket s k x).denseSeq = s.denseSeq := rfl
@[simp] theorem putBucket_reports (s k x) : (putBucket s k x).reports = s.reports := rfl
@[simp] theorem putBucket_repLost (s k x) : (putBucket s k x).repLost = s.repLost := rfl
@[simp] theorem putBucket_arbs (s k x) : (putBucket s k x).arbs = s.arbs := rfl
@[simp] theorem putBucket_arbOn (s k x) : (putBucket s k x).arbOn = s.arbOn := rfl
@[simp] theorem putBucket_flits (s k x) : (putBucket s k x).flits = s.flits := rfl
@[simp] theorem putBucket_stranded (s k x) : (putBucket s k x).stranded = s.stranded := rfl
@[simp] theorem putBucket_ports (s k x) : (putBucket s k x).ports = s.ports := rfl
@[simp] theorem putBucket_meters (s k x) : (putBucket s k x).meters = s.meters := rfl
@[simp] theorem putBucket_mem (s k x) : (putBucket s k x).mem = s.mem := rfl
@[simp] theorem putBucket_badLines (s k x) : (putBucket s k x).badLines = s.badLines := rfl
@[simp] theorem putBucket_regions (s k x) : (putBucket s k x).regions = s.regions := rfl
@[simp] theorem putBucket_reserve (s k x) : (putBucket s k x).reserve = s.reserve := rfl
@[simp] theorem putBucket_era (s k x) : (putBucket s k x).era = s.era := rfl
@[simp] theorem putBucket_entries (s k x) : (putBucket s k x).entries = s.entries := rfl
@[simp] theorem putBucket_chans (s k x) : (putBucket s k x).chans = s.chans := rfl
@[simp] theorem putBucket_memLog (s k x) : (putBucket s k x).memLog = s.memLog := rfl
@[simp] theorem putBucket_macAt (s k x) : (putBucket s k x).macAt = s.macAt := rfl
@[simp] theorem putBucket_fill (s k x) : (putBucket s k x).fill = s.fill := rfl
@[simp] theorem putBucket_parts (s k x) : (putBucket s k x).parts = s.parts := rfl
@[simp] theorem putBucket_partCmd (s k x) : (putBucket s k x).partCmd = s.partCmd := rfl
@[simp] theorem putBucket_certLog (s k x) : (putBucket s k x).certLog = s.certLog := rfl
@[simp] theorem putBucket_rtp (s k x) : (putBucket s k x).rtp = s.rtp := rfl
@[simp] theorem putBucket_attQueue (s k x) : (putBucket s k x).attQueue = s.attQueue := rfl
@[simp] theorem putBucket_attSeq (s k x) : (putBucket s k x).attSeq = s.attSeq := rfl
@[simp] theorem putBucket_kexs (s k x) : (putBucket s k x).kexs = s.kexs := rfl
@[simp] theorem putBucket_peers (s k x) : (putBucket s k x).peers = s.peers := rfl
@[simp] theorem putBucket_ownerKeys (s k x) : (putBucket s k x).ownerKeys = s.ownerKeys := rfl
@[simp] theorem putBucket_gloveIds (s k x) : (putBucket s k x).gloveIds = s.gloveIds := rfl
@[simp] theorem putBucket_gloveHdrs (s k x) : (putBucket s k x).gloveHdrs = s.gloveHdrs := rfl
@[simp] theorem putBucket_openings (s k x) : (putBucket s k x).openings = s.openings := rfl
@[simp] theorem putBucket_secLog (s k x) : (putBucket s k x).secLog = s.secLog := rfl
@[simp] theorem putBucket_secAt (s k x) : (putBucket s k x).secAt = s.secAt := rfl
@[simp] theorem putBucket_minSvn (s k x) : (putBucket s k x).minSvn = s.minSvn := rfl
@[simp] theorem putBucket_entropyOk (s k x) : (putBucket s k x).entropyOk = s.entropyOk := rfl
@[simp] theorem putBucket_power (s k x) : (putBucket s k x).power = s.power := rfl
@[simp] theorem putBucket_budgets (s k x) : (putBucket s k x).budgets = s.budgets := rfl
@[simp] theorem putBucket_allots (s k x) : (putBucket s k x).allots = s.allots := rfl
@[simp] theorem putBucket_gateHeld (s k x) : (putBucket s k x).gateHeld = s.gateHeld := rfl
@[simp] theorem putBucket_streams (s k x) : (putBucket s k x).streams = s.streams := rfl
@[simp] theorem putBucket_channels (s k x) : (putBucket s k x).channels = s.channels := rfl
@[simp] theorem putBucket_obsBucket (s k x) : (putBucket s k x).obsBucket = s.obsBucket := rfl
@[simp] theorem putBucket_obsCyc (s k x) : (putBucket s k x).obsCyc = s.obsCyc := rfl
@[simp] theorem putBucket_banks (s k x) : (putBucket s k x).banks = s.banks := rfl
@[simp] theorem putBucket_mitTile (s k x) : (putBucket s k x).mitTile = s.mitTile := rfl
@[simp] theorem putBucket_mitRegs (s k x) : (putBucket s k x).mitRegs = s.mitRegs := rfl
@[simp] theorem putBucket_pcLast (s k x) : (putBucket s k x).pcLast = s.pcLast := rfl
@[simp] theorem putBucket_mitLast (s k x) : (putBucket s k x).mitLast = s.mitLast := rfl
@[simp] theorem putBucket_calm (s k x) : (putBucket s k x).calm = s.calm := rfl
@[simp] theorem putBucket_charge (s k x) : (putBucket s k x).charge = s.charge := rfl
@[simp] theorem putBucket_swaps (s k x) : (putBucket s k x).swaps = s.swaps := rfl
@[simp] theorem putBucket_heldStarts (s k x) : (putBucket s k x).heldStarts = s.heldStarts := rfl
@[simp] theorem putBucket_srSwap (s k x) : (putBucket s k x).srSwap = s.srSwap := rfl
@[simp] theorem putBucket_frameSwaps (s k x) : (putBucket s k x).frameSwaps = s.frameSwaps := rfl
@[simp] theorem putBucket_frameSpares (s k x) : (putBucket s k x).frameSpares = s.frameSpares := rfl
@[simp] theorem putBucket_wearLife (s k x) : (putBucket s k x).wearLife = s.wearLife := rfl
@[simp] theorem putBucket_wearDay (s k x) : (putBucket s k x).wearDay = s.wearDay := rfl
@[simp] theorem putBucket_wearDayNo (s k x) : (putBucket s k x).wearDayNo = s.wearDayNo := rfl
@[simp] theorem putBucket_autoQueue (s k x) : (putBucket s k x).autoQueue = s.autoQueue := rfl
@[simp] theorem putBucket_retireCyc (s k x) : (putBucket s k x).retireCyc = s.retireCyc := rfl
@[simp] theorem putBucket_fuseUsed (s k x) : (putBucket s k x).fuseUsed = s.fuseUsed := rfl
@[simp] theorem putBucket_fuseQueue (s k x) : (putBucket s k x).fuseQueue = s.fuseQueue := rfl
@[simp] theorem putBucket_fuseFull (s k x) : (putBucket s k x).fuseFull = s.fuseFull := rfl
@[simp] theorem putBucket_rowsUsed (s k x) : (putBucket s k x).rowsUsed = s.rowsUsed := rfl
@[simp] theorem putBucket_laneMap (s k x) : (putBucket s k x).laneMap = s.laneMap := rfl
@[simp] theorem putBucket_ready (s k x) : (putBucket s k x).ready = s.ready := rfl
@[simp] theorem putBucket_railFell (s k x) : (putBucket s k x).railFell = s.railFell := rfl
@[simp] theorem putBucket_pgSb (s k x) : (putBucket s k x).pgSb = s.pgSb := rfl
@[simp] theorem putBucket_broken (s k x) : (putBucket s k x).broken = s.broken := rfl

/-! ### `putArb` writes `arbs` alone -/

@[simp] theorem putArb_cfg (s k x) : (putArb s k x).cfg = s.cfg := rfl
@[simp] theorem putArb_pending (s k x) : (putArb s k x).pending = s.pending := rfl
@[simp] theorem putArb_cyc (s k x) : (putArb s k x).cyc = s.cyc := rfl
@[simp] theorem putArb_fresh (s k x) : (putArb s k x).fresh = s.fresh := rfl
@[simp] theorem putArb_inForce (s k x) : (putArb s k x).inForce = s.inForce := rfl
@[simp] theorem putArb_regs (s k x) : (putArb s k x).regs = s.regs := rfl
@[simp] theorem putArb_pages (s k x) : (putArb s k x).pages = s.pages := rfl
@[simp] theorem putArb_wins (s k x) : (putArb s k x).wins = s.wins := rfl
@[simp] theorem putArb_mports (s k x) : (putArb s k x).mports = s.mports := rfl
@[simp] theorem putArb_sumSeq (s k x) : (putArb s k x).sumSeq = s.sumSeq := rfl
@[simp] theorem putArb_sumCyc (s k x) : (putArb s k x).sumCyc = s.sumCyc := rfl
@[simp] theorem putArb_ftu (s k x) : (putArb s k x).ftu = s.ftu := rfl
@[simp] theorem putArb_sched (s k x) : (putArb s k x).sched = s.sched := rfl
@[simp] theorem putArb_ends (s k x) : (putArb s k x).ends = s.ends := rfl
@[simp] theorem putArb_trigCyc (s k x) : (putArb s k x).trigCyc = s.trigCyc := rfl
@[simp] theorem putArb_trigHigh (s k x) : (putArb s k x).trigHigh = s.trigHigh := rfl
@[simp] theorem putArb_bypWin (s k x) : (putArb s k x).bypWin = s.bypWin := rfl
@[simp] theorem putArb_bypStat (s k x) : (putArb s k x).bypStat = s.bypStat := rfl
@[simp] theorem putArb_tiles (s k x) : (putArb s k x).tiles = s.tiles := rfl
@[simp] theorem putArb_tmap (s k x) : (putArb s k x).tmap = s.tmap := rfl
@[simp] theorem putArb_bankUse (s k x) : (putArb s k x).bankUse = s.bankUse := rfl
@[simp] theorem putArb_bankLost (s k x) : (putArb s k x).bankLost = s.bankLost := rfl
@[simp] theorem putArb_ssends (s k x) : (putArb s k x).ssends = s.ssends := rfl
@[simp] theorem putArb_gates (s k x) : (putArb s k x).gates = s.gates := rfl
@[simp] theorem putArb_sessions (s k x) : (putArb s k x).sessions = s.sessions := rfl
@[simp] theorem putArb_copies (s k x) : (putArb s k x).copies = s.copies := rfl
@[simp] theorem putArb_wvGroups (s k x) : (putArb s k x).wvGroups = s.wvGroups := rfl
@[simp] theorem putArb_wvFlits (s k x) : (putArb s k x).wvFlits = s.wvFlits := rfl
@[simp] theorem putArb_wvEpochs (s k x) : (putArb s k x).wvEpochs = s.wvEpochs := rfl
@[simp] theorem putArb_wvTurn (s k x) : (putArb s k x).wvTurn = s.wvTurn := rfl
@[simp] theorem putArb_srRole (s k x) : (putArb s k x).srRole = s.srRole := rfl
@[simp] theorem putArb_audits (s k x) : (putArb s k x).audits = s.audits := rfl
@[simp] theorem putArb_denseSeq (s k x) : (putArb s k x).denseSeq = s.denseSeq := rfl
@[simp] theorem putArb_reports (s k x) : (putArb s k x).reports = s.reports := rfl
@[simp] theorem putArb_repLost (s k x) : (putArb s k x).repLost = s.repLost := rfl
@[simp] theorem putArb_arbOn (s k x) : (putArb s k x).arbOn = s.arbOn := rfl
@[simp] theorem putArb_flits (s k x) : (putArb s k x).flits = s.flits := rfl
@[simp] theorem putArb_stranded (s k x) : (putArb s k x).stranded = s.stranded := rfl
@[simp] theorem putArb_ports (s k x) : (putArb s k x).ports = s.ports := rfl
@[simp] theorem putArb_buckets (s k x) : (putArb s k x).buckets = s.buckets := rfl
@[simp] theorem putArb_meters (s k x) : (putArb s k x).meters = s.meters := rfl
@[simp] theorem putArb_mem (s k x) : (putArb s k x).mem = s.mem := rfl
@[simp] theorem putArb_badLines (s k x) : (putArb s k x).badLines = s.badLines := rfl
@[simp] theorem putArb_regions (s k x) : (putArb s k x).regions = s.regions := rfl
@[simp] theorem putArb_reserve (s k x) : (putArb s k x).reserve = s.reserve := rfl
@[simp] theorem putArb_era (s k x) : (putArb s k x).era = s.era := rfl
@[simp] theorem putArb_entries (s k x) : (putArb s k x).entries = s.entries := rfl
@[simp] theorem putArb_chans (s k x) : (putArb s k x).chans = s.chans := rfl
@[simp] theorem putArb_memLog (s k x) : (putArb s k x).memLog = s.memLog := rfl
@[simp] theorem putArb_macAt (s k x) : (putArb s k x).macAt = s.macAt := rfl
@[simp] theorem putArb_fill (s k x) : (putArb s k x).fill = s.fill := rfl
@[simp] theorem putArb_parts (s k x) : (putArb s k x).parts = s.parts := rfl
@[simp] theorem putArb_partCmd (s k x) : (putArb s k x).partCmd = s.partCmd := rfl
@[simp] theorem putArb_certLog (s k x) : (putArb s k x).certLog = s.certLog := rfl
@[simp] theorem putArb_rtp (s k x) : (putArb s k x).rtp = s.rtp := rfl
@[simp] theorem putArb_attQueue (s k x) : (putArb s k x).attQueue = s.attQueue := rfl
@[simp] theorem putArb_attSeq (s k x) : (putArb s k x).attSeq = s.attSeq := rfl
@[simp] theorem putArb_kexs (s k x) : (putArb s k x).kexs = s.kexs := rfl
@[simp] theorem putArb_peers (s k x) : (putArb s k x).peers = s.peers := rfl
@[simp] theorem putArb_ownerKeys (s k x) : (putArb s k x).ownerKeys = s.ownerKeys := rfl
@[simp] theorem putArb_gloveIds (s k x) : (putArb s k x).gloveIds = s.gloveIds := rfl
@[simp] theorem putArb_gloveHdrs (s k x) : (putArb s k x).gloveHdrs = s.gloveHdrs := rfl
@[simp] theorem putArb_openings (s k x) : (putArb s k x).openings = s.openings := rfl
@[simp] theorem putArb_secLog (s k x) : (putArb s k x).secLog = s.secLog := rfl
@[simp] theorem putArb_secAt (s k x) : (putArb s k x).secAt = s.secAt := rfl
@[simp] theorem putArb_minSvn (s k x) : (putArb s k x).minSvn = s.minSvn := rfl
@[simp] theorem putArb_entropyOk (s k x) : (putArb s k x).entropyOk = s.entropyOk := rfl
@[simp] theorem putArb_power (s k x) : (putArb s k x).power = s.power := rfl
@[simp] theorem putArb_budgets (s k x) : (putArb s k x).budgets = s.budgets := rfl
@[simp] theorem putArb_allots (s k x) : (putArb s k x).allots = s.allots := rfl
@[simp] theorem putArb_gateHeld (s k x) : (putArb s k x).gateHeld = s.gateHeld := rfl
@[simp] theorem putArb_streams (s k x) : (putArb s k x).streams = s.streams := rfl
@[simp] theorem putArb_channels (s k x) : (putArb s k x).channels = s.channels := rfl
@[simp] theorem putArb_obsBucket (s k x) : (putArb s k x).obsBucket = s.obsBucket := rfl
@[simp] theorem putArb_obsCyc (s k x) : (putArb s k x).obsCyc = s.obsCyc := rfl
@[simp] theorem putArb_banks (s k x) : (putArb s k x).banks = s.banks := rfl
@[simp] theorem putArb_mitTile (s k x) : (putArb s k x).mitTile = s.mitTile := rfl
@[simp] theorem putArb_mitRegs (s k x) : (putArb s k x).mitRegs = s.mitRegs := rfl
@[simp] theorem putArb_pcLast (s k x) : (putArb s k x).pcLast = s.pcLast := rfl
@[simp] theorem putArb_mitLast (s k x) : (putArb s k x).mitLast = s.mitLast := rfl
@[simp] theorem putArb_calm (s k x) : (putArb s k x).calm = s.calm := rfl
@[simp] theorem putArb_charge (s k x) : (putArb s k x).charge = s.charge := rfl
@[simp] theorem putArb_swaps (s k x) : (putArb s k x).swaps = s.swaps := rfl
@[simp] theorem putArb_heldStarts (s k x) : (putArb s k x).heldStarts = s.heldStarts := rfl
@[simp] theorem putArb_srSwap (s k x) : (putArb s k x).srSwap = s.srSwap := rfl
@[simp] theorem putArb_frameSwaps (s k x) : (putArb s k x).frameSwaps = s.frameSwaps := rfl
@[simp] theorem putArb_frameSpares (s k x) : (putArb s k x).frameSpares = s.frameSpares := rfl
@[simp] theorem putArb_wearLife (s k x) : (putArb s k x).wearLife = s.wearLife := rfl
@[simp] theorem putArb_wearDay (s k x) : (putArb s k x).wearDay = s.wearDay := rfl
@[simp] theorem putArb_wearDayNo (s k x) : (putArb s k x).wearDayNo = s.wearDayNo := rfl
@[simp] theorem putArb_autoQueue (s k x) : (putArb s k x).autoQueue = s.autoQueue := rfl
@[simp] theorem putArb_retireCyc (s k x) : (putArb s k x).retireCyc = s.retireCyc := rfl
@[simp] theorem putArb_fuseUsed (s k x) : (putArb s k x).fuseUsed = s.fuseUsed := rfl
@[simp] theorem putArb_fuseQueue (s k x) : (putArb s k x).fuseQueue = s.fuseQueue := rfl
@[simp] theorem putArb_fuseFull (s k x) : (putArb s k x).fuseFull = s.fuseFull := rfl
@[simp] theorem putArb_rowsUsed (s k x) : (putArb s k x).rowsUsed = s.rowsUsed := rfl
@[simp] theorem putArb_laneMap (s k x) : (putArb s k x).laneMap = s.laneMap := rfl
@[simp] theorem putArb_ready (s k x) : (putArb s k x).ready = s.ready := rfl
@[simp] theorem putArb_railFell (s k x) : (putArb s k x).railFell = s.railFell := rfl
@[simp] theorem putArb_pgSb (s k x) : (putArb s k x).pgSb = s.pgSb := rfl
@[simp] theorem putArb_broken (s k x) : (putArb s k x).broken = s.broken := rfl

/-! ### `putSes` writes `sessions` alone -/

@[simp] theorem putSes_cfg (s k x) : (putSes s k x).cfg = s.cfg := rfl
@[simp] theorem putSes_pending (s k x) : (putSes s k x).pending = s.pending := rfl
@[simp] theorem putSes_cyc (s k x) : (putSes s k x).cyc = s.cyc := rfl
@[simp] theorem putSes_fresh (s k x) : (putSes s k x).fresh = s.fresh := rfl
@[simp] theorem putSes_inForce (s k x) : (putSes s k x).inForce = s.inForce := rfl
@[simp] theorem putSes_regs (s k x) : (putSes s k x).regs = s.regs := rfl
@[simp] theorem putSes_pages (s k x) : (putSes s k x).pages = s.pages := rfl
@[simp] theorem putSes_wins (s k x) : (putSes s k x).wins = s.wins := rfl
@[simp] theorem putSes_mports (s k x) : (putSes s k x).mports = s.mports := rfl
@[simp] theorem putSes_sumSeq (s k x) : (putSes s k x).sumSeq = s.sumSeq := rfl
@[simp] theorem putSes_sumCyc (s k x) : (putSes s k x).sumCyc = s.sumCyc := rfl
@[simp] theorem putSes_ftu (s k x) : (putSes s k x).ftu = s.ftu := rfl
@[simp] theorem putSes_sched (s k x) : (putSes s k x).sched = s.sched := rfl
@[simp] theorem putSes_ends (s k x) : (putSes s k x).ends = s.ends := rfl
@[simp] theorem putSes_trigCyc (s k x) : (putSes s k x).trigCyc = s.trigCyc := rfl
@[simp] theorem putSes_trigHigh (s k x) : (putSes s k x).trigHigh = s.trigHigh := rfl
@[simp] theorem putSes_bypWin (s k x) : (putSes s k x).bypWin = s.bypWin := rfl
@[simp] theorem putSes_bypStat (s k x) : (putSes s k x).bypStat = s.bypStat := rfl
@[simp] theorem putSes_tiles (s k x) : (putSes s k x).tiles = s.tiles := rfl
@[simp] theorem putSes_tmap (s k x) : (putSes s k x).tmap = s.tmap := rfl
@[simp] theorem putSes_bankUse (s k x) : (putSes s k x).bankUse = s.bankUse := rfl
@[simp] theorem putSes_bankLost (s k x) : (putSes s k x).bankLost = s.bankLost := rfl
@[simp] theorem putSes_ssends (s k x) : (putSes s k x).ssends = s.ssends := rfl
@[simp] theorem putSes_gates (s k x) : (putSes s k x).gates = s.gates := rfl
@[simp] theorem putSes_copies (s k x) : (putSes s k x).copies = s.copies := rfl
@[simp] theorem putSes_wvGroups (s k x) : (putSes s k x).wvGroups = s.wvGroups := rfl
@[simp] theorem putSes_wvFlits (s k x) : (putSes s k x).wvFlits = s.wvFlits := rfl
@[simp] theorem putSes_wvEpochs (s k x) : (putSes s k x).wvEpochs = s.wvEpochs := rfl
@[simp] theorem putSes_wvTurn (s k x) : (putSes s k x).wvTurn = s.wvTurn := rfl
@[simp] theorem putSes_srRole (s k x) : (putSes s k x).srRole = s.srRole := rfl
@[simp] theorem putSes_audits (s k x) : (putSes s k x).audits = s.audits := rfl
@[simp] theorem putSes_denseSeq (s k x) : (putSes s k x).denseSeq = s.denseSeq := rfl
@[simp] theorem putSes_reports (s k x) : (putSes s k x).reports = s.reports := rfl
@[simp] theorem putSes_repLost (s k x) : (putSes s k x).repLost = s.repLost := rfl
@[simp] theorem putSes_arbs (s k x) : (putSes s k x).arbs = s.arbs := rfl
@[simp] theorem putSes_arbOn (s k x) : (putSes s k x).arbOn = s.arbOn := rfl
@[simp] theorem putSes_flits (s k x) : (putSes s k x).flits = s.flits := rfl
@[simp] theorem putSes_stranded (s k x) : (putSes s k x).stranded = s.stranded := rfl
@[simp] theorem putSes_ports (s k x) : (putSes s k x).ports = s.ports := rfl
@[simp] theorem putSes_buckets (s k x) : (putSes s k x).buckets = s.buckets := rfl
@[simp] theorem putSes_meters (s k x) : (putSes s k x).meters = s.meters := rfl
@[simp] theorem putSes_mem (s k x) : (putSes s k x).mem = s.mem := rfl
@[simp] theorem putSes_badLines (s k x) : (putSes s k x).badLines = s.badLines := rfl
@[simp] theorem putSes_regions (s k x) : (putSes s k x).regions = s.regions := rfl
@[simp] theorem putSes_reserve (s k x) : (putSes s k x).reserve = s.reserve := rfl
@[simp] theorem putSes_era (s k x) : (putSes s k x).era = s.era := rfl
@[simp] theorem putSes_entries (s k x) : (putSes s k x).entries = s.entries := rfl
@[simp] theorem putSes_chans (s k x) : (putSes s k x).chans = s.chans := rfl
@[simp] theorem putSes_memLog (s k x) : (putSes s k x).memLog = s.memLog := rfl
@[simp] theorem putSes_macAt (s k x) : (putSes s k x).macAt = s.macAt := rfl
@[simp] theorem putSes_fill (s k x) : (putSes s k x).fill = s.fill := rfl
@[simp] theorem putSes_parts (s k x) : (putSes s k x).parts = s.parts := rfl
@[simp] theorem putSes_partCmd (s k x) : (putSes s k x).partCmd = s.partCmd := rfl
@[simp] theorem putSes_certLog (s k x) : (putSes s k x).certLog = s.certLog := rfl
@[simp] theorem putSes_rtp (s k x) : (putSes s k x).rtp = s.rtp := rfl
@[simp] theorem putSes_attQueue (s k x) : (putSes s k x).attQueue = s.attQueue := rfl
@[simp] theorem putSes_attSeq (s k x) : (putSes s k x).attSeq = s.attSeq := rfl
@[simp] theorem putSes_kexs (s k x) : (putSes s k x).kexs = s.kexs := rfl
@[simp] theorem putSes_peers (s k x) : (putSes s k x).peers = s.peers := rfl
@[simp] theorem putSes_ownerKeys (s k x) : (putSes s k x).ownerKeys = s.ownerKeys := rfl
@[simp] theorem putSes_gloveIds (s k x) : (putSes s k x).gloveIds = s.gloveIds := rfl
@[simp] theorem putSes_gloveHdrs (s k x) : (putSes s k x).gloveHdrs = s.gloveHdrs := rfl
@[simp] theorem putSes_openings (s k x) : (putSes s k x).openings = s.openings := rfl
@[simp] theorem putSes_secLog (s k x) : (putSes s k x).secLog = s.secLog := rfl
@[simp] theorem putSes_secAt (s k x) : (putSes s k x).secAt = s.secAt := rfl
@[simp] theorem putSes_minSvn (s k x) : (putSes s k x).minSvn = s.minSvn := rfl
@[simp] theorem putSes_entropyOk (s k x) : (putSes s k x).entropyOk = s.entropyOk := rfl
@[simp] theorem putSes_power (s k x) : (putSes s k x).power = s.power := rfl
@[simp] theorem putSes_budgets (s k x) : (putSes s k x).budgets = s.budgets := rfl
@[simp] theorem putSes_allots (s k x) : (putSes s k x).allots = s.allots := rfl
@[simp] theorem putSes_gateHeld (s k x) : (putSes s k x).gateHeld = s.gateHeld := rfl
@[simp] theorem putSes_streams (s k x) : (putSes s k x).streams = s.streams := rfl
@[simp] theorem putSes_channels (s k x) : (putSes s k x).channels = s.channels := rfl
@[simp] theorem putSes_obsBucket (s k x) : (putSes s k x).obsBucket = s.obsBucket := rfl
@[simp] theorem putSes_obsCyc (s k x) : (putSes s k x).obsCyc = s.obsCyc := rfl
@[simp] theorem putSes_banks (s k x) : (putSes s k x).banks = s.banks := rfl
@[simp] theorem putSes_mitTile (s k x) : (putSes s k x).mitTile = s.mitTile := rfl
@[simp] theorem putSes_mitRegs (s k x) : (putSes s k x).mitRegs = s.mitRegs := rfl
@[simp] theorem putSes_pcLast (s k x) : (putSes s k x).pcLast = s.pcLast := rfl
@[simp] theorem putSes_mitLast (s k x) : (putSes s k x).mitLast = s.mitLast := rfl
@[simp] theorem putSes_calm (s k x) : (putSes s k x).calm = s.calm := rfl
@[simp] theorem putSes_charge (s k x) : (putSes s k x).charge = s.charge := rfl
@[simp] theorem putSes_swaps (s k x) : (putSes s k x).swaps = s.swaps := rfl
@[simp] theorem putSes_heldStarts (s k x) : (putSes s k x).heldStarts = s.heldStarts := rfl
@[simp] theorem putSes_srSwap (s k x) : (putSes s k x).srSwap = s.srSwap := rfl
@[simp] theorem putSes_frameSwaps (s k x) : (putSes s k x).frameSwaps = s.frameSwaps := rfl
@[simp] theorem putSes_frameSpares (s k x) : (putSes s k x).frameSpares = s.frameSpares := rfl
@[simp] theorem putSes_wearLife (s k x) : (putSes s k x).wearLife = s.wearLife := rfl
@[simp] theorem putSes_wearDay (s k x) : (putSes s k x).wearDay = s.wearDay := rfl
@[simp] theorem putSes_wearDayNo (s k x) : (putSes s k x).wearDayNo = s.wearDayNo := rfl
@[simp] theorem putSes_autoQueue (s k x) : (putSes s k x).autoQueue = s.autoQueue := rfl
@[simp] theorem putSes_retireCyc (s k x) : (putSes s k x).retireCyc = s.retireCyc := rfl
@[simp] theorem putSes_fuseUsed (s k x) : (putSes s k x).fuseUsed = s.fuseUsed := rfl
@[simp] theorem putSes_fuseQueue (s k x) : (putSes s k x).fuseQueue = s.fuseQueue := rfl
@[simp] theorem putSes_fuseFull (s k x) : (putSes s k x).fuseFull = s.fuseFull := rfl
@[simp] theorem putSes_rowsUsed (s k x) : (putSes s k x).rowsUsed = s.rowsUsed := rfl
@[simp] theorem putSes_laneMap (s k x) : (putSes s k x).laneMap = s.laneMap := rfl
@[simp] theorem putSes_ready (s k x) : (putSes s k x).ready = s.ready := rfl
@[simp] theorem putSes_railFell (s k x) : (putSes s k x).railFell = s.railFell := rfl
@[simp] theorem putSes_pgSb (s k x) : (putSes s k x).pgSb = s.pgSb := rfl
@[simp] theorem putSes_broken (s k x) : (putSes s k x).broken = s.broken := rfl

/-! ### `putEntry` writes `sched` alone -/

@[simp] theorem putEntry_cfg (s h k x) : (putEntry s h k x).cfg = s.cfg := rfl
@[simp] theorem putEntry_pending (s h k x) : (putEntry s h k x).pending = s.pending := rfl
@[simp] theorem putEntry_cyc (s h k x) : (putEntry s h k x).cyc = s.cyc := rfl
@[simp] theorem putEntry_fresh (s h k x) : (putEntry s h k x).fresh = s.fresh := rfl
@[simp] theorem putEntry_inForce (s h k x) : (putEntry s h k x).inForce = s.inForce := rfl
@[simp] theorem putEntry_regs (s h k x) : (putEntry s h k x).regs = s.regs := rfl
@[simp] theorem putEntry_pages (s h k x) : (putEntry s h k x).pages = s.pages := rfl
@[simp] theorem putEntry_wins (s h k x) : (putEntry s h k x).wins = s.wins := rfl
@[simp] theorem putEntry_mports (s h k x) : (putEntry s h k x).mports = s.mports := rfl
@[simp] theorem putEntry_sumSeq (s h k x) : (putEntry s h k x).sumSeq = s.sumSeq := rfl
@[simp] theorem putEntry_sumCyc (s h k x) : (putEntry s h k x).sumCyc = s.sumCyc := rfl
@[simp] theorem putEntry_ftu (s h k x) : (putEntry s h k x).ftu = s.ftu := rfl
@[simp] theorem putEntry_ends (s h k x) : (putEntry s h k x).ends = s.ends := rfl
@[simp] theorem putEntry_trigCyc (s h k x) : (putEntry s h k x).trigCyc = s.trigCyc := rfl
@[simp] theorem putEntry_trigHigh (s h k x) : (putEntry s h k x).trigHigh = s.trigHigh := rfl
@[simp] theorem putEntry_bypWin (s h k x) : (putEntry s h k x).bypWin = s.bypWin := rfl
@[simp] theorem putEntry_bypStat (s h k x) : (putEntry s h k x).bypStat = s.bypStat := rfl
@[simp] theorem putEntry_tiles (s h k x) : (putEntry s h k x).tiles = s.tiles := rfl
@[simp] theorem putEntry_tmap (s h k x) : (putEntry s h k x).tmap = s.tmap := rfl
@[simp] theorem putEntry_bankUse (s h k x) : (putEntry s h k x).bankUse = s.bankUse := rfl
@[simp] theorem putEntry_bankLost (s h k x) : (putEntry s h k x).bankLost = s.bankLost := rfl
@[simp] theorem putEntry_ssends (s h k x) : (putEntry s h k x).ssends = s.ssends := rfl
@[simp] theorem putEntry_gates (s h k x) : (putEntry s h k x).gates = s.gates := rfl
@[simp] theorem putEntry_sessions (s h k x) : (putEntry s h k x).sessions = s.sessions := rfl
@[simp] theorem putEntry_copies (s h k x) : (putEntry s h k x).copies = s.copies := rfl
@[simp] theorem putEntry_wvGroups (s h k x) : (putEntry s h k x).wvGroups = s.wvGroups := rfl
@[simp] theorem putEntry_wvFlits (s h k x) : (putEntry s h k x).wvFlits = s.wvFlits := rfl
@[simp] theorem putEntry_wvEpochs (s h k x) : (putEntry s h k x).wvEpochs = s.wvEpochs := rfl
@[simp] theorem putEntry_wvTurn (s h k x) : (putEntry s h k x).wvTurn = s.wvTurn := rfl
@[simp] theorem putEntry_srRole (s h k x) : (putEntry s h k x).srRole = s.srRole := rfl
@[simp] theorem putEntry_audits (s h k x) : (putEntry s h k x).audits = s.audits := rfl
@[simp] theorem putEntry_denseSeq (s h k x) : (putEntry s h k x).denseSeq = s.denseSeq := rfl
@[simp] theorem putEntry_reports (s h k x) : (putEntry s h k x).reports = s.reports := rfl
@[simp] theorem putEntry_repLost (s h k x) : (putEntry s h k x).repLost = s.repLost := rfl
@[simp] theorem putEntry_arbs (s h k x) : (putEntry s h k x).arbs = s.arbs := rfl
@[simp] theorem putEntry_arbOn (s h k x) : (putEntry s h k x).arbOn = s.arbOn := rfl
@[simp] theorem putEntry_flits (s h k x) : (putEntry s h k x).flits = s.flits := rfl
@[simp] theorem putEntry_stranded (s h k x) : (putEntry s h k x).stranded = s.stranded := rfl
@[simp] theorem putEntry_ports (s h k x) : (putEntry s h k x).ports = s.ports := rfl
@[simp] theorem putEntry_buckets (s h k x) : (putEntry s h k x).buckets = s.buckets := rfl
@[simp] theorem putEntry_meters (s h k x) : (putEntry s h k x).meters = s.meters := rfl
@[simp] theorem putEntry_mem (s h k x) : (putEntry s h k x).mem = s.mem := rfl
@[simp] theorem putEntry_badLines (s h k x) : (putEntry s h k x).badLines = s.badLines := rfl
@[simp] theorem putEntry_regions (s h k x) : (putEntry s h k x).regions = s.regions := rfl
@[simp] theorem putEntry_reserve (s h k x) : (putEntry s h k x).reserve = s.reserve := rfl
@[simp] theorem putEntry_era (s h k x) : (putEntry s h k x).era = s.era := rfl
@[simp] theorem putEntry_entries (s h k x) : (putEntry s h k x).entries = s.entries := rfl
@[simp] theorem putEntry_chans (s h k x) : (putEntry s h k x).chans = s.chans := rfl
@[simp] theorem putEntry_memLog (s h k x) : (putEntry s h k x).memLog = s.memLog := rfl
@[simp] theorem putEntry_macAt (s h k x) : (putEntry s h k x).macAt = s.macAt := rfl
@[simp] theorem putEntry_fill (s h k x) : (putEntry s h k x).fill = s.fill := rfl
@[simp] theorem putEntry_parts (s h k x) : (putEntry s h k x).parts = s.parts := rfl
@[simp] theorem putEntry_partCmd (s h k x) : (putEntry s h k x).partCmd = s.partCmd := rfl
@[simp] theorem putEntry_certLog (s h k x) : (putEntry s h k x).certLog = s.certLog := rfl
@[simp] theorem putEntry_rtp (s h k x) : (putEntry s h k x).rtp = s.rtp := rfl
@[simp] theorem putEntry_attQueue (s h k x) : (putEntry s h k x).attQueue = s.attQueue := rfl
@[simp] theorem putEntry_attSeq (s h k x) : (putEntry s h k x).attSeq = s.attSeq := rfl
@[simp] theorem putEntry_kexs (s h k x) : (putEntry s h k x).kexs = s.kexs := rfl
@[simp] theorem putEntry_peers (s h k x) : (putEntry s h k x).peers = s.peers := rfl
@[simp] theorem putEntry_ownerKeys (s h k x) : (putEntry s h k x).ownerKeys = s.ownerKeys := rfl
@[simp] theorem putEntry_gloveIds (s h k x) : (putEntry s h k x).gloveIds = s.gloveIds := rfl
@[simp] theorem putEntry_gloveHdrs (s h k x) : (putEntry s h k x).gloveHdrs = s.gloveHdrs := rfl
@[simp] theorem putEntry_openings (s h k x) : (putEntry s h k x).openings = s.openings := rfl
@[simp] theorem putEntry_secLog (s h k x) : (putEntry s h k x).secLog = s.secLog := rfl
@[simp] theorem putEntry_secAt (s h k x) : (putEntry s h k x).secAt = s.secAt := rfl
@[simp] theorem putEntry_minSvn (s h k x) : (putEntry s h k x).minSvn = s.minSvn := rfl
@[simp] theorem putEntry_entropyOk (s h k x) : (putEntry s h k x).entropyOk = s.entropyOk := rfl
@[simp] theorem putEntry_power (s h k x) : (putEntry s h k x).power = s.power := rfl
@[simp] theorem putEntry_budgets (s h k x) : (putEntry s h k x).budgets = s.budgets := rfl
@[simp] theorem putEntry_allots (s h k x) : (putEntry s h k x).allots = s.allots := rfl
@[simp] theorem putEntry_gateHeld (s h k x) : (putEntry s h k x).gateHeld = s.gateHeld := rfl
@[simp] theorem putEntry_streams (s h k x) : (putEntry s h k x).streams = s.streams := rfl
@[simp] theorem putEntry_channels (s h k x) : (putEntry s h k x).channels = s.channels := rfl
@[simp] theorem putEntry_obsBucket (s h k x) : (putEntry s h k x).obsBucket = s.obsBucket := rfl
@[simp] theorem putEntry_obsCyc (s h k x) : (putEntry s h k x).obsCyc = s.obsCyc := rfl
@[simp] theorem putEntry_banks (s h k x) : (putEntry s h k x).banks = s.banks := rfl
@[simp] theorem putEntry_mitTile (s h k x) : (putEntry s h k x).mitTile = s.mitTile := rfl
@[simp] theorem putEntry_mitRegs (s h k x) : (putEntry s h k x).mitRegs = s.mitRegs := rfl
@[simp] theorem putEntry_pcLast (s h k x) : (putEntry s h k x).pcLast = s.pcLast := rfl
@[simp] theorem putEntry_mitLast (s h k x) : (putEntry s h k x).mitLast = s.mitLast := rfl
@[simp] theorem putEntry_calm (s h k x) : (putEntry s h k x).calm = s.calm := rfl
@[simp] theorem putEntry_charge (s h k x) : (putEntry s h k x).charge = s.charge := rfl
@[simp] theorem putEntry_swaps (s h k x) : (putEntry s h k x).swaps = s.swaps := rfl
@[simp] theorem putEntry_heldStarts (s h k x) : (putEntry s h k x).heldStarts = s.heldStarts := rfl
@[simp] theorem putEntry_srSwap (s h k x) : (putEntry s h k x).srSwap = s.srSwap := rfl
@[simp] theorem putEntry_frameSwaps (s h k x) : (putEntry s h k x).frameSwaps = s.frameSwaps := rfl
@[simp] theorem putEntry_frameSpares (s h k x) : (putEntry s h k x).frameSpares = s.frameSpares := rfl
@[simp] theorem putEntry_wearLife (s h k x) : (putEntry s h k x).wearLife = s.wearLife := rfl
@[simp] theorem putEntry_wearDay (s h k x) : (putEntry s h k x).wearDay = s.wearDay := rfl
@[simp] theorem putEntry_wearDayNo (s h k x) : (putEntry s h k x).wearDayNo = s.wearDayNo := rfl
@[simp] theorem putEntry_autoQueue (s h k x) : (putEntry s h k x).autoQueue = s.autoQueue := rfl
@[simp] theorem putEntry_retireCyc (s h k x) : (putEntry s h k x).retireCyc = s.retireCyc := rfl
@[simp] theorem putEntry_fuseUsed (s h k x) : (putEntry s h k x).fuseUsed = s.fuseUsed := rfl
@[simp] theorem putEntry_fuseQueue (s h k x) : (putEntry s h k x).fuseQueue = s.fuseQueue := rfl
@[simp] theorem putEntry_fuseFull (s h k x) : (putEntry s h k x).fuseFull = s.fuseFull := rfl
@[simp] theorem putEntry_rowsUsed (s h k x) : (putEntry s h k x).rowsUsed = s.rowsUsed := rfl
@[simp] theorem putEntry_laneMap (s h k x) : (putEntry s h k x).laneMap = s.laneMap := rfl
@[simp] theorem putEntry_ready (s h k x) : (putEntry s h k x).ready = s.ready := rfl
@[simp] theorem putEntry_railFell (s h k x) : (putEntry s h k x).railFell = s.railFell := rfl
@[simp] theorem putEntry_pgSb (s h k x) : (putEntry s h k x).pgSb = s.pgSb := rfl
@[simp] theorem putEntry_broken (s h k x) : (putEntry s h k x).broken = s.broken := rfl

/-! ### `putWin` writes `wins` alone -/

@[simp] theorem putWin_cfg (s h k x) : (putWin s h k x).cfg = s.cfg := rfl
@[simp] theorem putWin_pending (s h k x) : (putWin s h k x).pending = s.pending := rfl
@[simp] theorem putWin_cyc (s h k x) : (putWin s h k x).cyc = s.cyc := rfl
@[simp] theorem putWin_fresh (s h k x) : (putWin s h k x).fresh = s.fresh := rfl
@[simp] theorem putWin_inForce (s h k x) : (putWin s h k x).inForce = s.inForce := rfl
@[simp] theorem putWin_regs (s h k x) : (putWin s h k x).regs = s.regs := rfl
@[simp] theorem putWin_pages (s h k x) : (putWin s h k x).pages = s.pages := rfl
@[simp] theorem putWin_mports (s h k x) : (putWin s h k x).mports = s.mports := rfl
@[simp] theorem putWin_sumSeq (s h k x) : (putWin s h k x).sumSeq = s.sumSeq := rfl
@[simp] theorem putWin_sumCyc (s h k x) : (putWin s h k x).sumCyc = s.sumCyc := rfl
@[simp] theorem putWin_ftu (s h k x) : (putWin s h k x).ftu = s.ftu := rfl
@[simp] theorem putWin_sched (s h k x) : (putWin s h k x).sched = s.sched := rfl
@[simp] theorem putWin_ends (s h k x) : (putWin s h k x).ends = s.ends := rfl
@[simp] theorem putWin_trigCyc (s h k x) : (putWin s h k x).trigCyc = s.trigCyc := rfl
@[simp] theorem putWin_trigHigh (s h k x) : (putWin s h k x).trigHigh = s.trigHigh := rfl
@[simp] theorem putWin_bypWin (s h k x) : (putWin s h k x).bypWin = s.bypWin := rfl
@[simp] theorem putWin_bypStat (s h k x) : (putWin s h k x).bypStat = s.bypStat := rfl
@[simp] theorem putWin_tiles (s h k x) : (putWin s h k x).tiles = s.tiles := rfl
@[simp] theorem putWin_tmap (s h k x) : (putWin s h k x).tmap = s.tmap := rfl
@[simp] theorem putWin_bankUse (s h k x) : (putWin s h k x).bankUse = s.bankUse := rfl
@[simp] theorem putWin_bankLost (s h k x) : (putWin s h k x).bankLost = s.bankLost := rfl
@[simp] theorem putWin_ssends (s h k x) : (putWin s h k x).ssends = s.ssends := rfl
@[simp] theorem putWin_gates (s h k x) : (putWin s h k x).gates = s.gates := rfl
@[simp] theorem putWin_sessions (s h k x) : (putWin s h k x).sessions = s.sessions := rfl
@[simp] theorem putWin_copies (s h k x) : (putWin s h k x).copies = s.copies := rfl
@[simp] theorem putWin_wvGroups (s h k x) : (putWin s h k x).wvGroups = s.wvGroups := rfl
@[simp] theorem putWin_wvFlits (s h k x) : (putWin s h k x).wvFlits = s.wvFlits := rfl
@[simp] theorem putWin_wvEpochs (s h k x) : (putWin s h k x).wvEpochs = s.wvEpochs := rfl
@[simp] theorem putWin_wvTurn (s h k x) : (putWin s h k x).wvTurn = s.wvTurn := rfl
@[simp] theorem putWin_srRole (s h k x) : (putWin s h k x).srRole = s.srRole := rfl
@[simp] theorem putWin_audits (s h k x) : (putWin s h k x).audits = s.audits := rfl
@[simp] theorem putWin_denseSeq (s h k x) : (putWin s h k x).denseSeq = s.denseSeq := rfl
@[simp] theorem putWin_reports (s h k x) : (putWin s h k x).reports = s.reports := rfl
@[simp] theorem putWin_repLost (s h k x) : (putWin s h k x).repLost = s.repLost := rfl
@[simp] theorem putWin_arbs (s h k x) : (putWin s h k x).arbs = s.arbs := rfl
@[simp] theorem putWin_arbOn (s h k x) : (putWin s h k x).arbOn = s.arbOn := rfl
@[simp] theorem putWin_flits (s h k x) : (putWin s h k x).flits = s.flits := rfl
@[simp] theorem putWin_stranded (s h k x) : (putWin s h k x).stranded = s.stranded := rfl
@[simp] theorem putWin_ports (s h k x) : (putWin s h k x).ports = s.ports := rfl
@[simp] theorem putWin_buckets (s h k x) : (putWin s h k x).buckets = s.buckets := rfl
@[simp] theorem putWin_meters (s h k x) : (putWin s h k x).meters = s.meters := rfl
@[simp] theorem putWin_mem (s h k x) : (putWin s h k x).mem = s.mem := rfl
@[simp] theorem putWin_badLines (s h k x) : (putWin s h k x).badLines = s.badLines := rfl
@[simp] theorem putWin_regions (s h k x) : (putWin s h k x).regions = s.regions := rfl
@[simp] theorem putWin_reserve (s h k x) : (putWin s h k x).reserve = s.reserve := rfl
@[simp] theorem putWin_era (s h k x) : (putWin s h k x).era = s.era := rfl
@[simp] theorem putWin_entries (s h k x) : (putWin s h k x).entries = s.entries := rfl
@[simp] theorem putWin_chans (s h k x) : (putWin s h k x).chans = s.chans := rfl
@[simp] theorem putWin_memLog (s h k x) : (putWin s h k x).memLog = s.memLog := rfl
@[simp] theorem putWin_macAt (s h k x) : (putWin s h k x).macAt = s.macAt := rfl
@[simp] theorem putWin_fill (s h k x) : (putWin s h k x).fill = s.fill := rfl
@[simp] theorem putWin_parts (s h k x) : (putWin s h k x).parts = s.parts := rfl
@[simp] theorem putWin_partCmd (s h k x) : (putWin s h k x).partCmd = s.partCmd := rfl
@[simp] theorem putWin_certLog (s h k x) : (putWin s h k x).certLog = s.certLog := rfl
@[simp] theorem putWin_rtp (s h k x) : (putWin s h k x).rtp = s.rtp := rfl
@[simp] theorem putWin_attQueue (s h k x) : (putWin s h k x).attQueue = s.attQueue := rfl
@[simp] theorem putWin_attSeq (s h k x) : (putWin s h k x).attSeq = s.attSeq := rfl
@[simp] theorem putWin_kexs (s h k x) : (putWin s h k x).kexs = s.kexs := rfl
@[simp] theorem putWin_peers (s h k x) : (putWin s h k x).peers = s.peers := rfl
@[simp] theorem putWin_ownerKeys (s h k x) : (putWin s h k x).ownerKeys = s.ownerKeys := rfl
@[simp] theorem putWin_gloveIds (s h k x) : (putWin s h k x).gloveIds = s.gloveIds := rfl
@[simp] theorem putWin_gloveHdrs (s h k x) : (putWin s h k x).gloveHdrs = s.gloveHdrs := rfl
@[simp] theorem putWin_openings (s h k x) : (putWin s h k x).openings = s.openings := rfl
@[simp] theorem putWin_secLog (s h k x) : (putWin s h k x).secLog = s.secLog := rfl
@[simp] theorem putWin_secAt (s h k x) : (putWin s h k x).secAt = s.secAt := rfl
@[simp] theorem putWin_minSvn (s h k x) : (putWin s h k x).minSvn = s.minSvn := rfl
@[simp] theorem putWin_entropyOk (s h k x) : (putWin s h k x).entropyOk = s.entropyOk := rfl
@[simp] theorem putWin_power (s h k x) : (putWin s h k x).power = s.power := rfl
@[simp] theorem putWin_budgets (s h k x) : (putWin s h k x).budgets = s.budgets := rfl
@[simp] theorem putWin_allots (s h k x) : (putWin s h k x).allots = s.allots := rfl
@[simp] theorem putWin_gateHeld (s h k x) : (putWin s h k x).gateHeld = s.gateHeld := rfl
@[simp] theorem putWin_streams (s h k x) : (putWin s h k x).streams = s.streams := rfl
@[simp] theorem putWin_channels (s h k x) : (putWin s h k x).channels = s.channels := rfl
@[simp] theorem putWin_obsBucket (s h k x) : (putWin s h k x).obsBucket = s.obsBucket := rfl
@[simp] theorem putWin_obsCyc (s h k x) : (putWin s h k x).obsCyc = s.obsCyc := rfl
@[simp] theorem putWin_banks (s h k x) : (putWin s h k x).banks = s.banks := rfl
@[simp] theorem putWin_mitTile (s h k x) : (putWin s h k x).mitTile = s.mitTile := rfl
@[simp] theorem putWin_mitRegs (s h k x) : (putWin s h k x).mitRegs = s.mitRegs := rfl
@[simp] theorem putWin_pcLast (s h k x) : (putWin s h k x).pcLast = s.pcLast := rfl
@[simp] theorem putWin_mitLast (s h k x) : (putWin s h k x).mitLast = s.mitLast := rfl
@[simp] theorem putWin_calm (s h k x) : (putWin s h k x).calm = s.calm := rfl
@[simp] theorem putWin_charge (s h k x) : (putWin s h k x).charge = s.charge := rfl
@[simp] theorem putWin_swaps (s h k x) : (putWin s h k x).swaps = s.swaps := rfl
@[simp] theorem putWin_heldStarts (s h k x) : (putWin s h k x).heldStarts = s.heldStarts := rfl
@[simp] theorem putWin_srSwap (s h k x) : (putWin s h k x).srSwap = s.srSwap := rfl
@[simp] theorem putWin_frameSwaps (s h k x) : (putWin s h k x).frameSwaps = s.frameSwaps := rfl
@[simp] theorem putWin_frameSpares (s h k x) : (putWin s h k x).frameSpares = s.frameSpares := rfl
@[simp] theorem putWin_wearLife (s h k x) : (putWin s h k x).wearLife = s.wearLife := rfl
@[simp] theorem putWin_wearDay (s h k x) : (putWin s h k x).wearDay = s.wearDay := rfl
@[simp] theorem putWin_wearDayNo (s h k x) : (putWin s h k x).wearDayNo = s.wearDayNo := rfl
@[simp] theorem putWin_autoQueue (s h k x) : (putWin s h k x).autoQueue = s.autoQueue := rfl
@[simp] theorem putWin_retireCyc (s h k x) : (putWin s h k x).retireCyc = s.retireCyc := rfl
@[simp] theorem putWin_fuseUsed (s h k x) : (putWin s h k x).fuseUsed = s.fuseUsed := rfl
@[simp] theorem putWin_fuseQueue (s h k x) : (putWin s h k x).fuseQueue = s.fuseQueue := rfl
@[simp] theorem putWin_fuseFull (s h k x) : (putWin s h k x).fuseFull = s.fuseFull := rfl
@[simp] theorem putWin_rowsUsed (s h k x) : (putWin s h k x).rowsUsed = s.rowsUsed := rfl
@[simp] theorem putWin_laneMap (s h k x) : (putWin s h k x).laneMap = s.laneMap := rfl
@[simp] theorem putWin_ready (s h k x) : (putWin s h k x).ready = s.ready := rfl
@[simp] theorem putWin_railFell (s h k x) : (putWin s h k x).railFell = s.railFell := rfl
@[simp] theorem putWin_pgSb (s h k x) : (putWin s h k x).pgSb = s.pgSb := rfl
@[simp] theorem putWin_broken (s h k x) : (putWin s h k x).broken = s.broken := rfl

/-! ### `onCalm` writes `calm` alone -/

@[simp] theorem onCalm_cfg (s h f) : (onCalm s h f).cfg = s.cfg := rfl
@[simp] theorem onCalm_pending (s h f) : (onCalm s h f).pending = s.pending := rfl
@[simp] theorem onCalm_cyc (s h f) : (onCalm s h f).cyc = s.cyc := rfl
@[simp] theorem onCalm_fresh (s h f) : (onCalm s h f).fresh = s.fresh := rfl
@[simp] theorem onCalm_inForce (s h f) : (onCalm s h f).inForce = s.inForce := rfl
@[simp] theorem onCalm_regs (s h f) : (onCalm s h f).regs = s.regs := rfl
@[simp] theorem onCalm_pages (s h f) : (onCalm s h f).pages = s.pages := rfl
@[simp] theorem onCalm_wins (s h f) : (onCalm s h f).wins = s.wins := rfl
@[simp] theorem onCalm_mports (s h f) : (onCalm s h f).mports = s.mports := rfl
@[simp] theorem onCalm_sumSeq (s h f) : (onCalm s h f).sumSeq = s.sumSeq := rfl
@[simp] theorem onCalm_sumCyc (s h f) : (onCalm s h f).sumCyc = s.sumCyc := rfl
@[simp] theorem onCalm_ftu (s h f) : (onCalm s h f).ftu = s.ftu := rfl
@[simp] theorem onCalm_sched (s h f) : (onCalm s h f).sched = s.sched := rfl
@[simp] theorem onCalm_ends (s h f) : (onCalm s h f).ends = s.ends := rfl
@[simp] theorem onCalm_trigCyc (s h f) : (onCalm s h f).trigCyc = s.trigCyc := rfl
@[simp] theorem onCalm_trigHigh (s h f) : (onCalm s h f).trigHigh = s.trigHigh := rfl
@[simp] theorem onCalm_bypWin (s h f) : (onCalm s h f).bypWin = s.bypWin := rfl
@[simp] theorem onCalm_bypStat (s h f) : (onCalm s h f).bypStat = s.bypStat := rfl
@[simp] theorem onCalm_tiles (s h f) : (onCalm s h f).tiles = s.tiles := rfl
@[simp] theorem onCalm_tmap (s h f) : (onCalm s h f).tmap = s.tmap := rfl
@[simp] theorem onCalm_bankUse (s h f) : (onCalm s h f).bankUse = s.bankUse := rfl
@[simp] theorem onCalm_bankLost (s h f) : (onCalm s h f).bankLost = s.bankLost := rfl
@[simp] theorem onCalm_ssends (s h f) : (onCalm s h f).ssends = s.ssends := rfl
@[simp] theorem onCalm_gates (s h f) : (onCalm s h f).gates = s.gates := rfl
@[simp] theorem onCalm_sessions (s h f) : (onCalm s h f).sessions = s.sessions := rfl
@[simp] theorem onCalm_copies (s h f) : (onCalm s h f).copies = s.copies := rfl
@[simp] theorem onCalm_wvGroups (s h f) : (onCalm s h f).wvGroups = s.wvGroups := rfl
@[simp] theorem onCalm_wvFlits (s h f) : (onCalm s h f).wvFlits = s.wvFlits := rfl
@[simp] theorem onCalm_wvEpochs (s h f) : (onCalm s h f).wvEpochs = s.wvEpochs := rfl
@[simp] theorem onCalm_wvTurn (s h f) : (onCalm s h f).wvTurn = s.wvTurn := rfl
@[simp] theorem onCalm_srRole (s h f) : (onCalm s h f).srRole = s.srRole := rfl
@[simp] theorem onCalm_audits (s h f) : (onCalm s h f).audits = s.audits := rfl
@[simp] theorem onCalm_denseSeq (s h f) : (onCalm s h f).denseSeq = s.denseSeq := rfl
@[simp] theorem onCalm_reports (s h f) : (onCalm s h f).reports = s.reports := rfl
@[simp] theorem onCalm_repLost (s h f) : (onCalm s h f).repLost = s.repLost := rfl
@[simp] theorem onCalm_arbs (s h f) : (onCalm s h f).arbs = s.arbs := rfl
@[simp] theorem onCalm_arbOn (s h f) : (onCalm s h f).arbOn = s.arbOn := rfl
@[simp] theorem onCalm_flits (s h f) : (onCalm s h f).flits = s.flits := rfl
@[simp] theorem onCalm_stranded (s h f) : (onCalm s h f).stranded = s.stranded := rfl
@[simp] theorem onCalm_ports (s h f) : (onCalm s h f).ports = s.ports := rfl
@[simp] theorem onCalm_buckets (s h f) : (onCalm s h f).buckets = s.buckets := rfl
@[simp] theorem onCalm_meters (s h f) : (onCalm s h f).meters = s.meters := rfl
@[simp] theorem onCalm_mem (s h f) : (onCalm s h f).mem = s.mem := rfl
@[simp] theorem onCalm_badLines (s h f) : (onCalm s h f).badLines = s.badLines := rfl
@[simp] theorem onCalm_regions (s h f) : (onCalm s h f).regions = s.regions := rfl
@[simp] theorem onCalm_reserve (s h f) : (onCalm s h f).reserve = s.reserve := rfl
@[simp] theorem onCalm_era (s h f) : (onCalm s h f).era = s.era := rfl
@[simp] theorem onCalm_entries (s h f) : (onCalm s h f).entries = s.entries := rfl
@[simp] theorem onCalm_chans (s h f) : (onCalm s h f).chans = s.chans := rfl
@[simp] theorem onCalm_memLog (s h f) : (onCalm s h f).memLog = s.memLog := rfl
@[simp] theorem onCalm_macAt (s h f) : (onCalm s h f).macAt = s.macAt := rfl
@[simp] theorem onCalm_fill (s h f) : (onCalm s h f).fill = s.fill := rfl
@[simp] theorem onCalm_parts (s h f) : (onCalm s h f).parts = s.parts := rfl
@[simp] theorem onCalm_partCmd (s h f) : (onCalm s h f).partCmd = s.partCmd := rfl
@[simp] theorem onCalm_certLog (s h f) : (onCalm s h f).certLog = s.certLog := rfl
@[simp] theorem onCalm_rtp (s h f) : (onCalm s h f).rtp = s.rtp := rfl
@[simp] theorem onCalm_attQueue (s h f) : (onCalm s h f).attQueue = s.attQueue := rfl
@[simp] theorem onCalm_attSeq (s h f) : (onCalm s h f).attSeq = s.attSeq := rfl
@[simp] theorem onCalm_kexs (s h f) : (onCalm s h f).kexs = s.kexs := rfl
@[simp] theorem onCalm_peers (s h f) : (onCalm s h f).peers = s.peers := rfl
@[simp] theorem onCalm_ownerKeys (s h f) : (onCalm s h f).ownerKeys = s.ownerKeys := rfl
@[simp] theorem onCalm_gloveIds (s h f) : (onCalm s h f).gloveIds = s.gloveIds := rfl
@[simp] theorem onCalm_gloveHdrs (s h f) : (onCalm s h f).gloveHdrs = s.gloveHdrs := rfl
@[simp] theorem onCalm_openings (s h f) : (onCalm s h f).openings = s.openings := rfl
@[simp] theorem onCalm_secLog (s h f) : (onCalm s h f).secLog = s.secLog := rfl
@[simp] theorem onCalm_secAt (s h f) : (onCalm s h f).secAt = s.secAt := rfl
@[simp] theorem onCalm_minSvn (s h f) : (onCalm s h f).minSvn = s.minSvn := rfl
@[simp] theorem onCalm_entropyOk (s h f) : (onCalm s h f).entropyOk = s.entropyOk := rfl
@[simp] theorem onCalm_power (s h f) : (onCalm s h f).power = s.power := rfl
@[simp] theorem onCalm_budgets (s h f) : (onCalm s h f).budgets = s.budgets := rfl
@[simp] theorem onCalm_allots (s h f) : (onCalm s h f).allots = s.allots := rfl
@[simp] theorem onCalm_gateHeld (s h f) : (onCalm s h f).gateHeld = s.gateHeld := rfl
@[simp] theorem onCalm_streams (s h f) : (onCalm s h f).streams = s.streams := rfl
@[simp] theorem onCalm_channels (s h f) : (onCalm s h f).channels = s.channels := rfl
@[simp] theorem onCalm_obsBucket (s h f) : (onCalm s h f).obsBucket = s.obsBucket := rfl
@[simp] theorem onCalm_obsCyc (s h f) : (onCalm s h f).obsCyc = s.obsCyc := rfl
@[simp] theorem onCalm_banks (s h f) : (onCalm s h f).banks = s.banks := rfl
@[simp] theorem onCalm_mitTile (s h f) : (onCalm s h f).mitTile = s.mitTile := rfl
@[simp] theorem onCalm_mitRegs (s h f) : (onCalm s h f).mitRegs = s.mitRegs := rfl
@[simp] theorem onCalm_pcLast (s h f) : (onCalm s h f).pcLast = s.pcLast := rfl
@[simp] theorem onCalm_mitLast (s h f) : (onCalm s h f).mitLast = s.mitLast := rfl
@[simp] theorem onCalm_charge (s h f) : (onCalm s h f).charge = s.charge := rfl
@[simp] theorem onCalm_swaps (s h f) : (onCalm s h f).swaps = s.swaps := rfl
@[simp] theorem onCalm_heldStarts (s h f) : (onCalm s h f).heldStarts = s.heldStarts := rfl
@[simp] theorem onCalm_srSwap (s h f) : (onCalm s h f).srSwap = s.srSwap := rfl
@[simp] theorem onCalm_frameSwaps (s h f) : (onCalm s h f).frameSwaps = s.frameSwaps := rfl
@[simp] theorem onCalm_frameSpares (s h f) : (onCalm s h f).frameSpares = s.frameSpares := rfl
@[simp] theorem onCalm_wearLife (s h f) : (onCalm s h f).wearLife = s.wearLife := rfl
@[simp] theorem onCalm_wearDay (s h f) : (onCalm s h f).wearDay = s.wearDay := rfl
@[simp] theorem onCalm_wearDayNo (s h f) : (onCalm s h f).wearDayNo = s.wearDayNo := rfl
@[simp] theorem onCalm_autoQueue (s h f) : (onCalm s h f).autoQueue = s.autoQueue := rfl
@[simp] theorem onCalm_retireCyc (s h f) : (onCalm s h f).retireCyc = s.retireCyc := rfl
@[simp] theorem onCalm_fuseUsed (s h f) : (onCalm s h f).fuseUsed = s.fuseUsed := rfl
@[simp] theorem onCalm_fuseQueue (s h f) : (onCalm s h f).fuseQueue = s.fuseQueue := rfl
@[simp] theorem onCalm_fuseFull (s h f) : (onCalm s h f).fuseFull = s.fuseFull := rfl
@[simp] theorem onCalm_rowsUsed (s h f) : (onCalm s h f).rowsUsed = s.rowsUsed := rfl
@[simp] theorem onCalm_laneMap (s h f) : (onCalm s h f).laneMap = s.laneMap := rfl
@[simp] theorem onCalm_ready (s h f) : (onCalm s h f).ready = s.ready := rfl
@[simp] theorem onCalm_railFell (s h f) : (onCalm s h f).railFell = s.railFell := rfl
@[simp] theorem onCalm_pgSb (s h f) : (onCalm s h f).pgSb = s.pgSb := rfl
@[simp] theorem onCalm_broken (s h f) : (onCalm s h f).broken = s.broken := rfl

/-! ### `onFtu` writes `ftu` alone -/

@[simp] theorem onFtu_cfg (s h f) : (onFtu s h f).cfg = s.cfg := rfl
@[simp] theorem onFtu_pending (s h f) : (onFtu s h f).pending = s.pending := rfl
@[simp] theorem onFtu_cyc (s h f) : (onFtu s h f).cyc = s.cyc := rfl
@[simp] theorem onFtu_fresh (s h f) : (onFtu s h f).fresh = s.fresh := rfl
@[simp] theorem onFtu_inForce (s h f) : (onFtu s h f).inForce = s.inForce := rfl
@[simp] theorem onFtu_regs (s h f) : (onFtu s h f).regs = s.regs := rfl
@[simp] theorem onFtu_pages (s h f) : (onFtu s h f).pages = s.pages := rfl
@[simp] theorem onFtu_wins (s h f) : (onFtu s h f).wins = s.wins := rfl
@[simp] theorem onFtu_mports (s h f) : (onFtu s h f).mports = s.mports := rfl
@[simp] theorem onFtu_sumSeq (s h f) : (onFtu s h f).sumSeq = s.sumSeq := rfl
@[simp] theorem onFtu_sumCyc (s h f) : (onFtu s h f).sumCyc = s.sumCyc := rfl
@[simp] theorem onFtu_sched (s h f) : (onFtu s h f).sched = s.sched := rfl
@[simp] theorem onFtu_ends (s h f) : (onFtu s h f).ends = s.ends := rfl
@[simp] theorem onFtu_trigCyc (s h f) : (onFtu s h f).trigCyc = s.trigCyc := rfl
@[simp] theorem onFtu_trigHigh (s h f) : (onFtu s h f).trigHigh = s.trigHigh := rfl
@[simp] theorem onFtu_bypWin (s h f) : (onFtu s h f).bypWin = s.bypWin := rfl
@[simp] theorem onFtu_bypStat (s h f) : (onFtu s h f).bypStat = s.bypStat := rfl
@[simp] theorem onFtu_tiles (s h f) : (onFtu s h f).tiles = s.tiles := rfl
@[simp] theorem onFtu_tmap (s h f) : (onFtu s h f).tmap = s.tmap := rfl
@[simp] theorem onFtu_bankUse (s h f) : (onFtu s h f).bankUse = s.bankUse := rfl
@[simp] theorem onFtu_bankLost (s h f) : (onFtu s h f).bankLost = s.bankLost := rfl
@[simp] theorem onFtu_ssends (s h f) : (onFtu s h f).ssends = s.ssends := rfl
@[simp] theorem onFtu_gates (s h f) : (onFtu s h f).gates = s.gates := rfl
@[simp] theorem onFtu_sessions (s h f) : (onFtu s h f).sessions = s.sessions := rfl
@[simp] theorem onFtu_copies (s h f) : (onFtu s h f).copies = s.copies := rfl
@[simp] theorem onFtu_wvGroups (s h f) : (onFtu s h f).wvGroups = s.wvGroups := rfl
@[simp] theorem onFtu_wvFlits (s h f) : (onFtu s h f).wvFlits = s.wvFlits := rfl
@[simp] theorem onFtu_wvEpochs (s h f) : (onFtu s h f).wvEpochs = s.wvEpochs := rfl
@[simp] theorem onFtu_wvTurn (s h f) : (onFtu s h f).wvTurn = s.wvTurn := rfl
@[simp] theorem onFtu_srRole (s h f) : (onFtu s h f).srRole = s.srRole := rfl
@[simp] theorem onFtu_audits (s h f) : (onFtu s h f).audits = s.audits := rfl
@[simp] theorem onFtu_denseSeq (s h f) : (onFtu s h f).denseSeq = s.denseSeq := rfl
@[simp] theorem onFtu_reports (s h f) : (onFtu s h f).reports = s.reports := rfl
@[simp] theorem onFtu_repLost (s h f) : (onFtu s h f).repLost = s.repLost := rfl
@[simp] theorem onFtu_arbs (s h f) : (onFtu s h f).arbs = s.arbs := rfl
@[simp] theorem onFtu_arbOn (s h f) : (onFtu s h f).arbOn = s.arbOn := rfl
@[simp] theorem onFtu_flits (s h f) : (onFtu s h f).flits = s.flits := rfl
@[simp] theorem onFtu_stranded (s h f) : (onFtu s h f).stranded = s.stranded := rfl
@[simp] theorem onFtu_ports (s h f) : (onFtu s h f).ports = s.ports := rfl
@[simp] theorem onFtu_buckets (s h f) : (onFtu s h f).buckets = s.buckets := rfl
@[simp] theorem onFtu_meters (s h f) : (onFtu s h f).meters = s.meters := rfl
@[simp] theorem onFtu_mem (s h f) : (onFtu s h f).mem = s.mem := rfl
@[simp] theorem onFtu_badLines (s h f) : (onFtu s h f).badLines = s.badLines := rfl
@[simp] theorem onFtu_regions (s h f) : (onFtu s h f).regions = s.regions := rfl
@[simp] theorem onFtu_reserve (s h f) : (onFtu s h f).reserve = s.reserve := rfl
@[simp] theorem onFtu_era (s h f) : (onFtu s h f).era = s.era := rfl
@[simp] theorem onFtu_entries (s h f) : (onFtu s h f).entries = s.entries := rfl
@[simp] theorem onFtu_chans (s h f) : (onFtu s h f).chans = s.chans := rfl
@[simp] theorem onFtu_memLog (s h f) : (onFtu s h f).memLog = s.memLog := rfl
@[simp] theorem onFtu_macAt (s h f) : (onFtu s h f).macAt = s.macAt := rfl
@[simp] theorem onFtu_fill (s h f) : (onFtu s h f).fill = s.fill := rfl
@[simp] theorem onFtu_parts (s h f) : (onFtu s h f).parts = s.parts := rfl
@[simp] theorem onFtu_partCmd (s h f) : (onFtu s h f).partCmd = s.partCmd := rfl
@[simp] theorem onFtu_certLog (s h f) : (onFtu s h f).certLog = s.certLog := rfl
@[simp] theorem onFtu_rtp (s h f) : (onFtu s h f).rtp = s.rtp := rfl
@[simp] theorem onFtu_attQueue (s h f) : (onFtu s h f).attQueue = s.attQueue := rfl
@[simp] theorem onFtu_attSeq (s h f) : (onFtu s h f).attSeq = s.attSeq := rfl
@[simp] theorem onFtu_kexs (s h f) : (onFtu s h f).kexs = s.kexs := rfl
@[simp] theorem onFtu_peers (s h f) : (onFtu s h f).peers = s.peers := rfl
@[simp] theorem onFtu_ownerKeys (s h f) : (onFtu s h f).ownerKeys = s.ownerKeys := rfl
@[simp] theorem onFtu_gloveIds (s h f) : (onFtu s h f).gloveIds = s.gloveIds := rfl
@[simp] theorem onFtu_gloveHdrs (s h f) : (onFtu s h f).gloveHdrs = s.gloveHdrs := rfl
@[simp] theorem onFtu_openings (s h f) : (onFtu s h f).openings = s.openings := rfl
@[simp] theorem onFtu_secLog (s h f) : (onFtu s h f).secLog = s.secLog := rfl
@[simp] theorem onFtu_secAt (s h f) : (onFtu s h f).secAt = s.secAt := rfl
@[simp] theorem onFtu_minSvn (s h f) : (onFtu s h f).minSvn = s.minSvn := rfl
@[simp] theorem onFtu_entropyOk (s h f) : (onFtu s h f).entropyOk = s.entropyOk := rfl
@[simp] theorem onFtu_power (s h f) : (onFtu s h f).power = s.power := rfl
@[simp] theorem onFtu_budgets (s h f) : (onFtu s h f).budgets = s.budgets := rfl
@[simp] theorem onFtu_allots (s h f) : (onFtu s h f).allots = s.allots := rfl
@[simp] theorem onFtu_gateHeld (s h f) : (onFtu s h f).gateHeld = s.gateHeld := rfl
@[simp] theorem onFtu_streams (s h f) : (onFtu s h f).streams = s.streams := rfl
@[simp] theorem onFtu_channels (s h f) : (onFtu s h f).channels = s.channels := rfl
@[simp] theorem onFtu_obsBucket (s h f) : (onFtu s h f).obsBucket = s.obsBucket := rfl
@[simp] theorem onFtu_obsCyc (s h f) : (onFtu s h f).obsCyc = s.obsCyc := rfl
@[simp] theorem onFtu_banks (s h f) : (onFtu s h f).banks = s.banks := rfl
@[simp] theorem onFtu_mitTile (s h f) : (onFtu s h f).mitTile = s.mitTile := rfl
@[simp] theorem onFtu_mitRegs (s h f) : (onFtu s h f).mitRegs = s.mitRegs := rfl
@[simp] theorem onFtu_pcLast (s h f) : (onFtu s h f).pcLast = s.pcLast := rfl
@[simp] theorem onFtu_mitLast (s h f) : (onFtu s h f).mitLast = s.mitLast := rfl
@[simp] theorem onFtu_calm (s h f) : (onFtu s h f).calm = s.calm := rfl
@[simp] theorem onFtu_charge (s h f) : (onFtu s h f).charge = s.charge := rfl
@[simp] theorem onFtu_swaps (s h f) : (onFtu s h f).swaps = s.swaps := rfl
@[simp] theorem onFtu_heldStarts (s h f) : (onFtu s h f).heldStarts = s.heldStarts := rfl
@[simp] theorem onFtu_srSwap (s h f) : (onFtu s h f).srSwap = s.srSwap := rfl
@[simp] theorem onFtu_frameSwaps (s h f) : (onFtu s h f).frameSwaps = s.frameSwaps := rfl
@[simp] theorem onFtu_frameSpares (s h f) : (onFtu s h f).frameSpares = s.frameSpares := rfl
@[simp] theorem onFtu_wearLife (s h f) : (onFtu s h f).wearLife = s.wearLife := rfl
@[simp] theorem onFtu_wearDay (s h f) : (onFtu s h f).wearDay = s.wearDay := rfl
@[simp] theorem onFtu_wearDayNo (s h f) : (onFtu s h f).wearDayNo = s.wearDayNo := rfl
@[simp] theorem onFtu_autoQueue (s h f) : (onFtu s h f).autoQueue = s.autoQueue := rfl
@[simp] theorem onFtu_retireCyc (s h f) : (onFtu s h f).retireCyc = s.retireCyc := rfl
@[simp] theorem onFtu_fuseUsed (s h f) : (onFtu s h f).fuseUsed = s.fuseUsed := rfl
@[simp] theorem onFtu_fuseQueue (s h f) : (onFtu s h f).fuseQueue = s.fuseQueue := rfl
@[simp] theorem onFtu_fuseFull (s h f) : (onFtu s h f).fuseFull = s.fuseFull := rfl
@[simp] theorem onFtu_rowsUsed (s h f) : (onFtu s h f).rowsUsed = s.rowsUsed := rfl
@[simp] theorem onFtu_laneMap (s h f) : (onFtu s h f).laneMap = s.laneMap := rfl
@[simp] theorem onFtu_ready (s h f) : (onFtu s h f).ready = s.ready := rfl
@[simp] theorem onFtu_railFell (s h f) : (onFtu s h f).railFell = s.railFell := rfl
@[simp] theorem onFtu_pgSb (s h f) : (onFtu s h f).pgSb = s.pgSb := rfl
@[simp] theorem onFtu_broken (s h f) : (onFtu s h f).broken = s.broken := rfl

/-! ### `onRtp` writes `rtp` alone -/

@[simp] theorem onRtp_cfg (s h f) : (onRtp s h f).cfg = s.cfg := rfl
@[simp] theorem onRtp_pending (s h f) : (onRtp s h f).pending = s.pending := rfl
@[simp] theorem onRtp_cyc (s h f) : (onRtp s h f).cyc = s.cyc := rfl
@[simp] theorem onRtp_fresh (s h f) : (onRtp s h f).fresh = s.fresh := rfl
@[simp] theorem onRtp_inForce (s h f) : (onRtp s h f).inForce = s.inForce := rfl
@[simp] theorem onRtp_regs (s h f) : (onRtp s h f).regs = s.regs := rfl
@[simp] theorem onRtp_pages (s h f) : (onRtp s h f).pages = s.pages := rfl
@[simp] theorem onRtp_wins (s h f) : (onRtp s h f).wins = s.wins := rfl
@[simp] theorem onRtp_mports (s h f) : (onRtp s h f).mports = s.mports := rfl
@[simp] theorem onRtp_sumSeq (s h f) : (onRtp s h f).sumSeq = s.sumSeq := rfl
@[simp] theorem onRtp_sumCyc (s h f) : (onRtp s h f).sumCyc = s.sumCyc := rfl
@[simp] theorem onRtp_ftu (s h f) : (onRtp s h f).ftu = s.ftu := rfl
@[simp] theorem onRtp_sched (s h f) : (onRtp s h f).sched = s.sched := rfl
@[simp] theorem onRtp_ends (s h f) : (onRtp s h f).ends = s.ends := rfl
@[simp] theorem onRtp_trigCyc (s h f) : (onRtp s h f).trigCyc = s.trigCyc := rfl
@[simp] theorem onRtp_trigHigh (s h f) : (onRtp s h f).trigHigh = s.trigHigh := rfl
@[simp] theorem onRtp_bypWin (s h f) : (onRtp s h f).bypWin = s.bypWin := rfl
@[simp] theorem onRtp_bypStat (s h f) : (onRtp s h f).bypStat = s.bypStat := rfl
@[simp] theorem onRtp_tiles (s h f) : (onRtp s h f).tiles = s.tiles := rfl
@[simp] theorem onRtp_tmap (s h f) : (onRtp s h f).tmap = s.tmap := rfl
@[simp] theorem onRtp_bankUse (s h f) : (onRtp s h f).bankUse = s.bankUse := rfl
@[simp] theorem onRtp_bankLost (s h f) : (onRtp s h f).bankLost = s.bankLost := rfl
@[simp] theorem onRtp_ssends (s h f) : (onRtp s h f).ssends = s.ssends := rfl
@[simp] theorem onRtp_gates (s h f) : (onRtp s h f).gates = s.gates := rfl
@[simp] theorem onRtp_sessions (s h f) : (onRtp s h f).sessions = s.sessions := rfl
@[simp] theorem onRtp_copies (s h f) : (onRtp s h f).copies = s.copies := rfl
@[simp] theorem onRtp_wvGroups (s h f) : (onRtp s h f).wvGroups = s.wvGroups := rfl
@[simp] theorem onRtp_wvFlits (s h f) : (onRtp s h f).wvFlits = s.wvFlits := rfl
@[simp] theorem onRtp_wvEpochs (s h f) : (onRtp s h f).wvEpochs = s.wvEpochs := rfl
@[simp] theorem onRtp_wvTurn (s h f) : (onRtp s h f).wvTurn = s.wvTurn := rfl
@[simp] theorem onRtp_srRole (s h f) : (onRtp s h f).srRole = s.srRole := rfl
@[simp] theorem onRtp_audits (s h f) : (onRtp s h f).audits = s.audits := rfl
@[simp] theorem onRtp_denseSeq (s h f) : (onRtp s h f).denseSeq = s.denseSeq := rfl
@[simp] theorem onRtp_reports (s h f) : (onRtp s h f).reports = s.reports := rfl
@[simp] theorem onRtp_repLost (s h f) : (onRtp s h f).repLost = s.repLost := rfl
@[simp] theorem onRtp_arbs (s h f) : (onRtp s h f).arbs = s.arbs := rfl
@[simp] theorem onRtp_arbOn (s h f) : (onRtp s h f).arbOn = s.arbOn := rfl
@[simp] theorem onRtp_flits (s h f) : (onRtp s h f).flits = s.flits := rfl
@[simp] theorem onRtp_stranded (s h f) : (onRtp s h f).stranded = s.stranded := rfl
@[simp] theorem onRtp_ports (s h f) : (onRtp s h f).ports = s.ports := rfl
@[simp] theorem onRtp_buckets (s h f) : (onRtp s h f).buckets = s.buckets := rfl
@[simp] theorem onRtp_meters (s h f) : (onRtp s h f).meters = s.meters := rfl
@[simp] theorem onRtp_mem (s h f) : (onRtp s h f).mem = s.mem := rfl
@[simp] theorem onRtp_badLines (s h f) : (onRtp s h f).badLines = s.badLines := rfl
@[simp] theorem onRtp_regions (s h f) : (onRtp s h f).regions = s.regions := rfl
@[simp] theorem onRtp_reserve (s h f) : (onRtp s h f).reserve = s.reserve := rfl
@[simp] theorem onRtp_era (s h f) : (onRtp s h f).era = s.era := rfl
@[simp] theorem onRtp_entries (s h f) : (onRtp s h f).entries = s.entries := rfl
@[simp] theorem onRtp_chans (s h f) : (onRtp s h f).chans = s.chans := rfl
@[simp] theorem onRtp_memLog (s h f) : (onRtp s h f).memLog = s.memLog := rfl
@[simp] theorem onRtp_macAt (s h f) : (onRtp s h f).macAt = s.macAt := rfl
@[simp] theorem onRtp_fill (s h f) : (onRtp s h f).fill = s.fill := rfl
@[simp] theorem onRtp_parts (s h f) : (onRtp s h f).parts = s.parts := rfl
@[simp] theorem onRtp_partCmd (s h f) : (onRtp s h f).partCmd = s.partCmd := rfl
@[simp] theorem onRtp_certLog (s h f) : (onRtp s h f).certLog = s.certLog := rfl
@[simp] theorem onRtp_attQueue (s h f) : (onRtp s h f).attQueue = s.attQueue := rfl
@[simp] theorem onRtp_attSeq (s h f) : (onRtp s h f).attSeq = s.attSeq := rfl
@[simp] theorem onRtp_kexs (s h f) : (onRtp s h f).kexs = s.kexs := rfl
@[simp] theorem onRtp_peers (s h f) : (onRtp s h f).peers = s.peers := rfl
@[simp] theorem onRtp_ownerKeys (s h f) : (onRtp s h f).ownerKeys = s.ownerKeys := rfl
@[simp] theorem onRtp_gloveIds (s h f) : (onRtp s h f).gloveIds = s.gloveIds := rfl
@[simp] theorem onRtp_gloveHdrs (s h f) : (onRtp s h f).gloveHdrs = s.gloveHdrs := rfl
@[simp] theorem onRtp_openings (s h f) : (onRtp s h f).openings = s.openings := rfl
@[simp] theorem onRtp_secLog (s h f) : (onRtp s h f).secLog = s.secLog := rfl
@[simp] theorem onRtp_secAt (s h f) : (onRtp s h f).secAt = s.secAt := rfl
@[simp] theorem onRtp_minSvn (s h f) : (onRtp s h f).minSvn = s.minSvn := rfl
@[simp] theorem onRtp_entropyOk (s h f) : (onRtp s h f).entropyOk = s.entropyOk := rfl
@[simp] theorem onRtp_power (s h f) : (onRtp s h f).power = s.power := rfl
@[simp] theorem onRtp_budgets (s h f) : (onRtp s h f).budgets = s.budgets := rfl
@[simp] theorem onRtp_allots (s h f) : (onRtp s h f).allots = s.allots := rfl
@[simp] theorem onRtp_gateHeld (s h f) : (onRtp s h f).gateHeld = s.gateHeld := rfl
@[simp] theorem onRtp_streams (s h f) : (onRtp s h f).streams = s.streams := rfl
@[simp] theorem onRtp_channels (s h f) : (onRtp s h f).channels = s.channels := rfl
@[simp] theorem onRtp_obsBucket (s h f) : (onRtp s h f).obsBucket = s.obsBucket := rfl
@[simp] theorem onRtp_obsCyc (s h f) : (onRtp s h f).obsCyc = s.obsCyc := rfl
@[simp] theorem onRtp_banks (s h f) : (onRtp s h f).banks = s.banks := rfl
@[simp] theorem onRtp_mitTile (s h f) : (onRtp s h f).mitTile = s.mitTile := rfl
@[simp] theorem onRtp_mitRegs (s h f) : (onRtp s h f).mitRegs = s.mitRegs := rfl
@[simp] theorem onRtp_pcLast (s h f) : (onRtp s h f).pcLast = s.pcLast := rfl
@[simp] theorem onRtp_mitLast (s h f) : (onRtp s h f).mitLast = s.mitLast := rfl
@[simp] theorem onRtp_calm (s h f) : (onRtp s h f).calm = s.calm := rfl
@[simp] theorem onRtp_charge (s h f) : (onRtp s h f).charge = s.charge := rfl
@[simp] theorem onRtp_swaps (s h f) : (onRtp s h f).swaps = s.swaps := rfl
@[simp] theorem onRtp_heldStarts (s h f) : (onRtp s h f).heldStarts = s.heldStarts := rfl
@[simp] theorem onRtp_srSwap (s h f) : (onRtp s h f).srSwap = s.srSwap := rfl
@[simp] theorem onRtp_frameSwaps (s h f) : (onRtp s h f).frameSwaps = s.frameSwaps := rfl
@[simp] theorem onRtp_frameSpares (s h f) : (onRtp s h f).frameSpares = s.frameSpares := rfl
@[simp] theorem onRtp_wearLife (s h f) : (onRtp s h f).wearLife = s.wearLife := rfl
@[simp] theorem onRtp_wearDay (s h f) : (onRtp s h f).wearDay = s.wearDay := rfl
@[simp] theorem onRtp_wearDayNo (s h f) : (onRtp s h f).wearDayNo = s.wearDayNo := rfl
@[simp] theorem onRtp_autoQueue (s h f) : (onRtp s h f).autoQueue = s.autoQueue := rfl
@[simp] theorem onRtp_retireCyc (s h f) : (onRtp s h f).retireCyc = s.retireCyc := rfl
@[simp] theorem onRtp_fuseUsed (s h f) : (onRtp s h f).fuseUsed = s.fuseUsed := rfl
@[simp] theorem onRtp_fuseQueue (s h f) : (onRtp s h f).fuseQueue = s.fuseQueue := rfl
@[simp] theorem onRtp_fuseFull (s h f) : (onRtp s h f).fuseFull = s.fuseFull := rfl
@[simp] theorem onRtp_rowsUsed (s h f) : (onRtp s h f).rowsUsed = s.rowsUsed := rfl
@[simp] theorem onRtp_laneMap (s h f) : (onRtp s h f).laneMap = s.laneMap := rfl
@[simp] theorem onRtp_ready (s h f) : (onRtp s h f).ready = s.ready := rfl
@[simp] theorem onRtp_railFell (s h f) : (onRtp s h f).railFell = s.railFell := rfl
@[simp] theorem onRtp_pgSb (s h f) : (onRtp s h f).pgSb = s.pgSb := rfl
@[simp] theorem onRtp_broken (s h f) : (onRtp s h f).broken = s.broken := rfl

/-! ### `onCharge` writes `charge` alone -/

@[simp] theorem onCharge_cfg (s h f) : (onCharge s h f).cfg = s.cfg := rfl
@[simp] theorem onCharge_pending (s h f) : (onCharge s h f).pending = s.pending := rfl
@[simp] theorem onCharge_cyc (s h f) : (onCharge s h f).cyc = s.cyc := rfl
@[simp] theorem onCharge_fresh (s h f) : (onCharge s h f).fresh = s.fresh := rfl
@[simp] theorem onCharge_inForce (s h f) : (onCharge s h f).inForce = s.inForce := rfl
@[simp] theorem onCharge_regs (s h f) : (onCharge s h f).regs = s.regs := rfl
@[simp] theorem onCharge_pages (s h f) : (onCharge s h f).pages = s.pages := rfl
@[simp] theorem onCharge_wins (s h f) : (onCharge s h f).wins = s.wins := rfl
@[simp] theorem onCharge_mports (s h f) : (onCharge s h f).mports = s.mports := rfl
@[simp] theorem onCharge_sumSeq (s h f) : (onCharge s h f).sumSeq = s.sumSeq := rfl
@[simp] theorem onCharge_sumCyc (s h f) : (onCharge s h f).sumCyc = s.sumCyc := rfl
@[simp] theorem onCharge_ftu (s h f) : (onCharge s h f).ftu = s.ftu := rfl
@[simp] theorem onCharge_sched (s h f) : (onCharge s h f).sched = s.sched := rfl
@[simp] theorem onCharge_ends (s h f) : (onCharge s h f).ends = s.ends := rfl
@[simp] theorem onCharge_trigCyc (s h f) : (onCharge s h f).trigCyc = s.trigCyc := rfl
@[simp] theorem onCharge_trigHigh (s h f) : (onCharge s h f).trigHigh = s.trigHigh := rfl
@[simp] theorem onCharge_bypWin (s h f) : (onCharge s h f).bypWin = s.bypWin := rfl
@[simp] theorem onCharge_bypStat (s h f) : (onCharge s h f).bypStat = s.bypStat := rfl
@[simp] theorem onCharge_tiles (s h f) : (onCharge s h f).tiles = s.tiles := rfl
@[simp] theorem onCharge_tmap (s h f) : (onCharge s h f).tmap = s.tmap := rfl
@[simp] theorem onCharge_bankUse (s h f) : (onCharge s h f).bankUse = s.bankUse := rfl
@[simp] theorem onCharge_bankLost (s h f) : (onCharge s h f).bankLost = s.bankLost := rfl
@[simp] theorem onCharge_ssends (s h f) : (onCharge s h f).ssends = s.ssends := rfl
@[simp] theorem onCharge_gates (s h f) : (onCharge s h f).gates = s.gates := rfl
@[simp] theorem onCharge_sessions (s h f) : (onCharge s h f).sessions = s.sessions := rfl
@[simp] theorem onCharge_copies (s h f) : (onCharge s h f).copies = s.copies := rfl
@[simp] theorem onCharge_wvGroups (s h f) : (onCharge s h f).wvGroups = s.wvGroups := rfl
@[simp] theorem onCharge_wvFlits (s h f) : (onCharge s h f).wvFlits = s.wvFlits := rfl
@[simp] theorem onCharge_wvEpochs (s h f) : (onCharge s h f).wvEpochs = s.wvEpochs := rfl
@[simp] theorem onCharge_wvTurn (s h f) : (onCharge s h f).wvTurn = s.wvTurn := rfl
@[simp] theorem onCharge_srRole (s h f) : (onCharge s h f).srRole = s.srRole := rfl
@[simp] theorem onCharge_audits (s h f) : (onCharge s h f).audits = s.audits := rfl
@[simp] theorem onCharge_denseSeq (s h f) : (onCharge s h f).denseSeq = s.denseSeq := rfl
@[simp] theorem onCharge_reports (s h f) : (onCharge s h f).reports = s.reports := rfl
@[simp] theorem onCharge_repLost (s h f) : (onCharge s h f).repLost = s.repLost := rfl
@[simp] theorem onCharge_arbs (s h f) : (onCharge s h f).arbs = s.arbs := rfl
@[simp] theorem onCharge_arbOn (s h f) : (onCharge s h f).arbOn = s.arbOn := rfl
@[simp] theorem onCharge_flits (s h f) : (onCharge s h f).flits = s.flits := rfl
@[simp] theorem onCharge_stranded (s h f) : (onCharge s h f).stranded = s.stranded := rfl
@[simp] theorem onCharge_ports (s h f) : (onCharge s h f).ports = s.ports := rfl
@[simp] theorem onCharge_buckets (s h f) : (onCharge s h f).buckets = s.buckets := rfl
@[simp] theorem onCharge_meters (s h f) : (onCharge s h f).meters = s.meters := rfl
@[simp] theorem onCharge_mem (s h f) : (onCharge s h f).mem = s.mem := rfl
@[simp] theorem onCharge_badLines (s h f) : (onCharge s h f).badLines = s.badLines := rfl
@[simp] theorem onCharge_regions (s h f) : (onCharge s h f).regions = s.regions := rfl
@[simp] theorem onCharge_reserve (s h f) : (onCharge s h f).reserve = s.reserve := rfl
@[simp] theorem onCharge_era (s h f) : (onCharge s h f).era = s.era := rfl
@[simp] theorem onCharge_entries (s h f) : (onCharge s h f).entries = s.entries := rfl
@[simp] theorem onCharge_chans (s h f) : (onCharge s h f).chans = s.chans := rfl
@[simp] theorem onCharge_memLog (s h f) : (onCharge s h f).memLog = s.memLog := rfl
@[simp] theorem onCharge_macAt (s h f) : (onCharge s h f).macAt = s.macAt := rfl
@[simp] theorem onCharge_fill (s h f) : (onCharge s h f).fill = s.fill := rfl
@[simp] theorem onCharge_parts (s h f) : (onCharge s h f).parts = s.parts := rfl
@[simp] theorem onCharge_partCmd (s h f) : (onCharge s h f).partCmd = s.partCmd := rfl
@[simp] theorem onCharge_certLog (s h f) : (onCharge s h f).certLog = s.certLog := rfl
@[simp] theorem onCharge_rtp (s h f) : (onCharge s h f).rtp = s.rtp := rfl
@[simp] theorem onCharge_attQueue (s h f) : (onCharge s h f).attQueue = s.attQueue := rfl
@[simp] theorem onCharge_attSeq (s h f) : (onCharge s h f).attSeq = s.attSeq := rfl
@[simp] theorem onCharge_kexs (s h f) : (onCharge s h f).kexs = s.kexs := rfl
@[simp] theorem onCharge_peers (s h f) : (onCharge s h f).peers = s.peers := rfl
@[simp] theorem onCharge_ownerKeys (s h f) : (onCharge s h f).ownerKeys = s.ownerKeys := rfl
@[simp] theorem onCharge_gloveIds (s h f) : (onCharge s h f).gloveIds = s.gloveIds := rfl
@[simp] theorem onCharge_gloveHdrs (s h f) : (onCharge s h f).gloveHdrs = s.gloveHdrs := rfl
@[simp] theorem onCharge_openings (s h f) : (onCharge s h f).openings = s.openings := rfl
@[simp] theorem onCharge_secLog (s h f) : (onCharge s h f).secLog = s.secLog := rfl
@[simp] theorem onCharge_secAt (s h f) : (onCharge s h f).secAt = s.secAt := rfl
@[simp] theorem onCharge_minSvn (s h f) : (onCharge s h f).minSvn = s.minSvn := rfl
@[simp] theorem onCharge_entropyOk (s h f) : (onCharge s h f).entropyOk = s.entropyOk := rfl
@[simp] theorem onCharge_power (s h f) : (onCharge s h f).power = s.power := rfl
@[simp] theorem onCharge_budgets (s h f) : (onCharge s h f).budgets = s.budgets := rfl
@[simp] theorem onCharge_allots (s h f) : (onCharge s h f).allots = s.allots := rfl
@[simp] theorem onCharge_gateHeld (s h f) : (onCharge s h f).gateHeld = s.gateHeld := rfl
@[simp] theorem onCharge_streams (s h f) : (onCharge s h f).streams = s.streams := rfl
@[simp] theorem onCharge_channels (s h f) : (onCharge s h f).channels = s.channels := rfl
@[simp] theorem onCharge_obsBucket (s h f) : (onCharge s h f).obsBucket = s.obsBucket := rfl
@[simp] theorem onCharge_obsCyc (s h f) : (onCharge s h f).obsCyc = s.obsCyc := rfl
@[simp] theorem onCharge_banks (s h f) : (onCharge s h f).banks = s.banks := rfl
@[simp] theorem onCharge_mitTile (s h f) : (onCharge s h f).mitTile = s.mitTile := rfl
@[simp] theorem onCharge_mitRegs (s h f) : (onCharge s h f).mitRegs = s.mitRegs := rfl
@[simp] theorem onCharge_pcLast (s h f) : (onCharge s h f).pcLast = s.pcLast := rfl
@[simp] theorem onCharge_mitLast (s h f) : (onCharge s h f).mitLast = s.mitLast := rfl
@[simp] theorem onCharge_calm (s h f) : (onCharge s h f).calm = s.calm := rfl
@[simp] theorem onCharge_swaps (s h f) : (onCharge s h f).swaps = s.swaps := rfl
@[simp] theorem onCharge_heldStarts (s h f) : (onCharge s h f).heldStarts = s.heldStarts := rfl
@[simp] theorem onCharge_srSwap (s h f) : (onCharge s h f).srSwap = s.srSwap := rfl
@[simp] theorem onCharge_frameSwaps (s h f) : (onCharge s h f).frameSwaps = s.frameSwaps := rfl
@[simp] theorem onCharge_frameSpares (s h f) : (onCharge s h f).frameSpares = s.frameSpares := rfl
@[simp] theorem onCharge_wearLife (s h f) : (onCharge s h f).wearLife = s.wearLife := rfl
@[simp] theorem onCharge_wearDay (s h f) : (onCharge s h f).wearDay = s.wearDay := rfl
@[simp] theorem onCharge_wearDayNo (s h f) : (onCharge s h f).wearDayNo = s.wearDayNo := rfl
@[simp] theorem onCharge_autoQueue (s h f) : (onCharge s h f).autoQueue = s.autoQueue := rfl
@[simp] theorem onCharge_retireCyc (s h f) : (onCharge s h f).retireCyc = s.retireCyc := rfl
@[simp] theorem onCharge_fuseUsed (s h f) : (onCharge s h f).fuseUsed = s.fuseUsed := rfl
@[simp] theorem onCharge_fuseQueue (s h f) : (onCharge s h f).fuseQueue = s.fuseQueue := rfl
@[simp] theorem onCharge_fuseFull (s h f) : (onCharge s h f).fuseFull = s.fuseFull := rfl
@[simp] theorem onCharge_rowsUsed (s h f) : (onCharge s h f).rowsUsed = s.rowsUsed := rfl
@[simp] theorem onCharge_laneMap (s h f) : (onCharge s h f).laneMap = s.laneMap := rfl
@[simp] theorem onCharge_ready (s h f) : (onCharge s h f).ready = s.ready := rfl
@[simp] theorem onCharge_railFell (s h f) : (onCharge s h f).railFell = s.railFell := rfl
@[simp] theorem onCharge_pgSb (s h f) : (onCharge s h f).pgSb = s.pgSb := rfl
@[simp] theorem onCharge_broken (s h f) : (onCharge s h f).broken = s.broken := rfl

end Sys2Proof.Machine
end

