-- ==== Sys2Proof/Laws/Tile.lean ====
section
/-! SUPPORT. What the shared frame of the tile instructions can answer, and what a completed instruction's increment changes. -/

namespace Sys2Proof.Machine

@[simp] theorem getTile_onTile (s : State) (t : Nat) (f : Tile → Tile) (n : Nat) :
    getTile (onTile s t f) n = if n = t then f (getTile s t) else getTile s n := getTile_putTile ..

/-- A command of a tile instruction at a fitted tile always answers a next state: a tile never stops the block. -/
theorem issueWith_next {s : State} {n : Nat} (hn : n < 1088) (hf : tileFitted s n = true) (cls op : Nat)
    (shifts : State → Ins → Bool) (body : State → Ins → Did) : ∃ t, issueWith s n cls op shifts body = .next t := by
  unfold issueWith
  rw [if_neg (Nat.not_le.2 hn), hf]
  simp only [Bool.not_true, Bool.false_eq_true, if_false]
  repeat' (first | exact ⟨_, rfl⟩ | split)

/-- Where an operation issues, the instruction's own meaning decides the next state: it is counted, the words it reads are checked, a gated
class pays its charge, and PC follows what the meaning answers. -/
theorem issueWith_issues {s : State} {n cls op : Nat} (h : Issues s n cls op) (shifts : State → Ins → Bool)
    (body : State → Ins → Did) :
    issueWith s n cls op shifts body =
      .next (match sramRead (noteIssue (served s n) n cls) n ((getTile s n).sramReads (getTile s n).ins) with
        | none => sramFault (noteIssue (served s n) n cls) n (getTile s n).pc
        | some u => finish u n (getTile s n).pc (getTile s n).ins
            (body (payGate u n (getTile s n).ins (shifts s (getTile s n).ins)) (getTile s n).ins)) := by
  obtain ⟨h1, h2, h3, h4, h5, h6, h7, h8, h9, h10, h11⟩ := h
  have hform : (formsOf (getTile s n).ins.cls (getTile s n).ins.op).isNone = false := by
    cases hf : formsOf (getTile s n).ins.cls (getTile s n).ins.op with
    | none => simp [Ins.illegal, hf] at h6
    | some f => rfl
  unfold issueWith
  dsimp only
  rw [if_neg (Nat.not_le.2 h1), h2, h3, hform, h6, h7, h9, h10, h11]
  have h8' : ¬((getTile s n).ins.cls = 5 ∧ s.cfg.tensor = false) := by
    rintro ⟨c, d⟩
    rw [h8 (h4 ▸ c)] at d
    cases d
  simp only [Bool.not_true, Bool.false_eq_true, if_false, h4, h5, ne_eq, not_true_eq_false, or_self, Option.isSome_none]
  rw [if_neg (h4 ▸ h8')]
  simp only [served]
  split <;> rename_i hr <;> first | with_reducible rfl | rw [hr]

/-- Nothing is read, so nothing is found. -/
@[simp] theorem sramRead_nil (s : State) (t : Nat) : sramRead s t [] = some s := by
  have h (k : Nat) : (getTile s t).flawed k [] = [] := by simp [Tile.flawed]
  simp only [sramRead, h, ne_eq, not_true_eq_false, if_false]

/-! ### Reporting and a tile's own change -/

/-- A change of one tile that leaves its counters alone, and does not depend on them, carries a monitored pair to a monitored pair. -/
theorem Monitored.onTile {s t : State} (h : Monitored s t) (n : Nat) {f : Tile → Tile}
    (hf : ∀ x y, f (x.counts y) = (f x).counts y) : Monitored (onTile s n f) (onTile t n f) := by
  obtain ⟨h1, h2, h3, h4, h5⟩ := h
  refine ⟨h1, h2, fun m => ?_, h4, h5⟩
  rw [getTile_onTile, getTile_onTile]
  by_cases hm : m = n
  · rw [if_pos hm, if_pos hm, h3 n, hf]; rfl
  · rw [if_neg hm, if_neg hm]; exact h3 m

theorem Tile.wakeUp_counts (x y : Tile) (cyc : Nat) (calm : Bool) : (x.counts y).wakeUp cyc calm = (x.wakeUp cyc calm).counts y := by
  cases hl : x.lull <;> simp only [Tile.wakeUp, Tile.counts, hl]
  cases calm <;> rfl

/-- An increment of a semaphore changes, beyond what reporting changes, the tile alone, which has gained it. -/
theorem semInc_monitored (s : State) (n m k : Nat) :
    Monitored (putTile s n ((getTile s n).gained s n m k)) (semInc s n m k) := by
  have key : ∀ u, Monitored (Machine.onTile s n fun x => { x with sems := x.sems.put 0 m (min ((getTile s n).sem m + k) 0xFFFF) }) u →
      Monitored (putTile s n ((getTile s n).gained s n m k)) (wakeTile u n) := by
    intro u hu
    have hq : u.quiet = s.quiet := hu.1
    have hcyc : u.cyc = s.cyc := (congrArg State.cyc hq : u.quiet.cyc = s.quiet.cyc)
    have hcalm : calmOn u (tileHalf n) = calmOn s (tileHalf n) := by
      have : u.calm = s.calm := (congrArg State.calm hq : u.quiet.calm = s.quiet.calm)
      simp only [calmOn, this]
    have hw := hu.onTile n (f := fun x => x.wakeUp s.cyc (calmOn s (tileHalf n))) (fun x y => x.wakeUp_counts y _ _)
    have e : wakeTile u n = Machine.onTile u n fun x => x.wakeUp s.cyc (calmOn s (tileHalf n)) := by
      simp only [wakeTile, hcyc, hcalm]
    rw [e]
    obtain ⟨w1, w2, w3, w4, w5⟩ := hw
    refine ⟨w1, w2, fun j => ?_, w4, w5⟩
    have w := w3 j
    simp only [getTile_onTile, getTile_putTile] at w ⊢
    by_cases hj : j = n
    · simp only [if_pos hj, if_true] at w ⊢; exact w
    · simp only [if_neg hj] at w ⊢; exact w
  unfold semInc
  dsimp only
  refine key _ ((Monitored.trans ?_ (countTile_monitored ..)))
  split
  · exact raiseK_monitored ..
  · exact Monitored.refl _

/-- The optional increment on completion (R96). -/
theorem semIncOpt_monitored (s : State) (n : Nat) (d : Option Nat) :
    Monitored (putTile s n ((getTile s n).signalled s n d)) (semIncOpt s n d) := by
  cases d with
  | some m => exact semInc_monitored s n m 1
  | none =>
    refine ⟨rfl, fun _ => Page.reported_refl _, fun j => ?_, fun _ => rfl, fun _ => rfl⟩
    rw [getTile_putTile]
    by_cases hj : j = n
    · rw [if_pos hj, hj]; rfl
    · rw [if_neg hj]; rfl

/-- Issue counts, and notes the cycle. -/
theorem noteIssue_monitored (s : State) (n cls : Nat) :
    Monitored (onTile s n fun x => { x with idleCyc := s.cyc }) (noteIssue s n cls) := countTile_monitored ..

theorem Tile.gained_counts (x y : Tile) (s : State) (n m k : Nat) : (x.counts y).gained s n m k = (x.gained s n m k).counts y :=
  Tile.wakeUp_counts { x with sems := x.sems.put 0 m (min (x.sem m + k) 0xFFFF) } y _ _

theorem Tile.signalled_counts (x y : Tile) (s : State) (n : Nat) (d : Option Nat) :
    (x.counts y).signalled s n d = (x.signalled s n d).counts y := by
  cases d with
  | some m => exact Tile.gained_counts ..
  | none => rfl

theorem Tile.signalled_congr (x : Tile) {s t : State} (h : t.quiet = s.quiet) (n : Nat) (d : Option Nat) :
    x.signalled t n d = x.signalled s n d := by
  have hcyc : t.cyc = s.cyc := (congrArg State.cyc h : t.quiet.cyc = s.quiet.cyc)
  have hcalm : t.calm = s.calm := (congrArg State.calm h : t.quiet.calm = s.quiet.calm)
  cases d with
  | some m => simp only [Tile.signalled, Tile.gained, calmOn, hcyc, hcalm]
  | none => rfl

@[simp] theorem served_tile (s : State) (n m : Nat) : getTile (served s n) m = getTile s m := rfl
@[simp] theorem served_cyc (s : State) (n : Nat) : (served s n).cyc = s.cyc := rfl
@[simp] theorem Tile.counts_codeWords (x y : Tile) : (x.counts y).codeWords = x.codeWords := rfl

@[simp] theorem Tile.wakeUp_codeWords (x : Tile) (cyc : Nat) (calm : Bool) : (x.wakeUp cyc calm).codeWords = x.codeWords := by
  cases hl : x.lull <;> simp only [Tile.wakeUp, hl]
  cases calm <;> rfl

@[simp] theorem Tile.signalled_codeWords (x : Tile) (s : State) (n : Nat) (d : Option Nat) :
    (x.signalled s n d).codeWords = x.codeWords := by
  cases d with
  | some m => exact Tile.wakeUp_codeWords ..
  | none => rfl

@[simp] theorem putTile_quiet (s : State) (t : Nat) (x : Tile) : (putTile s t x).quiet = s.quiet := rfl
@[simp] theorem onTile_quiet (s : State) (t : Nat) (f : Tile → Tile) : (onTile s t f).quiet = s.quiet := rfl
@[simp] theorem onTile_pages (s : State) (t : Nat) (f : Tile → Tile) : (onTile s t f).pages = s.pages := rfl
@[simp] theorem onTile_parts (s : State) (t : Nat) (f : Tile → Tile) : (onTile s t f).parts = s.parts := rfl
@[simp] theorem onTile_banks (s : State) (t : Nat) (f : Tile → Tile) : (onTile s t f).banks = s.banks := rfl
@[simp] theorem ranTile_quiet (s : State) (n : Nat) (f : Tile → Ins → Tile) : (s.ranTile n f).quiet = s.quiet := rfl
@[simp] theorem ranTile_pages (s : State) (n : Nat) (f : Tile → Ins → Tile) : (s.ranTile n f).pages = s.pages := rfl
@[simp] theorem ranTile_parts (s : State) (n : Nat) (f : Tile → Ins → Tile) : (s.ranTile n f).parts = s.parts := rfl
@[simp] theorem ranTile_banks (s : State) (n : Nat) (f : Tile → Ins → Tile) : (s.ranTile n f).banks = s.banks := rfl

/-- What a state reads of pages, tiles, partitions and banks, and what reporting leaves alone, is all that the relation asks of it. -/
theorem Monitored.congr {s u t : State} (h : Monitored u t) (hq : u.quiet = s.quiet) (hp : u.pages = s.pages)
    (ha : u.parts = s.parts) (hb : u.banks = s.banks) (ht : ∀ n, getTile s n = getTile u n) : Monitored s t := by
  obtain ⟨h1, h2, h3, h4, h5⟩ := h
  refine ⟨h1.trans hq, fun pg => ?_, fun n => ?_, fun q => ?_, fun b => ?_⟩
  · have := h2 pg; simp only [getPage, hp] at this ⊢; exact this
  · rw [ht n]; exact h3 n
  · have := h4 q; simp only [getPart, ha] at this ⊢; exact this
  · have := h5 b; simp only [getBank, hb] at this ⊢; exact this

/-- An instruction that is counted and whose effect lies in its tile alone, and has nothing to do with the tile's counters or its cycle of
issue, completes where it is not the last of the code. -/
theorem finishDone_ran (s : State) {n : Nat} (cls : Nat) (hc : (getTile s n).ins.cls < 3) {f : Tile → Ins → Tile}
    (hf : ∀ x i y, f (x.counts y) i = (f x i).counts y)
    (hg : ∀ x i c, f { x with idleCyc := c } i = { f x i with idleCyc := c })
    (hp : (getTile s n).pc + 1 < (f (getTile s n) (getTile s n).ins).codeWords) :
    Monitored (s.ranTile n f)
      (finish (noteIssue s n cls) n (getTile s n).pc (getTile s n).ins
        (.done (onTile (noteIssue s n cls) n fun x => f x (getTile s n).ins))) := by
  simp only [finish, completes]
  have h2 := (noteIssue_monitored s n cls).onTile n (f := fun x => f x (getTile s n).ins) (fun x y => hf x _ y)
  generalize Machine.onTile (noteIssue s n cls) n (fun x => f x (getTile s n).ins) = u at h2
  have h3 := (h2.onTile n (f := fun x => x.signalled s n (getTile s n).ins.done) (fun x y => x.signalled_counts y _ _ _)).trans
    (t := Machine.onTile u n fun x => x.signalled s n (getTile s n).ins.done)
    (u := semIncOpt u n (getTile s n).ins.done) (by
      have := semIncOpt_monitored u n (getTile s n).ins.done
      rwa [Tile.signalled_congr _ h2.1] at this)
  generalize semIncOpt u n (getTile s n).ins.done = b at h3
  have h4 := h3.onTile n (f := fun x => { x with pc := (getTile s n).pc + 1 }) (fun x c => rfl)
  have hb : ¬(getTile (setPc b n ((getTile s n).pc + 1)) n).codeWords ≤ (getTile s n).pc + 1 := by
    have := congrArg Tile.codeWords (h3.2.2.1 n)
    simp only [setPc, getTile_onTile, if_true, Tile.counts_codeWords, Tile.signalled_codeWords] at this ⊢
    rw [this, hg (getTile s n) (getTile s n).ins s.cyc]
    exact Nat.not_le.2 hp
  simp only [advancePc, if_neg hb]
  refine h4.congr (by simp) (by simp) (by simp) (by simp) fun j => ?_
  simp only [getTile_onTile, State.ranTile, getTile_putTile]
  by_cases hj : j = n
  · simp only [if_pos hj, if_true, Tile.ran, Tile.noted, if_pos hc]
    rw [hg (getTile s n) (getTile s n).ins s.cyc]
  · simp only [if_neg hj]

/-- An ungated operation whose effect lies in its tile alone, and which reads no SRAM, completes at once where it is not the last of the
code. -/
theorem issueTile_ran {s : State} {n cls op : Nat} (h : Issues s n cls op) (hc : cls < 3) {f : Tile → Ins → Tile}
    (hf : ∀ x i y, f (x.counts y) i = (f x i).counts y)
    (hr : (getTile s n).sramReads (getTile s n).ins = [])
    (hg : ∀ x i c, f { x with idleCyc := c } i = { f x i with idleCyc := c })
    (hp : (getTile s n).pc + 1 < (f (getTile s n) (getTile s n).ins).codeWords) :
    ∃ t, issueTile s n cls op f = .next t ∧ Monitored (s.ranTile n f) t := by
  have hcls : (getTile s n).ins.cls < 3 := h.2.2.2.1 ▸ hc
  unfold issueTile issue
  rw [issueWith_issues h, hr, sramRead_nil]
  refine ⟨_, rfl, ?_⟩
  simp only [payGate, if_pos hcls]
  refine (finishDone_ran (served s n) cls hcls hf hg hp).congr (s := s.ranTile n f) rfl rfl rfl rfl fun j => ?_
  simp only [State.ranTile, getTile_putTile, served_tile]
  by_cases hj : j = n
  · simp only [if_pos hj, Tile.ran, Tile.noted, served_tile, served_cyc]
    rw [Tile.signalled_congr _ (show (served s n).quiet = s.quiet from rfl)]
    rfl
  · simp only [if_neg hj]

end Sys2Proof.Machine
end

