-- ==== Sys2Proof/Tests/Slice0.lean ====
section
/-! SUPPORT. Tests: ill-formed commands are refused, and each statement's hypotheses are met by a state and operands. -/

namespace Sys2Proof.Tests

open Sys2Proof Sys2Proof.Machine

set_option Elab.async false

/-! ### Small states -/

/-- The state that a command answers, and the reset state where it answers none. -/
def after (c : Instr) (s : State) : State :=
  match exec c s with
  | .next t => t
  | _ => State.reset

/-- A command answers a next state. -/
def goes (c : Instr) (s : State) : Bool :=
  match exec c s with
  | .next _ => true
  | _ => false

/-- Five thousand seconds of FT, both halves up and with time, the clock far from reset. -/
def base : State :=
  { State.reset with
    ready := ⟨true, true⟩, cyc := 20000000000
    ftu := ⟨{ State.reset.ftu.a with lock := .locked, count := 5000000000000 * 2304, goodCyc := some 19999999000, everLocked := true },
      { State.reset.ftu.b with lock := .locked, count := 5000000000000 * 2304, goodCyc := some 19999999000, everLocked := true }⟩ }

/-- Pages made ON. -/
def on (l : List (PageKind × Nat)) (s : State) : State :=
  l.foldl (fun s p => { s with pages := s.pages.set (pageNo p.1 p.2) { getPage s (pageNo p.1 p.2) with st := .on, enable := true } }) s

/-- A page in a state. -/
def inSt (k : PageKind) (i : Nat) (st : PageSt) (s : State) : State :=
  { s with pages := s.pages.set (pageNo k i) { getPage s (pageNo k i) with st := st } }

/-- A stored word. -/
def reg (k : PageKind) (i off n : Nat) (s : State) : State := setKreg s k i off (BitVec.ofNat 32 n)
/-- A word in force with what is stored. -/
def regF (k : PageKind) (i off n : Nat) (s : State) : State :=
  let t := reg k i off n s
  { t with inForce := t.inForce.set (regAddr k i off) (BitVec.ofNat 32 n) }

/-! ### Ill-formed commands: for each check, the least operand it refuses and the greatest it takes -/

/-- A control message, a cell, a header and a request whose fields are in range. -/
def msg : CtrlIn := ⟨63, 0, 0, true, 0, 0, 0, 0, 0, 0, List.replicate 224 0⟩
def cel : CellIn := ⟨63, 0, 0, 15, 0, 0, List.replicate 256 0, none, List.replicate 256 0⟩
def hd : GloveHdr := ⟨1, 0, 0, false, 0, false, 0, 0, 0, 0, 0, 0, false, false, false⟩
def rq : AdmitReq := ⟨0, false, false, false, false, false, 0, 0, false, false⟩

/-- A command is refused and another is taken. -/
def edge (bad good : Instr) : Bool := !bad.wellFormed && good.wellFormed

theorem test_wf_below_4 :
    (List.all ([Instr.trigInEdge, .trigStuck, .trigStuckClear] : List (Nat → Instr)) fun c => edge (c 4) (c 3)) = true := by decide

theorem test_wf_below_16 :
    (List.all ([Instr.bypStatChange] : List (Nat → Instr)) fun c => edge (c 16) (c 15)) = true := by decide

theorem test_wf_below_64 :
    (List.all ([Instr.shadowCopy, .slotTableSwitch, .partCreateDone, .scrubStepDone, .scrubCertificate, .serviceEvent, .frameSeal, .frameRingWrite,
      .frameCollectorSend, .traceKeyReport, .gustFreeze, .counterDrainDone, .srSwapCommit, .frameBankSwap] : List (Nat → Instr)) fun c => edge (c 64) (c 63)) = true := by decide

theorem test_wf_below_1088 :
    (List.all ([Instr.tileSramFillDone, .lullDecision, .lullEntryDone, .lullDeepen, .plannedWake, .lullWakeDone, .programLoad, .nop, .seti, .add, .sub,
      .and, .or, .xor, .shl, .shr, .cmp, .jmp, .loop, .lds, .sts, .epinfo, .rdft, .halt, .swait, .swaitDone, .ssig, .ssend, .ftwait, .ftwaitRel,
      .ftWaitDone, .fence, .fenceDone, .epdone, .epfail, .racc, .rcopy, .rrd, .rclr, .memrd, .memwr, .tilecp, .send, .vld, .vst, .vadd, .vsub,
      .vmul, .vfma, .vmax, .vmin, .vabs, .vrsqrt, .vrcp, .vsqrt, .vdiv, .vsel, .vcmplt, .vsplat, .vcvt] : List (Nat → Instr)) fun c => edge (c 1088) (c 1087)) = true := by decide

theorem test_wf_below_1088_more :
    (List.all ([Instr.vsum, .vmaxr, .tmma, .tmmaComplete, .tclr, .trd, .twr] : List (Nat → Instr)) fun c => edge (c 1088) (c 1087)) = true := by decide

theorem test_wf_below_16384 :
    (List.all ([Instr.startComplete, .startFail, .stopComplete] : List (Nat → Instr)) fun c => edge (c 16384) (c 16383)) = true := by decide

theorem test_wf_operands_1 :
    edge (.registerWrite .a (2 ^ 26) 0) (.registerWrite .a (2 ^ 26 - 1) 0) ∧
    edge (.word64LowerRead .a (2 ^ 26)) (.word64LowerRead .a (2 ^ 26 - 1)) ∧
    edge (.word64UpperRead .a (2 ^ 26)) (.word64UpperRead .a (2 ^ 26 - 1)) ∧
    edge (.enableSet .a 16384 false) (.enableSet .a 16383 false) ∧
    edge (.enableClear .a 16384 false) (.enableClear .a 16383 false) ∧
    edge (.freezeWrite .a 16384 false) (.freezeWrite .a 16383 false) ∧
    edge (.pageErrClear .a 16384 0 0) (.pageErrClear .a 16383 0 0) ∧
    edge (.take .a 16384 false) (.take .a 16383 false) ∧
    edge (.winOpen .a .a 4 false) (.winOpen .a .a 3 false) ∧
    edge (.winClose .a .a 4 false) (.winClose .a .a 3 false) ∧
    edge (.abort .a .a 4) (.abort .a .a 3) ∧
    edge (.winDataWrite .a .a 4 0) (.winDataWrite .a .a 3 0) ∧
    edge (.winDataRead .a .a 4) (.winDataRead .a .a 3) ∧
    edge (.descriptorCommit .a 4) (.descriptorCommit .a 3) ∧
    edge (.contributorTableCommit .a 4) (.contributorTableCommit .a 3) ∧
    edge (.slotTableCommit .a 4) (.slotTableCommit .a 3) ∧
    edge (.scheduleCommit .a 4) (.scheduleCommit .a 3) ∧
    edge (.ftBeat (2 ^ 64) false 0) (.ftBeat (2 ^ 64 - 1) false 0) ∧
    edge (.calmAction .a 1024) (.calmAction .a 1023) ∧
    edge (.snapshotAction .a 1024) (.snapshotAction .a 1023) ∧
    edge (.intervalAction .a 1024) (.intervalAction .a 1023) ∧
    edge (.slotSwitchAction .a 1024) (.slotSwitchAction .a 1023) ∧
    edge (.epochStartAction .a 1024) (.epochStartAction .a 1023) ∧
    edge (.pageCtrlAction .a 1024) (.pageCtrlAction .a 1023) := by decide +kernel

theorem test_wf_operands_2 :
    edge (.lullGateAction .a 1024) (.lullGateAction .a 1023) ∧
    edge (.bypassAction .a 1024) (.bypassAction .a 1023) ∧
    edge (.reportWvAction .a 1024) (.reportWvAction .a 1023) ∧
    edge (.reportDrainAction .a 1024) (.reportDrainAction .a 1023) ∧
    edge (.gustFire .a 1024) (.gustFire .a 1023) ∧
    edge (.scheduleMissed .a 1024) (.scheduleMissed .a 1023) ∧
    edge (.rxSlotFill 1088 0) (.rxSlotFill 1087 0) ∧
    edge (.rxSlotFill 0 64) (.rxSlotFill 0 63) ∧
    edge (.wake .a 1088) (.wake .a 1087) ∧
    edge (.moveComplete 1088 0) (.moveComplete 1087 0) ∧
    edge (.sesStart .a .a 4096) (.sesStart .a .a 4095) ∧
    edge (.sesStop .a .a 4096) (.sesStop .a .a 4095) ∧
    edge (.edgeKeyReport 4096 .parent) (.edgeKeyReport 4095 .parent) ∧
    edge (.sesArmGo .a .a 4096) (.sesArmGo .a .a 4095) ∧
    edge (.armReq msg (2 ^ 64)) (.armReq msg (2 ^ 64 - 1)) ∧
    edge (.arm msg (2 ^ 64)) (.arm msg (2 ^ 64 - 1)) ∧
    edge (.armAck msg 256) (.armAck msg 255) ∧
    edge (.commit msg (2 ^ 64) false) (.commit msg (2 ^ 64 - 1) false) ∧
    edge (.disarm msg (2 ^ 64) 0 false) (.disarm msg (2 ^ 64 - 1) 0 false) ∧
    edge (.disarm msg 0 256 false) (.disarm msg 0 255 false) ∧
    edge (.nack msg ⟨true, 65536⟩ 0) (.nack msg ⟨true, 65535⟩ 0) ∧
    edge (.nack msg ⟨true, 0⟩ 256) (.nack msg ⟨true, 0⟩ 255) ∧
    edge (.done msg (2 ^ 64) 0 0 [] false 0 0 0) (.done msg (2 ^ 64 - 1) 0 0 [] false 0 0 0) ∧
    edge (.done msg 0 256 0 [] false 0 0 0) (.done msg 0 255 0 [] false 0 0 0) ∧
    edge (.done msg 0 0 256 [] false 0 0 0) (.done msg 0 0 255 [] false 0 0 0) := by decide +kernel

theorem test_wf_operands_3 :
    edge (.outcome msg (2 ^ 64) 0 0 0 0 [] false) (.outcome msg (2 ^ 64 - 1) 0 0 0 0 [] false) ∧
    edge (.outcome msg 0 256 0 0 0 [] false) (.outcome msg 0 255 0 0 0 [] false) ∧
    edge (.outcome msg 0 0 256 0 0 [] false) (.outcome msg 0 0 255 0 0 [] false) ∧
    edge (.accClearDone 4096 0 0) (.accClearDone 4095 0 0) ∧
    edge (.accClearDone 0 2 0) (.accClearDone 0 1 0) ∧
    edge (.accClearDone 0 0 1024) (.accClearDone 0 0 1023) ∧
    edge (.grantBatchFlush 4096 0 .parent) (.grantBatchFlush 4095 0 .parent) ∧
    edge (.grantBatchFlush 0 2 .parent) (.grantBatchFlush 0 1 .parent) ∧
    edge (.commitDeadline 4096 0) (.commitDeadline 4095 0) ∧
    edge (.commitDeadline 0 2) (.commitDeadline 0 1) ∧
    edge (.guardTime 4096 0) (.guardTime 4095 0) ∧
    edge (.guardTime 0 2) (.guardTime 0 1) ∧
    edge (.expectedArrival 4096 0 0) (.expectedArrival 4095 0 0) ∧
    edge (.expectedArrival 0 2 0) (.expectedArrival 0 1 0) ∧
    edge (.expectedArrival 0 0 8192) (.expectedArrival 0 0 8191) ∧
    edge (.deadline 4096 0 0) (.deadline 4095 0 0) ∧
    edge (.deadline 0 2 0) (.deadline 0 1 0) ∧
    edge (.deadline 0 0 8192) (.deadline 0 0 8191) ∧
    edge (.waitExpired 4096 0 0) (.waitExpired 4095 0 0) ∧
    edge (.waitExpired 0 2 0) (.waitExpired 0 1 0) ∧
    edge (.waitExpired 0 0 8192) (.waitExpired 0 0 8191) ∧
    edge (.epochRetire 4096 0) (.epochRetire 4095 0) ∧
    edge (.epochRetire 0 2) (.epochRetire 0 1) ∧
    edge (.doneRepeat 4096 0) (.doneRepeat 4095 0) := by decide +kernel

theorem test_wf_operands_4 :
    edge (.doneRepeat 0 2) (.doneRepeat 0 1) ∧
    edge (.orphanTimeout 4096 0) (.orphanTimeout 4095 0) ∧
    edge (.orphanTimeout 0 2) (.orphanTimeout 0 1) ∧
    edge (.sesMark .a .a 4096 0) (.sesMark .a .a 4095 0) ∧
    edge (.sesMark .a .a 0 8192) (.sesMark .a .a 0 8191) ∧
    edge (.groupTimeout 64 0) (.groupTimeout 63 0) ∧
    edge (.wvMeasure 4096 0) (.wvMeasure 4095 0) ∧
    edge (.wvMeasure 0 (2 ^ 32)) (.wvMeasure 0 (2 ^ 32 - 1)) ∧
    edge (.arbGrant 16384 0) (.arbGrant 16383 0) ∧
    edge (.arbGrant 0 32) (.arbGrant 0 31) ∧
    edge (.flitRoute 1088 .north) (.flitRoute 1087 .north) ∧
    edge (.starve 16384 0) (.starve 16383 0) ∧
    edge (.starve 0 32) (.starve 0 31) ∧
    edge (.arbFreeze .a 16384 0) (.arbFreeze .a 16383 0) ∧
    edge (.xtCred 64 0) (.xtCred 63 0) ∧
    edge (.xtCred 0 16) (.xtCred 0 15) ∧
    edge (.flush .a 64) (.flush .a 63) ∧
    edge (.laneError 64 0 false) (.laneError 63 0 false) ∧
    edge (.laneError 0 32 false) (.laneError 0 31 false) ∧
    edge (.lineRead (2 ^ 19) 0 0 ⟨.clean, false⟩) (.lineRead (2 ^ 19 - 1) 0 0 ⟨.clean, false⟩) ∧
    edge (.lineRead 0 32768 0 ⟨.clean, false⟩) (.lineRead 0 32767 0 ⟨.clean, false⟩) ∧
    edge (.lineRead 0 0 4096 ⟨.clean, false⟩) (.lineRead 0 0 4095 ⟨.clean, false⟩) ∧
    edge (.lineRead 0 0 0 ⟨(.corrected 38), false⟩) (.lineRead 0 0 0 ⟨(.corrected 37), false⟩) ∧
    edge (.zero .a (2 ^ 19) false 0) (.zero .a (2 ^ 19 - 1) false 0) ∧
    edge (.zero .a 0 false 64) (.zero .a 0 false 63) ∧
    edge (.reepoch .a (2 ^ 19)) (.reepoch .a (2 ^ 19 - 1)) := by decide +kernel

theorem test_wf_operands_5 :
    edge (.migrate .a (2 ^ 19) 0 false) (.migrate .a (2 ^ 19 - 1) 0 false) ∧
    edge (.migrate .a 0 (2 ^ 19) false) (.migrate .a 0 (2 ^ 19 - 1) false) ∧
    edge (.rowRepair .a (2 ^ 19) 0 0) (.rowRepair .a (2 ^ 19 - 1) 0 0) ∧
    edge (.rowRepair .a 0 1024 0) (.rowRepair .a 0 1023 0) ∧
    edge (.rowRepair .a 0 0 2) (.rowRepair .a 0 0 1) ∧
    edge (.laneErase .a (2 ^ 19) 0 0) (.laneErase .a (2 ^ 19 - 1) 0 0) ∧
    edge (.laneErase .a 0 32 0) (.laneErase .a 0 31 0) ∧
    edge (.chRetire .a (2 ^ 19)) (.chRetire .a (2 ^ 19 - 1)) ∧
    edge (.patrolLine .a 32768 .clean false) (.patrolLine .a 32767 .clean false) ∧
    edge (.feCommandDone .a (some 32768)) (.feCommandDone .a (some 32767)) ∧
    edge (.patrolLine .a 0 (.corrected 38) false) (.patrolLine .a 0 (.corrected 37) false) ∧
    edge (.create .a 64) (.create .a 63) ∧
    edge (.grow .a 64) (.grow .a 63) ∧
    edge (.shrink .a 64) (.shrink .a 63) ∧
    edge (.assignTiles .a 64) (.assignTiles .a 63) ∧
    edge (.releaseTiles .a 64) (.releaseTiles .a 63) ∧
    edge (.teardown .a 64) (.teardown .a 63) ∧
    edge (.attest .a 65536 0 0 false) (.attest .a 65535 0 0 false) ∧
    edge (.attest .a 0 64 0 false) (.attest .a 0 63 0 false) ∧
    edge (.fwActivate .a 65536) (.fwActivate .a 65535) ∧
    edge (.fwCommit .a 65536 false false) (.fwCommit .a 65535 false false) ∧
    edge (.fwDiscard .a 65536) (.fwDiscard .a 65535) ∧
    edge (.kex .a 65536 0 .parent .init false false) (.kex .a 65535 0 .parent .init false false) ∧
    edge (.kex .a 0 4096 .parent .init false false) (.kex .a 0 4095 .parent .init false false) ∧
    edge (.gloveOpen .a 65536 0 0 [] false) (.gloveOpen .a 65535 0 0 [] false) ∧
    edge (.gloveOpen .a 0 64 0 [] false) (.gloveOpen .a 0 63 0 [] false) ∧
    edge (.admitPrep .a 65536 0 hd) (.admitPrep .a 65535 0 hd) ∧
    edge (.admitPrep .a 0 64 hd) (.admitPrep .a 0 63 hd) ∧
    edge (.admitReq .a 65536 rq) (.admitReq .a 65535 rq) := by decide +kernel

theorem test_wf_operands_6 :
    edge (.logRead .a 65536 .a 0) (.logRead .a 65535 .a 0) ∧
    edge (.gloveOpen .a 0 0 0 [⟨64, false, false⟩] false) (.gloveOpen .a 0 0 0 [⟨63, false, false⟩] false) ∧
    edge (.admitPrep .a 0 0 { hd with quorum := 16 }) (.admitPrep .a 0 0 { hd with quorum := 15 }) ∧
    edge (.admitReq .a 0 { rq with svn := 2 ^ 32 }) (.admitReq .a 0 { rq with svn := 2 ^ 32 - 1 }) ∧
    edge (.thermalReading 256 ⟨0, []⟩) (.thermalReading 255 ⟨0, []⟩) ∧
    edge (.thermalReading 0 ⟨32, []⟩) (.thermalReading 0 ⟨31, []⟩) ∧
    edge (.thermalReading 0 ⟨0, [1088]⟩) (.thermalReading 0 ⟨0, [1087]⟩) ∧
    edge (.contribUe (.ingress 64 0 0)) (.contribUe (.ingress 63 15 65535)) ∧
    edge (.contribUe (.slot 1024 0)) (.contribUe (.slot 1023 63)) ∧
    edge (.contribUe (.accumulators 0 0 1024 0)) (.contribUe (.accumulators 4095 1 1023 4095)) ∧
    edge (.contribUe (.sram 0 (2 ^ 19) true)) (.contribUe (.sram 1087 (2 ^ 19 - 1) true)) ∧
    edge (.contribUe (.reducer 64)) (.contribUe (.reducer 63)) ∧
    edge (.contribUe (.frame 64)) (.contribUe (.frame 63)) ∧
    edge (.alwStb 256 0 0) (.alwStb 255 0 0) ∧
    edge (.discard .a 64) (.discard .a 63) ∧
    edge (.sramRowRepair 1088 0 0) (.sramRowRepair 1087 0 0) ∧
    edge (.sramRowRepair 0 16 0) (.sramRowRepair 0 15 0) ∧
    edge (.malformedCell 64 ⟨0, cel.body⟩) (.malformedCell 63 ⟨0, cel.body⟩) ∧
    edge (.malformedCell 0 ⟨2 ^ 128, cel.body⟩) (.malformedCell 0 ⟨2 ^ 128 - 1, cel.body⟩) ∧
    edge (.malformedCell 0 ⟨0, msg.body⟩) (.malformedCell 0 ⟨0, cel.body⟩) := by decide +kernel

theorem test_wf_messages :
    (List.all ([fun m => .armReq m 0, fun m => .arm m 0, fun m => .armAck m 0, fun m => .commit m 0 false, fun m => .disarm m 0 0 false, fun m => .grant m false [], fun m => .nack m ⟨false, 0⟩ 0, fun m => .done m 0 0 0 [] false 0 0 0, fun m => .outcome m 0 0 0 0 0 [] false] : List (CtrlIn → Instr)) fun c => (c msg).wellFormed &&
      ([{ msg with port := 64 }, { msg with stamp := 2 ^ 24 }, { msg with sid := 4096 }, { msg with epoch := 2 ^ 32 }, { msg with cidx := 8192 },
        { msg with srcSid := 4096 }, { msg with seq := 4096 }, { msg with tag := 2 ^ 64 }, { msg with crc := 65536 }, { msg with body := cel.body }].all fun m => !(c m).wellFormed)) = true := by decide +kernel

theorem test_wf_cells :
    (List.all ([fun c => .dataCell c, fun c => .resultCell c] : List (CellIn → Instr)) fun i => (i cel).wellFormed &&
      ([{ cel with port := 64 }, { cel with format := 16 }, { cel with handle := 65536 }, { cel with stamp := 2 ^ 24 },
        { cel with tag := 2 ^ 64 }, { cel with crc := 65536 }, { cel with body := msg.body }, { cel with payload := List.replicate 255 0 }].all fun c => !(i c).wellFormed)) = true := by decide +kernel

/-! ### The whole block -/

theorem test_hyp_idle : base.pending = [] ∧ base.charge.a.st ≠ .joining ∧ base.charge.b.st ≠ .joining := by decide +kernel

theorem test_hyp_commands_keep : goes .alwAck base = true ∧ resetsBlock .rstBlkN = true ∧ goes .rstBlkN base = true ∧
    (after .rstBlkN base).cyc = 0 := by decide +kernel

theorem test_hyp_memory_form : Memory.wf base.mem = true ∧ goes (.patrol .a 1) base = true := by decide +kernel

theorem test_hyp_kept_up : base.keptUp := by
  intro k i hk hi
  have e : getPage base (pageNo k i) = pageReset (pageNo k i) := rfl
  rw [e]
  simp [pageReset, pageOf_pageNo k i hi, hk]

theorem test_hyp_who_writes : writesMemory .alwAck = false ∧ goes .alwAck base = true := by decide +kernel

/-- Overlapping runs at the last byte of a run and the first beyond it. -/
theorem test_hyp_memory_write : (writeBytes Tbl.empty 64 [1, 2]).get 0 65 = 2 ∧ (writeBytes Tbl.empty 64 [1, 2]).get 0 66 = 0 ∧
    Memory.wf (Tbl.empty : Tbl Byte) = true := by decide +kernel

/-! ### Register pages -/

/-- R40: a write that clears ENABLE of the PART control page, reached from either port. -/
theorem test_hyp_kept_pages : [PageKind.blk, .mgmt, .sec, .rtp, .partCtrl, .partMap].contains .partCtrl = true ∧
    Reaches base .a .partCtrl 0 ∧ Reaches base .b .partCtrl 0 ∧
    ((after (.enableClear .a (pageNo .partCtrl 0) false) base).mports.get .a).resp = respDenied := by
  delta Reaches; decide +kernel

theorem test_hyp_page_ctrl :
    let p := fun st => inSt .calm 0 st base
    let pg := pageNo .calm 0
    keptOn .calm = false ∧ Reaches (p .off) .a .calm 0 ∧ Reaches (p .starting) .a .calm 0 ∧ Reaches (p .on) .a .calm 0 ∧
    Reaches (p .stopping) .a .calm 0 ∧
    (getPage (after (.enableSet .a pg true) (p .stopping)) pg).restart = true ∧
    (getPage (after (.enableSet .a pg true) (p .off)) pg).st = .starting ∧
    (getPage (after (.enableClear .a pg true) (p .starting)) pg).st = .stopping ∧
    startWaits (p .starting) .calm 0 = false ∧ (getPage (after (.startComplete pg) (p .starting)) pg).st = .on ∧
    (getPage (after (.startFail pg) (p .starting)) pg).st = .off ∧
    (let m := on [(.mem, 1)] (inSt .mem 0 .starting { base with reserve := base.reserve.put Region.fresh 48 ⟨.owned, 3, 0, 0, 7⟩ })
     startWaits m .mem 0 = false ∧ m.reserve.wf Region.fresh = true ∧ stackOf m.cfg 48 = 0 ∧
     (getRegion (after (.startComplete (pageNo .mem 0)) m) 48).pid = 3) ∧
    mayStop (p .stopping) .calm 0 = true ∧ (getPage (p .stopping) pg).restart = false ∧
    (getPage (after (.stopComplete pg) (p .stopping)) pg).st = .off ∧
    (let r := after (.enableSet .a pg false) (p .stopping)
     (getPage r pg).st = .stopping ∧ mayStop r .calm 0 = true ∧ (getPage r pg).restart = true ∧
     (getPage (after (.stopComplete pg) r) pg).st = .starting) := by
  delta Reaches; decide +kernel

/-- A port whose SHAPER word is out of its range goes back to OFF with CONFIG. -/
theorem test_hyp_page_config :
    let s := reg .port 3 0x048 31 base
    let t := after (.enableSet .a (pageNo .port 3) false) s
    Reaches s .a .port 3 ∧ keptOn .port = false ∧ (getPage s (pageNo .port 3)).st = .off ∧
    configOk (setPageSt (onPage (setFreeze s (pageNo .port 3) false) (pageNo .port 3) fun p => { p with enable := true })
      (pageNo .port 3) .starting) .port 3 = false ∧
    (getPage t (pageNo .port 3)).st = .off ∧ bitOf (getPage t (pageNo .port 3)).err 1 = true := by
  delta Reaches; decide +kernel

/-- A bit written 1 while hardware sets it stays set and counts; PAGE_ERRCNT one below its top. -/
theorem test_hyp_errors :
    let pg := pageNo .blk 0
    let s := putPage base pg { getPage base pg with err := 3, errCnt := 2 ^ 32 - 2 }
    let t := after (.pageErrClear .a pg 3 1) s
    Reaches s .a .blk 0 ∧ (getPage s pg).errCnt < 2 ^ 32 ∧ (getPage t pg).err = 1 ∧ (getPage t pg).errCnt = 2 ^ 32 - 1 ∧
    (getPage (after (.take .a pg true) s) pg).snapSeq = 1 ∧ (getPage (after (.take .a pg true) s) pg).view = true := by
  delta Reaches; decide +kernel

/-! ### Fabric time and the schedule engine -/

/-- Half A with an FTU in a lock state, its page ON. -/
def ftuIn (l : LockSt) (f : Ftu → Ftu) : State :=
  onFtu (on [(.ftu, 0), (.ftu, 1)] base) .a fun x => f { x with lock := l }

/-- The sixteenth beat of a run locks; the fifteenth does not; a beat 250 ns off is taken and one just beyond loses time. -/
theorem test_hyp_beats :
    let w := 5000000000000
    let acq := fun n => ftuIn .acquiring fun x => { x with run := n, goodWord := w - 1000, goodCyc := some (20000000000 - 1980), count := 7 }
    let lk := fun (d : Nat) => ftuIn .locked fun x =>
      { x with goodWord := w - 1000, goodCyc := some (20000000000 - 1800), goodCount := x.count - 1000 * 2304 + d, count := x.count + d }
    pageIsOn base .ftu 0 = false ∧ pageIsOn (acq 15) .ftu 0 = true ∧
    ((after (.ftBeat w true 100) (acq 15)).ftu.get .a).lock = .locked ∧ ((after (.ftBeat w true 100) (acq 15)).ftu.get .a).count = w * 2304 ∧
    ((after (.ftBeat w true 100) (acq 14)).ftu.get .a).run = 15 ∧ ((after (.ftBeat w true 99) (acq 14)).ftu.get .a).run = 0 ∧
    ((after (.ftBeat (w + 1000) true 100) (acq 14)).ftu.get .a).run = 1 ∧
    beatsSince ((lk 0).ftu.get .a) = 1 ∧
    ((after (.ftBeat w true 100) (lk (250 * 2304))).ftu.get .a).lock = .locked ∧
    ((after (.ftBeat w true 100) (lk (250 * 2304 + 1))).ftu.get .a).lock = .timeLost := by
  decide +kernel

/-- A half A FTU state for the tests of timers. -/
def ftuAt (l : LockSt) (f : Ftu → Ftu) : State :=
  onFtu (on [(.ftu, 0), (.ftu, 1)] base) .a fun x => f { x with lock := l }

/-- The timers of R52 at their limits, in cycles: 1,100 ns are 1,980 cycles, 10 ms 18,000,000. -/
theorem test_hyp_lock_timers :
    let at_ := fun l n => ftuAt l fun x => { x with goodCyc := some (20000000000 - n) }
    (.a ∈ fittedHalves base.cfg) ∧ pageIsOn (at_ .acquiring 1980) .ftu 0 = true ∧
    beatGone (at_ .acquiring 1979) .a 1100 = false ∧ beatGone (at_ .acquiring 1980) .a 1100 = true ∧
    ((after (.coasting .a) (at_ .locked 1980)).ftu.get .a).lock = .coasting ∧
    ((after (.timeLost .a) (at_ .coasting 17999999)).ftu.get .a).lock = .coasting ∧
    ((after (.timeLost .a) (at_ .coasting 18000000)).ftu.get .a).lock = .timeLost ∧
    hasTime (at_ .coasting 18000000) .a = true ∧ hasTime (after (.timeLost .a) (at_ .coasting 18000000)) .a = false ∧
    bitOf (getPage (after .beatStuck (at_ .locked 0)) (pageNo .ftu 0)).err 16 = true := by
  decide +kernel

/-- A good beat whose line then stays high counts as a bad one; an edge that no good beat took leaves the counts. -/
theorem test_hyp_beat_stuck :
    let s := ftuAt .locked fun x =>
      { x with goodWord := 5000000000000 - 1000, goodCyc := some (20000000000 - 1800), goodCount := x.count - 1000 * 2304 }
    let b := after (.ftBeat 5000000000000 true 100) s
    (b.ftu.get .a).undo.isSome = true ∧ (b.ftu.get .a).edgeCyc = (b.ftu.get .a).undo.map (·.cyc) ∧
    kregN b .ftu 0 0x058 = 1 ∧ kregN (after .beatStuck b) .ftu 0 0x058 = 0 ∧ kregN (after .beatStuck b) .ftu 0 0x05C = 1 ∧
    (s.ftu.get .a).undo = none ∧ kregN (after .beatStuck s) .ftu 0 0x05C = 0 := by
  decide +kernel

/-! ### The schedule engine -/

/-- An armed entry that is due. -/
def entry0 : Entry := { Entry.empty with st := .armed, ft := 4999999999000, due := some 4999999999000 }

/-- Entry 5 of half A, due, with an action. -/
def due (a : Nat) (f : Entry → Entry) : State :=
  putEntry (on [(.ftu, 0), (.ftu, 1), (.calm, 0), (.bank, 0), (.port, 2)] base) .a 5 (f { entry0 with action := a })

/-- A Calm in force in half A. -/
def calmed (s : State) : State :=
  onCalm s .a fun c => { c with st := .stopped, t := 4999999999000, e := 4999999999500 }

theorem test_hyp_actions_wait :
    fires (due actEpochStart id) .a 5 = true ∧ fires base .a 5 = false ∧ (Instr.epochStartAction .a 5) ≠ .bypassAction .a 5 ∧
    fires (calmed (due actReport fun e => { e with target := 0 })) .a 5 = true ∧ calmOn (calmed base) .a = true ∧
    heldInCalm actPageCtrl = true ∧ (getEntry (calmed (due actPageCtrl id)) .a 5).action = actPageCtrl ∧
    (getEntry (after (.pageCtrlAction .a 5) (calmed (due actPageCtrl id))) .a 5).st = .held := by
  decide +kernel

theorem test_hyp_actions_listed : ((Instr.calmAction .a 5, actCalm) : Instr × Nat) ∈
    (scheduleActions .a 5).map (fun p => (p.1, p.2.1)) := by decide +kernel

theorem test_hyp_firings :
    let snap := due actSnapshot fun e => { e with target := pageNo .calm 0 }
    let ctl := due actPageCtrl fun e => { e with target := pageNo .calm 0, arg := 0 }
    (getEntry (after (.bypassAction .a 5) (due actBypass fun e => { e with target := 3, arg := 1 })) .a 5).st = .fired ∧
    ((after (.bypassAction .a 5) (due actBypass fun e => { e with target := 3, arg := 1 })).bypWin.get .a) = 8 ∧
    (getEntry (after (.bypassAction .a 5) (due actBypass fun e => { e with period := 10 })) .a 5).due = some 5000000009000 ∧
    (getEntry (after (.bypassAction .a 5) (due actBypass fun e => { e with trig := true, rearm := true })) .a 5).due = none ∧
    (getEntry snap .a 5).page = pageNo .calm 0 ∧ pageRefuses snap .a (pageNo .calm 0) = none ∧
    pageOf (pageNo .calm 0) = some (.calm, 0) ∧ (after (.snapshotAction .a 5) snap).ends = [(pageNo .calm 0, false)] ∧
    (getPage (endCycle (after (.snapshotAction .a 5) snap)) (pageNo .calm 0)).snapSeq = 1 ∧
    keptOn .calm = false ∧ calmOn ctl .a = false ∧ (getPage (after (.pageCtrlAction .a 5) ctl) (pageNo .calm 0)).st = .stopping := by
  decide +kernel

/-- SLOT_SWITCH needs a READY table; LULL_GATE permits or forbids, and a tile that sleeps wakes when Lull is forbidden. -/
theorem test_hyp_firings_at_ports :
    let slot := putPort (due actSlotSwitch fun e => { e with target := pageNo .port 2 }) 2
      { getPort base 2 with ready := some ⟨1024, 0, 1, []⟩ }
    let gate := fun a => onTile (due actLullGate fun e => { e with target := 0, arg := a }) 7 fun x => { x with lull := .asleep 2 }
    (getEntry slot .a 5).portNo = 2 ∧ (getPort slot 2).ready.isSome = true ∧
    (getPort (after (.slotSwitchAction .a 5) slot) 2).fired = some 4999999999000 ∧
    (after (.lullGateAction .a 5) (gate 0)).gates.get false 0 = false ∧
    (after (.lullGateAction .a 5) (gate 1)).gates.get false 0 = true ∧
    7 ∈ tilesOfHalf (gate 1) 0 .a ∧ (getTile (after (.lullGateAction .a 5) (gate 1)) 7).lull = .waking 2 ∧
    (getTile (after (.lullGateAction .a 5) (calmed (gate 1))) 7).wakeReq = true := by
  decide +kernel

/-- A written window of the schedule: entry 3 armed for a time far off, and one inside the reserve. -/
def schedWin (n act : Nat) : State :=
  let s := regF .ftu 0 0x064 64 (regF .ftu 0 0x060 2000 (on [(.ftu, 0)] base))
  putWin s .a 1 { getWin s .a 1 with
    sel := 6, held := 6, st := .deciding, dir := true, port := .a
    staged := [(8 * n + 2, BitVec.ofNat 32 (act * 2 ^ 24)), (8 * n + 1, BitVec.ofNat 32 2000), (8 * n, 0)] }

theorem test_hyp_schedule_commit :
    (getWin (schedWin 3 8) .a 1).awaits 6 = true ∧ (getWin (schedWin 3 8) .a 1).inst < 2 ∧ reserveFrom (schedWin 3 8) .a = 960 ∧
    3 ∈ writtenEntries (getWin (schedWin 3 8) .a 1).staged ∧ (getWin (after (.scheduleCommit .a 1) (schedWin 3 8)) .a 1).committed = true ∧
    (getEntry (after (.scheduleCommit .a 1) (schedWin 3 8)) .a 3).st = .armed ∧
    (getWin (after (.scheduleCommit .a 1) (schedWin 959 8)) .a 1).committed = true ∧
    (getWin (after (.scheduleCommit .a 1) (schedWin 960 8)) .a 1).rejected = true ∧
    kregN (after (.scheduleCommit .a 1) (schedWin 960 8)) .ftu 0 0x070 = 960 + 4096 * 4 ∧
    (getEntry (after (.scheduleCommit .a 1) (putEntry (schedWin 3 0) .a 3 { entry0 with due := some 6000000000000 })) .a 3).st = .cancelled := by
  decide +kernel

/-- A due firing of a half without time is skipped and counted. -/
theorem test_hyp_schedule_missed :
    let lost := onFtu (onFtu (due 8 fun e => { e with period := 10 }) .a fun f => { f with lock := .timeLost }) .b fun f => { f with lock := .timeLost }
    let trig := putEntry lost .a 5 { entry0 with action := 8, trig := true, rearm := true }
    hasTime lost .a = false ∧ (getEntry lost .a 5).ready (countOf lost .a) = true ∧
    kregN (after (.scheduleMissed .a 5) lost) .ftu 0 0x06C = 1 ∧ (getEntry (after (.scheduleMissed .a 5) lost) .a 5).due = some 5000000009000 ∧
    (getEntry trig .a 5).ready (countOf trig .a) = true ∧ (getEntry (after (.scheduleMissed .a 5) trig) .a 5).due = none := by
  decide +kernel

/-- An acted edge 64 cycles after the last, one 63 cycles after it, and a line high for 1 ms. -/
theorem test_hyp_triggers :
    let s := on [(.ftu, 0), (.ftu, 1)] base
    let edge := fun n => { s with trigHigh := 1, trigCyc := (s.trigCyc.set (trigKey 0 .a) (20000000000 - n)).set (8 + trigKey 0 .a) 1 }
    let wait := putEntry (edge 64) .a 9 { Entry.empty with st := .armed, trig := true, line := 0, ft := 500, action := 8 }
    s.pgSb = true ∧ (.a ∈ fittedHalves s.cfg) ∧ hasTime s .a = true ∧
    (getEntry (after (.trigInEdge 0) wait) .a 9).due = some 5000000000500 ∧
    (getEntry (after (.trigInEdge 0) (putEntry (edge 63) .a 9 (getEntry wait .a 9))) .a 9).due = none ∧
    overrunOf (after (.trigInEdge 0) (edge 63)) .a 0 = 1 ∧ overrunOf (after (.trigInEdge 0) (edge 64)) .a 0 = 0 ∧
    cycAgo (edge 1800000) (20000000000 - 1800000) 1000000 = true ∧ (edge 1800000).trigHigh.testBit 0 = true ∧
    bitOf (kreg (edge 1800000) .ftu 0 0x040) 8 = false ∧ bitOf (kreg (after (.trigStuck 0) (edge 1800000)) .ftu 0 0x040) 8 = true ∧
    bitOf (kreg (after (.trigStuckClear 0) (after (.trigStuck 0) (edge 1800000))) .ftu 0 0x040) 8 = false ∧
    (after (.bypStatChange 17) s).bypStat = 1 := by
  decide +kernel

/-! ### Tile programs -/

/-- An instruction word by its fields (R96). -/
def word (cls op mod dst src1 src2 src3 sem imm : Nat) : BitVec 128 :=
  BitVec.ofNat 128 (cls * 2 ^ 124 + op * 2 ^ 116 + mod * 2 ^ 104 + dst * 2 ^ 96 + src1 * 2 ^ 88 + src2 * 2 ^ 80 + src3 * 2 ^ 72 +
    sem * 2 ^ 64 + imm)

/-- Tile 5 RUNNING a word at the first of n instructions. -/
def tileAt (n : Nat) (w : BitVec 128) (f : Tile → Tile) : State :=
  onTile (on [(.tile, 5), (.tile, 6), (.ftu, 0), (.ftu, 1)] base) 5 fun x =>
    f { x with prog := .running, codeWords := n, ibuf := x.ibuf.set 0 w, sramOn := true, bucketCyc := 20000000000, bucket := 0 }

/-- R96's layout: SETI s3, 0x55 with its SEM byte naming semaphore 9. -/
theorem test_ins_fields :
    insOf (word 0 1 0 0x23 0 0 0 0x89 0x55) = ⟨0, 1, 0, 0, 0, 0, 0x23, 0, 0, 0, 0x89, 0x55⟩ ∧
    (insOf (word 0 1 0 0x23 0 0 0 0x89 0x55)).done = some 9 := by decide +kernel

theorem test_hyp_instruction_checks :
    let seti := word 0 1 0 0x23 0 0 0 0 0x55
    let never := word 0 1 0 0x23 0 0 0 0 0x55 ||| BitVec.ofNat 128 (1 * 2 ^ 112)
    tileFitted base 5 = true ∧ mayIssue base 5 = false ∧ mayIssue (tileAt 4 seti id) 5 = true ∧
    formsOf 0 0x11 = none ∧ (getTile (after (.seti 5) (tileAt 4 (word 0 0x11 0 0 0 0 0 0 0) id)) 5).prog = .faulted ∧
    formsOf 0 1 ≠ none ∧ (getTile (after (.add 5) (tileAt 4 seti id)) 5).pc = 0 ∧
    (insOf (word 0 1 0 0x43 0 0 0 0 0)).illegal = true ∧
    kreg (after (.seti 5) (tileAt 4 (word 0 1 0 0x43 0 0 0 0 0) id)) .tile 5 0x074 = 1 ∧
    (insOf never).illegal = false ∧ (getTile (tileAt 4 never id) 5).cond 1 = false ∧ (getTile (after (.seti 5) (tileAt 4 never id)) 5).pc = 1 ∧
    (insOf (word 5 1 0 0 0 0 0 0 0)).illegal = false ∧
    kreg (after (.tclr 5) { tileAt 4 (word 5 1 0 0 0 0 0 0 0) id with cfg := { base.cfg with variant := 3 } }) .tile 5 0x074 = 3 ∧
    (insOf (word 4 2 0x10 0x40 0x40 0x40 0 0 0)).formatOk = false ∧ (insOf (word 4 2 0x10 0x40 0x40 0x40 0 0 0)).illegal = false ∧
    kreg (after (.vadd 5) (tileAt 4 (word 4 2 0x10 0x40 0x40 0x40 0 0 0) id)) .tile 5 0x074 = 9 ∧
    (holdOf (tileAt 4 (word 5 0 0x10 0 0x21 0x22 0 0 32) fun x => { x with tmma := some ⟨0, 0, 32, 1, none, 0⟩ }) 5
      (insOf (word 5 0 0x10 0 0x21 0x22 0 0 32))).isSome = true := by
  decide +kernel

/-- An LDS of the last word of SRAM: its bank taken in this cycle, its word corrected, and its word uncorrectable. -/
theorem test_hyp_banks_and_flaws :
    let s := fun k => tileAt 4 (word 0 0x0C 0 0x21 0x22 0 0 0 0x7FFFC) fun x => { x with flaws := Tbl.empty.set 0xFFFF k }
    let taken := { s 0 with bankUse := base.bankUse.set (16 * 5 + 15) (8 * 20000000001 + bankMesh) }
    let ins := insOf (word 0 0x0C 0 0x21 0x22 0 0 0 0x7FFFC)
    bankHeld taken 5 ins = true ∧ (getTile (after (.lds 5) taken) 5).pc = 0 ∧ bankHeld (s 2) 5 ins = false ∧ corrected (s 2) 5 = none ∧
    kreg (after (.lds 5) (s 2)) .tile 5 0x074 = 4 ∧ bitOf (getPage (after (.lds 5) (s 2)) (pageNo .tile 5)).err 18 = true ∧
    (corrected (s 1) 5).isSome = true ∧ (getTile (s 1) 5).flawed 1 [(0x7FFFC, 4)] = [0xFFFF] ∧
    (getTile (after (.lds 5) (s 1)) 5).flaws.get 0 0xFFFF = 0 ∧ bitOf (getPage (after (.lds 5) (s 1)) (pageNo .tile 5)).err 17 = true := by
  decide +kernel

/-- The ten scalar operations, one before the last and at the last instruction of the code. -/
theorem test_hyp_scalar_operations :
    let add := word 0 2 0 0x21 0x22 0x23 0 0 0
    let s := fun n => tileAt n add fun x => (x.setSreg 2 0xFFFFFFFF).setSreg 3 1
    (Instr.add 5, 2) ∈ (scalarOps 5).map (fun p => (p.1, p.2.1)) ∧ Issues (s 2) 5 0 2 ∧ Issues (s 1) 5 0 2 ∧
    (getTile (after (.add 5) (s 2)) 5).sreg 1 = 0 ∧ (getTile (after (.add 5) (s 2)) 5).fz = true ∧ (getTile (after (.add 5) (s 2)) 5).fc = true ∧
    (getTile (after (.add 5) (s 1)) 5).prog = .faulted ∧ (getTile (after (.add 5) (s 1)) 5).fc = true := by
  delta Issues; decide +kernel

theorem test_hyp_branches :
    let jmp := fun n => tileAt 4 (word 0 0x0A 0 0 0 0 0 0 n) id
    let loop := fun n c k => tileAt k (word 0 0x0B 0 0x21 0 0 0 0 n) fun x => x.setSreg 1 c
    Issues (jmp 3) 5 0 0x0A ∧ (getTile (after (.jmp 5) (jmp 3)) 5).pc = 3 ∧ (getTile (after (.jmp 5) (jmp 4)) 5).prog = .faulted ∧
    Issues (jmp 4) 5 0 0x0A ∧
    Issues (loop 3 2 4) 5 0 0x0B ∧ (getTile (after (.loop 5) (loop 3 2 4)) 5).pc = 3 ∧ (getTile (after (.loop 5) (loop 4 2 4)) 5).prog = .faulted ∧
    (getTile (after (.loop 5) (loop 3 1 4)) 5).pc = 1 ∧ Issues (loop 3 1 1) 5 0 0x0B ∧ (getTile (after (.loop 5) (loop 3 1 1)) 5).prog = .faulted := by
  delta Issues; decide +kernel

theorem test_hyp_halt :
    let halt := fun b => tileAt 4 (word 0 0x10 0 0 0 0 0 0 0) fun x =>
      x.setBind 2 { Binding.unused with valid := true, eps := ⟨⟨true, b, 0, 0⟩, ⟨false, false, 0, 0⟩⟩ }
    Issues (halt true) 5 0 0x10 ∧ (getTile (after (.halt 5) (halt true)) 5).prog = .halted ∧
    (getTile (halt false) 5).anyBind Binding.owed = true ∧ kreg (after (.halt 5) (halt false)) .tile 5 0x074 = 0x0B := by
  delta Issues; decide +kernel

/-- The ends of R75's windows: the last word of SRAM, the first beyond it, the first and last counter, the identity words. -/
theorem test_hyp_loads_and_stores :
    let lds := fun a => tileAt 4 (word 0 0x0C 0 0x21 0x22 0 0 0 a) fun x =>
      { (x.writeSram 0x7FFFC [1, 2, 3, 4]) with ctrs := (Tbl.empty.set 0 (2 ^ 33 + 5)).set 15 9, ctrLatch := Tbl.empty.set 15 7 }
    let sts := fun a => tileAt 4 (word 0 0x0D 0 0 0x22 0x23 0 0 a) fun x => x.setSreg 3 0x01020304
    let got := fun a => (getTile (after (.lds 5) (lds a)) 5).sreg 1
    let reason := fun a => kreg (after (.lds 5) (lds a)) .tile 5 0x074
    Issues (lds 0x7FFFC) 5 0 0x0C ∧ got 0x7FFFC = 0x04030201 ∧ reason 0x80000 = 2 ∧ reason 0x11FFFC = 2 ∧ reason 0x7FFFE = 2 ∧
    got 0x120000 = 5 ∧ (getTile (after (.lds 5) (lds 0x120000)) 5).ctrLatch.find 0 = some 2 ∧ got 0x120078 = 9 ∧ got 0x12007C = 7 ∧
    reason 0x120080 = 2 ∧ reason 0x13FFFC = 2 ∧ got 0x140000 = 5 ∧ got 0x140004 = 0 ∧ got 0x140008 = BitVec.ofNat 32 5000000000000 ∧
    reason 0x140100 = 2 ∧ (getTile (lds 0x12007C) 5).ctrLatch.find 15 = some 7 ∧ (getTile (lds 0x120004) 5).ctrLatch.find 0 = none ∧ got 0x120004 = 2 ∧
    (corrected (lds 0) 5).isSome = true ∧
    Issues (sts 0x7FFFC) 5 0 0x0D ∧ (getTile (after (.sts 5) (sts 0x7FFFC)) 5).sram.get 0 0x7FFFF = 1 ∧
    kreg (after (.sts 5) (sts 0x80000)) .tile 5 0x074 = 2 ∧ kreg (after (.sts 5) (sts 2)) .tile 5 0x074 = 2 := by
  delta Issues; decide +kernel

/-- EPINFO's destination s1 to s13, and its bounds 0 and 14; RDFT. -/
theorem test_hyp_epinfo :
    let v := { Binding.unused with valid := true, sid := 7, eps := ⟨⟨true, false, 12, 2 ^ 32 + 3⟩, ⟨false, false, 0, 0⟩⟩ }
    let s := fun d w => tileAt 4 (word 0 0x0E 0 d 0 0x62 0 0 0) fun x => x.setBind 2 w
    Issues (s 0x21 v) 5 0 0x0E ∧ (getTile (after (.epinfo 5) (s 0x21 v)) 5).sreg 1 = BitVec.ofNat 32 (7 + 65536 * 12) ∧
    (getTile (after (.epinfo 5) (s 0x2D v)) 5).sreg 15 = 1 ∧ kreg (after (.epinfo 5) (s 0x2E v)) .tile 5 0x074 = 1 ∧
    kreg (after (.epinfo 5) (s 0x20 v)) .tile 5 0x074 = 1 ∧ kreg (after (.epinfo 5) (s 0x21 Binding.unused)) .tile 5 0x074 = 7 ∧
    v.newest = some (0, ⟨true, false, 12, 2 ^ 32 + 3⟩) ∧
    (getTile (after (.epinfo 5) (s 0x21 { v with eps := ⟨⟨false, false, 0, 0⟩, ⟨false, false, 0, 0⟩⟩ })) 5).sreg 2 = 0xFFFFFFFF ∧
    Issues (tileAt 4 (word 0 0x0F 0 0x24 0 0 0 0 0) id) 5 0 0x0F ∧
    (getTile (after (.rdft 5) (tileAt 4 (word 0 0x0F 0 0x24 0 0 0 0 0) id)) 5).sreg 5 = BitVec.ofNat 32 (5000000000000 / 2 ^ 32) := by
  delta Issues; decide +kernel

/-- SWAIT where the semaphore just holds its count, where its limit is now, and where it waits. -/
theorem test_hyp_swait :
    let now := 5000000000000
    let s := fun (sem : Nat) (lim : Nat) => tileAt 4 (word 1 0 0 0 0x24 0 0 0 (9 * 256 + 3)) fun x =>
      { ((x.setSreg 4 (BitVec.ofNat 32 lim)).setSreg 5 (BitVec.ofNat 32 (lim / 2 ^ 32))) with sems := x.sems.put 0 9 sem }
    let w := fun (sem : Nat) (lim : Option Nat) => tileAt 4 (word 1 0 0 0 0x24 0 0 0 (9 * 256 + 3)) fun x =>
      { x with pc := 1, prog := .waitSem, wait := .sem 9 3 lim, sems := x.sems.put 0 9 sem }
    Issues (s 3 0) 5 1 0 ∧ ((getTile (after (.swait 5) (s 3 0)) 5).sem 9) = 0 ∧ (getTile (after (.swait 5) (s 3 0)) 5).pc = 1 ∧
    hasTime (s 2 now) .a = true ∧ (getTile (s 2 now) 5).pair 4 = now ∧
    (getTile (after (.swait 5) (s 2 now)) 5).ft = true ∧ (getTile (after (.swait 5) (s 2 now)) 5).wait = .none ∧
    (getTile (after (.swait 5) (s 2 (now + 1))) 5).wait = .sem 9 3 (some (now + 1)) ∧
    mayEndWait (w 3 none) 5 = true ∧ (getTile (w 3 none) 5).pc < 4 ∧ (getTile (after (.swaitDone 5) (w 3 none)) 5).prog = .running ∧
    (getTile (after (.swaitDone 5) (w 2 (some now))) 5).ft = true ∧ (getTile (after (.swaitDone 5) (w 2 (some (now + 1)))) 5).prog = .waitSem ∧
    (getTile (after (.swaitDone 5) (w 2 none)) 5).prog = .waitSem := by
  delta Issues; decide +kernel

/-- An FT wait whose FT is this cycle's, one cycle before, and after it; FTWAIT.REL of a binding with, without an epoch, and not VALID. -/
theorem test_hyp_ftwait :
    let now := 5000000000000
    let s := fun (f : Nat) => tileAt 4 (word 1 3 0 0 0x24 0 0 0 0) fun x =>
      (x.setSreg 4 (BitVec.ofNat 32 f)).setSreg 5 (BitVec.ofNat 32 (f / 2 ^ 32))
    let r := fun (ok live : Bool) => tileAt 4 (word 1 4 0 0 0 0x62 0 0 100) fun x =>
      x.setBind 2 { Binding.unused with valid := ok, eps := ⟨⟨live, false, 4, now - 100⟩, ⟨false, false, 0, 0⟩⟩ }
    let w := fun (f : Nat) => tileAt 4 (word 1 3 0 0 0x24 0 0 0 0) fun x => { x with pc := 1, prog := .waitFt, wait := .ft f }
    Issues (s now) 5 1 3 ∧ (getTile (after (.ftwait 5) (s now)) 5).fl = false ∧ (getTile (after (.ftwait 5) (s now)) 5).wait = .none ∧
    (getTile (after (.ftwait 5) (s (now - 1))) 5).fl = true ∧ (getTile (after (.ftwait 5) (s (now + 1))) 5).wait = .ft (now + 1) ∧
    Issues (r true true) 5 1 4 ∧ ((getTile (r true true) 5).bind 2).newest = some (0, ⟨true, false, 4, now - 100⟩) ∧
    (getTile (after (.ftwaitRel 5) (r true true)) 5).wait = .none ∧ ((getTile (r true false) 5).bind 2).newest = none ∧
    (getTile (after (.ftwaitRel 5) (r true false)) 5).pc = 1 ∧ kreg (after (.ftwaitRel 5) (r false true)) .tile 5 0x074 = 7 ∧
    mayEndWait (w now) 5 = true ∧ (getTile (after (.ftWaitDone 5) (w now)) 5).prog = .running ∧
    (getTile (after (.ftWaitDone 5) (w (now + 1))) 5).prog = .waitFt := by
  delta Issues; decide +kernel

theorem test_hyp_fence :
    let v : Move := ⟨1, 0, 0, 64, 0, false, none, none, 0, 0, 0, 1, [], false⟩
    let s := fun (m : Nat) (busy : Bool) => tileAt 4 (word 1 5 0 0 0 0 0 0 m) fun x => if busy then { x with moves := x.moves.set 0 v } else x
    let w := fun (busy : Bool) => tileAt 4 (word 1 5 0 0 0 0 0 0 4) fun x =>
      { x with pc := 1, wait := .fence 4, moves := if busy then x.moves.set 0 v else .empty }
    Issues (s 4 true) 5 1 5 ∧ (getTile (after (.fence 5) (s 4 true)) 5).wait = .fence 4 ∧ (getTile (after (.fence 5) (s 32 true)) 5).wait = .none ∧
    Issues (s 4 false) 5 1 5 ∧ (getTile (after (.fence 5) (s 4 false)) 5).pc = 1 ∧ mayEndWait (w true) 5 = true ∧
    (getTile (after (.fenceDone 5) (w true)) 5).wait = .fence 4 ∧ (getTile (after (.fenceDone 5) (w false)) 5).wait = .none := by
  delta Issues; decide +kernel

/-- A sum of 0xFFFF and one beyond it; a logical tile of the partition and one that is none; a delivery behind a TILECP. -/
theorem test_hyp_ssig :
    let sig := fun n => tileAt 4 (word 1 1 0 0 0 0 0 0 (9 * 256 + 5)) fun x => { x with sems := x.sems.put 0 9 n }
    Issues (sig 0xFFFA) 5 1 1 ∧ (getTile (after (.ssig 5) (sig 0xFFFA)) 5).sem 9 = 0xFFFF ∧
    bitOf (getPage (after (.ssig 5) (sig 0xFFFA)) (pageNo .tile 5)).err 19 = false ∧
    bitOf (getPage (after (.ssig 5) (sig 0xFFFB)) (pageNo .tile 5)).err 19 = true := by
  delta Issues; decide +kernel

theorem test_hyp_ssend :
    let snd := fun (lt : Nat) => tileAt 4 (word 1 2 0 0 0x24 0 0 0 (9 * 256 + 5)) fun x => x.setSreg 4 (BitVec.ofNat 32 lt)
    Issues (snd 6) 5 1 2 ∧ peerTile (snd 6) 5 6 = some 6 ∧ (after (.ssend 5) (snd 6)).ssends = [(6, 9, 5, 5, 0)] ∧
    peerTile { snd 6 with pages := (snd 6).pages.set (pageNo .tile 6) { getPage (snd 6) (pageNo .tile 6) with owner := 2 } } 5 6 = none := by
  delta Issues; decide +kernel

theorem test_hyp_ssend_deliver :
    let v : Move := ⟨2, 0, 0, 64, 6, false, none, none, 0, 0, 0, 1, [], false⟩
    let dl := fun (place : Nat) => { tileAt 4 0 fun x => { x with moves := x.moves.set 0 v } with ssends := [(6, 9, 5, 5, place)] }
    (after (.ssendDeliver 0) (dl 0)).ssends = [] ∧ (getTile (after (.ssendDeliver 0) (dl 0)) 6).sem 9 = 5 ∧
    (after (.ssendDeliver 0) (dl 1)).ssends = [(6, 9, 5, 5, 1)] ∧ physOf (dl 0) 6 = some 6 ∧ inSplit (dl 0) = false := by
  decide +kernel

/-- Partition 0's first region mapped. -/
def mapped (s : State) : State :=
  { putPart s 0 { getPart s 0 with st := .live, regions := [40] } with regions := s.regions.set 40 ⟨.owned, 0, 0, 1, base.era⟩ }

/-- MEMRD of the shortest and the longest length, and of one beyond each end of what is allowed. -/
theorem test_hyp_memrd :
    let s := fun (len dst : Nat) (src : Nat) => mapped (tileAt 4 (word 2 0 0 0x22 0x24 0 0 0 len) fun x =>
      (x.setSreg 2 (BitVec.ofNat 32 dst)).setSreg 4 (BitVec.ofNat 32 src))
    let why := fun len dst src => kreg (after (.memrd 5) (s len dst src)) .tile 5 0x074
    Issues (s 64 0 0) 5 2 0 ∧ (corrected (s 64 0 0) 5).isSome = true ∧ ((getTile (after (.memrd 5) (s 64 0 0)) 5).moves.find 0).isSome = true ∧
    ((getTile (after (.memrd 5) (s 4096 0 0)) 5).moves.find 0).isSome = true ∧ why 262208 0 0 = 0x0A ∧ why 0 0 0 = 0x0A ∧ why 64 32 0 = 0x0A ∧
    why 64 0x80000 0 = 2 ∧ ((getTile (after (.memrd 5) (s 64 0x7FFC0 0)) 5).moves.find 0).isSome = true ∧
    rangeMapped (s 64 0 (2 ^ 21)) 0 (2 ^ 21) 64 = false ∧ why 64 0 (2 ^ 21) = 6 ∧ why 64 0 (2 ^ 21 - 64) = 0 := by
  delta Issues; decide +kernel

theorem test_hyp_memwr :
    let s := fun (len src : Nat) (dst : Nat) => mapped (tileAt 4 (word 2 1 0 0x24 0x22 0 0 0 len) fun x =>
      (x.setSreg 2 (BitVec.ofNat 32 src)).setSreg 4 (BitVec.ofNat 32 dst))
    let why := fun len src dst => kreg (after (.memwr 5) (s len src dst)) .tile 5 0x074
    Issues (s 64 0 0) 5 2 1 ∧ (corrected (s 64 0 0) 5).isSome = true ∧ ((getTile (after (.memwr 5) (s 64 0x103FC0 0)) 5).moves.find 0).isSome = true ∧ why 64 0x104000 0 = 2 ∧
    why 64 0x80000 0 = 2 ∧ why 65 0 0 = 0x0A ∧ why 64 0 (2 ^ 21) = 6 := by
  delta Issues; decide +kernel

theorem test_hyp_tilecp :
    let cp := fun (lt dst : Nat) => tileAt 4 (word 2 2 0 0x22 0x23 0x24 0x85 0 64) fun x =>
      (x.setSreg 2 (BitVec.ofNat 32 dst)).setSreg 4 (BitVec.ofNat 32 lt)
    Issues (cp 6 0) 5 2 2 ∧ (corrected (cp 6 0) 5).isSome = true ∧ ((getTile (after (.tilecp 5) (cp 6 0)) 5).moves.find 0).isSome = true ∧
    kreg (after (.tilecp 5) (cp 6 0x80000)) .tile 5 0x074 = 2 ∧ kreg (after (.tilecp 5) (cp 6 32)) .tile 5 0x074 = 0x0A ∧
    peerTile (inSt .tile 6 .off { cp 6 0 with pages := (cp 6 0).pages.set (pageNo .tile 6) { getPage (cp 6 0) (pageNo .tile 6) with owner := 1 } }) 5 6 = none := by
  delta Issues; decide +kernel

theorem test_hyp_send :
    let snd := fun (ok root : Bool) (src len : Nat) => putSes (tileAt 4 (word 2 3 0 0 0x22 0x62 0 0 len) fun x =>
      (x.setSreg 2 (BitVec.ofNat 32 src)).setBind 2 { Binding.unused with valid := ok, sid := 3 }) 3
        { Session.fresh with st := .active, desc := [if root then 0x10000 else 0] }
    let why := fun ok root src len => kreg (after (.send 5) (snd ok root src len)) .tile 5 0x074
    Issues (snd true true 0 64) 5 2 3 ∧ (corrected (snd true true 0 64) 5).isSome = true ∧ (getSes (snd true true 0 64) 3).isRoot = true ∧
    (getTile (after (.send 5) (snd true true 0 64)) 5).moves.cells = [] ∧ (getTile (after (.send 5) (snd true true 0 64)) 5).pc = 1 ∧
    ((getTile (after (.send 5) (snd true false 0 64)) 5).moves.find 0).isSome = true ∧ why false false 0 64 = 7 ∧ why true false 0x80000 64 = 2 ∧
    why true false 0 0 = 0x0A := by
  delta Issues; decide +kernel

/-- MOVE_COMPLETE: an index without a MOVE, a MOVE with a flit on its way, MEMRD with its bytes, with a bad line and with a bank taken,
MEMWR, TILECP, SEND, and a MOVE from the receive buffer. -/
theorem test_hyp_moves_complete :
    let mv := fun (op src dst arg left : Nat) (ue : Bool) => (⟨op, src, dst, 64, arg, false, some 9, some 2, 0, 0, 0, left, [(0, [7])], ue⟩ : Move)
    let s := fun (v : Move) => tileAt 4 0 fun x => { x with moves := x.moves.set 3 v }
    let c := Instr.moveComplete 5 3
    let rd := s (mv 0 0 0x200 0 0 false)
    let held := { rd with bankUse := base.bankUse.set (16 * 5 + 8) (8 * 20000000001 + bankMesh) }
    let rx := onTile (s { mv 3 0x100000 0 0 0 false with len := 256 }) 5 fun x => x.setSlot 0 { RxSlot.unused with st := .filled }
    (getTile rd 5).moves.find 2 = none ∧ ((getTile (after c (s (mv 0 0 0x200 0 1 false))) 5).moves.find 3).isSome = true ∧
    kreg (after c (s (mv 0 0 0x200 0 0 true))) .tile 5 0x074 = 5 ∧ (getTile (s (mv 0 0 0x200 0 0 true)) 5).prog ≠ .faulted ∧
    banksTaken held 5 (banksOf 0x200 64) = true ∧ ((getTile (after c held) 5).moves.find 3).isSome = true ∧
    banksTaken rd 5 (banksOf 0x200 64) = false ∧ (getTile (after c rd) 5).sem 9 = 1 ∧ (getTile (after c rd) 5).sram.get 0 0x200 = 7 ∧
    (getTile (after c (s (mv 1 0x100 64 0 0 false))) 5).sem 9 = 1 ∧ (getTile (after c (s (mv 2 0x100 0x40 6 0 false))) 6).sem 2 = 1 ∧
    (getTile (after c (s (mv 3 0x100 0 2 0 false))) 5).moves.find 3 = none ∧
    ((getTile (s (mv 3 0x100 0 2 0 false)) 5).bind 2).oldestOwed = none ∧
    ¬ ((mv 3 0x100000 0 0 0 false).src + 64 ≤ 0x80000) ∧ ((getTile (after c rx) 5).slot 0).st = .free := by
  decide +kernel

/-- A binding with one cell of FP32 in slot 1. -/
def cellAt (w : BitVec 128) (q : QEntry) (f : Tile → Tile) : State :=
  tileAt 4 w fun x => f ((x.setBind 2 { Binding.unused with valid := true, sid := 3, accBase := 100, accCount := 64, queue := [q] }).setSlot 1
    { RxSlot.unused with st := .filled, fmt := 0, kind := 1, payload := [0, 0, 128, 63] ++ List.replicate 252 0 })

theorem test_hyp_racc_and_rcopy :
    let q : QEntry := ⟨false, false, false, false, 0, 0, 1, false, 0, 0⟩
    let racc := word 3 0 0xF0 0x21 0 0x62 0 0 0
    let rcopy := word 3 1 0xF0 0x21 0x22 0x62 0 0 0
    let other : Acc := { Acc.clear with empty := false, op := 1 }
    Issues (cellAt racc q id) 5 3 0 ∧ Issues (cellAt rcopy q id) 5 3 1 ∧
    ((getTile (after (.racc 5) (cellAt racc q id)) 5).acc 100).empty = false ∧ ((getTile (after (.racc 5) (cellAt racc q id)) 5).slot 1).st = .free ∧
    kreg (after (.racc 5) (cellAt racc q fun x => { x with racc := x.racc.set 100 other })) .tile 5 0x074 = 9 ∧
    (getTile (after (.racc 5) (cellAt racc { q with mark := true, outcome := true, ranks := 5 } id)) 5).fm = true ∧
    (getTile (after (.racc 5) (cellAt racc { q with retired := true } id)) 5).pc = 1 ∧
    kreg (after (.racc 5) (cellAt racc q fun x => x.setBind 2 Binding.unused)) .tile 5 0x074 = 7 ∧
    kreg (after (.racc 5) (cellAt racc q fun x => x.setBind 2 { Binding.unused with valid := true })) .tile 5 0x074 = 8 := by
  delta Issues; decide +kernel

theorem test_hyp_rcopy_ends :
    let q : QEntry := ⟨false, false, false, false, 0, 0, 1, false, 0, 0⟩
    let rcopy := word 3 1 0xF0 0x21 0x22 0x62 0 0 0
    let at_ := fun a => cellAt rcopy q fun x => x.setSreg 2 a
    (getTile (after (.rcopy 5) (at_ 0x7FF00)) 5).sram.get 0 0x7FF03 = 63 ∧ kreg (after (.rcopy 5) (at_ 0x7FF01)) .tile 5 0x074 = 2 := by
  decide +kernel

/-- RRD at the last 64 accumulators, one beyond; RCLR over and beside a live epoch's accumulators. -/
theorem test_hyp_rrd_and_rclr :
    let rrd := fun a => tileAt 4 (word 3 2 0 0x41 0x22 0 0 0 0) fun x => x.setSreg 2 a
    let rclr := fun n => tileAt 4 (word 3 3 0 0 0x22 0 0 0 n) fun x => { (x.setBind 2 { Binding.unused with
      valid := true, accBase := 64, accCount := 8, eps := ⟨⟨true, false, 0, 0⟩, ⟨false, false, 0, 0⟩⟩ }) with
        racc := x.racc.set 63 { Acc.clear with empty := false } }
    Issues (rrd 8128) 5 3 2 ∧ goes (.rrd 5) (rrd 8128) = true ∧ (after (.rrd 5) (rrd 8128)).fresh = 0 ∧ (after (.rrd 5) (rrd 8129)).fresh = 1 ∧
    Issues (rclr 64) 5 3 3 ∧ (getTile (rclr 64) 5).liveAccs 0 64 = false ∧ ((getTile (after (.rclr 5) (rclr 64)) 5).acc 63).empty = true ∧
    (getTile (rclr 65) 5).liveAccs 0 65 = true ∧ kreg (after (.rclr 5) (rclr 65)) .tile 5 0x074 = 7 := by
  delta Issues; decide +kernel

theorem test_hyp_lanes :
    let add := tileAt 4 (word 4 2 0 0x41 0x40 0x42 0 0 0) fun x => (x.setVreg 0 (List.replicate 64 0x3F800000)).setVreg 2 (List.replicate 64 0x40000000)
    let splat := tileAt 4 (word 4 0x0F 0 0x41 0x22 0 0 0 0) fun x => x.setSreg 2 5
    Issues add 5 4 2 ∧ (getTile (after (.vadd 5) add) 5).vregs.get 0 127 = 0x40400000 ∧ Issues splat 5 4 0x0F ∧
    (getTile (after (.vsplat 5) splat) 5).vregs.get 0 127 = 5 := by
  delta Issues; decide +kernel

theorem test_hyp_extremes :
    let mx := tileAt 4 (word 4 6 0 0x41 0x40 0x22 0 0 0) fun x => x.setSreg 2 0x80000000
    let mxr := tileAt 4 (word 4 0x12 0 0x21 0x40 0 0 0 0) id
    let mn := tileAt 4 (word 4 7 0 0x41 0x40 0x22 0 0 0) fun x => x.setSreg 2 0x80000000
    Issues mx 5 4 6 ∧ (getTile (after (.vmax 5) mx) 5).vregs.get 0 64 = 0 ∧ Issues mn 5 4 7 ∧
    (getTile (after (.vmin 5) mn) 5).vregs.get 0 64 = 0x80000000 ∧ Issues mxr 5 4 0x12 ∧ (getTile (after (.vmaxr 5) mxr) 5).pc = 1 := by
  delta Issues; decide +kernel

/-- VLD, VST and VCVT at the last address, one 16 B beyond, and at an address that is no multiple of 16; a block format's scales. -/
theorem test_hyp_formats :
    let vld := fun (a fmt s3 : Nat) => tileAt 4 (word 4 0 (16 * fmt) 0x41 0x22 0 s3 0 0) fun x => (x.setSreg 2 (BitVec.ofNat 32 a)).setSreg 3 0x7FFFE
    let vst := fun (a : Nat) => tileAt 4 (word 4 1 0 0 0x41 0x22 0 0 0) fun x => (x.setSreg 2 (BitVec.ofNat 32 a)).setVreg 1 (List.replicate 64 0x3F800000)
    let vcvt := tileAt 4 (word 4 0x10 0x10 0x42 0x41 0 0 0 0) fun x => x.setVreg 1 (List.replicate 64 0x3F800000)
    Issues (vld 0x7FF00 0 0) 5 4 0 ∧ (corrected (vld 0x7FF00 0 0) 5).isSome = true ∧ (getTile (after (.vld 5) (vld 0x7FF00 0 0)) 5).pc = 1 ∧ kreg (after (.vld 5) (vld 0x7FF10 0 0)) .tile 5 0x074 = 2 ∧
    kreg (after (.vld 5) (vld 8 0 0)) .tile 5 0x074 = 2 ∧ Issues (vst 0x7FF00) 5 4 1 ∧
    (getTile (after (.vst 5) (vst 0x7FF00)) 5).sram.get 0 0x7FFFF = 63 ∧ Issues vcvt 5 4 0x10 ∧
    kreg (after (.vst 5) (vst 0x7FF10)) .tile 5 0x074 = 2 := by
  delta Issues; decide +kernel

/-- K of 32 and 1,024, and 0, 33 and 1,056 outside; operands that end at the end of SRAM and beyond. -/
theorem test_hyp_tmma :
    let t := fun (k a : Nat) => tileAt 4 (word 5 0 0x10 0 0x21 0x22 0 0x89 k) fun x => x.setSreg 1 (BitVec.ofNat 32 a)
    let why := fun k a => kreg (after (.tmma 5) (t k a)) .tile 5 0x074
    Issues (t 32 0) 5 5 0 ∧ (getTile (after (.tmma 5) (t 32 0)) 5).tmma = some ⟨0, 0, 32, 1, some 9, 0⟩ ∧
    (getTile (after (.tmma 5) (t 1024 0)) 5).tmma.isSome = true ∧ why 0 0 = 1 ∧ why 33 0 = 1 ∧ why 1056 0 = 1 ∧
    elemWidth 1 = 16 ∧ (getTile (after (.tmma 5) (t 32 (0x80000 - 4096))) 5).tmma.isSome = true ∧ why 32 (0x80000 - 4095) = 2 := by
  delta Issues; decide +kernel

theorem test_hyp_accumulators :
    let clr := tileAt 4 (word 5 1 0 0 0 0 0 0 0) fun x => { x with tacc := x.tacc.set 4095 5 }
    let twr := tileAt 4 (word 5 3 0 0 0x22 0 0 0 63) fun x => x.setSreg 2 7
    let vsum := tileAt 4 (word 4 0x11 0 0x21 0x22 0 0 0 0) fun x => x.setSreg 2 0x3F800000
    Issues clr 5 5 1 ∧ (getTile (after (.tclr 5) clr) 5).tacc.get 0 4095 = 0 ∧ Issues twr 5 5 3 ∧
    (getTile (after (.twr 5) twr) 5).tacc.get 0 4095 = 7 ∧ (getTile (after (.twr 5) twr) 5).tacc.get 0 4031 = 0 ∧
    Issues vsum 5 4 0x11 ∧ (getTile (after (.vsum 5) vsum) 5).pc = 1 := by
  delta Issues; decide +kernel

/-- A TMMA with K of 32 over zeros, in flight. -/
theorem test_hyp_tmma_complete :
    let s := fun k => tileAt 4 0 fun x => { x with tmma := some ⟨0, 4096, 32, 1, some 9, 0⟩, flaws := Tbl.empty.set 1023 k }
    let held := { s 0 with bankUse := base.bankUse.set (16 * 5 + 15) (8 * 20000000001 + bankMesh) }
    let ranges := [(0, 4096), (4096, 4096)]
    (getTile (s 0) 5).tmma = some ⟨0, 4096, 32, 1, some 9, 0⟩ ∧ banksTaken (s 0) 5 (banksOfAll ranges) = false ∧
    (sramRead (s 0) 5 ranges).isSome = true ∧ goes (.tmmaComplete 5) (s 0) = true ∧ banksTaken held 5 (banksOfAll ranges) = true ∧
    (getTile (after (.tmmaComplete 5) held) 5).tmma.isSome = true ∧ sramRead (s 2) 5 ranges = none ∧
    kreg (after (.tmmaComplete 5) (s 2)) .tile 5 0x074 = 4 := by
  decide +kernel

/-- An awake tile that waits for an FT, one that waits for a semaphore, and each step of Lull at its time. -/
theorem test_hyp_lull :
    let at_ := fun (top : Nat) (f : Tile → Tile) => reg .tile 5 0x048 (top + 65536 * 100) (tileAt 4 0 f)
    let ft := fun top d => at_ top fun x => { x with pc := 1, prog := .waitFt, wait := .ft (5000000000000 + d) }
    let sem := fun (n : Nat) => at_ 1 fun x => { x with pc := 1, prog := .waitSem, wait := .sem 1 1 none, idleCyc := 20000000000 - n }
    let ent := fun k n => at_ 3 fun x => { x with lull := .entering k, lullAtCyc := 20000000000 - n }
    let wak := fun k n => at_ 3 fun x => { x with lull := .waking k, wakeCyc := 20000000000 - n }
    (getTile (ft 2 1000000) 5).lull = .awake ∧ lullClear (ft 2 1000000) 5 = true ∧ levelFits (ft 2 1000000) 5 2 = true ∧
    (getTile (after (.lullDecision 5) (ft 2 1000000)) 5).lull = .entering 2 ∧ (getTile (after (.lullDecision 5) (ft 1 1000000)) 5).lull = .entering 1 ∧
    levelFits (ft 2 1000) 5 2 = false ∧ levelFits (ft 2 1000) 5 1 = true ∧ (getTile (after (.lullDecision 5) (ft 2 1000)) 5).lull = .entering 1 ∧
    (getTile (after (.lullDecision 5) (sem 100)) 5).lull = .entering 1 ∧ (getTile (after (.lullDecision 5) (sem 99)) 5).lull = .awake ∧
    (getTile (after (.lullEntryDone 5) (ent 1 8)) 5).lull = .asleep 1 ∧ (getTile (after (.lullEntryDone 5) (ent 1 7)) 5).lull = .entering 1 ∧
    (getTile (after (.lullEntryDone 5) (ent 2 360)) 5).lull = .asleep 2 ∧ (getTile (after (.lullEntryDone 5) (ent 3 1800)) 5).sramOn = false ∧
    (getTile (after (.lullWakeDone 5) (wak 1 16)) 5).lull = .awake ∧ (getTile (after (.lullWakeDone 5) (wak 2 3599)) 5).lull = .waking 2 ∧
    (getTile (after (.lullWakeDone 5) (wak 2 3600)) 5).lull = .awake := by
  decide +kernel

theorem test_hyp_lull_wakes :
    let at_ := fun (f : Tile → Tile) => regF .tile 5 0x188 9 (reg .tile 5 0x048 (3 + 65536 * 100) (tileAt 4 0 f))
    let deep := at_ fun x => { x with prog := .halted, lull := .asleep 1, lullAtCyc := 20000000000 - 1800000 }
    let plan := fun f => at_ fun x => { x with lull := .asleep 2, wakeFt := some f }
    let w3 := at_ fun x => { x with lull := .waking 3, wakeCyc := 20000000000 - 36000 }
    let sem := reg .tile 5 0x048 (2 + 64 + 65536 * 100) (tileAt 4 0 fun x =>
      { x with pc := 1, prog := .waitSem, wait := .sem 1 1 none, lull := .asleep 1, lullAtCyc := 20000000000 - 1800000 })
    let idle := at_ fun x => { x with prog := .none, lull := .asleep 1, lullAtCyc := 20000000000 - 1800000 }
    lullClear sem 5 = true ∧ (getTile (after (.lullDeepen 5) sem) 5).lull = .entering 2 ∧ lullClear idle 5 = true ∧
    (getTile idle 5).unbound = true ∧ (getTile (after (.lullDeepen 5) idle) 5).lull = .entering 3 ∧ lullClear deep 5 = true ∧
    deepChoice deep 5 = some 2 ∧ (getTile (after (.lullDeepen 5) deep) 5).lull = .entering 2 ∧
    ftPassed (plan 5000000000000) .a 5000000000000 = true ∧ calmOn (plan 0) .a = false ∧
    (getTile (after (.plannedWake 5) (plan 5000000000000)) 5).lull = .waking 2 ∧
    (getTile (after (.plannedWake 5) (plan 5000000000001)) 5).lull = .asleep 2 ∧ Reaches deep .a .tile 5 ∧
    (getTile (after (.wake .a 5) deep) 5).lull = .waking 1 ∧ (kregF w3 .tile 5 0x188).toNat % 65536 ≠ 0 ∧
    (getTile (after (.lullWakeDone 5) w3) 5).sr = 9 := by
  delta Reaches; decide +kernel

/-! ### Programs, registers and windows -/

/-- The bytes of an image of cw zero instruction words, with its header words changed by f before its CRC. -/
def imageBytes (cw data : Nat) (f : List Nat → List Nat) : List Byte :=
  let ws := f ([0x4B4E4B31, 1, cw, 0, data, (0x40 + 16 * cw + 63) / 64 * 64] ++ List.replicate 9 0)
  let head := ws.flatMap (leBytes 4)
  let rest := List.replicate (16 * cw) (0 : Byte)
  head ++ leBytes 4 (crcOn 0 (head ++ rest ++ List.replicate data 0)) ++ rest ++ List.replicate data 0

/-- Tile 5 STARTING with an image in its SRAM. -/
def loadIn (l : List Byte) : State :=
  onTile (inSt .tile 5 .starting (on [(.tile, 6)] base)) 5 fun x => { x with sram := writeBytes .empty 0 l, sramOn := true, prog := .none }

/-- The check value of CRC-32: "123456789". -/
theorem test_crc_check : crcOn 0 ([0x31, 0x32, 0x33, 0x34, 0x35, 0x36, 0x37, 0x38, 0x39] : List Byte) = 0xCBF43926 := by decide +kernel

/-- R93's checks one by one, and an image that loads. -/
theorem test_hyp_program_from_sram :
    let why := fun l => kreg (after (.programLoad 5) (loadIn l)) .tile 5 0x074
    let good := imageBytes 1 0 id
    pageSt (loadIn good) .tile 5 = .starting ∧ (getTile (loadIn good) 5).prog = .none ∧
    (sramImage (getTile (loadIn good) 5)).reject true true true = none ∧
    (getTile (after (.programLoad 5) (loadIn good)) 5).prog = .loaded ∧ why [] = 0x10 ∧
    (sramRead (loadIn good) 5 [(0, 0x80000)]).isSome = true ∧
    kreg (after (.programLoad 5) (onTile (loadIn good) 5 fun x => { x with flaws := Tbl.empty.set 9000 2 })) .tile 5 0x074 = 0x14 ∧
    why (imageBytes 1 0 fun l => l.set 1 2) = 0x11 ∧ why (imageBytes 1 0 fun l => l.set 3 1) = 0x13 ∧
    why (imageBytes 1 0 fun l => l.set 5 0x40) = 0x13 ∧ why (imageBytes 1 0 fun l => l.set 14 1) = 0x13 ∧ why (good.set 70 1) = 0x14 ∧
    (getPage (after (.programLoad 5) (loadIn [])) (pageNo .tile 5)).st = .off ∧ (getTile (after (.programLoad 5) (loadIn [])) 5).sram = .empty := by
  decide +kernel

/-- A source in memory, a misaligned one, one beyond the partition, and one whose length is not its header's. -/
theorem test_hyp_program_from_memory :
    let from_ := fun (src len : Nat) =>
      let s := mapped (regF .tile 5 0x080 src (regF .tile 5 0x07C len (loadIn [])))
      match translate s 0 64 with
      | some (prn, off) => { s with mem := writeBytes s.mem (memAddr prn off) (imageBytes 1 0 id) }
      | none => s
    let why := fun src len => kreg (after (.programLoad 5) (from_ src len)) .tile 5 0x074
    tileOwner (from_ 64 80) 5 = 0 ∧ rangeMapped (from_ 64 80) 0 64 80 = true ∧ rangeBad (from_ 64 80) 0 64 80 = false ∧
    (getTile (after (.programLoad 5) (from_ 64 80)) 5).prog = .loaded ∧ why 64 81 = 0x13 ∧ why 65 80 = 0x13 ∧ why (2 ^ 21) 80 = 0x13 ∧
    why 64 0x80040 = 0x13 ∧ why 128 80 = 0x10 ∧ why 128 0x80040 = 0x10 := by
  decide +kernel

theorem test_hyp_fill_done :
    (getTile (after (.tileSramFillDone 5) (onTile base 5 fun x => { x with fillEnd := some 20000000000 })) 5).fillEnd = none ∧
    (getTile (after (.tileSramFillDone 5) (onTile base 5 fun x => { x with fillEnd := some 20000000001 })) 5).fillEnd = some 20000000001 := by
  decide +kernel

theorem test_hyp_pages_not_reached :
    let resp := fun c s => ((after c s).mports.get Half.a).resp
    let mono := { base with cfg := { base.cfg with variant := 2, fullShadow := false } }
    pageOf 1 = none ∧ resp (.registerWrite .a 4096 5) base = respDecode ∧
    kindBeyond mono.cfg .wvSr 10 = true ∧ resp (.registerWrite .a (4096 * 0x41A) 5) mono = respDecode ∧
    kindFitted mono.cfg .ftu 1 = false ∧ resp (.registerWrite .a (4096 * 0x21) 5) mono = respAbsent ∧
    resp (.word64LowerRead .a (4096 * 0x21)) mono = respOkay ∧
    kindHalf base.cfg .ftu 1 = some .b ∧ resp (.word64UpperRead .a (4096 * 0x21)) { base with ready := ⟨true, false⟩ } = respHalfDown ∧
    kindHalf base.cfg .blk 0 = none ∧ resp (.registerWrite .a 0x40 5) { base with ready := ⟨false, false⟩ } = respHalfDown ∧
    resp (.word64LowerRead .a 0x40) { base with ready := ⟨false, true⟩ } = respOkay := by
  decide +kernel

theorem test_hyp_register_writes :
    let w := fun k i off data s => after (.registerWrite .a (4096 * pageNo k i + off) (BitVec.ofNat 32 data)) s
    let shut := on [(.ftu, 0), (.tile, 5)] base
    let resp := fun s => (s.mports.get Half.a).resp
    Reaches base .a .ftu 0 ∧ plainRegister .ftu 0x060 = true ∧
    kreg (w .ftu 0 0x060 7 base) .ftu 0 0x060 = 7 ∧ resp (w .ftu 0 0x060 7 shut) = respState ∧ resp (w .memFill 0 0x054 7 base) = respDenied ∧
    (regRow .ftu 0xFF0).isNone = true ∧ kreg (w .ftu 0 0x040 7 base) .ftu 0 0x040 = kreg base .ftu 0 0x040 ∧
    pidZeroFixed 0 0x104 = true ∧ resp (w .partMap 0 0x104 7 base) = respOkay ∧
    ((regRow .tile 0x080).map (·.acc)) = some .program ∧ resp (w .tile 5 0x080 64 shut) = respState ∧
    kreg (w .tile 5 0x080 64 base) .tile 5 0x080 = 64 := by
  delta Reaches; decide +kernel

theorem test_hyp_register_writes_turned_away :
    let w := fun k i off data s => after (.registerWrite .a (4096 * pageNo k i + off) (BitVec.ofNat 32 data)) s
    let resp := fun s => (s.mports.get Half.a).resp
    let owned := { base with pages := base.pages.set (pageNo .tile 5) { getPage base (pageNo .tile 5) with owner := 3 } }
    let live := putPart base 1 { getPart base 1 with st := .live }
    tileOwner owned 5 = 3 ∧ resp (w .tile 5 0x080 64 owned) = respDenied ∧
    resp (w .partMap 0 (0x100 + 0x1E0 + 0x004) 7 live) = respState ∧
    profileNamed base .a 1 = false ∧ resp (w .wv 0 0x124 7 base) = respOkay ∧
    kreg (w .port 2 0x08C 3 (reg .port 2 0x090 9 base)) .port 2 0x090 = 0 ∧
    (getPort (w .port 2 0x04C 0 (reg .port 2 0x04C 1 (putPort base 2 { getPort base 2 with after := some 7 }))) 2).after =
      some 5000000000000 := by
  decide +kernel

theorem test_hyp_reads_of_64_bits :
    let s := reg .ftu 0 0x084 9 (on [(.ftu, 0)] base)
    let lo := after (.word64LowerRead .a (4096 * 0x20 + 0x048)) s
    let up := Instr.word64UpperRead .a (4096 * 0x20 + 0x04C)
    Reaches s .a .ftu 0 ∧ isPairLow .ftu 0x048 = true ∧ readsOwn (4096 * 0x20 + 0x048) = false ∧ isPairLow .ftu 0x040 = false ∧
    (readWord s .a (4096 * 0x20 + 0x048)).1 = respOkay ∧ (lo.mports.get .a).latch.find (4096 * 0x20 + 0x04C) ≠ none ∧
    ((after up lo).mports.get .a).latch.find (4096 * 0x20 + 0x04C) = none ∧ ((after up s).mports.get .a).resp = respOkay ∧
    (readWord s .a (4096 * 0x20 + 0x03C)).1 = respDecode := by
  delta Reaches; decide +kernel

/-- A window of half A in a state, with a target. -/
def winAt (sel : Nat) (f : Window → Window) (s : State) : State :=
  putWin s .a 1 (f { Window.fresh with sel := BitVec.ofNat 32 sel, held := BitVec.ofNat 32 sel })

theorem test_hyp_window_opens :
    let o := fun sel f s => after (.winOpen .a .a 1 true) (winAt sel f s)
    let resp := fun s => (s.mports.get Half.a).resp
    let owned := { base with pages := base.pages.set (pageNo .tile 5) { getPage base (pageNo .tile 5) with owner := 3 } }
    Reaches base .a .mgmt 0 ∧ resp (o 0 id base) = respDecode ∧ resp (o 11 id base) = respDecode ∧ resp (o (3 + 256 * 4096) id base) = respDecode ∧
    resp (o (3 + 256 * 4095) id base) = respOkay ∧ resp (o 2 id base) = respDecode ∧
    resp (o (7 + 256 * 600) id { base with cfg := { base.cfg with variant := 2 } }) = respAbsent ∧
    resp (o 3 (fun x => { x with st := .deciding }) base) = respState ∧
    resp (o 3 id (putWin base .a 2 { Window.fresh with sel := 3, held := 3, st := .opened })) = respState ∧
    resp (o (7 + 256 * 5) id owned) = respDenied ∧ (getWin (o (7 + 256 * 5) id base) .a 1).st = .opened ∧
    targetFitted base 7 5 = true ∧ targetCut base .a 7 5 = false ∧ targetTaken base 7 5 = false := by
  delta Reaches; decide +kernel

theorem test_hyp_window_open_accesses :
    let s := winAt 3 (fun x => { x with st := .opened, dir := true }) base
    let other := winAt 3 (fun x => { x with st := .opened, dir := true, port := .b }) base
    let resp := fun c s => ((after c s).mports.get Half.a).resp
    resp (.winOpen .a .a 1 true) s = respOkay ∧ resp (.winOpen .a .a 1 false) s = respState ∧
    resp (.winOpen .a .a 1 true) other = respDenied ∧ resp (.winClose .a .a 1 true) other = respDenied ∧
    resp (.abort .a .a 1) other = respDenied ∧ (getWin (after (.abort .a .a 1) s) .a 1).st = .closed ∧
    resp (.registerWrite .a 0x10120 3) s = respState ∧ resp (.registerWrite .a 0x10128 3) s = respState ∧
    resp (.registerWrite .a 0x10120 3) other = respDenied ∧ bitOf (getPage (after (.abort .a .a 1) base) 0x10).err 2 = true := by
  decide +kernel

theorem test_hyp_window_data :
    let s := fun (sel a : Nat) dir => winAt sel (fun x => { x with st := .opened, dir := dir, addr := BitVec.ofNat 32 a }) base
    let ready := fun dir => onTile (s (7 + 256 * 5) 0 dir) 5 fun x => { x with sramOn := true, fillEnd := none }
    let resp := fun c s => ((after c s).mports.get Half.a).resp
    let wr := Instr.winDataWrite .a .a 1 5
    let rd := Instr.winDataRead .a .a 1
    resp wr base = respState ∧ resp rd base = respState ∧ resp rd (s 3 0 true) = respState ∧ resp wr (s 3 0 false) = respState ∧
    targetExtent base 3 0 = some 16 ∧ resp wr (s 3 15 true) = respOkay ∧ resp wr (s 3 16 true) = respDecode ∧ resp rd (s 3 16 false) = respDecode ∧
    resp wr (s (7 + 256 * 5) 0 true) = respWait ∧ resp wr (ready true) = respOkay ∧ sramReady (ready true) 5 = true ∧
    (getTile (after wr (ready true)) 5).sram.get 0 0 = 5 ∧ (getWin (after wr (ready true)) .a 1).count = 1 ∧
    resp rd (s 2 0 false) = respWait ∧ resp rd (s 3 0 false) = respOkay ∧ resp rd (s 6 0 false) = respOkay ∧ resp rd (ready false) = respOkay ∧
    sramRead (ready false) 5 [(0, 4)] ≠ none ∧
    (let bad := onTile (ready false) 5 fun x => { x with flaws := Tbl.empty.set 0 2 }
     let runs := onTile bad 5 fun x => { x with prog := .running }
     sramRead bad 5 [(0, 4)] = none ∧ bitOf (getPage (after rd bad) (pageNo .tile 5)).err 18 = true ∧
     (getTile (after rd runs) 5).prog = .faulted ∧ kreg (after rd runs) .tile 5 0x074 = 4) := by
  decide +kernel

theorem test_hyp_window_closes :
    let s := fun (sel : Nat) dir => winAt sel (fun x => { x with st := .opened, dir := dir }) base
    let st := fun s => (getWin (after (.winClose .a .a 1 true) s) .a 1).st
    st (s 3 true) = .deciding ∧ st (s 3 false) = .closed ∧ st (s 7 true) = .closed ∧
    (getWin (after (.winClose .a .a 1 true) (s 7 true)) .a 1).committed = true ∧
    (after (.winDataRead .a .a 1) (onRtp (s 2 false) .a fun q => { q with out := [4, 5] })).rtp.a.out = [5] := by
  decide +kernel

/-! ### Sessions -/

/-- The words of a descriptor: a MEMBER at the root of half A with one part of 64 FP32 elements and two contributors. -/
def descW (f : List Nat → List Nat) : List Word :=
  (f [3 + 2 ^ 16, 2 + 2 ^ 16, 64 + 64 * 2 ^ 16, 1 + 0, 8 + 3 * 2 ^ 16, 1000, 5000, 10000, 2000, 4000, 7 + 3 * 2 ^ 12, 0x10000001, 8 + 4 * 2 ^ 12, 0x20000002,
    0, 5 + 2 * 2 ^ 10]).map (BitVec.ofNat 32)

/-- The words of a table of two host contributors, ranks 0 and 1. -/
def tabW (f : List Nat → List Nat) : List Word :=
  (f [0 + 2 ^ 20, 1 + 9 * 2 ^ 18, 0x10000003, 8, 1 + 2 ^ 20, 1 + 9 * 2 ^ 18, 0x10000004, 8]).map (BitVec.ofNat 32)

/-- Words as a window stages them. -/
def staged (l : List Word) : List (Nat × Word) := ((List.range l.length).map fun i => (i, l.getD i 0)).reverse

/-- A session with its descriptor, table and keys. -/
def ses0 : Session :=
  { Session.fresh with
    st := .ready, desc := descW id, banks := ⟨(List.range 2).map (contribOf (staged (tabW id))), []⟩, tableOk := true
    parentKey := true, relayKey := true, cst := (Tbl.empty.put (.disabled, 0) 0 (.active, 0)).put (.disabled, 0) 1 (.active, 0) }

/-- Session 100 on a block whose SES engine, time, tiles and ports are up. -/
def sesAt (f : Session → Session) : State :=
  putSes (regF .blk 0 0x060 0x30000000 (on [(.ftu, 0), (.ftu, 1), (.ses, 0), (.ses, 1), (.tile, 5), (.port, 2), (.wv, 0)] base)) 100 (f ses0)

/-- A window of half A that waits for a session target. -/
def sesWin (code : Nat) (l : List Word) (s : State) : State :=
  winAt (code + 256 * 100) (fun x => { x with st := .deciding, dir := true, staged := staged l }) s

theorem test_hyp_descriptor_commit :
    let none_ := putSes (sesAt id) 100 Session.fresh
    let why := fun f s => kregN (after (.descriptorCommit .a 1) (sesWin 3 (descW f) s)) .ses 0 0x05C
    let good := after (.descriptorCommit .a 1) (sesWin 3 (descW id) (sesAt id))
    (getWin base .a 1).awaits 3 = false ∧ (getWin (sesWin 3 (descW id) none_) .a 1).awaits 3 = true ∧
    descReject none_ 100 Session.fresh (Session.fresh.withDesc (staged (descW id))) = none ∧
    (getSes (after (.descriptorCommit .a 1) (sesWin 3 (descW id) none_)) 100).st = .empty ∧
    (getSes good 100).st = .defined ∧ (getSes good 100).ctst 0 = (.keying, 0) ∧ (getSes good 100).parentKey = false ∧
    (getSes (after (.descriptorCommit .a 1) (sesWin 3 (descW fun l => l.set 0 (2 ^ 16)) (sesAt id))) 100) = .fresh ∧
    why (fun l => l.set 0 10) none_ = 1 ∧ why (fun l => l.set 0 (3 + 2 ^ 16 + 2 ^ 8)) none_ = 2 ∧ why (fun l => l.set 15 (1024 + 2 ^ 14)) none_ = 1 ∧
    why (fun l => l.set 15 (5 + 8065 * 2 ^ 16)) none_ = 3 ∧ why (fun l => l.set 8 1999) none_ = 6 ∧ why (fun l => l.set 9 3999) none_ = 6 ∧
    why (fun l => l.set 13 0x30000002) none_ = 7 ∧ why id (sesAt fun x => { x with st := .active }) = 5 := by
  decide +kernel

theorem test_hyp_contributor_table_commit :
    let none_ := sesAt fun x => { x with st := .empty, tableOk := false, banks := ⟨[], []⟩ }
    let why := fun f s => kregN (after (.contributorTableCommit .a 1) (sesWin 4 (tabW f) s)) .ses 0 0x05C
    let good := after (.contributorTableCommit .a 1) (sesWin 4 (tabW id) none_)
    let busy := sesAt fun x => (x.setEp 0 { Epoch.fresh with st := .armed }).setEp 1 { Epoch.fresh with st := .armed, bank := 1 }
    (getWin (sesWin 4 (tabW id) none_) .a 1).awaits 4 = true ∧ tableReject none_ (getSes none_ 100) (staged (tabW id)) (some 0) = none ∧
    (getSes good 100).bank 0 = ses0.bank 0 ∧ (getSes good 100).tableOk = true ∧ ((getSes good 100).st = .ready) ∧
    (getSes (after (.contributorTableCommit .a 1) (sesWin 4 (tabW id) (sesAt id))) 100).newest = 1 ∧
    why (fun l => l.set 1 0) none_ = 1 ∧ why (fun l => l.take 4) none_ = 8 + 256 * 1 ∧ why (fun l => l.set 4 (2 ^ 20)) none_ = 8 + 256 * 1 ∧
    why (fun l => l.set 6 0xF0000001) none_ = 8 + 256 * 1 ∧ why (fun l => l.set 7 65) none_ = 8 + 256 * 1 ∧ why (fun l => l.set 7 64) none_ = 0 ∧
    why id busy = 9 ∧ why (fun l => l.set 4 (131071 + 2 ^ 20)) none_ = 0 := by
  decide +kernel

theorem test_hyp_session_start :
    let st := fun s => after (.sesStart .a .a 100) s
    let status := fun s => kregN s .ses 0 0x058
    let prog := sesAt fun x => { x with desc := descW fun l => l.set 0 (9 + 2 ^ 16) }
    let bound := onTile (sesAt id) 5 fun x => x.setBind 2 { Binding.unused with valid := true, sid := 101 }
    Reaches (sesAt id) .a .ses 0 ∧ calmOn (sesAt id) .a = false ∧ engineOn (sesAt id) .a = true ∧ (getSes (sesAt id) 100).tileOf (sesAt id) 0 = some 5 ∧
    (getSes (st (sesAt id)) 100).st = .active ∧ ((getTile (st (sesAt id)) 5).bind 2).sid = 100 ∧ status (st (sesAt id)) = 3 + 2 ^ 31 ∧
    status (st (sesAt fun x => { x with st := .active })) = 3 + 256 + 2 ^ 31 ∧
    (getSes (st (sesAt fun x => { x with st := .draining })) 100).restart = true ∧
    placeStatus prog (getSes prog 100) = 1 ∧ status (st prog) = 2 + 256 + 2 ^ 31 ∧
    partMisplaced bound 100 ses0 0 = true ∧ status (st bound) = 2 + 256 + 2 ^ 31 ∧
    (getSes (after (.sesStart .a .b 100) (sesAt id)) 100).st = .ready ∧
    (((st (calmed (sesAt id))).calm.get .a).gos = [.sesStart .a .a 100]) ∧ calmOn (calmed (sesAt id)) .a = true := by
  delta Reaches; decide +kernel

theorem test_hyp_session_stop :
    let sp := fun s => after (.sesStop .a .a 100) s
    let act := sesAt fun x => { x with st := .active }
    let bound := onTile act 5 fun x => x.setBind 2 { Binding.unused with valid := true, sid := 100 }
    let live := sesAt fun x => { x with st := .active, eps := ⟨{ Epoch.fresh with st := .opened }, .fresh⟩ }
    kregN (sp (sesAt id)) .ses 0 0x058 = 2 + 256 + 2 ^ 31 ∧ (getSes bound 100).idle = true ∧ (getSes (sp bound) 100).st = .ready ∧
    ((getTile (sp bound) 5).bind 2) = .unused ∧ (getSes live 100).idle = false ∧ (getSes (sp live) 100).st = .draining ∧
    (getSes (sp (sesAt fun x => { x with st := .draining, restart := true })) 100).restart = false := by
  decide +kernel

theorem test_hyp_edge_keys :
    let s := { sesAt fun x => { (x.setCt 1 .keying 0) with st := .defined } with peers := [(0, 0x10000004)] }
    let up := onRtp s .a fun r => { r with booted := true }
    let y := getSes (after (.edgeKeyReport 100 (.contrib 1)) up) 100
    (getSes up 100).edgeWaits (.contrib 1) = true ∧ ownerKeyed up 0 = true ∧ (up.rtp.get .a).booted = true ∧ keyRoom up .a = true ∧
    peerKnown up 0 ((getSes up 100).pfaOf 0 (.contrib 1)) = true ∧ y.st = .ready ∧ y.ctst 1 = (.active, 0) ∧
    after (.edgeKeyReport 100 (.contrib 1)) s = s ∧ (getSes up 100).edgeWaits (.contrib 0) = false ∧ (getSes up 100).edgeWaits .relay = false := by
  decide +kernel

/-- A control message at port 2 from contributor 1, sent now. -/
def ctrlIn (f : CtrlIn → CtrlIn) : CtrlIn := f ⟨2, 0, 0, true, 5000000000000 / 16 % 2 ^ 24, 100, 7, 1, 3, 9, List.replicate 224 0⟩

/-- A message with the CRC of its cell (R158). -/
def sealed (msg ft arg : Nat) (toChild : Bool) (m : CtrlIn) : CtrlIn :=
  { m with crc := cellCrc m.tag (headLow m.stamp 3 0 0) ((ctrlHead m msg ft arg toChild).bytes ++ m.body) }

/-- An ARM_ACK with status 0 from contributor 1. -/
def ackIn (f : CtrlIn → CtrlIn) : CtrlIn := sealed 3 0 0 false (ctrlIn f)

/-- A cell of 256 zero bytes whose header has a KIND, with a CRC. -/
def headOf (kind crc : Nat) : Nat := crc * 2 ^ 48 + kind * 2 ^ 20

/-- Session 100, ACTIVE, with an ingress credit outstanding at port 2. -/
def heard (f : Session → Session) : State :=
  let s := sesAt fun x => f { x with st := .active }
  putPort s 2 { getPort s 2 with out := 2 }

theorem test_hyp_control_messages :
    let a := fun f s => after (.armAck (ackIn f) 0) s
    let bad := (after (.armAck (ctrlIn id) 0) ·)
    let zeros : List Byte := List.replicate 256 0
    let good := cellCrc 0 (2 ^ 20 * 4) zeros
    let n := fun off s => kregN s .ses 0 off
    let s := heard id
    portFitted s 2 = true ∧ (takeIngress s 2).isSome = true ∧ (takeIngress (sesAt id) 2).isNone = true ∧
    kregN (a id (sesAt id)) .port 2 0x078 = 1 ∧ n 0x060 (bad s) = 1 ∧
    n 0x064 (a (fun m => { m with sid := 101 }) s) = 1 ∧ edgeKnown (getSes s 100) (.contrib 1) 1 = true ∧ n 0x064 (a (fun m => { m with cidx := 2 }) s) = 1 ∧
    sentAt s 2 (5000000000000 / 16 % 2 ^ 24) = some 5000000000000 ∧ n 0x068 (a (fun m => { m with authOk := false }) s) = 1 ∧
    (getSes (a id s) 100).seen = [(1, 7, 3)] ∧ n 0x06C (a id (a id s)) = 1 ∧ (getSes (a id (a id s)) 100).dup = 0 ∧
    (getSes (a id (calmed s)) 100).seen = [] ∧ malformed (headOf 4 good) zeros = true ∧
    n 0x064 (after (.malformedCell 2 ⟨(headOf 4 good), zeros⟩) s) = 1 ∧ n 0x060 (after (.malformedCell 2 ⟨(headOf 4 (good ^^^ 1)), zeros⟩) s) = 1 ∧
    malformed (headOf 1 0) zeros = false ∧ (received s (ackIn id) 3 0 0 (.contrib 1)).isSome = true := by
  decide +kernel

theorem test_hyp_carries : Carries (ackIn id) (.armAck (ackIn id) 0) 3 0 0 (.contrib 1) (actArmAck (ackIn id) 0) :=
  Or.inr (Or.inr (Or.inl ⟨0, rfl, rfl, rfl, rfl, rfl, rfl⟩))

theorem test_hyp_sessions_arm :
    let go := fun ft f => reg .ses 0 0x04C 7 (reg .ses 0 0x044 (ft % 2 ^ 32) (reg .ses 0 0x048 (ft / 2 ^ 32) (sesAt fun x => f { x with st := .active })))
    let t := fun ft f => after (.sesArmGo .a .a 100) (go ft f)
    let why := fun ft f => kregN (t ft f) .ses 0 0x050 - 2 ^ 31
    let late := 5000000000000 + 4000
    let ok := t late id
    armRefusal (go late id) (getSes (go late id) 100) 7 late 4000 = none ∧ why late id = 0 ∧ why (late - 1) id = 5 ∧
    why late (fun x => { x with next := some 8 }) = 3 ∧ why late (fun x => x.setEp 1 { Epoch.fresh with st := .armed }) = 1 ∧
    why late (fun x => { x with st := .ready }) = 4 ∧ why late (fun x => { x with st := .frozen }) = 6 ∧
    why late (fun x => { x with desc := descW fun l => l.set 0 3 }) = 7 ∧ (getSes ok 100).next = some 8 ∧ ((getSes ok 100).ep 1).st = .armed ∧
    (freeEntry (go late id) .a) = some 512 ∧ (getEntry ok .a 512).st = .armed ∧ why late (fun x => { x with st := .empty }) = 4 := by
  decide +kernel

/-! ### Epochs of a session -/

/-- A descriptor below a parent. -/
def member (x : Session) : Session := { x with desc := descW fun l => l.set 0 3 }

/-- An epoch 7 of parity 1 in a state. -/
def ep7 (st : EpSt) (f : Epoch → Epoch) (x : Session) : Session :=
  x.setEp 1 (f { Epoch.fresh with st := st, num := 7, start := 5000000010000, awaited := [0, 1] })

/-- A control message from the parent. -/
def fromParent : CtrlIn := ctrlIn fun m => { m with cidx := 3 }

/-- An ARM, an ARM_REQ of contributor 1, and an order from above. -/
def armIn (ft : Nat) : CtrlIn := sealed 2 ft 0 true fromParent
def reqIn (ft : Nat) : CtrlIn := sealed 1 ft 0 false (ctrlIn id)
def orderIn (commit : Bool) (status : Nat) : CtrlIn := sealed (if commit then 4 else 5) 5000000010000 status true fromParent

/-- A stamp has no send time where FT has not come to it yet. -/
theorem test_hyp_no_send_time :
    let s := onFtu (heard id) .a fun f => { f with count := 0 }
    sentAt s 2 256 = some 4096 ∧ sentAt s 2 257 = none ∧
    kregN (after (.armAck (ackIn fun m => { m with stamp := 257 }) 0) s) .ses 0 0x064 = 1 := by decide +kernel

theorem test_hyp_member_arms :
    let s := heard member
    let far := 5000000000000 + 4000
    (received s (armIn far) 2 far 0 .parent).isSome = true ∧ (getSes s 100).isRelay = false ∧ (getSes s 100).isRoot = false ∧
    armRefusal s (getSes s 100) 7 far 4000 = none ∧ ((getSes (after (.arm (armIn far) far) s) 100).ep 1).st = .armed ∧
    ((getSes (after (.arm (armIn (far - 1)) (far - 1)) s) 100).ep 1).st = .idle ∧ armRefusal s (getSes s 100) 7 (far - 1) 4000 = some 5 ∧
    (received s (reqIn far) 1 far 0 (.contrib 1)).isSome = true ∧ (getSes (heard id) 100).armerEn = false ∧
    coversArmer { ses0 with desc := descW fun l => l.set 14 (1 + 2 ^ 17) } 1 = true ∧
    ((getSes (after (.armReq (reqIn far) far) (heard fun x => { x with desc := descW fun l => l.set 14 (1 + 2 ^ 17) })) 100).ep 1).st = .armed := by
  decide +kernel

theorem test_hyp_arm_acks :
    let ack := fun f st => after (.armAck (sealed 3 0 st false (ctrlIn id)) st) (heard f)
    let e := fun s => (getSes s 100).ep 1
    (received (heard (ep7 .armed id)) (ackIn id) 3 0 0 (.contrib 1)).isSome = true ∧
    (e (ack (ep7 .armed id) 0)).acked = [1] ∧ (e (ack (ep7 .committed id) 0)).acked = [] ∧
    (e (ack (member ∘ ep7 .armed id) 0)).ackSent = false ∧
    (e (ack (member ∘ ep7 .armed fun e => { e with acked := [0] }) 0)).ackSent = true ∧ (e (ack (member ∘ ep7 .armed id) 5)).ackSent = true ∧
    (e (ack (member ∘ ep7 .armed id) 5)).refusal = 5 ∧ (e (ack (ep7 .armed id) 5)).ackSent = false := by
  decide +kernel

theorem test_hyp_orders :
    let s := fun st f => heard (member ∘ ep7 st f)
    let e := fun s => (getSes s 100).ep 1
    let com := fun st f => e (after (.commit (orderIn true 0) 5000000010000 false) (s st f))
    let dis := fun st f => e (after (.disarm (orderIn false 0) 5000000010000 0 false) (s st f))
    (received (s .armed id) (orderIn true 0) 4 5000000010000 0 .parent).isSome = true ∧ (com .armed id).st = .committed ∧
    (com .armed fun e => { e with start := 5000000002000 }).st = .uncommitted ∧ (com .armed fun e => { e with start := 5000000002001 }).st = .committed ∧
    (com .idle fun e => { e with gotDisarm := true }).st = .uncommitted ∧ (dis .armed id).st = .idle ∧ (dis .committed id).st = .uncommitted ∧
    (dis .committed fun e => { e with start := 5000000002000 }).st = .committed ∧ (dis .armed fun e => { e with start := 5000000002000 }).st = .uncommitted ∧
    (e (after (.commit (orderIn true 0) 5000000010000 false) (heard fun x => { member (ep7 .armed id x) with orders := [(7, true)] }))).st = .armed ∧
    (getSes (after (.disarm (orderIn false 0) 5000000010000 0 false) (heard member)) 100).next = some 8 ∧
    (received (s .armed id) (sealed 4 5000000010000 0 true (ctrlIn fun m => { m with cidx := 4 })) 4 5000000010000 0 .relay).isSome = true := by
  decide +kernel

theorem test_hyp_commit_deadline :
    let s := fun n f => sesAt fun x => ep7 .armed (fun e => f { e with start := 5000000000000 + n }) { x with st := .active }
    let e := fun s => (getSes s 100).ep 1
    let go := fun n f => e (after (.commitDeadline 100 1) (s n f))
    timerDue (s 4000 id) (getSes (s 4000 id) 100) (5000000004000 - 4000) = true ∧ (go 4001 fun e => { e with acked := [0, 1] }).st = .armed ∧
    (go 4000 fun e => { e with acked := [0, 1] }).st = .committed ∧ (go 4000 id).st = .idle ∧
    (go 4000 fun e => { e with acked := [0, 1], refusal := 5 }).st = .idle := by
  decide +kernel

theorem test_hyp_guard_time :
    let s := fun n f => sesAt fun x => member (ep7 .armed (fun e => f { e with start := 5000000000000 + n }) { x with st := .active })
    let t := fun n f => after (.guardTime 100 1) (s n f)
    ((getSes (t 2000 id) 100).ep 1).st = .uncommitted ∧ ((getSes (t 2001 id) 100).ep 1).st = .armed ∧
    bitOf (getPage (t 2000 id) (pageNo .ses 0)).err 18 = true ∧
    ((getSes (t 2000 fun e => { e with gotCommit := true }) 100).ep 1).st = .armed := by
  decide +kernel

/-- A slot of tile 5 reserved for contributor 1's first segment in epoch 7. -/
def rx7 : RxSlot := { RxSlot.unused with st := .reserved, kind := 1, sid := 100, epoch := 7, parity := 1, cidx := 1, part := 0, seg := 0, issued := 4999999000000 }

/-- Session 100 with epoch 7 open and a reserved slot. -/
def cellSt (f : RxSlot → RxSlot) : State :=
  onTile (heard (ep7 .opened id)) 5 fun x => x.setSlot 3 (f rx7)

/-- The cell that fills it. -/
def bare7 (f : CellIn → CellIn) : CellIn :=
  f ⟨2, 0, 0, 0, 5 * 64 + 3, 5000000000000 / 16 % 2 ^ 24, List.replicate 256 0, some ⟨100, 7, 1, 0, 0⟩, []⟩
def sealCell (kind : Nat) (c : CellIn) : CellIn := { c with crc := cellCrc c.tag (cellInLow kind c) c.body }
def cell7 (f : CellIn → CellIn) : CellIn := sealCell 1 (bare7 f)

theorem test_hyp_arriving_cells :
    let s := cellSt id
    let n := fun off f g => kregN (after (.dataCell (cell7 f)) (cellSt g)) .ses 0 off
    let t := after (.dataCell (cell7 id)) s
    let filled := fun r : RxSlot => { r with st := .filled }
    portFitted s 2 = true ∧ physOf s 5 = some 5 ∧ (takeIngress s 2).isSome = true ∧ sentAt s 2 (cell7 id).stamp = some 5000000000000 ∧
    kregN (after (.dataCell { cell7 id with crc := (cell7 id).crc ^^^ 1 }) (cellSt id)) .ses 0 0x060 = 1 ∧ n 0x064 id (fun _ => RxSlot.unused) = 1 ∧
    ((getTile t 5).slot 3).st = .filled ∧ (getSes t 100).returned = 1 ∧ (((getSes t 100).ep 1).fate 1 0 0) = fateAccepted ∧
    n 0x074 id (fun r => { r with issued := 5000000001001 }) = 1 ∧ n 0x068 (fun c => { c with auth := none }) (fun r => { r with issued := 5000000001000 }) = 1 ∧
    n 0x078 (fun c => { c with format := 1 }) id = 1 ∧ n 0x06C id filled = 1 ∧ n 0x074 (fun c => { c with auth := none }) filled = 1 ∧
    ((getTile (after (.resultCell (sealCell 2 (bare7 id))) s) 5).slot 3).st = .reserved := by
  decide +kernel

/-- A slot whose credit before was of the live epoch 7, and of an epoch 5 that has retired. -/
theorem test_hyp_late_cells :
    let prior := fun (n : Nat) (r : RxSlot) => { r with st := .reserved, seg := 1, issued := 5000000009000, prior := some (1, 100, n, 1, 0, 0) }
    let at_ := fun (n : Nat) (off : Nat) => kregN (after (.dataCell (cell7 fun c => { c with auth := some ⟨100, n, 1, 0, 0⟩ })) (cellSt (prior n))) .ses 0 off
    epochLive (cellSt id) 100 7 = true ∧ epochLive (cellSt id) 100 5 = false ∧ at_ 7 0x06C = 1 ∧ at_ 5 0x070 = 1 ∧
    physOf { cellSt id with cfg := { base.cfg with variant := 2 } } 600 = none ∧
    kregN (after (.dataCell (cell7 fun c => { c with handle := 600 * 64 })) { cellSt id with cfg := { base.cfg with variant := 2 } }) .ses 0 0x064 = 1 := by
  decide +kernel

/-! ### Messages, deadlines and decisions -/

/-- Session 100 in ACTIVE with epoch 7. -/
def epAt (st : EpSt) (n : Nat) (f : Session → Session) : State :=
  heard fun x => f (ep7 st (fun e => { e with start := 5000000000000 - n }) x)

/-- Epoch 7 after a command. -/
def e7 (c : Instr) (s : State) : Epoch := (getSes (after c s) 100).ep 1

theorem test_hyp_messages :
    let s := epAt .waitOutcome 0 id
    let full := epAt .waitOutcome 0 fun x => { x with outSeq := [(1, 7, 4096)] }
    let t := sendCtrl s 100 0 7 (.contrib 1) (.plain msgArmAck 0 0) true
    (getSes s 100).seqOf (.contrib 1) 7 = 0 ∧ t.copies.length = 1 ∧ (getSes t 100).seqOf (.contrib 1) 7 = 1 ∧
    sendCtrl full 100 0 7 (.contrib 1) (.plain msgArmAck 0 0) true = full ∧
    (t.copies.map (·.1)) = [5000000004000] ∧ after (.ctrlSecondCopy 0) t = t ∧
    (after (.ctrlSecondCopy 0) { t with copies := t.copies.map fun c => (5000000000000, c.2) }).copies = [] ∧
    (after (.ctrlSecondCopy 0) { t with copies := t.copies.map fun c => (5000000000001, c.2) }).copies.length = 1 := by
  decide +kernel

theorem test_hyp_done_repeat :
    let s := fun n k => epAt .waitOutcome 0 fun x => member (x.setEp 1 { x.ep 1 with sent := true, doneAt := 5000000000000 - n, doneCount := k })
    timerDue (s 100000 1) (getSes (s 100000 1) 100) 5000000000000 = true ∧ (e7 (.doneRepeat 100 1) (s 100000 1)).doneCount = 2 ∧
    (e7 (.doneRepeat 100 1) (s 99999 1)).doneCount = 1 ∧ (e7 (.doneRepeat 100 1) (s 200000 2)).doneCount = 3 ∧
    kregN (s 0 1) .ses 0 0x0C4 = 20000000 ∧ (e7 (.orphanTimeout 100 1) (s 20000000 1)).st = .closing ∧
    (e7 (.orphanTimeout 100 1) (s 19999999 1)).st = .waitOutcome := by
  decide +kernel

theorem test_hyp_grant_batch :
    let s := fun n => epAt .opened 0 fun x => { x with batches := [(.contrib 1, 7, [⟨0, 0, 5⟩], 20000000000 - n)] }
    let long := epAt .opened 0 fun x => { x with batches := [(.contrib 1, 7, List.replicate 29 ⟨0, 0, 5⟩, 20000000000 - 256)] }
    grantRefused (s 256) (getSes (s 256) 100) (.contrib 1) = false ∧
    ((getSes (after (.grantBatchFlush 100 1 (.contrib 1)) long) 100).batches.map fun b => b.2.2.1.length) = [1] ∧
    ((getSes (s 256) 100).batchOf (.contrib 1) 7).isSome = true ∧ (getSes (after (.grantBatchFlush 100 1 (.contrib 1)) (s 256)) 100).batches = [] ∧
    (getSes (after (.grantBatchFlush 100 1 (.contrib 1)) (s 255)) 100).batches.length = 1 := by
  decide +kernel

theorem test_hyp_acc_clear :
    let s := onTile (epAt .opened 0 fun x => x.setEp 1 { x.ep 1 with opened := true }) 5 fun x =>
      x.setBind 2 { Binding.unused with valid := true, sid := 100, eps := ⟨⟨false, false, 0, 0⟩, ⟨true, false, 7, 0⟩⟩ }
    let v := (getTile s 5).bind 2
    (getSes s 100).tileOf s 0 = some 5 ∧ v.valid = true ∧ (v.ep 1).live = true ∧ (e7 (.accClearDone 100 1 0) s).started = [0] ∧
    (getTile (after (.accClearDone 100 1 0) s) 5).sem v.semStart = 1 := by
  decide +kernel

/-- A GRANT and a NACK from the parent. -/
def grantIn (cs : List Credit) : CtrlIn := sealed 6 0 cs.length true fromParent
def nackIn (handle cause : Nat) : CtrlIn := sealed 7 0 (handle + 2 ^ 16 * cause) true fromParent

theorem test_hyp_grants :
    let s := fun rem => epAt .opened 0 fun x => member (x.setEp 1 { x.ep 1 with kept := [⟨0, 0, 77, 0, [], 5, 0, rem⟩] })
    let g := fun (cs : List Credit) rem => after (.grant (grantIn cs) true cs) (s rem)
    let kept := fun t => (((getSes t 100).ep 1).kept.map fun k => (k.handle, k.reminded))
    (received (s false) (grantIn []) 6 0 0 .parent).isSome = true ∧ ((getSes (g [⟨0, 1, 9⟩] false) 100).sendCredits.map (·.handle)) = [9] ∧
    kept (g [⟨0, 0, 9⟩] false) = [(9, false)] ∧ kept (g [⟨0, 0, 77⟩] true) = [(77, false)] ∧
    (getSes (after (.grant (grantIn [⟨0, 1, 9⟩]) true [⟨0, 1, 9⟩]) (epAt .idle 0 member)) 100).sendCredits = [] := by
  decide +kernel

theorem test_hyp_nacks :
    let s := epAt .opened 0 fun x => member (x.setEp 1 { x.ep 1 with kept := [⟨0, 0, 77, 0, [], 5, 0, false⟩] })
    let other := sealed 7 0 77 false (ctrlIn id)
    (received s (nackIn 77 2) 7 0 (77 + 2 ^ 16 * 2) .parent).isSome = true ∧
    ((e7 (.nack (nackIn 77 2) ⟨true, 77⟩ 2) s).kept.map (·.reminded)) = [true] ∧ (e7 (.nack (nackIn 78 2) ⟨true, 78⟩ 2) s) = (getSes s 100).ep 1 ∧
    (received s other 7 0 77 (.contrib 1)).isSome = true ∧ (getSes (after (.nack other ⟨false, 77⟩ 0) s) 100).resultNacks = 1 := by
  decide +kernel

theorem test_hyp_expected_arrival :
    let s := fun n => onTile (epAt .opened n id) 5 fun x => x.setSlot 3 rx7
    let c := Instr.expectedArrival 100 1 1
    ((getSes (s 1000) 100).entryOf ((getSes (s 1000) 100).ep 1) 1).isSome = true ∧ (reservedFor (s 1000) 100 1 1).length = 1 ∧
    (e7 c (s 1000)).reminded = [1] ∧ (e7 c (s 999)).reminded = [] ∧ (after c (after c (s 1000))) = after c (s 1000) := by
  decide +kernel

theorem test_hyp_deadlines :
    let s := fun n pol f => epAt .opened n fun x => f { x with desc := descW fun l => l.set 0 (3 + 2 ^ 16 + pol * 2 ^ 6) }
    let d := fun n pol f => e7 (.deadline 100 1 1) (s n pol f)
    let w := fun n => e7 (.waitExpired 100 1 1) (s n 1 fun x => x.setEp 1 { x.ep 1 with waiting := [1], missing := [1] })
    (getSes (s 6000 0 id) 100).stillOwes ((getSes (s 6000 0 id) 100).ep 1) 1 (contribOf (staged (tabW id)) 1) = true ∧
    (d 6000 0 id).failed = some rsnMissing ∧ (d 5999 0 id).failed = none ∧ (d 6000 1 id).waiting = [1] ∧ (d 6000 2 id).excluded = [1] ∧
    (d 6000 0 id).st = .closing ∧
    ((getSes (after (.deadline 100 1 1) (s 6000 2 fun x => x.setCt 1 .suspect 2)) 100).ctst 1) = (.failed, 3) ∧
    ((getSes (after (.deadline 100 1 1) (s 6000 2 fun x => x.setCt 1 .suspect 1)) 100).ctst 1) = (.suspect, 2) ∧
    (w 16000).failed = some rsnWaitExpired ∧ (w 15999).failed = none ∧
    ((getSes (s 0 0 id) 100).entryOf ((getSes (s 0 0 id) 100).ep 1) 2).isNone = true := by
  decide +kernel

theorem test_hyp_marks :
    let s := epAt .opened 0 id
    let m := fun c => after (.sesMark .a .a 100 c) s
    Reaches s .a .ses 0 ∧ calmOn s .a = false ∧ ((getSes (m 1) 100).ctst 1).1 = .failed ∧ ((getSes (m 1) 100).ep 1).st = .closing ∧
    bitOf (getPage (m 2) (pageNo .ses 0)).err 2 = true ∧
    ((getSes (after (.sesMark .a .a 100 1) (epAt .opened 0 fun x => x.setCt 1 .failed 2)) 100).ep 1).st = .opened := by
  delta Reaches; decide +kernel

/-- Every contribution in: the epoch settles. -/
theorem test_hyp_settles :
    let f := fun (x : Session) => x.setEp 1 (((x.ep 1).setFate 0 0 0 fateReduced).setFate 1 0 0 fateReduced)
    let s := epAt .opened 0 f
    let t := epAt .opened 0 (member ∘ f)
    allAccounted (getSes s 100) ((getSes s 100).ep 1) = true ∧ calmOn s .a = false ∧ ((getSes (react s 100) 100).ep 1).st = .closing ∧
    (((getSes (react t 100) 100).ep 1).sent = true) ∧ allAccounted (getSes (epAt .opened 0 id) 100) ((getSes (epAt .opened 0 id) 100).ep 1) = false := by
  decide +kernel

/-- A DONE of contributor 1 and an OUTCOME OK of the parent. -/
def doneIn (st rsn : Nat) : CtrlIn := sealed 8 0 (doneArgOf st rsn 0 0 0) false (ctrlIn id)
def outcomeIn : CtrlIn := sealed 9 9 (Decision.arg ⟨1, 9, 0, 0, 0, []⟩) true fromParent

theorem test_hyp_done :
    let d := fun st rsn more s => after (.done (doneIn st rsn) 0 st rsn [⟨5, 1⟩] more 0 0 0) s
    let rec_ : EpRecord := { (getSes (epAt .closing 0 id) 100).recordFor ((getSes (epAt .closing 0 id) 100).ep 1) with dec := ⟨1, 0, 0, 0, 0, []⟩ }
    let retired := fun (code : Nat) => epAt .idle 0 fun x => { x with records := [{ rec_ with num := 7, dec := { rec_.dec with code := code } }] }
    let e := fun st rsn more => (getSes (d st rsn more (epAt .opened 0 id)) 100).ep 1
    (received (epAt .opened 0 id) (doneIn 0 0) 8 0 (doneArgOf 0 0 0 0 0) (.contrib 1)).isSome = true ∧
    ((e 0 0 false).childDone.map (·.complete)) = [true] ∧
    ((e 0 0 true).childDone.map (·.complete)) = [false] ∧ (e 2 9 false).failed = some 9 ∧ (e 3 9 false).failed = some rsnUncommitted ∧
    (e 2 9 true).failed = none ∧ ((getSes (d 2 9 false (epAt .armed 0 id)) 100).ep 1).failed = some 9 ∧
    ((getSes (d 2 9 false (epAt .armed 0 id)) 100).ep 1).st = .armed ∧
    (retired 1 |> fun s => ((getSes s 100).recordOf 7).isSome) = true ∧ (d 0 0 false (retired 1)).copies.length = 1 ∧
    (d 0 0 false (retired 0)).copies = [] ∧ kregN (d 0 0 false (epAt .idle 0 id)) .ses 0 0x070 = 1 := by
  decide +kernel

theorem test_hyp_outcome :
    let o := fun more s => (getSes (after (.outcome outcomeIn 9 1 0 0 0 [⟨5, 1⟩] more) s) 100).ep 1
    let s := epAt .waitOutcome 0 member
    (received s outcomeIn 9 9 (Decision.arg ⟨1, 9, 0, 0, 0, []⟩) .parent).isSome = true ∧
    (o true s).rangesIn = [⟨5, 1⟩] ∧ (o true s).st = .waitOutcome ∧ (o false s).st = .closing ∧
    ((o false s).dec.map (·.ranges)) = some [⟨5, 1⟩] ∧ (o false (epAt .idle 0 member)).st = .idle ∧
    (o false (epAt .opened 0 fun x => member (x.setEp 1 { x.ep 1 with dec := some ⟨2, 0, 0, 0, 0, []⟩ }))).dec.map (·.code) = some 2 := by
  decide +kernel

/-! ### Opening, retiring, payloads, and Weathervane -/

/-- Tile 5 RUNNING with session 100's binding. -/
def bound (f : Binding → Binding) (s : State) : State :=
  onTile s 5 fun x => ({ x with prog := .running, codeWords := 4, sramOn := true }).setBind 2
    (f { Binding.unused with valid := true, sid := 100, accCount := 64 })

theorem test_hyp_epoch_start :
    let s := fun f g => putEntry (g (epAt .committed 0 f)) .a 5 { entry0 with action := actEpochStart, target := 100, arg := 1 }
    let e := fun f g => e7 (.epochStartAction .a 5) (s f g)
    let served := bound id
    (.a ∈ fittedHalves base.cfg) ∧ fires (s id served) .a 5 = true ∧ calmOn (s id served) .a = false ∧ (e id served).st = .opened ∧
    (e id served).failed = none ∧ (e id id).failed = some rsnTileFault ∧ (e (fun x => x.setEp 1 { x.ep 1 with failed := some 9 }) served).failed = some 9 ∧
    swapWaits (s id served) 5 = false ∧ ((getTile (after (.epochStartAction .a 5) (s id served)) 5).bind 2).ep 1 = ⟨true, false, 7, 5000000000000⟩ ∧
    (e (fun x => x.setEp 1 { x.ep 1 with st := .armed }) served).st = .armed := by
  decide +kernel

theorem test_hyp_epoch_retire :
    let s := fun f => onTile (epAt .closing 0 fun x => x.setEp 1 (f (((x.ep 1).setFate 0 0 0 fateReduced)))) 5 fun x =>
      x.setSlot 3 { rx7 with st := .reserved }
    let done := s fun e => { e with outcomeSent := true, dec := some ⟨1, 0, 4, 0, 0, []⟩ }
    let t := after (.epochRetire 100 1) done
    mayRetire done 100 1 = true ∧ mayRetire (s id) 100 1 = false ∧ after (.epochRetire 100 1) (s id) = s id ∧
    ((getSes t 100).ep 1).st = .idle ∧ ((getSes t 100).records.map (·.reduced)) = [1] ∧ ((getSes t 100).records.map (·.expected)) = [2] ∧
    ((getTile t 5).slot 3).st = .free ∧ ((getTile done 5).slot 3).holds 100 1 7 = true := by
  decide +kernel

theorem test_hyp_rx_slot_fill :
    let s := fun (st : EpSt) (f : RxSlot → RxSlot) => onTile (bound id (epAt st 0 fun x => x.setEp 1 ((x.ep 1).setFate 1 0 0 fateAccepted))) 5 fun x =>
      x.setSlot 3 (f { rx7 with st := .filled, flight := true })
    let go := after (.rxSlotFill 5 3)
    flitLeft (s .opened id) (fun w => decide (w = .rx 5 3)) = false ∧ tileTakes (s .opened id) 5 = true ∧
    ((getTile (go (s .opened id)) 5).bind 2).queue.length = 1 ∧ (e7 (.rxSlotFill 5 3) (s .opened id)).fate 1 0 0 = fateFilled ∧
    ((getTile (go (s .settled id)) 5).slot 3).st = .free ∧ (e7 (.rxSlotFill 5 3) (s .settled id)).fate 1 0 0 = fateDiscSettled ∧
    go (s .opened fun r => { r with flight := false }) = s .opened (fun r => { r with flight := false }) ∧
    kreg (go (s .opened fun _ => RxSlot.unused)) .tile 5 0x070 = 1 ∧
    ((getTile (go (s .opened fun r => { r with epoch := 5 })) 5).slot 3).st = .free := by
  decide +kernel

theorem test_hyp_epdone_epfail :
    let s := fun op imm f => onTile (on [(.tile, 5)] (epAt .opened 0 id)) 5 fun x =>
      ({ x with
        prog := .running, codeWords := 4, ibuf := x.ibuf.set 0 (word 1 op 0 0 0x21 0x62 0 0 imm), sramOn := true, bucketCyc := 20000000000, bucket := 0 }).setSreg 1
        4096 |>.setBind 2 (f { Binding.unused with valid := true, sid := 100, eps := ⟨⟨false, false, 0, 0⟩, ⟨true, false, 7, 0⟩⟩ })
    let why := fun op f => kreg (after (if op = 6 then .epdone 5 else .epfail 5) (s op 0 f)) .tile 5 0x074
    Issues (s 6 0 id) 5 1 6 ∧ Issues (s 7 0 id) 5 1 7 ∧ (((getTile (after (.epdone 5) (s 6 0 id)) 5).bind 2).ep 1).reported = true ∧
    (e7 (.epdone 5) (s 6 0 id)).failed = none ∧ (e7 (.epfail 5) (s 7 0x7F id)).failed = some rsnProgram ∧ (e7 (.epfail 5) (s 7 0x80 id)).failed = some 0x80 ∧
    why 6 (fun v => { v with valid := false }) = 7 ∧ why 6 (fun v => v.setEp 1 { v.ep 1 with reported := true }) = 0x0B := by
  delta Issues; decide +kernel

theorem test_hyp_contrib_ue :
    let s := fun st f => onTile (bound id (epAt st 0 fun x => x.setEp 1 { ((x.ep 1).setFate 1 0 0 f) with opened := true })) 5 fun x =>
      x.setSlot 3 { rx7 with st := .filled }
    let slot := Instr.contribUe (.slot 5 3)
    let acc := Instr.contribUe (.accumulators 100 1 0 0)
    physOf (s .opened fateFilled) 5 = some 5 ∧ (e7 slot (s .opened fateFilled)).fate 1 0 0 = 0 ∧
    ((getTile (after slot (s .opened fateFilled)) 5).slot 3).st = .free ∧ (takeIngress (s .opened 0) 2).isSome = true ∧
    kregN (after (.contribUe (.ingress 2 1 (5 * 64 + 3))) (s .opened 0)) .ses 0 0x060 = 1 ∧
    bitOf (getPage (after (.contribUe (.ingress 2 1 (5 * 64 + 3))) (s .opened 0)) (pageNo .port 2)).err 17 = true ∧ (e7 acc (s .opened fateReduced)).fate 1 0 0 = 0 ∧
    reducedInto (getSes (s .opened fateReduced) 100) ((getSes (s .opened fateReduced) 100).ep 1) 0 0 = [1] ∧
    (e7 acc (s .settled fateReduced)).failed = some rsnContribUe ∧ after acc (s .idle fateReduced) = s .idle fateReduced := by
  decide +kernel

/-- Errors in SRAM while it is powered and while it is not, and in a frame bank: the frame that has not begun to leave. -/
theorem test_hyp_ue_places :
    let s := bound id base
    let fr := fun asked => putChan base 3 { Channel.fresh with
      asked := asked, frames := [⟨0, [], 0, 0, 2, 0⟩, ⟨1, [], 0, 0, 3, 0⟩] }
    let go := fun asked => getChan (after (.contribUe (.frame 3)) (fr asked)) 3
    (getTile s 5).sramOn = true ∧ (getTile (after (.contribUe (.sram 5 64 true)) s) 5).flaws.get 0 8 = 2 ∧
    (getTile (after (.contribUe (.sram 5 64 false)) s) 5).flaws.get 0 8 = 1 ∧ (getTile base 6).sramOn = false ∧
    after (.contribUe (.sram 6 64 true)) base = base ∧ 0 < base.cfg.srPages ∧
    kregN (after (.contribUe (.reducer 0)) base) .wvSr 0 0x04C = 1 ∧
    (go false).frames.map (·.seq) = [1] ∧ (go false).lostSince = 2 ∧ (go true).frames.map (·.seq) = [0] ∧
    (getChan base 3).frames = [] := by
  decide +kernel

/-- A group of session 100 at slot 4 of shadow reducer 0. -/
def grp : WvGroup :=
  ⟨100, 1, 7, 0, 0, none, 0, 0, none, 0, 0, false, List.replicate 32 ⟨none, none, 0, Acc.clear, 0⟩⟩

/-- A state with that group, a flit on its way to it, and the epoch's entry. -/
def wvAt (f : WvGroup → WvGroup) (l : List WvFlit) : State :=
  let s := epAt .opened 0 id
  { s with
    wvGroups := s.wvGroups.set 4 (f grp), wvFlits := l
    wvEpochs := [{ sid := 100, epoch := 7, fmt := 0, chosen := 1, completed := 0, voided := 0, skipped := 0, nonfinite := 0, codes := none, ft := 0,
                   dense := none, denseN := 0, denseBad := 0, run := 0, breach := false, kids := none }] }

/-- FP32 1.0 times 32: S is 1 in units of 2^-160. -/
theorem test_hyp_shadow_copy :
    let copy : WvFlit := ⟨0, 4, 0, .copy 0 0 0 (List.replicate 32 0x3F800000)⟩
    let last : WvFlit := ⟨0, 4, 0, .state 3 [] 0⟩
    let g := (after (.shadowCopy 0) (wvAt id [copy])).wvGroups.find 4
    (0 < base.cfg.srPages) ∧ nextWvFlit 0 0 [copy] = some (0, copy) ∧ nextWvFlit 1 0 [copy] = none ∧
    (g.map (·.got)) = some 1 ∧ ((g.bind fun g => (g.elems[5]?).bind (·.s)) = some (2 ^ 160)) ∧
    ((after (.shadowCopy 0) (wvAt (fun g => { g with states := 3 }) [last])).wvGroups.find 4).map (·.complete) = some true ∧
    ((after (.shadowCopy 0) (wvAt (fun g => { g with states := 2 }) [last])).wvGroups.find 4).map (·.complete) = some false ∧
    (after (.shadowCopy 0) (wvAt (fun g => { g with states := 3 }) [last])).wvEpochs.map (·.completed) = [1] ∧
    (after (.shadowCopy 0) (wvAt id [{ copy with slot := 9 }])).wvFlits = [] := by
  decide +kernel

/-- WV_GROUP_TIMEOUT is 2,000,000 ns, which is 3,600,000 cycles. -/
theorem test_hyp_group_timeout :
    let s := fun n c => wvAt (fun g => { g with states := 4, stateCyc := 20000000000 - n, complete := c }) []
    kregFN base .wv 0 0x048 = 2000000 ∧ ((after (.groupTimeout 0 4) (s 3600000 false)).wvGroups.find 4).isNone = true ∧
    ((after (.groupTimeout 0 4) (s 3599999 false)).wvGroups.find 4).isSome = true ∧
    ((after (.groupTimeout 0 4) (s 3600000 true)).wvGroups.find 4).isSome = true := by
  decide +kernel

theorem test_hyp_wv_measure :
    let s := fun c => wvAt (fun g => { g with complete := c }) []
    (wvEp (s true) 100 7).isSome = true ∧ (groupsOfEpoch (s true) 100 7).length = 1 ∧ (after (.wvMeasure 100 7) (s true)).wvGroups = .empty ∧
    (after (.wvMeasure 100 7) (s false)) = s false ∧ (after (.wvMeasure 100 7) (s true)).wvEpochs.all (fun w => w.codes.isSome) = true ∧
    (wvEp (s true) 100 9).isNone = true ∧
    fieldOf ((getSes (s true) 100).prof (s true) 3) 31 24 = 0 ∧ (getSes (after (.wvMeasure 100 7) (s true)) 100).wvMeas.map (·.epoch) = [7] ∧
    (let t := reg .wv 0 0x10C (2 ^ 24) (s true)
     fieldOf ((getSes t 100).prof t 3) 31 24 = 1 ∧ (getSes (after (.wvMeasure 100 7) t) 100).wvMeas = []) := by
  decide +kernel

/-- One by one: 1.0 times 1.0 over an accumulator of 0. -/
theorem test_hyp_dense_audit :
    let a : DenseAudit := ⟨5, 0, 0, 0x3F800000 :: List.replicate 31 0, 0x3F800000 :: List.replicate 31 0, List.replicate 32 0, List.replicate 32 0, 0, 0x3F800000, [(100, 7)], 0, 0⟩
    let s := fun w => { wvAt id [] with audits := [{ a with after := w }] }
    let waits := { wvAt id [] with audits := [{ a with left := 1 }] }
    after (.denseAudit 0) waits = waits ∧
    ((after (.shadowCopy 0) { waits with wvFlits := [⟨0, 0, 0, .audit⟩] }).audits.map (·.left)) = [0] ∧
    a.differs = false ∧ { a with after := 0x3F800001 }.differs = true ∧ (after (.denseAudit 0) (s 0x3F800000)).wvEpochs.map (·.denseN) = [1] ∧
    kreg (after (.denseAudit 0) (s 0x3F800001)) .wv 0 0x060 = BitVec.ofNat 32 (2 ^ 31 + 5) ∧
    kreg (after (.denseAudit 0) (s 0x3F800001)) .wv 0 0x054 = 1 ∧ after (.denseAudit 1) (s 0) = s 0 := by
  decide +kernel

/-- A budget of 100, a ladder of three rungs, a margin of 10 and a patience of 2. -/
theorem test_hyp_advice :
    let s := reg .wv 0 0x120 (1 + 2 * 2 ^ 16) (reg .wv 0 0x128 (100 + 50 * 2 ^ 16) (reg .wv 0 0x12C (10 + 2 * 2 ^ 8) base))
    let x := fun rung run tot nar mx => { ses0 with desc := descW (fun l => l.set 4 (8 + 2 ^ 8 + 3 * 2 ^ 16)), wvRung := rung, wvRun := run, wvMeas := [⟨7, tot, nar, mx, false⟩] }
    let e := { Epoch.fresh with num := 7 }
    let a := fun rung run tot nar mx => (x rung run tot nar mx).advise s e 1
    (a 1 1 100 110 50) = ⟨1, 2, 0, false⟩ ∧ (a 1 0 100 110 50) = ⟨0, 1, 1, false⟩ ∧ (a 1 1 100 109 50) = ⟨0, 1, 0, false⟩ ∧
    (a 2 1 100 110 50) = ⟨0, 2, 0, false⟩ ∧ (a 1 1 99 110 50) = ⟨2, 0, 0, false⟩ ∧ (a 1 1 100 110 49) = ⟨2, 0, 0, false⟩ ∧
    (a 0 1 99 110 50) = ⟨0, 0, 0, true⟩ ∧ (x 1 1 99 110 50).advise s e 3 = ⟨0, 1, 1, false⟩ ∧
    ((x 1 1 99 110 50).ownMeasure e).isSome = true := by
  decide +kernel

/-! ### The mesh, ports and memory -/

/-- A request for a hop over bridge link 3. -/
def hopReq (src lst : Nat) (f : Req → Req) : Req :=
  f (Req.fresh src lst 0 false 1 19999999000 (.hop ⟨512 + 6, 1088, .tile, 6, 0, src, lst, 0, false, true, [], [], .rx 0 0⟩))

/-- Requests at bridge link 3, on FHL-8 or, at a stack channel, on FHL-4. -/
def atBridge (l : List Req) (s : State) : State := putArb s (arbKey .arbBridge 3 0) ⟨l, none, none⟩

theorem test_hyp_arb_grant :
    let go := fun l => getArb (after (.arbGrant 0x763 0) (atBridge l base)) (arbKey .arbBridge 3 0)
    let now := lstOf (ftNs base .a)
    let srcs := fun (l : List Req) => (go l).reqs.map (·.src)
    let locked := fun (r : Req) => { r with lock := true, len := 4, come := 4, done := 1 }
    arbKind .arbBridge = 3 ∧ kindFitted base.cfg .arbBridge 3 = true ∧ arbTargets .arbBridge = 1 ∧ arbStatic base .arbBridge 3 = false ∧
    arbFrozen base .arbBridge 3 0 = false ∧
    srcs [hopReq 5 (now + 9) id, hopReq 6 (now + 8) id] = [5] ∧ srcs [hopReq 6 (now + 9) id, hopReq 5 (now + 9) id] = [6] ∧
    srcs [hopReq 5 now fun r => { r with since := 20000000000 }] = [5] ∧ (go [hopReq 5 now id]).phaseCyc = some 20000000000 ∧
    ((go [hopReq 5 (now + 9) locked, hopReq 6 (now + 9) id]).reqs.map (·.done)) = [2, 0] ∧
    ((go [hopReq 5 (now + 9) locked, hopReq 6 (now + 8) id]).reqs.map (·.susp)) = [true] ∧
    kreg (after (.arbGrant 0x763 0) (atBridge [hopReq 5 now id] base)) .arbBridge 3 0x110 = 1 := by
  decide +kernel

/-- On FHL-4 a burst in progress is granted alone; a frozen target of FHL-8 grants nothing; a static slot of another partition is idle. -/
theorem test_hyp_arb_grant_bursts :
    let mono := { base with cfg := { base.cfg with variant := 2 } }
    let key := arbKey .arbStack 0 4
    let m := fun (n lst : Nat) (f : Req → Req) => f (Req.fresh n lst 0 false 4 19999999000 (.mem []))
    let burst := m 5 900 fun r => { r with lock := true, done := 1 }
    let go := fun s l => getArb (after (.arbGrant 0x710 4) (putArb (on [(.mem, 0), (.arbStack, 0)] s) key ⟨l, none, none⟩)) key
    let fz := fun l => getArb (after (.arbGrant 0x710 4) (putArb (reg .arbStack 0 0x044 16 (on [(.mem, 0), (.arbStack, 0)] base)) key ⟨l, none, none⟩)) key
    let slot := fun w l => after (.arbGrant 0x710 4) (putArb (regF .arbStack 0 0x040 1 (regF .arbStack 0 (0x080 + 4 * (20000000000 % 64 / 4)) w (on [(.mem, 0), (.arbStack, 0)] base))) key ⟨l, none, none⟩)
    targetTakes (on [(.mem, 0), (.arbStack, 0)] base) .arbStack 0 4 burst = true ∧ ((go mono [burst, m 6 0 id]).reqs.map (·.done)) = [2, 0] ∧
    ((fz [burst]).reqs.map (·.susp)) = [true] ∧ arbFrozen (reg .arbStack 0 0x044 16 (on [(.arbStack, 0)] base)) .arbStack 0 4 = true ∧
    ((getArb (slot (0x80 * 0x01010101) [m 6 0 id]) key).reqs.map (·.done)) = [1] ∧ ((getArb (slot (0x81 * 0x01010101) [m 6 0 id]) key).reqs.map (·.done)) = [0] ∧
    kreg (slot (0x81 * 0x01010101) [m 6 0 id]) .arbStack 0 (0x114 + 0x20 * 4) = 1 ∧
    ((go base (burst :: m 6 0 id :: List.replicate 8 (m 7 2000 fun r => { r with lock := true, done := 1, susp := true }))).reqs.take 2).map (·.done) = [2, 0] := by
  decide +kernel

theorem test_hyp_flit_route :
    let fl := fun (dest lst input : Nat) => (⟨0, dest, .tile, 0, input, 9, lst, 0, false, true, [], [], .rx 0 0⟩ : Flit)
    let now := lstOf (ftNs base .a)
    let go := fun d l => (after (.flitRoute 0 d) { base with flits := l }).flits.map fun f => (f.router, f.lst, f.input)
    wantsDir (fl 33 0 0) = .east ∧ wantsDir (fl 32 0 0) = .south ∧ wantsDir (fl 0 0 0) = .tile ∧ tileFitted base 0 = true ∧
    go .east [fl 1 (now + 1) 0, fl 1 now 2] = [(0, now + 1, 0), (1, now, 1)] ∧ go .east [fl 1 now 2, fl 1 now 0] = [(0, now, 2), (1, now, 1)] ∧
    go .tile [fl 0 now 0] = [] ∧ go .south [fl 1 now 0] = [(0, now, 0)] := by
  decide +kernel

/-- A d of -2^30 and one below it; a second phase in the same cycle. -/
theorem test_hyp_arb_clamp :
    let now := lstOf (ftNs base .a)
    let err := fun n => bitOf (getPage (after (.arbGrant 0x763 0) (atBridge [hopReq 5 (now + 2 ^ 32 - n) id] (on [(.arbBridge, 3)] base))) 0x763).err 17
    let once := after (.arbGrant 0x763 0) (atBridge [hopReq 5 now id, hopReq 6 now id] base)
    err (2 ^ 30) = false ∧ err (2 ^ 30 + 1) = true ∧ (getArb once (arbKey .arbBridge 3 0)).phaseCyc = some once.cyc ∧
    (getArb once (arbKey .arbBridge 3 0)).reqs.length = 1 ∧
    (getArb (after (.arbGrant 0x763 0) once) (arbKey .arbBridge 3 0)).reqs.length = 1 := by
  decide +kernel

/-- A flit of a TILECP at its tile, its banks free and one of them taken. -/
theorem test_hyp_flit_exits :
    let fl : Flit := ⟨0, 0, .tile, 0, 0, 9, 0, 0, false, true, [], List.replicate 128 7, .copy 5 0 0x40⟩
    let s := { base with flits := [fl] }
    let held := { s with bankUse := base.bankUse.set 2 (8 * 20000000001 + bankMesh) }
    wantsDir fl = .tile ∧ banksTaken s 0 (banksOf 0x40 128) = false ∧ (after (.flitRoute 0 .tile) s).flits = [] ∧
    (getTile (after (.flitRoute 0 .tile) s) 0).sram.get 0 0xBF = 7 ∧ banksTaken held 0 (banksOf 0x40 128) = true ∧
    (after (.flitRoute 0 .tile) held).flits = [fl] := by
  decide +kernel

theorem test_hyp_starve :
    let s := fun n => putArb (reg .arbBridge 3 0x04C 1000 (on [(.arbBridge, 3)] base)) (arbKey .arbBridge 3 0) ⟨[hopReq 5 0 fun r => { r with since := 20000000000 - n }], none, none⟩
    kregN (after (.starve 0x763 0) (s 1000)) .arbBridge 3 0x050 = 1 ∧ kregN (after (.starve 0x763 0) (s 999)) .arbBridge 3 0x050 = 0 ∧
    kregN (after (.starve 0x763 0) (after (.starve 0x763 0) (s 1000))) .arbBridge 3 0x050 = 1 ∧ pageIsOn (s 0) .arbBridge 3 = true := by
  decide +kernel

theorem test_hyp_arb_freeze :
    let s := putArb (on [(.arbStack, 0)] base) (arbKey .arbStack 0 4) ⟨[Req.fresh 5 0 0 true 4 0 (.mem []) |> fun r => { r with done := 1 }], none, none⟩
    Reaches s .a .arbStack 0 ∧ (getArb (after (.arbFreeze .a 0x710 16) s) (arbKey .arbStack 0 4)).reqs.map (·.susp) = [true] ∧
    (getArb (after (.arbFreeze .a 0x710 8) s) (arbKey .arbStack 0 4)).reqs.map (·.susp) = [false] ∧
    kreg (after (.arbFreeze .a 0x710 16) { s with cfg := { s.cfg with variant := 2 } }) .arbStack 0 0x044 = 16 := by
  delta Reaches; decide +kernel

theorem test_hyp_port_credits : portFitted base 2 = true ∧ txCredit (after (.xtCred 2 5) base) 2 2 = 1 ∧ txCredit (after (.xtCred 2 5) base) 2 1 = 0 := by
  decide +kernel

/-- R270's checks one by one: a cycle of 1,024 ns with one window of 32 ns at its end. -/
theorem test_hyp_slot_table_commit :
    let ws := fun (f : List Nat → List Nat) => staged ((f [1024, 0, 0, 1, 992, 32 + 2 ^ 28]).map (BitVec.ofNat 32))
    let s := fun f => winAt (5 + 256 * 2) (fun x => { x with st := .deciding, dir := true, staged := ws f }) (on [(.port, 2), (.ftu, 0), (.ftu, 1)] base)
    let why := fun f => kregN (after (.slotTableCommit .a 1) (s f)) .port 2 0x088
    (getWin (s id) .a 1).awaits 5 = true ∧ slotReject (getPort base 2) (ws id) = none ∧
    (getPort (after (.slotTableCommit .a 1) (s id)) 2).ready = some ⟨1024, 0, 0, [(992, 32, 1)]⟩ ∧
    (getPort (after (.slotTableCommit .a 1) (s id)) 2).after = some 5000000002000 ∧
    why (fun l => l.set 0 1008) = 1 ∧ why (fun l => l.set 0 1032) = 1 ∧ why (fun l => l.set 4 1008) = 2 ∧ why (fun l => l.set 5 32) = 3 ∧
    why (fun l => l.set 0 100000000) = 0 ∧ why (fun l => l.set 0 100000016) = 1 := by
  decide +kernel

theorem test_hyp_slot_table_switch :
    let t : SlotTab := ⟨1000, 16, 1, []⟩
    let s := fun n => putPort (on [(.port, 2), (.ftu, 0), (.ftu, 1)] base) 2 { getPort base 2 with ready := some t, after := some n }
    t.boundary 16 = 16 ∧ t.boundary 17 = 1016 ∧ t.boundary 4999999999017 = 5000000000016 ∧ t.cycle ≠ 0 ∧ hasTime (s 0) .a = true ∧
    (getPort (after (.slotTableSwitch 2) (s 4999999999016)) 2).active = some t ∧ (getPort (after (.slotTableSwitch 2) (s 4999999999017)) 2).active = none ∧
    kreg64 (after (.slotTableSwitch 2) (s 4999999999016)) .port 2 0x050 = 4999999999016 ∧
    (getPort (after (.slotTableSwitch 2) (reg .port 2 0x04C 1 (s 0))) 2).active = none := by
  decide +kernel

theorem test_hyp_flush :
    let s := fun st => putArb (inSt .port 2 st base) (arbKey .arbPort 2 0) ⟨[Req.fresh 5 0 0 false 4 0 (.mem []), Req.fresh 6 0 0 false 4 0 (.mem []) |> fun r => { r with done := 1 }], none, none⟩
    Reaches base .a .port 2 ∧ ((getArb (after (.flush .a 2) (s .stopping)) (arbKey .arbPort 2 0)).reqs.map (·.src)) = [6] ∧
    kregN (after (.flush .a 2) (s .stopping)) .port 2 0x084 = 1 ∧ bitOf (getPage (after (.flush .a 2) (s .on)) (pageNo .port 2)).err 2 = true := by
  delta Reaches; decide +kernel

/-! ### Memory -/

/-- Memory pages and fill engine of half A up. -/
def memUp : State := on [(.mem, 0), (.mem, 1), (.memFill, 0), (.ftu, 0), (.ftu, 1)] base

/-- A region owned by partition 3, its lines under the keys of now. -/
def own3 : Region := ⟨.owned, 3, 1, 7, base.era⟩

/-- Memory with region 0 owned, and an entry of its channel: a read of line 5, by MOVE 9 of tile 5 or of an engine's use. -/
def memRead (use : MemUse) (src : Nat) : State :=
  let s := putRegion memUp 0 own3
  let e : ChEntry := ⟨⟨use, false, 0, 320, 64⟩, src, 77, 0, List.replicate 64 7, [(5, 0)], false, false⟩
  { s with entries := s.entries.set (32 * 0 + channelOf base.cfg 0) [e] }

theorem test_hyp_line_read :
    let s := putRegion memUp 0 own3
    let c := fun f => Instr.lineRead 0 5 9 ⟨f, false⟩
    let bad := after (c .uncorrectable) s
    let pin := putCh s 0 (channelOf base.cfg 0) { getCh s 0 (channelOf base.cfg 0) with pin1 := some 3 }
    0 < base.cfg.regions ∧ stackOf base.cfg 0 = 0 ∧ awaiting s 0 5 9 = none ∧ lineMark s 0 5 = 0 ∧ lineMark { s with era := 1 } 0 5 = 2 ∧
    after (c .clean) s = s ∧ kregN (after (.lineRead 0 5 9 ⟨.clean, true⟩) s) .mem 0 0x054 = 1 ∧
    kregN (after (c (.corrected 4)) s) .mem 0 0x058 = 1 ∧ kregN bad .mem 0 0x05C = 1 ∧ kregN (after (c .macFail) s) .mem 0 0x060 = 1 ∧
    bad.badLines.find (lineKey 0 5) = some 1 ∧ bad.memLog.find 0 = some ⟨5000000000000, 0, 5, 1, 1, 9⟩ ∧ lineMark bad 0 5 = 1 ∧
    erasedPin pin 0 5 = some 3 ∧ findingOf pin 0 5 0 (.corrected 4) = .uncorrectable ∧ findingOf pin 0 5 0 (.corrected 3) = .corrected 3 ∧
    fieldOf (kreg (after (c .macFail) (reg .mem 0 0x06C 63 s)) .mem 0 0x06C) 5 0 = 0 ∧
    goes (.lineRead 0 32767 9 ⟨.macFail, false⟩) s = true ∧ goes (.lineRead 0 32768 9 ⟨.macFail, false⟩) s = false := by
  decide +kernel

/-- A line that an entry awaits: its data goes back, its refusal ends the MOVE's flit, and a MIGRATE learns of it; a span that an engine
holds lets a MOVE's line wait. -/
theorem test_hyp_line_awaited :
    let mv : Move := ⟨0, 0, 0, 64, 0, false, none, none, 0, 9, 0, 1, [], false⟩
    let s := onTile (memRead (.move 5 9 0) 9) 5 fun x => { x with moves := x.moves.set 2 mv }
    let held := { s with fill := s.fill.put .a { s.fill.get .a with op := some 2, src := 0, cursor := 0, span := .reading } }
    let eng := { base.fill.get .a with op := some 3, src := 0, dst := 9, span := .reading, mig := true }
    let mig := { memRead (.engine .a) 0x4C0 with fill := (memRead (.engine .a) 0x4C0).fill.put .a eng }
    let c := Instr.lineRead 0 5 9 ⟨.clean, false⟩
    (awaiting s 0 5 9).isSome = true ∧ spanBusy s 0 320 = false ∧ entriesAt (after c s) 0 (channelOf base.cfg 0) = [] ∧
    (after c s).flits.map (fun f => f.what) = [.back 5 9 0] ∧
    ((getTile (after (.lineRead 0 5 9 ⟨.uncorrectable, false⟩) s) 5).moves.find 2).map (fun v => (v.left, v.ue)) = some (0, true) ∧
    spanBusy held 0 320 = true ∧ fromEngine 9 = false ∧ after c held = held ∧ fromEngine 0x4C0 = true ∧
    ((after (.lineRead 0 5 0x4C0 ⟨.macFail, false⟩) mig).fill.get .a).bad = some 5 := by
  decide +kernel

/-- A write of 64 bytes over a marked line of a region from which a MIGRATE has copied that span; the engine's own write copies. -/
theorem test_hyp_access_granted :
    let s0 := putRegion (putRegion memUp 0 { own3 with st := .migrating }) 9 { own3 with st := .allocating }
    let s := { s0 with
      badLines := s0.badLines.set (lineKey 0 5) 1, mem := writeBytes s0.mem (memAddr 0 640) [6]
      fill := s0.fill.put .a { s0.fill.get .a with op := some 3, src := 0, dst := 9, cursor := 1, mig := true } }
    let w : MemAsk := ⟨.move 5 9 0, true, 0, 320, 64⟩
    let t := accessGranted s 9 0 0 w (List.replicate 64 8)
    let e := accessGranted s 0x4C0 0 0 ⟨.engine .a, true, 9, 640, 128⟩ []
    mirrorOf s 0 320 = some 9 ∧ t.mem.get 0 (memAddr 0 383) = 8 ∧ t.mem.get 0 (memAddr 9 383) = 8 ∧ t.badLines.find (lineKey 0 5) = none ∧
    (entriesAt t 0 (channelOf base.cfg 0)).length = 1 ∧ e.mem.get 0 (memAddr 9 640) = 6 := by
  decide +kernel

theorem test_hyp_patrol :
    let run := after (.patrol .a 24) memUp
    let at_ := fun (n line : Nat) (newer : Bool) =>
      let s := reg .memFill 0 0x05C n (putRegion run n own3)
      let e : ChEntry := ⟨⟨.patrol .a, false, n, 64 * line, 64⟩, 0x4C0, 0, 0, [], [(line, 0)], false, newer⟩
      { s with entries := s.entries.set (32 * stackOf base.cfg n + channelOf base.cfg n) [e] }
    let far := base.cfg.regions - 5
    pageRuns memUp .memFill 0 = true ∧ kregN run .memFill 0 0x058 = 24 ∧ kregN (after (.patrol .a 0) run) .memFill 0 0x058 = 0 ∧
    halfPrn base.cfg .a 8 8 = some 8 ∧ (awaiting (at_ 8 0 false) 8 0 0x4C0).isSome = true ∧ after (.patrolLine .a 0 .clean false) run = run ∧
    ((after (.patrolLine .a 0 .clean false) (at_ 8 0 false)).fill.get .a).patLine = 1 ∧
    kregN (after (.patrolLine .a 32767 .clean false) (at_ 8 32767 false)) .memFill 0 0x05C = 9 ∧
    kregN (after (.patrolLine .a 32767 .clean false) (at_ 11 32767 false)) .memFill 0 0x05C = 16 ∧
    kregN (after (.patrolLine .a 0 (.corrected 4) false) (at_ 8 0 true)) .memFill 0 0x064 = 1 ∧
    kregN (after (.patrolLine .a 0 .clean true) (at_ 8 0 false)) .mem 0 0x054 = 1 ∧
    kregN (after (.patrolLine .a 0 (.corrected 4) false) (at_ 8 0 false)) .memFill 0 0x064 = 0 ∧
    halfPrn base.cfg .a 8 (far + 1) = none ∧ halfPrn base.cfg .a 8 far = some far ∧
    kregN (after (.patrolLine .a 32767 .clean false) (at_ far 32767 false)) .memFill 0 0x060 = 1 ∧
    (patrolTick (reg .memFill 0 0x058 0 memUp) .a).regs = (reg .memFill 0 0x058 0 memUp).regs := by
  decide +kernel

/-- Memory with some regions in given states. -/
def regs (l : List (Nat × Region)) : State := l.foldl (fun s p => putRegion s p.1 p.2) memUp

theorem test_hyp_fill_begins :
    let st := fun c s => kregN (after c s) .memFill 0 0x04C
    let own : Region := own3
    let tear : Region := { own3 with st := .teardown }
    let alloc : Region := { own3 with st := .allocating }
    feFree memUp .a = true ∧ feFree base .a = false ∧ st (.zero .a 8 false 0) (regs [(8, tear)]) = 1 ∧ st (.zero .a 8 false 0) (regs [(8, own)]) = 4 + 256 ∧
    st (.zero .a 8 true 3) (regs [(8, alloc)]) = 1 ∧ st (.zero .a 8 true 4) (regs [(8, alloc)]) = 4 + 256 ∧ st (.zero .a 12 false 0) (regs [(12, tear)]) = 4 + 256 ∧
    st (.reepoch .a 8) (regs [(8, own)]) = 1 ∧ st (.reepoch .a 8) (regs [(8, alloc)]) = 4 + 256 ∧
    st (.migrate .a 8 9 false) (regs [(8, own)]) = 1 ∧ st (.migrate .a 8 9 false) (regs [(8, own), (9, own)]) = 4 + 256 ∧
    st (.migrate .a 8 (8 + 256) false) (regs [(8, own)]) = 4 + 256 ∧ stackOf base.cfg (8 + 256) = 0 ∧
    (getRegion (after (.migrate .a 8 9 false) (regs [(8, own)])) 9).st = .allocating := by
  decide +kernel

theorem test_hyp_fill_channels :
    let st := fun c s => kregN (after c s) .memFill 0 0x04C
    let erased := after (.laneErase .a 8 5 1) memUp
    st (.rowRepair .a 12 0 0) memUp = 4 + 256 ∧ kregN erased .memFill 0 0x04C = 2 ∧ (getCh erased 0 (channelOf base.cfg 8)).pin1 = some 5 ∧
    st (.laneErase .a 8 6 1) erased = 4 + 256 * 3 ∧ st (.laneErase .a 8 6 0) erased = 2 ∧ st (.chRetire .a 8) (regs [(8, own3)]) = 4 + 256 * 4 ∧
    (getCh (after (.chRetire .a 8) (regs [(8, own3)])) 0 (channelOf base.cfg 8)).st = .draining ∧
    channelUsed memUp 0 1 = false ∧ st (.chRetire .a 12) memUp = 4 + 256 := by
  decide +kernel

/-- An engine past the last span of a command on region 8, or at another, with bytes there. -/
def filling (op : Nat) (f : Fill → Fill) (l : List (Nat × Region)) : State :=
  let s := regs l
  { s with
    fill := s.fill.put .a (f { s.fill.get .a with op := some op, src := 8, dst := 9, cursor := 1024 })
    mem := writeBytes s.mem (memAddr 8 100) [7, 8] }

theorem test_hyp_fill_command_done :
    let go := fun u => after (.feCommandDone .a (u.fill.get .a).bad) u
    let mig := fun f => filling 3 f [(8, { own3 with st := .migrating }), (9, { own3 with st := .allocating })]
    let z := go (filling 1 id [(8, { own3 with st := .teardown })])
    let halt := go (mig fun f => { f with cursor := 5, bad := some 4 })
    let mid := mig fun f => { f with cursor := 1023 }
    let row := fun sp => filling 4 (fun f => { f with cursor := 3, span := sp }) [(8, own3)]
    useLeft (mig id) (.engine .a) = false ∧ getRegion z 8 = ⟨.free, 0, 0, 8, base.era⟩ ∧ z.mem.get 0 (memAddr 8 100) = 0 ∧
    (getRegion (go (filling 1 id [(8, { own3 with st := .allocating })])) 8).st = .owned ∧
    (getRegion (go (filling 2 id [(8, { own3 with epoch := 2 ^ 40 - 1 })])) 8).epoch = 0 ∧
    ((go (mig id)).fill.get .a).late = [(8, 9)] ∧ getRegion (go (mig id)) 9 = { own3 with epoch := 8 } ∧
    fieldOf (kreg halt .memFill 0 0x04C) 2 0 = 3 ∧ kregN halt .memFill 0 0x050 = 4 ∧ go mid = mid ∧ go (row .rest) = row .rest ∧
    after (.feCommandDone .a (some 4)) (mig id) = mig id ∧
    (getCh (go (row .writing)) (stackOf base.cfg 8) (channelOf base.cfg 8)).rows = 1 ∧
    (getRegion (lateTick (go (mig id)) .a) 8).st = .teardown ∧ go (calmed (mig id)) = calmed (mig id) := by
  decide +kernel

/-! ### Partitions -/

/-- The RTP of half A runs, and the partition pages answer. -/
def rtpUp (f : Rtp → Rtp) (s : State) : State :=
  onRtp s .a fun r => f { r with booted := true, running := 0, slots := ⟨some ⟨5, 0, 77⟩, none⟩ }

/-- PID 3 with tile 5 in its entry, and words of the entry. -/
def partAt (st : PartSt) (arg : Nat) (f : Part → Part) (s : State) : State :=
  let t := reg .partCtrl 0 0x044 arg (reg .partMap 0 (0x100 + 0x1E0 * 3 + 0x028) 32 (reg .partMap 0 (0x100 + 0x1E0 * 3 + 0x004) (50 + 10 * 2 ^ 16) s))
  putPart t 3 (f { getPart t 3 with st := st, cert := true })

/-- Reason of the last partition command. -/
def pstat (s : State) : Nat := kregN s .partCtrl 0 0x048 - 3 * 2 ^ 16

theorem test_hyp_partition_commands :
    let s := partAt .free 2 id memUp
    let why := fun st arg f => pstat (after (.create .a 3) (partAt st arg f memUp))
    let t := after (.create .a 3) s
    Reaches s .a .partCtrl 0 ∧ s.partCmd = none ∧ inSplit s = false ∧ partRefusal s 1 3 2 = none ∧ regionsFor s 3 2 = [0, 1] ∧
    (getPart t 3).st = .creating ∧ (getPart t 3).work = [0, 1] ∧ tileOwner t 5 = 3 ∧ pstat t = 1 ∧
    why .free 2 (fun p => { p with cert := false }) = 3 + 256 * 1 ∧ why .live 2 id = 3 + 256 * 3 ∧
    pstat (after (.create .a 3) (on [(.tile, 5)] s)) = 3 + 256 * 4 ∧
    pstat (after (.create .a 3) (putSes s 50 ses0)) = 3 + 256 * 6 ∧
    bitOf (getPage (after (.grow .a 3) { s with partCmd := some (1, 4, 0) }) (pageNo .partCtrl 0)).err 2 = true := by
  delta Reaches; decide +kernel

theorem test_hyp_partition_changes :
    let own := fun (s : State) => { s with pages := s.pages.set (pageNo .tile 5) { getPage s (pageNo .tile 5) with owner := 3 } }
    let s := fun arg n => partAt .live arg (fun p => { p with regions := List.range n }) memUp
    (getPart (after (.grow .a 3) (s 2 0)) 3).work = [0, 1] ∧ pstat (after (.grow .a 3) (s 0 0)) = 2 ∧ pstat (after (.shrink .a 3) (s 0 8)) = 2 ∧
    (getPart (after (.shrink .a 3) (s 0 8)) 3).regions.length = 8 ∧
    (let old : Scrub := ⟨2, 0, 0, 0, [], 0, 5, 1⟩
     let v := partAt .unavailable 0 (fun p => { p with scrub := some old }) memUp
     (getPart (after (.teardown .a 3) (own v)) 3).scrub.map (fun c => (c.step, c.cause, c.restarts)) = some (1, 5, 2)) ∧ pstat (after (.shrink .a 3) (s 2 9)) = 3 + 256 * 10 ∧
    (getPart (after (.shrink .a 3) (s 2 10)) 3).work = [8, 9] ∧ (getRegion (after (.shrink .a 3) (s 2 10)) 9).st = .teardown ∧
    pstat (after (.assignTiles .a 3) (s (5 + 2 ^ 10) 9)) = 2 ∧ tileOwner (after (.assignTiles .a 3) (s (5 + 2 ^ 10) 9)) 5 = 3 ∧
    pstat (after (.releaseTiles .a 3) (s (5 + 2 ^ 10) 9)) = 3 + 256 * 4 ∧ tileOwner (after (.releaseTiles .a 3) (own (s (5 + 2 ^ 10) 9))) 5 = 0 ∧
    pstat (after (.releaseTiles .a 3) (own (s (5 + 2 ^ 10) 9))) = 2 ∧ pstat (after (.teardown .a 3) (s 0 9)) = 3 + 256 * 9 ∧
    (getPart (after (.teardown .a 3) (own (s 0 9))) 3).st = .scrubbing := by
  decide +kernel

theorem test_hyp_partition_created :
    let s := rtpUp id (partAt .creating 0 id memUp)
    (getPart (after (.partCreateDone 3) s) 3).st = .live ∧ after (.partCreateDone 3) (partAt .creating 0 id memUp) = partAt .creating 0 id memUp ∧
    (getPart (after (.partCreateDone 3) (rtpUp id (partAt .creating 0 (fun p => { p with work := [1] }) memUp))) 3).st = .creating ∧ mainHalf s = .a := by
  decide +kernel

/-- The four steps of a scrub. -/
theorem test_hyp_scrub :
    let s := fun n l => rtpUp id (partAt .scrubbing 0 (fun p => { p with scrub := some ⟨n, 0, 0, 0, [], 0, 0, 0⟩, work := l, gen := 1 }) (regs [(8, own3)]))
    let go := after (.scrubStepDone 3)
    let step := fun (s : State) => (getPart s 3).scrub.elim 0 fun c => c.step
    regionsOf (s 1 []) 3 = [8] ∧ moving (s 1 []) 8 = false ∧ scrubHeld (s 1 []) 3 = false ∧ step (go (s 1 [])) = 2 ∧ (getPart (go (s 1 [])) 3).work = [8] ∧
    (let mv := { s 1 [] with fill := (s 1 []).fill.put .a { base.fill.get .a with late := [(8, 9)] } }
     moving mv 8 = true ∧ go mv = mv) ∧
    step (go (s 2 [8])) = 2 ∧ step (go (s 2 [9])) = 3 ∧ step (go (s 3 [])) = 4 ∧
    (getPart (after (.scrubCertificate 3) (s 4 [])) 3).st = .free ∧ (after (.scrubCertificate 3) (s 4 [])).certLog.length = 1 ∧
    after (.scrubCertificate 3) (s 3 []) = s 3 [] ∧ go (s 4 []) = s 4 [] ∧ go (calmed (s 1 [])) = calmed (s 1 []) ∧
    step (go (rtpUp (fun r => { r with deferring := true }) (s 3 []))) = 3 := by
  decide +kernel

theorem test_hyp_service_event :
    let s := fun f => partAt .live 0 f memUp
    let t := fun f => getPart (after (.serviceEvent 3) (s f)) 3
    lastInstant (ftNs memUp .a) 0 1000000000 = some 5000000000000 ∧ (t fun p => { p with flags := 5 }).flags = 0 ∧ (t id).served = 5000000000000 ∧
    (t fun p => { p with flags := 5, served := 5000000000000 }).flags = 5 ∧ after (.serviceEvent 0) memUp = memUp := by
  decide +kernel

/-! ### The root of trust -/

/-- Half A's RTP running the image of slot 0, with another image in slot 1. -/
def fwAt (st : FwSt) (f : Rtp → Rtp) : State := rtpUp (fun r => f { r with fw := st, slots := ⟨some ⟨5, 0, 77⟩, some ⟨6, 1, 88⟩⟩ }) base

theorem test_hyp_rtp_messages :
    let s := fwAt .normal id
    let full := fwAt .normal fun r => { r with out := List.replicate 65533 0 }
    let none_ := base
    let sw := fwAt .switching id
    let rec_ := onRtp base .a fun r => { r with recovery := true }
    let outs := fun t => ((t : State).rtp.get .a).out.length
    Hears s .a false ∧ rtpRoom full .a 4 = false ∧ after (.fwActivate .a 9) none_ = none_ ∧
    bitOf (getPage (after (.fwActivate .a 9) full) (pageNo .rtp 0)).err 18 = true ∧ after (.fwDiscard .a 9) sw = sw ∧
    ((after (.attest .a 9 0 0 true) sw).rtp.get .a).attBusy = 1 ∧ outs (after (.fwCommit .a 9 false false) rec_) = 4 ∧
    outs (after (.fwActivate .a 9) s) = 4 ∧ rtpRoom (fwAt .normal fun r => { r with out := List.replicate 65532 0 }) .a 4 = true := by
  delta Hears; decide +kernel

theorem test_hyp_rtp_boot :
    let s := fun f => onRtp base .a fun r => f { r with booted := false, recovery := false, active := 1, fw := .normal, slots := ⟨some ⟨5, 0, 77⟩, some ⟨6, 1, 88⟩⟩ }
    let r := fun (s : State) => (after (.rtpBoot .a) s).rtp.get .a
    let revoked := fun n => { s id with cfg := { base.cfg with revoke := n } }
    (s id).ready.get .a = true ∧ (r (s id)).running = 1 ∧ (r (s id)).fw = .staged ∧ (r (revoked 2)).running = 0 ∧ (r (revoked 3)).recovery = true ∧
    (r { s id with minSvn := 6 }).running = 1 ∧ (r { s id with minSvn := 7 }).recovery = true ∧
    after (.rtpBoot .a) { s id with ready := ⟨false, true⟩ } = { s id with ready := ⟨false, true⟩ } := by
  decide +kernel

theorem test_hyp_firmware_image :
    let img : FwImage := ⟨true, 9, 3, 8388608, true, 99⟩
    let s := { fwAt .normal id with minSvn := 9 }
    let st := fun (f : FwImage → FwImage) => ((after (.firmwareImage .a (f img)) s).rtp.get .a).out.getD 1 0
    Hears s .a true ∧ ((after (.firmwareImage .a img) s).rtp.get .a).fw = .staged ∧ st id = 0 ∧ st (fun i => { i with magicOk := false }) = 5 * 65536 ∧
    st (fun i => { i with bytes := 8388609 }) = 5 * 65536 ∧ st (fun i => { i with keyIndex := 4 }) = 5 * 65536 ∧
    st (fun i => { i with sigOk := false }) = 2 * 65536 ∧ st (fun i => { i with svn := 8 }) = 3 * 65536 ∧
    ((after (.firmwareImage .a img) (fwAt .trial id)).rtp.get .a).out.getD 1 0 = 4 * 65536 := by
  delta Hears; decide +kernel

theorem test_hyp_firmware_switch :
    let r := fun c (s : State) => (after c s).rtp.get .a
    let bad := { fwAt .switching id with minSvn := 7 }
    let trial := fun n c => fwAt .trial fun r => { r with running := 1, trialCyc := 20000000000 - n, confirmed := c }
    (r (.fwActivate .a 9) (fwAt .staged id)).fw = .switching ∧ (r (.fwActivate .a 9) (fwAt .normal id)).fw = .normal ∧
    (r (.fwSwitchRestart .a) (fwAt .switching id)).fw = .trial ∧ (r (.fwSwitchRestart .a) (fwAt .switching id)).running = 1 ∧
    (r (.fwSwitchRestart .a) (fwAt .switching fun r => { r with back := true })).fw = .normal ∧
    ((r (.fwSwitchRestart .a) bad).slot 1).isNone = true ∧ (r (.fwSwitchRestart .a) bad).recovery = true ∧
    (r (.trialConfirm .a) (trial 1799999999 false)).confirmed = true ∧ (r (.trialConfirm .a) (trial 1800000000 false)).confirmed = false ∧
    (r (.trialTimeout .a) (trial 1799999999 false)).fw = .trial ∧ (r (.trialTimeout .a) (trial 1800000000 false)).running = 0 ∧
    (r (.trialTimeout .a) (trial 1800000000 true)).fw = .trial := by
  decide +kernel

theorem test_hyp_firmware_commit :
    let r := fun c (s : State) => (after c s).rtp.get .a
    let trial := fun c => fwAt .trial fun r => { r with running := 1, trialCyc := 20000000000, confirmed := c }
    Hears (trial true) .a false ∧ (r (.fwCommit .a 9 false false) (trial true)).active = 1 ∧ (r (.fwCommit .a 9 false false) (trial false)).fw = .trial ∧
    (after (.fwCommit .a 9 true true) (trial true)).minSvn = 6 ∧ (after (.fwCommit .a 9 true false) (trial true)).minSvn = 0 ∧
    ((r (.fwCommit .a 9 false false) (trial true)).slot 0).isNone = true ∧ (r (.fwDiscard .a 9) (fwAt .staged id)).fw = .normal ∧
    (r (.fwDiscard .a 9) (trial true)).back = true ∧ (r (.fwDiscard .a 9) (trial false)).fw = .trial ∧
    kregN base .rtp 0 0x058 = 850 ∧ (r (.rtpLoad .a 850) base).deferring = true ∧ (r (.rtpLoad .a 849) base).deferring = false ∧
    (r (.rtpLoad .a 750) (rtpUp (fun r => { r with deferring := true }) base)).deferring = true ∧
    (r (.rtpLoad .a 749) (rtpUp (fun r => { r with deferring := true }) base)).deferring = false := by
  delta Hears; decide +kernel

/-- PID 3 LIVE with an owner key. -/
def owned (s : State) : State :=
  { putPart s 3 { getPart s 3 with st := .live, regions := [40] } with
    ownerKeys := s.ownerKeys.set 3 555, regions := s.regions.set 40 ⟨.owned, 3, 0, 1, base.era⟩ }

theorem test_hyp_attest :
    let s := owned (fwAt .normal id)
    let st := fun sc sig (s : State) => ((after (.attest .a 9 sc 1 sig) s).rtp.get .a).out.getD 1 0
    let q : AttReq := ⟨.a, 9, 0, 1, 20000000000⟩
    Hears s .a true ∧ st 64 true s = 5 * 65536 + 9 ∧ st 4 true s = 4 * 65536 + 9 ∧ st 3 false s = 2 * 65536 + 9 ∧
    (after (.attest .a 9 3 1 true) s).attQueue.length = 1 ∧ (after (.attest .a 9 0 1 false) s).attQueue.length = 1 ∧
    st 0 true { s with attQueue := List.replicate 64 q } = 1 * 65536 + 9 ∧
    (after (.attest .a 9 0 1 true) { s with attQueue := List.replicate 63 q }).attQueue.length = 64 := by
  delta Hears; decide +kernel

/-- A report and an ADMIT_REQ fit an empty mailbox; a mailbox with room for four words does not hold them, nor a page of the log. -/
theorem test_hyp_rtp_room :
    let s := fwAt .normal id
    let full := fwAt .normal fun r => { r with out := List.replicate 65532 0 }
    let body := fun (u : State) => wordsOf (leBytes 48 (Config.headerDigest 7) ++ reportBytes u .a 0 (Config.headerDigest 7)) ++ freeWords 7 [7, u.attSeq]
    (reportParts s .a 0).1 = [] ∧ s.certLog = [] ∧ rtpRoom full .a 4 = true ∧ rtpRoom s .a (4 + (wordsOf (reportBytes s .a 0 1)).length) = true ∧
    rtpRoom full .a (4 + (wordsOf (reportBytes full .a 0 1)).length) = false ∧
    rtpRoom s .a (4 + (body s).length) = true ∧ rtpRoom full .a (4 + (body full).length) = false ∧
    rtpRoom s .a (4 + (0 :: freeWords 9 [1]).length) = true ∧ rtpRoom full .a (4 + (0 :: freeWords 9 [1]).length) = false := by
  have hp : (reportParts (fwAt .normal id) .a 0).1 = [] := by decide +kernel
  have hc : (fwAt .normal id).certLog = [] := by decide +kernel
  have ho : ((fwAt .normal id).rtp.get .a).out.length = 0 := by decide +kernel
  have hf : ((fwAt .normal fun r => { r with out := List.replicate 65532 0 }).rtp.get .a).out.length = 65532 := by decide +kernel
  generalize fwAt .normal id = s at hp hc ho
  generalize (fwAt .normal fun r => { r with out := List.replicate 65532 0 }) = full at hf
  have hs := report_length s .a 1 hc hp
  have hd := report_length s .a (Config.headerDigest 7) hc hp
  have w : ∀ l, l ≠ [] → 0 < (wordsOf l).length := fun l h => List.length_pos_iff.2 ((wordsOf_length l).2 h)
  have ne : reportBytes full .a 0 1 ≠ [] := by
    obtain ⟨b, l, h⟩ := report_cons full .a 1; simp [h]
  have ne' : leBytes 48 (Config.headerDigest 7) ++ reportBytes full .a 0 (Config.headerDigest 7) ≠ [] := by simp [leBytes]
  have w1 := (wordsOf_length (reportBytes s .a 0 1)).1
  have w2 := (wordsOf_length (leBytes 48 (Config.headerDigest 7) ++ reportBytes s .a 0 (Config.headerDigest 7))).1
  have f1 := freeWords_length 7 [7, s.attSeq]
  have f2 := freeWords_length 9 [1]
  have w3 := w _ ne
  have w4 := w _ ne'
  simp only [List.length_append, leBytes_length] at w2
  simp only [← Bool.not_eq_true, rtpRoom_iff, List.length_append, List.length_cons, ho, hf]
  exact ⟨hp, hc, by omega, by omega, by omega, by omega, by omega, by omega, by omega⟩

/-- 10 ms are 18,000,000 cycles. -/
theorem test_hyp_attest_timeout :
    let s := fun n => { fwAt .normal id with attQueue := [⟨.a, 9, 0, 1, 20000000000 - n⟩] }
    (after (.attestTimeout 0) (s 18000000)).attQueue = [] ∧ (after (.attestTimeout 0) (s 17999999)).attQueue.length = 1 ∧
    (after (.attestTimeout 0) { fwAt .normal (fun r => { r with out := List.replicate 65533 0 }) with attQueue := [⟨.a, 9, 0, 1, 0⟩] }).attQueue.length = 1 ∧
    after (.attestAnswer 0) (s 18000000) = s 18000000 ∧ after (.attestTimeout 1) (s 18000000) = s 18000000 ∧
    ((after (.attestTimeout 0) (s 18000000)).rtp.get .a).attBusy = 1 ∧ reportState (s 0) .a = 0 ∧ reportState (fwAt .trial id) .a = 1 ∧
    reportState { s 0 with ready := ⟨true, false⟩ } .a = 2 ∧ reportState (onRtp base .a fun r => { r with recovery := true }) .a = 3 := by
  decide +kernel

theorem test_hyp_key_exchanges :
    let s := { putSes (fwAt .normal id) 100 { ses0.setCt 1 .keying 0 with st := .defined } with kexs := [⟨100, .contrib 1, 20000000000⟩] }
    let c := fun sid e k sig ch => Instr.kex .a 9 sid e k sig ch
    let st := fun c => ((after c s).rtp.get .a).out.getD 1 0
    let ok := after (c 100 (.contrib 1) .resp true true) s
    Hears s .a false ∧ st (c 4096 .parent .init true true) = 5 * 65536 + 9 ∧ st (c 101 .parent .init true true) = 4 * 65536 + 9 ∧
    st (c 100 (.contrib 0) .resp true true) = 4 * 65536 + 9 ∧ st (c 100 (.contrib 1) .init true true) = 4 * 65536 + 9 ∧
    st (c 100 (.contrib 1) .resp false true) = 2 * 65536 + 9 ∧ st (c 100 (.contrib 1) .resp true false) = 2 * 65536 + 9 ∧ ok.kexs = [] ∧
    peerKnown ok 0 0x10000004 = true ∧ keyRoom s .a = true ∧ s.cfg.hasHalf .b = true ∧
    ((after (.logRead .a 9 .b 1) { s with cfg := { s.cfg with variant := 2 } }).rtp.get .a).out.getD 1 0 = 5 * 65536 + 9 := by
  delta Hears; decide +kernel

theorem test_hyp_kex_timeout :
    let s := fun n => { base with kexs := [⟨4096 + 2, .parent, 20000000000 - n⟩] }
    cycAgo (s 1800000000) (20000000000 - 1800000000) 1000000000 = true ∧ after (.kexTimeout 0) (s 1799999999) = s 1799999999 ∧
    ((after (.kexTimeout 0) (s 1800000000)).kexs.map (·.cyc)) = [20000000000] ∧
    bitOf (getPage (after (.kexTimeout 0) (s 1800000000)) (pageNo .chan 2)).err 17 = true := by
  decide +kernel

theorem test_hyp_debug :
    let lock := after (.secDebugLock .a 1) base
    Reaches base .a .sec 0 ∧ debugRestricted base = false ∧ debugRestricted lock = true ∧ debugRestricted (after (.secDebugLock .a 0) lock) = true ∧
    instrumentAllowed base .readKeys = false ∧ instrumentAllowed lock .boundaryScan = true ∧ after (.testAccess .bistStatus) lock = lock ∧
    (after (.testAccess .readKeys) base).secLog.find 0 ≠ none ∧ fieldOf (kreg (after (.testAccess .readKeys) (reg .sec 0 0x050 255 base)) .sec 0 0x050) 7 0 = 0 ∧
    (after (.testAccess .readKeys) (after (.testAccess .readKeys) base)).secLog.find 1 = none ∧ (after .entropyFail base).entropyOk = false := by
  delta Reaches; decide +kernel

/-- A header whose members are 3 and whose quorum is 2. -/
def hdr : GloveHdr := ⟨1, 7, 555, true, 2, false, 0, 2, 128, 0, 1, 3, true, true, true⟩

/-- A state that holds a header and an opening of it for PID 3. -/
def gloved (f : GloveHdr → GloveHdr) (l : List Nat) : State :=
  let s := owned (fwAt .normal id)
  { s with gloveHdrs := [f hdr], openings := [⟨.a, 9, 3, f hdr, l, [], true, false⟩] }

theorem test_hyp_glove_headers :
    let s := owned (fwAt .normal id)
    let st := fun (f : GloveHdr → GloveHdr) => ((after (.gloveHeader .a (f hdr)) s).rtp.get .a).out.getD 1 0
    Hears s .a false ∧ headerOf (after (.gloveHeader .a hdr) s) 7 = some hdr ∧ st (fun g => { g with quorum := 0 }) = 5 * 65536 ∧
    st (fun g => { g with quorum := 16, members := 32 }) = 5 * 65536 ∧ st (fun g => { g with quorum := 15, members := 32 }) = 0 ∧
    st (fun g => { g with members := 33 }) = 5 * 65536 ∧ st (fun g => { g with version := 2 }) = 5 * 65536 ∧ st (fun g => { g with quorum := 4 }) = 5 * 65536 ∧
    ((after (.admitPrep .a 9 64 hdr) s).rtp.get .a).out.getD 1 0 = 5 * 65536 + 9 := by
  delta Hears; decide +kernel

theorem test_hyp_glove_open :
    let st := fun (f : GloveHdr → GloveHdr) pid id_ l => ((after (.gloveOpen .a 9 pid id_ l true) { gloved f [] with openings := [] }).rtp.get .a).out.getD 1 0
    let t := after (.gloveOpen .a 9 3 7 [] true) { gloved id [] with openings := [] }
    let open_ := fun n ok => after (.gloveOpen .a 9 3 7 [] ok) { gloved (fun g => { g with chunks := n }) [] with openings := [] }
    let e := fun (n : Nat) => (⟨n, true, true⟩ : Endorsement)
    st id 3 8 [] = 4 * 65536 + 9 ∧ st id 64 7 [] = 5 * 65536 + 9 ∧ st id 4 7 [] = 4 * 65536 + 9 ∧ st (fun g => { g with highRegion := 1 }) 3 7 [] = 4 * 65536 + 9 ∧
    ((after (.gloveOpen .a 9 3 7 [] true) (gloved id [])).rtp.get .a).out.getD 1 0 = 4 * 65536 + 9 ∧ st (fun g => { g with sigOk := false }) 3 7 [] = 2 * 65536 + 9 ∧
    st (fun g => { g with ownerKey := 1 }) 3 7 [] = 3 * 65536 + 9 ∧ st (fun g => { g with isMember := false }) 3 7 [e 1, e 1] = 6 * 65536 + 9 ∧
    st (fun g => { g with isMember := false }) 3 7 [e 1, e 4] = 6 * 65536 + 9 ∧ st (fun g => { g with isMember := false }) 3 7 [e 1, e 3] = 0 ∧
    st (fun g => { g with isMember := false }) 3 7 [e 1, { e 3 with ftVouched := false }] = 6 * 65536 + 9 ∧
    st (fun g => { g with isMember := false }) 3 7 [e 1, { e 3 with valid := false }] = 6 * 65536 + 9 ∧
    (open_ 0 true).openings = [] ∧ (open_ 0 true).gloveIds.find 3 = some 7 ∧ (open_ 0 false).gloveIds.find 3 = none ∧
    st (fun g => { g with requireLock := true }) 3 7 [] = 3 * 65536 + 9 ∧ st (fun g => { g with minSvn := 6 }) 3 7 [] = 3 * 65536 + 9 ∧
    st (fun g => { g with minSvn := 5 }) 3 7 [] = 0 ∧ st (fun g => { g with keyCheckOk := false }) 3 7 [] = 3 * 65536 + 9 ∧ t.openings.length = 1 := by
  decide +kernel

theorem test_hyp_glove_chunks :
    let k : GloveChunk := ⟨7, 0, 64, List.replicate 64 9, true⟩
    let st := fun (f : GloveChunk → GloveChunk) l => ((after (.gloveChunk .a (f k)) (gloved id l)).rtp.get .a).out.getD 1 0
    let t := fun (f : GloveChunk → GloveChunk) l => after (.gloveChunk .a (f k)) (gloved id l)
    rangeMapped (gloved id []) 3 64 64 = true ∧ useWaits (t id []) (.chunk 7 0) = true ∧ ((t id []).openings.map (·.writes)) = [[0]] ∧
    st (fun k => { k with gloveId := 8 }) [] = 4 * 65536 ∧ st (fun k => { k with index := 2 }) [] = 5 * 65536 ∧ st (fun k => { k with dest := 65 }) [] = 5 * 65536 ∧
    st (fun k => { k with bytes := List.replicate 63 9 }) [] = 5 * 65536 ∧ st (fun k => { k with dest := 2 ^ 21 }) [] = 5 * 65536 ∧
    (t id [0]).openings.length = 1 ∧ (after (.gloveChunk .a k) (t id [])).openings = (t id []).openings ∧
    (t (fun k => { k with tagOk := false }) []).openings = [] ∧
    (after (.gloveChunk .a k) (putPart (gloved id []) 3 { getPart (gloved id []) 3 with st := .scrubbing })).openings = [] ∧
    after (.gloveChunk .a k) (calmed (gloved id [])) = calmed (gloved id []) := by
  decide +kernel

/-- Chunk 0 of the two asked of the stacks; when they have accepted it, it is taken; it is the last one where chunk 1 was taken. -/
theorem test_hyp_glove_chunk_settles :
    let s := fun l ok => { gloved id [] with openings := (gloved id []).openings.map fun o => { o with got := l, writes := [0], digestOk := ok } }
    let waits := after (.gloveChunk .a ⟨7, 0, 64, List.replicate 64 9, true⟩) (gloved id [])
    settleChunks waits = waits ∧ useWaits (s [] true) (.chunk 7 0) = false ∧
    (settleChunks (s [] true)).openings.map (fun o => (o.got, o.writes)) = [([0], [])] ∧
    (settleChunks (s [1] false)).openings = [] ∧ (settleChunks (s [1] false)).gloveIds.find 3 = none ∧
    (settleChunks (s [1] true)).openings = [] ∧ (settleChunks (s [1] true)).gloveIds.find 3 = some 7 := by
  decide +kernel

theorem test_hyp_admit_req :
    let r : AdmitReq := ⟨7, true, true, true, true, true, 5, 5001000000000, false, true⟩
    let s := on [(.ftu, 0), (.ftu, 1)] (gloved (fun g => { g with minSvn := 5 }) [])
    let st := fun (f : AdmitReq → AdmitReq) => ((after (.admitReq .a 9 (f r)) s).rtp.get .a).out.getD 1 0
    st (fun r => { r with gloveId := 8 }) = 4 * 65536 + 9 ∧ st (fun r => { r with isMember := false }) = 6 * 65536 + 9 ∧
    st (fun r => { r with sigOk := false }) = 2 * 65536 + 9 ∧ st (fun r => { r with stateNormal := false }) = 3 * 65536 + 9 ∧
    st (fun r => { r with svn := 4 }) = 3 * 65536 + 9 ∧ st (fun r => { r with reportFt := 5001000000001 }) = 3 * 65536 + 9 ∧
    st (fun r => { r with reportFt := 4998999999999 }) = 3 * 65536 + 9 ∧ st (fun r => { r with spareIsMember := true }) = 3 * 65536 + 9 ∧
    hasTime s .a = true := by
  decide +kernel

/-! ### Power and resets -/

/-- A state with the allowance port's record changed. -/
def pwrAt (f : Power → Power) : State := { on [(.ftu, 0), (.ftu, 1)] base with power := f base.power }

theorem test_hyp_allowance_strobes :
    let t := fun lo hi f => after (.alwStb 104 lo hi) (pwrAt f)
    let n := fun lo hi f => kregN (t lo hi f) .pwr 0 0x04C
    let again := fun n (p : Power) => { p with goodCyc := some (20000000000 - n) }
    codeAmps 0 = 0 ∧ codeAmps 1 = 368 ∧ codeAmps 255 = 2400 ∧ n 20 8 id = 1 ∧ n 19 8 id = 0 ∧ n 20 7 id = 0 ∧ n 20 1000 id = 1 ∧ n 20 1001 id = 0 ∧
    n 20 8 (again 9000) = 1 ∧ n 20 8 (again 8999) = 0 ∧ (t 20 8 id).power.code = 104 ∧ kregN (t 19 8 id) .pwr 1 0x050 = 1 ∧
    bitOf (getPage (after (.alwStb 0x67 20 8) (pwrAt id)) (pageNo .pwr 0)).err 18 = true ∧
    bitOf (getPage (after (.alwStb 0x68 20 8) (pwrAt id)) (pageNo .pwr 0)).err 18 = false ∧ base.cfg.floor = 0x68 ∧
    kregN (after .alwStbHeld (pwrAt id)) .pwr 0 0x050 = 1 := by
  decide +kernel

/-- 100,000 ns are 180,000 cycles. -/
theorem test_hyp_allowance_lost :
    let s := fun n src => pwrAt fun p => { p with goodCyc := some (20000000000 - n), src := src, code := 200 }
    let ack := fun k => (after .alwAck (pwrAt fun p => { p with owed := some (7, 500), splitCyc := k })).power.acked
    (after .alwLost (s 180000 0)).power.code = 0x68 ∧ (after .alwLost (s 179999 0)).power.code = 200 ∧ (after .alwLost (s 180000 2)).power.code = 200 ∧
    kreg64 (after .alwLost (s 180000 0)) .pwr 0 0x054 = 5000000000000 ∧ ack 501 = some 7 ∧ ack 500 = base.power.acked ∧ base.power.owed = none ∧
    after .alwAck base = base := by
  decide +kernel

theorem test_hyp_budgets :
    let s := fun n => { onTile (on [(.tile, 5), (.tile, 6)] base) 5 (fun x => { x with bucket := 10 ^ 12 }) with
      allots := base.allots.put 0 5 (10 ^ 12), power := { base.power with code := 255, splitCyc := 20000000000 - n } }
    let t := after .budgetRecompute (s 1800)
    thermalFactor base = 8 ∧ tileAllowance (s 0) = (2400 - 360) * 64 ∧ shareOfPid (s 0) 0 = 1024 ∧ halfBudget (s 0) 0 .a = (2400 - 360) * 64 ∧
    halfBudget (s 0) 0 .b = 0 ∧ drawers (s 0) 0 .a = 2 ∧ tileAllot t 5 = (2400 - 360) * 32 ∧ tileAllot t 6 = (2400 - 360) * 32 ∧ tileAllot t 7 = 0 ∧ drawsBudget (s 0) 7 = false ∧ t.power.splitCyc = 20000000000 ∧
    (getTile t 5).bucket = 64 * (2400 - 360) * 32 ∧ after .budgetRecompute (s 1799) = s 1799 ∧
    budgetOf { s 0 with power := { base.power with code := 0 } } 0 = 0 := by
  decide +kernel

/-- THROTTLE 105 °C and HYST 5 °C. -/
theorem test_hyp_thermal :
    let s := fun f trip => { regF .pwr 0 0x05C 0x0569 (reg .pwr 0 0x060 f base) with power := { base.power with trip := trip } }
    let t := fun f trip hot => (thermalFactor (after (.thermalReading hot ⟨3, []⟩) (s f trip)), (after (.thermalReading hot ⟨3, []⟩) (s f trip)).power.trip)
    t 8 false 104 = (8, false) ∧ t 8 false 105 = (7, false) ∧ t 2 false 124 = (2, false) ∧ t 8 false 125 = (0, true) ∧ t 0 true 100 = (0, true) ∧
    t 0 true 99 = (2, false) ∧ t 5 false 99 = (6, false) ∧ t 5 false 100 = (5, false) ∧ t 8 false 0 = (8, false) ∧
    bitOf (getPage (after (.thermalReading 105 ⟨3, []⟩) (s 8 false)) (pageNo .pwr 1)).err 20 = true ∧
    (after (.thermalReading 90 ⟨3, [5, 6, 5000]⟩) (s 8 false)).wearLife.get 0 (wearKey 4 5) = 18000 := by
  decide +kernel

theorem test_hyp_power_reading :
    let s := reg .pwr 0 0x068 (4999990000000 % 2 ^ 32) (pwrAt id)
    let lost := fun n => { base with ftu := State.reset.ftu, power := { base.power with readCyc := 20000000000 - n } }
    hasTime s .a = true ∧ kregN (after (.powerReading 900) s) .pwr 0 0x064 = 900 ∧ kreg64 (after (.powerReading 900) s) .pwr 0 0x068 = 5000000000000 ∧
    after (.powerReading 901) (after (.powerReading 900) s) = after (.powerReading 900) s ∧ hasTime (lost 0) .a = false ∧
    kreg64 (after (.powerReading 900) (lost 18000000)) .pwr 0 0x068 = 2 ^ 64 - 1 ∧ after (.powerReading 900) (lost 17999999) = lost 17999999 := by
  decide +kernel

theorem test_hyp_block_reset :
    let s := owned (rtpUp id (sesAt id))
    let t := after .rstBlkN s
    (getPart s 3).st = .live ∧ (getPart t 3).st = .scrubbing ∧ t.sessions = .empty ∧ (t.rtp.get .a).slot 0 = some ⟨5, 0, 77⟩ ∧
    (t.rtp.get .a).booted = false ∧ t.ready = ⟨false, false⟩ ∧ (getRegion t 40).st = .owned ∧ t.broken.a.isSome = true ∧ t.charge.a.primary = s.cfg.chargeFuse := by
  decide +kernel

theorem test_hyp_half_reset :
    let s := { owned (rtpUp id (sesAt id)) with mem := writeBytes .empty (memAddr 40 0) [9] }
    let t := after (.rstHalfN .a) s
    let mono := { s with cfg := { s.cfg with variant := 2 } }
    s.ready.get .b = true ∧ t.ready = ⟨false, true⟩ ∧ t.mem.get 0 (memAddr 40 0) = 9 ∧ t.charge.b.st = .split ∧ t.charge.a.returned = true ∧
    (getSes t 100).st = .empty ∧ partIn s 3 .a = true ∧ (getPart t 3).st = .unavailable ∧ pageSt t .ses 0 = .off ∧ pageSt t .ses 1 = .on ∧
    after (.rstHalfN .a) mono = blockReset mono 1 := by
  decide +kernel

theorem test_hyp_ready :
    let s := { base with ready := ⟨false, true⟩, railFell := ⟨true, false⟩ }
    (after (.ready .a) s).ready = ⟨true, true⟩ ∧ bitOf (getPage (after (.ready .a) s) (pageNo .pwr 0)).err 22 = true ∧ after (.ready .b) s = s := by
  decide +kernel

theorem test_hyp_rails :
    let s := { owned (rtpUp id base) with mem := writeBytes (writeBytes .empty (memAddr 40 0) [9]) (memAddr 41 0) [8] }
    let aon := after (.railFall .aon .a) s
    (after (.railFall .sideband .a) s).pgSb = false ∧ (aon.rtp.get .a).slots = ⟨none, none⟩ ∧ aon.ready = ⟨false, false⟩ ∧
    bitOf (getPage aon (pageNo .spr 1)).err 19 = true ∧ (after (.railFall .core .b) s).ready = ⟨true, false⟩ ∧
    (after (.railFall (.hbm 0) .a) s).mem.get 0 (memAddr 40 0) = 0 ∧ (after (.railFall (.hbm 0) .a) s).mem.get 0 (memAddr 41 0) = 8 ∧
    (after (.pgSbRise 19) s).trigHigh = 3 ∧ bitOf (getPage (after (.clkFail 1001) s) 0).err 16 = true ∧ after (.clkFail 1000) s = s := by
  decide +kernel

theorem test_hyp_blk_pfa :
    Reaches base .a .blk 0 ∧ kregN (after (.blkPfa .a 0x30000001) base) .blk 0 0x060 = 0x30000001 ∧ planeOf 0xF0000001 = 15 ∧
    bitOf (getPage (after (.blkPfa .a 0xF0000001) base) (pageNo .blk 0)).err 2 = true ∧
    ((after (.blkPfa .a 0x30000001) (sesAt id)).mports.get .a).resp = respState := by
  delta Reaches; decide +kernel

/-! ### Trace, counters, the Calm, wear, and the charge -/

/-- Channel 1 and tile 5 with its funnel, the owner stream of tile 5 changed. -/
def trc (f : Stream → Stream) : State :=
  putStream (regF .chan 1 0x064 1000 (regF .chan 1 0x044 15 (regF .chan 1 0x048 (512 * 1024)
    (on [(.chan, 1), (.tile, 5), (.funnel, 0), (.port, 2), (.ftu, 0), (.ftu, 1), (.calm, 0), (.bank, 1), (.prf, 0), (.spr, 0)] base)))) 11 (f Stream.fresh)

/-- Packets of so many bytes. -/
def pkt (n at16 : Nat) : TPkt := ⟨List.replicate n 7, true, at16⟩

theorem test_hyp_drain_request :
    let s := fun l => trc fun x => { x with pkts := l }
    let n := fun l => (getArb (after (.traceDrainRequest 11) (s l)) (arbKey .arbFunnel 0 2)).reqs.length
    let old := 16 * (5000000000000 - 5000)
    keyChan (trc id) 11 = some 1 ∧ keyHalf (trc id) 11 = .a ∧ shareOf (trc id) 11 = 4096 ∧ n [pkt 3 old] = 1 ∧ n [pkt 3 (old + 1)] = 0 ∧
    n [pkt 2048 (old + 1)] = 1 ∧ n [pkt 2047 (old + 1)] = 0 ∧ n [] = 0 ∧ streamInput 11 = 2 ∧ streamKnown 2175 = true ∧ streamKnown 2176 = false ∧
    goes (.traceDrainRequest 2176) (trc id) = false ∧ (Stream.fresh.cap ≠ .capturing) ∧
    anyReq (s [pkt 3 old]) (fun r => decide (r.what = .drain 11)) = false ∧
    anyReq (after (.traceDrainRequest 11) (s [pkt 3 old])) (fun r => decide (r.what = .drain 11)) = true := by
  decide +kernel

/-- Packets in, at most 128 B or one; TAG is 4 B; an open frame of 232 B. -/
theorem test_hyp_drain_flit :
    let s := fun l => regF .chan 1 0x040 1 (trc fun x => { x with pkts := l, granted := true })
    let t := fun l => after (.drainFlit 11) (s l)
    let left := fun l => (getStream (t l) 11).pkts.length
    let full := fun n k => putChan (s [pkt 3 0]) 1 { Channel.fresh with
      cur := some ⟨List.replicate n 0, 1, 0, k⟩, frames := List.replicate 64 ⟨0, [], 0, 0, 0, 0⟩ }
    chanTakes (s []) 1 = true ∧ chanTakes (trc id) 1 = false ∧ left [pkt 64 0, pkt 64 1, pkt 1 2] = 1 ∧ left [pkt 64 0, pkt 65 1, pkt 1 2] = 2 ∧ left [pkt 200 0] = 0 ∧
    (getChan (t [pkt 200 0]) 1).cur.map (·.body.length) = some 204 ∧ (getChan (t [pkt 3 0, pkt 3 1]) 1).held = 2 ∧
    kreg64 (t [pkt 3 0, pkt 3 1]) .chan 1 0x070 = 2 ∧ (getStream (after (.drainFlit 11) (full 229 11)) 11).pkts.length = 0 ∧
    (getStream (after (.drainFlit 11) (full 230 11)) 11).pkts.length = 1 ∧ (getStream (after (.drainFlit 11) (full 226 12)) 11).pkts.length = 1 ∧
    (getStream (after (.drainFlit 11) (full 225 12)) 11).pkts.length = 0 ∧
    (getStream (after (.drainFlit 11) (inSt .chan 1 .off (s [pkt 3 0]))) 11).granted = false := by
  decide +kernel

theorem test_hyp_report_actions :
    let s := fun (k : Nat) (fn : Bool) (n : Nat) => putEntry (regF .chan 1 0x060 n (trc fun x => { x with pkts := [pkt 3 0] })) .a 5
      { entry0 with action := actReport, target := if fn then pageNo .funnel 0 else pageNo .wv 0, arg := k + 256 }
    let gust := fun u => (getChan (after (.gustFire .a 5) u) 1).gust
    let rep := { s 1 false 0 with reports := (s 1 false 0).reports.put .a [⟨0, 1, List.replicate 12 0⟩] }
    fires (s 1 true 0) .a 5 = true ∧ (getStream (after (.reportDrainAction .a 5) (s 1 true 0)) 11).ask = true ∧ gust (s 2 true 0) = none ∧
    (getEntry (after (.gustFire .a 5) (s 2 true 0)) .a 5).st = .fired ∧ gust (s 2 true 1) = some ⟨0, 4999999999000, max 5000000000000 (5000000000000 + ftuLead base .a), false⟩ ∧
    gust (calmed (s 2 true 1)) = none ∧
    kregN (after (.gustFire .a 5) (putChan (s 2 true 1) 1 { Channel.fresh with frozen := true })) .funnel 0 0x04C = 1 ∧
    kindAdmitted rep (wvKey .a 0 1) 3 = true ∧ 0 < (getStream (after (.reportWvAction .a 5) rep) (wvKey .a 0 1)).gen ∧
    (after (.reportWvAction .a 5) rep).reports.get .a = [] ∧ unitLost (after (.reportWvAction .a 5) rep) .a ≤ unitLost rep .a := by
  decide +kernel

/-- A Gust of channel 1. -/
def gusted (n : Nat) (f : Stream → Stream) : State :=
  putChan (regF .chan 1 0x060 n (trc f)) 1 { Channel.fresh with gust := some ⟨0, 4999999999000, 5000000000000, false⟩ }

theorem test_hyp_gusts :
    let cap := fun (x : Stream) => { x with cap := .capturing, pkts := [pkt 3 0] }
    let early := onFtu (gusted 1 cap) .a fun f => { f with count := f.count - 1 }
    let x := fun n f => getStream (after (.gustDrainEnd 11) (gusted n f)) 11
    let frozen := fun (x : Stream) => { x with cap := .frozen }
    hasTime (gusted 1 cap) .a = true ∧ 5000000000000 * 2304 ≤ countOf (gusted 1 cap) .a ∧ keyChan (gusted 1 cap) 11 = some 1 ∧
    (getStream (gusted 1 cap) 11).cap = .capturing ∧ captures (gusted 1 id) 1 = true ∧ after (.gustFreeze 1) early = early ∧
    ((cap Stream.fresh).freeze ⟨0, 4999999999000, 5000000000000, false⟩ true 0).pkts.length = 4 ∧
    (x 3 frozen).cap = .capturing ∧ (x 1 frozen).cap = .streaming ∧ (x 3 fun x => { frozen x with pkts := [pkt 3 0] }).cap = .frozen := by
  decide +kernel

/-- A frame of two records. -/
def frame (n : Nat) : Frame := ⟨n, List.replicate 232 0, 100, 0, 2, 4999999999000⟩

theorem test_hyp_frame_seal :
    let s := fun n => putChan (trc id) 1 { Channel.fresh with cur := some ⟨List.replicate 100 1, 2, 20000000000 - n, 11⟩, seq := 5 }
    let n := fun s => (getChan (after (.frameSeal 1) s) 1).frames.length
    n (s 9000) = 1 ∧ n (s 8999) = 0 ∧ n (inSt .chan 1 .stopping (s 0)) = 1 ∧ (getChan (after (.frameSeal 1) (s 9000)) 1).seq = 6 ∧
    base.cfg.hasHalf (chanHalf 1) = true := by
  decide +kernel

theorem test_hyp_frame_routes :
    let own := putPart (putRegion (on [(.mem, 0)] (trc id)) 8 ⟨.owned, 0, 1, 7, base.era⟩) 0 { getPart base 0 with regions := [8] }
    let ring := fun n (u : State) => regF .chan 1 0x040 1 (regF .chan 1 0x058 8 (putChan { u with obsBucket := n, obsCyc := u.cyc } 1
      { Channel.fresh with frames := [frame 9] }))
    let col := fun p => regF .chan 1 0x040 (2 + 4 * p) (putChan (trc id) 1 { Channel.fresh with frames := [frame 9] })
    let asked := askRing (ring 19200 own) 1
    let done := after (.frameRingWrite 1) { asked with arbs := own.arbs }
    (ringWants (ring 19200 own) 1).map Prod.snd = some (8, 256) ∧ (getChan asked 1).asked = true ∧ useWaits asked (.ring 1) = true ∧
    after (.frameRingWrite 1) asked = asked ∧ (getChan done 1).frames = [] ∧ kreg done .chan 1 0x098 = 1 ∧ ringWants (trc id) 1 = none ∧
    askRing (ring 19199 own) 1 = ring 19199 own ∧ calmOn own (regionHalf own.cfg 8) = false ∧ ringBegun asked 1 = false ∧ obsCovers (ring 19200 own) 256 = true ∧ obsCovers (ring 19199 own) 256 = false ∧
    anyCell (col 2) (cellOf 1) = false ∧ anyCell (after (.frameCollectorSend 1) (col 2)) (cellOf 1) = true ∧
    bitOf (getPage (after (.frameCollectorSend 1) (col 3)) (pageNo .chan 1)).err 18 = true ∧ pageIsOn (col 3) .port 3 = false ∧
    (getChan (after (.frameCollectorSend 1) (col 3)) 1).routeDown = true := by
  decide +kernel

theorem test_hyp_discard :
    let s := inSt .chan 1 .stopping (putChan (trc id) 1 { Channel.fresh with frames := [frame 9] })
    let t := after (.discard .a 1) s
    Reaches s .a .chan 1 ∧ (getChan t 1).frames = [] ∧ kreg64 t .chan 1 0x080 = 2 ∧ bitOf (getPage t (pageNo .chan 1)).err 16 = true ∧
    bitOf (getPage (after (.discard .a 1) (trc id)) (pageNo .chan 1)).err 2 = true ∧ cellBegun s 1 = false ∧ ringBegun s 1 = false ∧
    (getChan (after (.discard .a 1) (inSt .chan 1 .stopping (putChan (trc id) 1 { Channel.fresh with frames := [frame 9], asked := true }))) 1).frames.length = 1 := by
  delta Reaches; decide +kernel

theorem test_hyp_key_report :
    let s := fun (q : Nat) => inSt .chan 1 .starting (rtpUp id (owned { trc id with
      pages := (trc id).pages.set (pageNo .chan 1) { getPage (trc id) (pageNo .chan 1) with owner := q } }))
    ownerKeyed (s 3) 3 = true ∧ pageSt (s 3) .chan 1 = .starting ∧ pageOwner (s 3) (pageNo .chan 1) = 3 ∧ ((s 3).rtp.get (chanHalf 1)).booted = true ∧
    after (.traceKeyReport 1) (s 0) = s 0 := by
  decide +kernel

/-- An interval of bank 1 closed at a cycle. -/
def closedAt (cyc : Nat) : ClosedInt := ⟨9, 0, 5, false, 0, cyc, 0, [], List.replicate 16 0, false⟩

theorem test_hyp_intervals :
    let s := fun x => putBank (putEntry (trc id) .a 5 { entry0 with action := actInterval, target := pageNo .bank 1 }) 1 { getBank (trc id) 1 with closed := x, ctrs := Tbl.put 0 .empty 3 77 }
    let fire := fun u => after (.intervalAction .a 5) u
    let close := fun u => endCycle (fire u)
    let c := fun u => (getBank (close u) 1).closed.map fun r => (r.iseq, r.ctrs.getD 3 0)
    fires (s none) .a 5 = true ∧ pageOf (getEntry (s none) .a 5).page = some (.bank, 1) ∧ c (s none) = some (0, 77) ∧ kregN (close (s none)) .bank 1 0x054 = 1 ∧ (fire (s none)).ends = [(pageNo .bank 1, true)] ∧
    kregN (fire { s none with ends := [(pageNo .bank 1, true)] }) .bank 1 0x064 = 1 ∧ (getBank (s none) 1).stopping = false ∧
    bankPending (s (some (closedAt 20000000000))) 1 = true ∧ kregN (fire (s (some (closedAt 20000000000)))) .bank 1 0x064 = 1 ∧
    c (s (some (closedAt 19999999999))) = some (0, 77) ∧ bankPending (regF .bank 1 0x044 1 (s (some (closedAt 7)))) 1 = true ∧
    kregN (fire (inSt .bank 1 .stopping (s none))) .bank 1 0x064 = 1 ∧ (getEntry (fire (inSt .bank 1 .off (s none))) .a 5).st = .fired ∧
    c (inSt .bank 1 .off (s none)) = none := by
  decide +kernel

/-- Bank 1 with a closed interval, so many of whose lines have been asked, and a stack share of two lines. -/
def drains (route cyc written : Nat) : State :=
  let own := putPart (putRegion (on [(.mem, 0)] (trc id)) 8 { own3 with pid := 0 }) 0 { getPart base 0 with regions := [8] }
  putBank (regF .bank 1 0x044 route { own with obsBucket := 64 * 75 * 2, obsCyc := own.cyc }) 1
    { getBank base 1 with closed := some { closedAt cyc with written := written } }

theorem test_hyp_interval_drains :
    let t := fun u => after (.counterDrainDone 1) u
    let closed := fun u => (getBank (t u) 1).closed
    let s := drains 1 5 0
    let lines := ((recordBytes s 1 (closedAt 5)).length + 63) / 64
    let asked := askDrain s 1
    closed (drains 0 20000000000 0) = some (closedAt 20000000000) ∧ closed (drains 0 19999999999 0) = none ∧
    (t (inSt .bank 1 .stopping (drains 0 5 0))).ends = [(pageNo .bank 1, true)] ∧ closed (inSt .bank 1 .stopping (drains 0 5 0)) = none ∧
    (getBank s 1).stopping = false ∧ translate s 0 0 = some (8, 0) ∧ 2 < lines ∧ (getBank asked 1).closed.map (·.written) = some 2 ∧
    useWaits asked (.drain 1) = true ∧ t asked = asked ∧ askDrain asked 1 = asked ∧ t s = s ∧ calmOn s .a = false ∧
    kreg (t (drains 1 5 lines)) .bank 1 0x068 = 1 ∧ closed (drains 1 5 lines) = none ∧ kreg (t (drains 1 5 lines)) .bank 1 0x06C = 1 ∧
    kregN (t (drains 2 5 0)) .bank 1 0x068 = 0 ∧ closed (drains 2 5 0) = none ∧ kindAdmitted (regF .funnel 0 0x048 129 (drains 2 5 0)) (unitKey 0x00D none) 3 = true ∧
    kregN (t (regF .funnel 0 0x048 129 (drains 2 5 0))) .bank 1 0x068 = 1 ∧
    ((getBank (endCycle (t (inSt .bank 1 .stopping (drains 0 5 0)))) 1).closed).map (·.final) = some true := by
  decide +kernel

theorem test_hyp_samples :
    let s := regF .prf 0 0x04C 1000000 (regF .prf 0 0x040 1000000 (putBank (trc id) 1 { getBank base 1 with ctrs := Tbl.put 0 .empty 3 77 }))
    let lost := onFtu (onFtu s .a fun f => { f with lock := .timeLost }) .b fun f => { f with lock := .timeLost }
    let t := after (.pcSample .a) s
    pcDue s .a = some 5000000000000 ∧ pcDue t .a = none ∧ kreg64 t .prf 0 0x050 = 1 ∧ 5 ∈ tilesUp s .a ∧ kindAdmitted s (tileKey 5 true) 0 = true ∧
    0 < (getStream t 11).gen ∧ kregN (after (.pcSample .a) lost) .prf 0 0x058 = 1 ∧ (getBank (after (.mittenCopy .a) s) 1).mitten.get 0 3 = 77 ∧
    s.mitLast.get .a ≠ 5000000000000 ∧ keysRise s.tiles.cells = true ∧ after (.mittenCopy .a) lost = lost ∧ base.mitLast.get .a = 0 := by
  decide +kernel

/-! ### The Calm -/

/-- Entry 5 of half A begins a Calm with an argument. -/
def calmDue5 (arg : Nat) : State :=
  putEntry (trc id) .a 5 { entry0 with action := actCalm, target := pageNo .calm 0, arg := arg }

theorem test_hyp_calm_begins :
    fires (calmDue5 0) .a 5 = true ∧ calmScope (calmDue5 0) .a 0 = [.a] ∧ calmScope (calmDue5 1) .a 1 = [.a, .b] ∧ inSplit base = false ∧
    pageIsOn (calmDue5 0) .calm 0 = true ∧ calmOn (calmDue5 0) .a = false ∧ calmOn (calmDue5 0) .b = false ∧
    (getEntry (calmDue5 0) .a 5).due = some 4999999999000 ∧ calmOn (calmed (calmDue5 0)) .a = true ∧
    kregN (after (.calmAction .a 5) (calmed (calmDue5 0))) .calm 0 0x080 = 1 ∧ kregN (after (.calmAction .a 5) (inSt .calm 0 .off (calmDue5 0))) .calm 0 0x080 = 1 := by
  decide +kernel

/-- A Calm of half A in a state, at a stage. -/
def stage (st : CalmSt) (f : Calm → Calm) : State :=
  onCalm (rtpUp id (trc id)) .a fun c => f { c with st := st, t := 4999999999000, e := 5000000000000 }

theorem test_hyp_calm_stages :
    let st := fun s => ((after (.captureEnd .a) s).calm.get .a).st
    let next := fun (s : State) => onFtu s .a fun f => { f with count := f.count - 1 }
    let c := fun i s => (after i s).calm.get .a
    st (stage .capture id) = .stopped ∧ st (next (stage .capture id)) = .capture ∧ (c (.captureEnd .a) (stage .capture id)).tileRecs.length = 1 ∧
    stackBusy (trc id) .a = false ∧ (c (.memQuiet .a) (stage .stopped id)).quiet = some 5000000000000 ∧ (c (.memQuiet .a) (trc id)).quiet = none ∧
    (c (.dumpSeal .a) (stage .stopped fun c => { c with quiet := some 1 })).dumped = true ∧ (c (.dumpSeal .a) (stage .stopped id)).dumped = false ∧
    (c (.hangReport .a) (stage .stopped fun c => { c with assemble := true })).reports = 1 ∧
    (c (.hangReport .a) (rtpUp (fun r => { r with deferring := true }) (stage .stopped fun c => { c with assemble := true }))).deferred = true := by
  decide +kernel

theorem test_hyp_calm_ends :
    let s := fun k f => putEntry (stage .stopped fun c => { c with cmd := some (k, f) }) .a 6 { entry0 with st := .held, action := actPageCtrl, target := pageNo .calm 0 }
    calmDue (s 1 5000000000000) .a 1 = some 5000000000000 ∧ calmDue (s 1 5000000000001) .a 1 = none ∧ heldInCalm actPageCtrl = true ∧
    calmDue (s 2 5000000000000) .a 2 = some 5000000000000 ∧ (getEntry (s 1 5000000000000) .a 6).st = .held ∧
    after (.calmResume .a) (s 1 5000000000001) = s 1 5000000000001 ∧ after (.calmAbandon .a) (s 1 5000000000000) = s 1 5000000000000 := by
  decide +kernel

theorem test_hyp_calm_commands :
    let s := fun f => setKreg64 (onCalm (stage .stopped id) .a fun c => { c with block := true }) .calm 0 0x048 f
    let soon := 5000000000000 + ftuLead base .a
    let c := fun s => (after (.calmResumeCmd .a .a) s).calm.get .a
    Reaches (s 0) .a .calm 0 ∧ pageRuns (s 0) .calm 0 = true ∧ ftuLead base .a ≠ 0 ∧ (c (s 4999999999999)).lastRefusal = 2 ∧ (c (s 5000000000000)).lastRefusal = 3 ∧
    (c (s (soon - 1))).lastRefusal = 3 ∧ (c (s soon)).cmd = some (1, soon) ∧ (c (trc id)).lastRefusal = 1 ∧
    (c (onCalm (s soon) .a fun c => { c with cmd := some (1, soon - 1) })).lastRefusal = 5 ∧ (c (onCalm (s soon) .a fun c => { c with cmd := some (1, soon) })).cmd = some (1, soon) ∧
    ((after (.calmResumeCmd .a .a) (onCalm (s soon) .b fun c => { c with st := .stopped, block := true })).calm.get .b).cmd = some (1, soon) ∧
    ((after (.calmAbandonCmd .a .a) (s soon)).calm.get .a).cmd = some (2, soon) ∧ ((after (.wfAssemble .a .a) (s 0)).calm.get .a).assemble = true ∧
    ((after (.wfTake .a .a) (s 0)).calm.get .a).wfFt = 5000000000000 ∧ bitOf (getPage (after (.wfTake .a .a) base) (pageNo .calm 0)).err 2 = true := by
  delta Reaches; decide +kernel

/-! ### Wear, spares, and the charge -/

/-- The spare page of half A up, with a command argument. -/
def sprAt (arg : Nat) : State := reg .spr 0 0x044 arg (on [(.spr, 0), (.tile, 5), (.tile, 9), (.ftu, 0), (.ftu, 1)] base)

theorem test_hyp_wear :
    let s := reg .spr 0 0x078 2 (on [(.spr, 0), (.ftu, 0), (.ftu, 1)] base)
    let k := wearKey 7 (32 * 2 + 18)
    let t := after (.laneError 2 18 true) s
    let day := fun n => after (.wearDayReset .a) (onFtu t .a fun f => { f with count := 2304 * n })
    let n := fun q u b => { s with fuseQueue := ⟨q, 0⟩, fuseUsed := ⟨u, 0⟩, rtp := s.rtp.put .a { s.rtp.get .a with booted := b } }
    portFitted s 2 = true ∧ portFitted s 63 = true ∧ t.wearDay.get 0 k = 1 ∧ bitOf (getPage t (pageNo .spr 0)).err 16 = false ∧
    bitOf (getPage (after (.laneError 2 18 false) t) (pageNo .spr 0)).err 16 = true ∧ (after (.laneError 2 18 false) t).autoQueue = [] ∧
    (after (.laneError 2 18 false) (reg .spr 0 0x04C 64 t)).autoQueue = [(7, 82)] ∧ hasTime s .a = true ∧
    s.wearDayNo.get .a = 0 ∧ after (.wearDayReset .a) t = t ∧ (day 86400000000000).wearDay.get 0 k = 0 ∧ (day 86400000000000).wearDayNo.get .a = 1 ∧
    (day 86399999999999).wearDay.get 0 k = 1 ∧
    (after (.repairFuseWrite .a) (n 3 255 true)).fuseUsed.get .a = 256 ∧ (after (.repairFuseWrite .a) (n 3 256 true)).fuseFull.get .a = true ∧
    (after (.repairFuseWrite .a) (n 3 255 false)) = n 3 255 false ∧ after (.repairFuseWrite .a) (n 0 255 true) = n 0 255 true := by
  decide +kernel

theorem test_hyp_row_repair :
    let t := fun n => after (.sramRowRepair 5 3 511) { sprAt 0 with rowsUsed := Tbl.put 0 .empty (16 * 5 + 3) n }
    let busy := { sprAt 0 with bankUse := Tbl.empty.set (16 * 5 + 3) (8 * (base.cyc + 1) + 1) }
    banksTaken (sprAt 0) 5 [3] = false ∧ banksTaken busy 5 [3] = true ∧ after (.sramRowRepair 5 3 511) busy = busy ∧
    (after (.sramRowRepair 5 3 511) (reg .spr 0 0x04C 1 { sprAt 0 with rowsUsed := Tbl.put 0 .empty (16 * 5 + 3) 4 })).autoQueue = [(1, 5)] ∧
    tileFitted base 5 = true ∧ (t 3).rowsUsed.get 0 (16 * 5 + 3) = 4 ∧ bitOf (getPage (t 3) (pageNo .spr 0)).err 17 = false ∧
    bitOf (getPage (t 4) (pageNo .spr 0)).err 17 = true := by
  decide +kernel

/-- Tile 5 has column 5, and the spares of half A are the physical tiles 512 to 543. -/
theorem test_hyp_tile_swap :
    let st := fun arg f => kregN (after (.tileSwap .a .a false) (f (sprAt arg))) .spr 0 0x048
    let new := fun arg => (((after (.tileSwap .a .a false) (sprAt arg)).swaps.get .a).map (·.new))
    let none_ := fun (s : State) => { s with tmap := ⟨(List.range 32).map fun i => (512 + i, ⟨none, 2⟩)⟩ }
    Reaches (sprAt 5) .a .spr 0 ∧ pageRuns (sprAt 5) .spr 0 = true ∧ (512 ∈ spareTiles (sprAt 5) .a) ∧ physOf (sprAt 5) 5 = some 5 ∧ physOf (sprAt 1023) 1023 = some 1055 ∧
    st 5 id = 1 + 65536 * 5 ∧ (new 5).isSome = true ∧ new (5 + 2 ^ 27 + 520 * 2 ^ 16) = some 520 ∧ st (5 + 2 ^ 27 + 9 * 2 ^ 16) id = 5 + 256 * 6 + 65536 * 5 ∧
    st 512 id = 5 + 256 * 6 + 65536 * 512 ∧ st 5 none_ = 5 + 256 * 2 + 65536 * 5 ∧
    st 5 (fun s => { s with swaps := ⟨some ⟨9, 9, 512, false, false, none, 0, 0⟩, none⟩ }) = 5 + 256 * 3 + 65536 * 5 ∧
    bitOf (getPage (after (.tileSwap .a .a false) base) (pageNo .spr 0)).err 2 = true ∧ pageSt (sprAt 5) .tile 5 ≠ .off ∧
    (let off := inSt .tile 5 .off (sprAt 5)
     let t := after (.tileSwap .a .a false) off
     (tileMap off 5).role = 0 ∧ t.swaps.get .a = none ∧ physOf t 5 = new 5 ∧ pageSt t .tile 5 = .off) := by
  delta Reaches; decide +kernel

theorem test_hyp_unit_swaps :
    let sr := fun arg l => kregN (after (.srSwap .a .a) { sprAt arg with srSwap := l }) .spr 0 0x048
    let fr := fun arg l n => kregN (after (.frameSwap .a .a) { sprAt arg with frameSwaps := l, frameSpares := ⟨n, 0⟩ }) .spr 0 0x048
    sr 0 [] = 1 ∧ sr 0 [0] = 5 + 256 * 3 ∧ sr 999 [] = 5 + 256 * 6 ∧ (0 ∈ srsOf base.cfg .a) ∧ srRoleOf base 0 = 0 ∧
    fr 31 [] 1 = 1 ∧ fr 31 [31] 1 = 5 + 256 * 3 ∧ fr 32 [] 1 = 5 + 256 * 6 ∧ fr 31 [] 0 = 5 + 256 * 2 := by
  decide +kernel

/-- A swap of tile 5 with spare 520. -/
def swapAt (cp d : Bool) (held : Option Nat) : State := { sprAt 5 with swaps := ⟨some ⟨5, 5, 520, d, cp, held, 4418, 4418⟩, none⟩ }

theorem test_hyp_swap_runs :
    let cp := fun s => ((after (.swapWindow .a) s).swaps.get .a).map (·.copying)
    let busy := onTile (swapAt false false none) 5 fun x => x.setSlot 3 { rx7 with st := .filled }
    let win := kregN base .spr 0 0x050
    let gone := fun f => ((after (.noWindow .a) (swapAt false false f)).swaps.get .a).isNone
    let t := fun d => after (.swapCommit .a) (swapAt true d none)
    cp (swapAt false false none) = some true ∧ cp busy = some false ∧ cp (calmed (swapAt false false none)) = some false ∧
    gone none = false ∧ gone (some (5000000000000 - win)) = true ∧ gone (some (5000000000001 - win)) = false ∧ win ≠ 0 ∧
    physOf (t false) 5 = some 520 ∧ pageSt (t false) .tile 520 = .on ∧ pageSt (t false) .tile 5 = .off ∧ (getPage (t true) (pageNo .tile 520)).enable = false ∧
    tileMap (t true) 5 = ⟨none, 2⟩ ∧ (t false).swaps.get .a = none ∧ after (.swapCommit .a) base = base ∧
    (let prog := onTile (swapAt true false none) 5 fun x => { x with prog := .halted }
     let froze := { prog with pages := prog.pages.set (pageNo .tile 5) { getPage prog (pageNo .tile 5) with freeze := true } }
     let short := { swapAt true false none with swaps := ⟨some ⟨5, 5, 520, false, true, none, 4417, 4417⟩, none⟩ }
     swapFlits = 4418 ∧ after (.swapCommit .a) prog = prog ∧ (after (.swapCommit .a) froze).swaps.get .a = none ∧
     after (.swapCommit .a) short = short) ∧ (t false).heldStarts = [] := by
  decide +kernel

theorem test_hyp_units_replaced :
    let s := fun n => { sprAt 0 with srSwap := [0], wvGroups := if n then .empty else ((sprAt 0).wvGroups.set 0 grp) }
    let left := fun l => (after (.srSwapCommit 0) { s true with srRole := l })
    let fr := fun n l => after (.frameBankSwap 31) { putChan (sprAt 0) 31 { Channel.fresh with frames := l } with frameSwaps := [31], frameSpares := ⟨n, 0⟩ }
    srLoad (s true) 0 = 0 ∧ srLoad (s false) 0 = 1 ∧ srRoleOf (after (.srSwapCommit 0) (s true)) 0 = 2 ∧ srRoleOf (after (.srSwapCommit 0) (s false)) 0 = 0 ∧
    bitOf (getPage (left ⟨(srsOf base.cfg .a).map fun r => (r, 0)⟩) (pageNo .spr 0)).err 17 = true ∧ 0 < kindCount .wvSr ∧ 0 < base.cfg.srPages ∧
    (fr 1 []).frameSpares.get .a = 0 ∧ (fr 1 []).frameSwaps = [] ∧ (fr 1 [⟨0, [], 0, 0, 0, 0⟩]).frameSwaps = [31] ∧ kregN (fr 0 []) .spr 0 0x048 = 4 + 256 * 2 := by
  decide +kernel

/-- Half A's charge changed. -/
def chg (f : Charge → Charge) : State := { rtpUp id base with charge := base.charge.put .a (f (base.charge.get .a)) }

theorem test_hyp_heartbeats :
    let sent := fun n => ((after (.heartbeatSend .a) (chg fun c => { c with sentCyc := some (20000000000 - n) })).charge.get .a).hbSent
    let rx := fun p sp ok f => (after (.heartbeatReceive .a p sp ok) (chg f)).charge.get .a
    let lost := fun n f => (after (.heartbeatLost .a) (chg fun c => f { c with hbCyc := 20000000000 - n })).charge.get .a
    let primary := fun (c : Charge) => { c with primary := true }
    base.cfg.halfB = true ∧ sent 1800 = 1 ∧ sent 1799 = 0 ∧ (base.charge.get .a).st = .normal ∧ (rx false true true id).st = .split ∧ (rx true false true primary).st = .split ∧
    (rx true false true primary).cause = 2 ∧ (rx true false true fun c => { c with primary := false }).st = .normal ∧ (rx false false true primary).st = .normal ∧
    (rx false false true fun c => { c with st := .split, decision := some (true, false) }).st = .joining ∧
    (rx false false false fun c => { c with st := .split, decision := some (true, false) }).st = .split ∧
    (rx false true true fun c => { c with st := .joining }).st = .joining ∧
    (rx false true true fun c => { c with st := .split, cause := 1, returned := true }).st = .joining ∧
    (lost 9000 id).st = .split ∧ (lost 8999 id).st = .normal ∧ (lost 9000 fun c => { c with st := .split, rxOk := true }).rxOk = false := by
  decide +kernel

/-- PID 3 lost its keys in both halves while a GROW was in progress on it. -/
theorem test_hyp_keys_lost :
    let s := putPart { chg (fun c => { c with st := .split, cause := 1, returned := true, rxOk := true }) with partCmd := some (2, 3, 0) } 3
      { getPart base 3 with st := .unavailable }
    let u := { s with charge := s.charge.put .b { s.charge.get .b with rxOk := true } }
    let t := after (.heartbeatReceive .a false true true) u
    u.ready.a = true ∧ u.ready.b = true ∧ (getPart t 3).st = .scrubbing ∧ t.partCmd = none ∧
    (after (.heartbeatReceive .a false true true) { u with partCmd := some (2, 4, 0) }).partCmd = some (2, 4, 0) := by
  decide +kernel

theorem test_hyp_joining :
    let s := fun n => { onFtu base .b (fun f => { f with count := f.count + n }) with
      charge := ⟨{ base.charge.get .a with st := .joining, primary := true }, { base.charge.get .b with st := .joining, primary := false }⟩ }
    let st := fun n => ((after (.joiningDone .b) (s n)).charge.get .a).st
    let inbox := fun ro n (sp : ChargeSt) => chg fun c => { c with inbox := some (true, ro, n), st := sp, nonce := 5 }
    let got := fun s => (after (.chargeDecisionReceive .a) s).charge.get .a
    let joins := fun n => (after (.joinTimeout .a) (chg fun c => { c with st := .split, joinCyc := some (20000000000 - n) })).ready.a
    base.ftu.a.count = base.ftu.b.count ∧ st 144 = .normal ∧ st 145 = .joining ∧ after (.joiningDone .a) (s 0) = s 0 ∧ (got (inbox false 5 .split)).joinCyc = some 20000000000 ∧
    (got (inbox false 0 .split)).primary = true ∧ (got (inbox false 6 .split)).joinCyc = none ∧ (got (inbox false 5 .normal)).joinCyc = none ∧
    (after (.chargeDecisionReceive .a) (inbox true 5 .split)).ready.a = false ∧ joins 18000000 = false ∧ joins 17999999 = true := by
  decide +kernel

/-- A complete message for the nonce 5 of half A and SERIAL 0, that names half B, with RESET_OTHER. -/
def message (st : ChargeSt) : State :=
  chg fun c => { c with result := 6, st := st, nonce := 5, words := (([0x43484731, 3, 0, 0, 5] : List Word) ++ List.replicate 1168 0).reverse }

/-- The draw of a fresh nonce is not evaluated: these are the hypotheses and the results that rest on no draw. -/
theorem test_hyp_charge_decisions :
    let c := fun st => (message st).charge.get .a
    (c .split).nonceOf .a = 5 ∧ (c .split).wide 2 2 = base.cfg.serial ∧ (c .split).words.length = 1173 ∧ ((message .split).rtp.get .a).booted = true ∧
    chargeResult (message .split) .a true = 1 ∧ chargeResult (message .split) .a false = 2 ∧ chargeResult (message .normal) .a true = 5 ∧
    chargeResult { message .split with cfg := { base.cfg with serial := 1 } } .a true = 3 ∧ chargeResult (onCharge (message .split) .a fun c => { c with nonce := 6 }) .a true = 4 ∧
    ((after (.chargeDecision .a false) (message .split)).charge.get .a).result = 2 ∧ ((after (.chargeDecision .a false) (message .split)).charge.get .a).nonce = 5 ∧
    after (.chargeDecision .a true) base = base := by
  decide +kernel

theorem test_hyp_charge_words :
    let w := fun f data => (after (.mgmtCharge .b .a data) (chg f)).charge.get .a
    let mid := fun n (c : Charge) => { c with inMsg := true, received := n }
    let mono := { base with cfg := { base.cfg with variant := 2 } }
    base.cfg.hasHalf .b = true ∧ mono.cfg.hasHalf .b = false ∧ ((after (.mgmtCharge .a .b 1) mono).mports.get .a).resp = respAbsent ∧
    ((after (.mgmtCharge .a .b 1) { base with ready := ⟨true, false⟩ }).mports.get .a).resp = respHalfDown ∧ (w id 0x43484731).received = 1 ∧ (w id 7).received = 0 ∧
    (w (mid 3) 7).received = 4 ∧ (w (mid 1171) 7).result = 0 ∧ (w (mid 1172) 7).result = 6 ∧ (w (mid 1172) 0x43484731).received = 1 ∧
    (w (fun c => { c with result := 6, received := 1173 }) 0x43484731).received = 1173 ∧
    ((after (.chargeStatusRead .b .a) base).charge.get .a).readIdx = 1 ∧ ((after (.chargeStatusRead .b .a) (chg fun c => { c with readIdx := 15 })).charge.get .a).readIdx = 0 := by
  decide +kernel

end Sys2Proof.Tests
end

section
/-! SUPPORT. What each command leaves of the build, the queue, the clock and memory. `Keeps` says of an answer what `State.fixed` says of a
state: first for the operations that answers are made of, then command by command, then for the whole of `exec`. The commands that
write memory or may reset the block follow apart. -/

namespace Sys2Proof.Machine

/-- Where an answer is a next state, it has the build, the queue, the clock and the memory of a state before it. -/
inductive Keeps (s : State) : Out → Prop
  | next {t : State} (h : t.fixed = s.fixed) : Keeps s (.next t)
  | fault (r : Fault) : Keeps s (.fault r)
  | refused (r : Refusal) : Keeps s (.refused r)

/-! ### The shapes of answers -/

section Keeps

variable {s : State}

@[simp] theorem keeps_next {t : State} : Keeps s (.next t) ↔ t.fixed = s.fixed := ⟨fun | .next h => h, .next⟩
@[simp] theorem keeps_fault (r : Fault) : Keeps s (.fault r) := .fault r

@[simp] theorem keeps_ite (c : Prop) [Decidable c] (a b : Out) :
    Keeps s (if c then a else b) ↔ if c then Keeps s a else Keeps s b := by split <;> rfl

/-- What an answer keeps of one state it keeps of every state that agrees with it. -/
theorem Keeps.of_eq {u : State} {o : Out} (h : Keeps u o) (hu : u.fixed = s.fixed) : Keeps s o := by
  cases h with
  | next h => exact .next (h.trans hu)
  | fault r => exact .fault r
  | refused r => exact .refused r

theorem Keeps.of_next {t : State} (h : Keeps s (.next t)) : t.fixed = s.fixed := keeps_next.1 h

/-- The answers of both branches of a check keep what they must, so the checked answer does. -/
theorem keeps_guard {c : Prop} [Decidable c] {a b : Out} (ha : Keeps s a) (hb : Keeps s b) : Keeps s (if c then a else b) := by
  split
  · exact ha
  · exact hb

theorem needHalf_keeps {h : Half} {r : Out} (hr : Keeps s r) : Keeps s (needHalf s h r) := keeps_guard hr (.fault _)

theorem needBoth_keeps {r : Out} (hr : Keeps s r) : Keeps s (needBoth s r) := keeps_guard hr (.fault _)

theorem mgmtWrite_keeps {port : Half} {pg : Nat} {f : State → State} (hf : (f s).fixed = s.fixed) :
    Keeps s (mgmtWrite s port pg f) := by
  unfold mgmtWrite
  refine keeps_guard (.fault _) ?_
  split
  · simp
  · exact .next hf

theorem mgmtWriteK_keeps {port : Half} {k : PageKind} {i : Nat} {f : State → State} (hf : (f s).fixed = s.fixed) :
    Keeps s (mgmtWriteK s port k i f) := keeps_guard (.fault _) (mgmtWrite_keeps hf)

theorem schedOut_keeps {h : Half} {n code : Nat} {is : Entry → Bool} {f : State → Entry → State}
    (hf : ∀ u e, (f u e).fixed = u.fixed) : Keeps s (schedOut s h n code is f) :=
  needHalf_keeps (.next (schedAction_fixed s h n code is f hf))

theorem feCommand_keeps {h : Half} {cmd src dst : Nat} {go : State → State} (hg : ∀ u, (go u).fixed = u.fixed) :
    Keeps s (feCommand s h cmd src dst go) := needHalf_keeps (.next (by split <;> simp [hg]))

theorem sramRead_fixed {u : State} {t : Nat} {l : List (Nat × Nat)} (h : sramRead s t l = some u) : u.fixed = s.fixed := by
  unfold sramRead at h
  dsimp only at h
  split at h
  · cases h
  · split at h <;> cases h <;> simp

/-- What an instruction's own meaning leaves is left of every state that agrees with the one it began in. -/
theorem Did.fixed_of_eq {u : State} {d : Did} (h : d.fixed u) (hu : u.fixed = s.fixed) : d.fixed s := by
  cases d with
  | fault => trivial
  | done | jump | later | waits | halts => exact Eq.trans h hu

theorem issueWith_keeps {t cls op : Nat} {shifts : State → Ins → Bool} {body : State → Ins → Did}
    (hb : ∀ u i, (body u i).fixed u) : Keeps s (issueWith s t cls op shifts body) := by
  unfold issueWith
  dsimp only
  repeat' refine keeps_guard (by simp) ?_
  split
  · simp
  · next u hu =>
    exact .next <| (finish_fixed (Did.fixed_of_eq (hb ..) (by simp))).trans ((sramRead_fixed hu).trans (by simp))

theorem issue_keeps {t cls op : Nat} {body : State → Ins → Did} (hb : ∀ u i, (body u i).fixed u) :
    Keeps s (issue s t cls op body) := issueWith_keeps hb

theorem issueTile_keeps (s : State) (t cls op : Nat) (f : Tile → Ins → Tile) : Keeps s (issueTile s t cls op f) :=
  issue_keeps fun u _ => onTile_fixed u t _

theorem waitOut_keeps {t : Nat} {u : State} (h : u.fixed = s.fixed) : Keeps s (waitOut s t u) :=
  keeps_guard (.fault _) (keeps_guard (.fault _) (.next h))

theorem tileOut_keeps {t : Nat} {u : State} (h : u.fixed = s.fixed) : Keeps s (tileOut s t u) :=
  keeps_guard (.fault _) (keeps_guard (.fault _) (.next h))

theorem srOut_keeps {sr : Nat} {u : State} (h : u.fixed = s.fixed) : Keeps s (srOut s sr u) :=
  keeps_guard (.fault _) (keeps_guard (.fault _) (.next h))

theorem lockTimer_keeps {h : Half} {l : LockSt} {ns : Nat} {f : State → State} (hf : (f s).fixed = s.fixed) :
    Keeps s (lockTimer s h l ns f) := needHalf_keeps (.next (by split <;> simp [hf]))

theorem partCommand_keeps {port : Half} {code q : Nat} {go : State → Nat → State} (hg : ∀ u arg, (go u arg).fixed = u.fixed) :
    Keeps s (partCommand s port code q go) := by
  refine mgmtWriteK_keeps ?_
  dsimp only
  split
  · simp
  · split <;> simp [hg]

theorem rtpMessage_keeps {h : Half} {tag code : Nat} {r : Bool} {f : State → State} (hf : (f s).fixed = s.fixed) :
    Keeps s (rtpMessage s h tag code r f) := needHalf_keeps (.next (by simp [hf]))

theorem pageOut_keeps {pg : Nat} {f : PageKind → Nat → State} (hf : ∀ k i, (f k i).fixed = s.fixed) :
    Keeps s (pageOut s pg f) := by
  unfold pageOut
  split
  · exact .fault _
  · exact keeps_guard (.fault _) (keeps_guard (.fault _) (.next (hf ..)))

theorem portReceives_keeps {p : Nat} {pid : Option Nat} {go : State → State} (hg : ∀ u, (go u).fixed = u.fixed) :
    Keeps s (portReceives s p pid go) := by
  unfold portReceives
  refine keeps_guard (.fault _) (keeps_guard (.fault _) ?_)
  split
  · simp
  · next u hu => simp [hg, takeIngress_fixed hu]

theorem ctrlIn_keeps {m : CtrlIn} {msg ft arg : Nat} {edge : Edge} {self : Instr} {act : State → State}
    (ha : ∀ u, (act u).fixed = u.fixed) : Keeps s (ctrlIn m msg ft arg edge self act s) := by
  unfold ctrlIn
  refine portReceives_keeps fun u => ?_
  dsimp only
  split
  · simp
  · split
    · simp
    · split
      · simp
      · split
        · simp
        · simp [ha]

theorem meetCell_keeps (s : State) (kind : Nat) (c : CellIn) (row : Option Nat) : Keeps s (meetCell kind c row s) := by
  unfold meetCell
  exact portReceives_keeps fun u => by simp

theorem epochOut_keeps {sid par : Nat} {f : Session → Epoch → State} (hf : ∀ x e, (f x e).fixed = s.fixed) :
    Keeps s (epochOut s sid par f) := keeps_guard (.fault _) (.next (hf ..))

theorem sprCmd_keeps {port h : Half} {cmd : Nat} {act : State → State} (ha : ∀ u, (act u).fixed = u.fixed) :
    Keeps s (sprCmd port h cmd act s) := mgmtWriteK_keeps (by simp [ha])

theorem calmCmd_keeps (s : State) (port h : Half) (kind : Nat) : Keeps s (calmCmd port h kind s) := mgmtWriteK_keeps (by simp)

theorem chargeAccess_keeps {port h : Half} {absent : Nat} {f : State → State} (hf : (f s).fixed = s.fixed) :
    Keeps s (chargeAccess s port h absent f) := by simp [chargeAccess, hf]

theorem winWrite_keeps {port mgmt : Half} {w : Nat} {f : State → State} (hf : (f s).fixed = s.fixed) :
    Keeps s (winWrite port mgmt w f s) := keeps_guard (.fault _) (mgmtWriteK_keeps hf)

end Keeps

/-! ### Operations between a command and the state -/

@[simp] theorem innerCount_fixed (s : State) (k : Nat) (inner : Bool) : (innerCount s k inner).fixed = s.fixed := by
  simp [innerCount]

@[simp] theorem copyArrives_fixed {s u : State} (h : u.fixed = s.fixed) (f : Flit) (t o a : Nat) :
    (copyArrives s u f t o a).fixed = s.fixed := by simp [copyArrives, h]

theorem flitArrives_fixed {s u : State} (h : u.fixed = s.fixed) (f : Flit) : (flitArrives s u f).fixed = s.fixed := by
  unfold flitArrives
  cases f.what with
  | swap g lt =>
    dsimp only
    split <;> simp [h]
  | _ => simp [h]

@[simp] theorem takeSnapshot_fixed (s : State) (pg : Nat) : (takeSnapshot s pg).fixed = s.fixed := by simp [takeSnapshot]

theorem sramRead_getD_fixed {s u : State} (h : u.fixed = s.fixed) (t : Nat) (l : List (Nat × Nat)) :
    ((sramRead s t l).getD u).fixed = s.fixed := by
  cases hr : sramRead s t l with
  | none => exact h
  | some v => exact sramRead_fixed hr

theorem readTarget_fixed {s u : State} {x : Window} {d : Word} (h : readTarget s x = some (d, u)) : u.fixed = s.fixed := by
  unfold readTarget at h
  dsimp only at h
  split at h
  -- Only three targets change the state: an RTP's mailbox, a tile's SRAM and a trace window.
  case h_1 => split at h <;> cases h; simp
  case h_6 => split at h <;> cases h; simp [sramRead_getD_fixed]
  case h_7 =>
    split at h
    · cases h
    · split at h <;> cases h; simp
  all_goals cases h <;> rfl

@[simp] theorem arithLanes_fixed (s : State) (t : Nat) (i : Ins) (f : Nat → Val) : (arithLanes s t i f).fixed s :=
  setLanes_fixed ..

@[simp] theorem bitLanes_fixed (s : State) (t : Nat) (i : Ins) (f : Nat → Word) : (bitLanes s t i f).fixed s := setLanes_fixed ..

theorem ftWaitFor_fixed (s : State) (t target : Nat) : (ftWaitFor s t target).fixed s := by
  unfold ftWaitFor
  dsimp only
  split <;> simp [Did.fixed]

theorem reportEpoch_fixed {s : State} {t : Nat} {i : Ins} {more : State → Nat → Nat → State}
    (hm : ∀ u sid p, (more u sid p).fixed = u.fixed) : (reportEpoch s t i more).fixed s := by
  unfold reportEpoch
  dsimp only
  (repeat' split) <;> simp [Did.fixed, hm]

theorem takeEntry_fixed {s : State} {t : Nat} {i : Ins} {work : State → QEntry → RxSlot → Option State} {code : Nat}
    (hw : ∀ e r u, work s e r = some u → u.fixed = s.fixed) : (takeEntry s t i work code).fixed s := by
  unfold takeEntry
  dsimp only
  split
  · trivial
  · split
    · trivial
    · split
      · simp [Did.fixed]
      · split
        · trivial
        · next u hu => simp [Did.fixed, hw _ _ _ hu]

theorem raccCell_fixed {s u : State} {t : Nat} {i : Ins} {e : QEntry} {r : RxSlot} (h : raccCell t i s e r = some u) :
    u.fixed = s.fixed := by
  obtain ⟨-, h⟩ := Option.ite_none_left_eq_some.1 h
  cases h
  simp

theorem rcopyCell_fixed {s u : State} {t : Nat} {i : Ins} {e : QEntry} {r : RxSlot} (h : rcopyCell t i s e r = some u) :
    u.fixed = s.fixed := by
  obtain ⟨-, h⟩ := Option.ite_none_right_eq_some.1 h
  cases h
  exact (countTile_fixed ..).trans (onTile_fixed ..)

/-! ### Collective ports (chapter 12) -/

section

variable (p : Nat) (s : State)

theorem execXtCred_keeps (classes : Nat) : Keeps s (execXtCred p classes s) := by simp [execXtCred]

theorem execSlotTableCommit_keeps (mgmt : Half) (w : Nat) : Keeps s (execSlotTableCommit mgmt w s) := by
  unfold execSlotTableCommit
  dsimp only
  (repeat' split) <;> simp

theorem execSlotTableSwitch_keeps : Keeps s (execSlotTableSwitch p s) := by
  unfold execSlotTableSwitch
  dsimp only
  (repeat' split) <;> simp

theorem execSlotSwitchAction_keeps (h : Half) (entry : Nat) : Keeps s (execSlotSwitchAction h entry s) :=
  schedOut_keeps fun _ _ => by simp

end

/-! ### The mesh and its arbiters (chapter 11) -/

section

variable (page : Nat) (s : State)

theorem execFlitRoute_keeps (r : Nat) (out : Dir) : Keeps s (execFlitRoute r out s) := by
  unfold execFlitRoute
  refine keeps_guard (.fault _) ?_
  dsimp only
  split
  · exact .next rfl
  · next n f _ => exact keeps_guard (.next (flitArrives_fixed (by simp) f)) (by simp)

theorem execStarve_keeps (target : Nat) : Keeps s (execStarve page target s) := by
  unfold execStarve
  split <;> simp

theorem execArbFreeze_keeps (port : Half) (bits : Word) : Keeps s (execArbFreeze port page bits s) := by
  unfold execArbFreeze
  split
  · exact .fault _
  · exact mgmtWrite_keeps (by simp)

end

/-! ### The memory stacks and their engines (chapter 13) -/

section

variable (h : Half) (prn line src pseudo : Nat) (s : State)

theorem execLineRead_keeps (seen : LineSeen) : Keeps s (execLineRead prn line src seen s) := by
  unfold execLineRead
  refine keeps_guard (.fault _) ?_
  dsimp only
  split <;> simp

theorem execZero_keeps (newOwner : Bool) (pid : Nat) : Keeps s (execZero h prn newOwner pid s) := by
  unfold execZero
  refine feCommand_keeps fun u => ?_
  dsimp only
  (repeat' split) <;> simp

theorem execReepoch_keeps : Keeps s (execReepoch h prn s) := by
  unfold execReepoch
  refine feCommand_keeps fun u => ?_
  dsimp only
  (repeat' split) <;> simp

theorem execMigrate_keeps (dst : Nat) (carry : Bool) : Keeps s (execMigrate h src dst carry s) := by
  unfold execMigrate
  refine feCommand_keeps fun u => ?_
  dsimp only
  (repeat' split) <;> simp

theorem execRowRepair_keeps (span : Nat) : Keeps s (execRowRepair h prn span pseudo s) := feCommand_keeps fun _ => by simp

theorem execLaneErase_keeps (pin : Nat) : Keeps s (execLaneErase h prn pin pseudo s) := feCommand_keeps fun _ => by simp

theorem execChRetire_keeps : Keeps s (execChRetire h prn s) := feCommand_keeps fun _ => by simp

theorem execPatrol_keeps (hours : Nat) : Keeps s (execPatrol h hours s) := needHalf_keeps (by simp)

theorem execPatrolLine_keeps (finding : LineFinding) (inner : Bool) : Keeps s (execPatrolLine h line finding inner s) :=
  needHalf_keeps (by dsimp only; (repeat' split) <;> simp)

end

/-! ### The power allowance (chapter 16) -/

section

variable (s : State)

theorem execAlwStb_keeps (code lowNs highNs : Nat) : Keeps s (execAlwStb code lowNs highNs s) := by
  simp [execAlwStb, onPwr_fixed]

theorem execAlwStbHeld_keeps : Keeps s (execAlwStbHeld s) := by simp [execAlwStbHeld]

theorem execAlwAck_keeps : Keeps s (execAlwAck s) := by
  unfold execAlwAck
  split <;> simp

theorem execAlwLost_keeps : Keeps s (execAlwLost s) := by
  unfold execAlwLost
  split <;> simp [onPwr_fixed]

theorem execBudgetRecompute_keeps : Keeps s (execBudgetRecompute s) := by
  simp [execBudgetRecompute, onPwr_fixed]

theorem execThermalReading_keeps (hottest : Nat) (spot : HotSpot) : Keeps s (execThermalReading hottest spot s) := by
  simp [execThermalReading, onPwr_fixed]

theorem execPowerReading_keeps (w : Nat) : Keeps s (execPowerReading w s) := by
  simp [execPowerReading, onPwr_fixed]

end

/-! ### CTRL instructions (R103, R104, R116) -/

section

variable (t : Nat) (s : State)

theorem execNop_keeps : Keeps s (execNop t s) := issueTile_keeps ..

theorem execSeti_keeps : Keeps s (execSeti t s) := issueTile_keeps ..

theorem execAdd_keeps : Keeps s (execAdd t s) := issueTile_keeps ..

theorem execSub_keeps : Keeps s (execSub t s) := issueTile_keeps ..

theorem execAnd_keeps : Keeps s (execAnd t s) := issueTile_keeps ..

theorem execOr_keeps : Keeps s (execOr t s) := issueTile_keeps ..

theorem execXor_keeps : Keeps s (execXor t s) := issueTile_keeps ..

theorem execShl_keeps : Keeps s (execShl t s) := issueTile_keeps ..

theorem execShr_keeps : Keeps s (execShr t s) := issueTile_keeps ..

theorem execCmp_keeps : Keeps s (execCmp t s) := issueTile_keeps ..

theorem execJmp_keeps : Keeps s (execJmp t s) := issue_keeps fun _ _ => by simp [Did.fixed]

theorem execLoop_keeps : Keeps s (execLoop t s) := issue_keeps fun u i => by
  dsimp only
  split <;> simp [Did.fixed]

theorem execLds_keeps : Keeps s (execLds t s) := issue_keeps fun u i => by
  dsimp only
  split <;> simp [Did.fixed]

theorem execSts_keeps : Keeps s (execSts t s) := issue_keeps fun u i => by
  dsimp only
  split <;> simp [Did.fixed]

theorem execEpinfo_keeps : Keeps s (execEpinfo t s) := by
  unfold execEpinfo
  refine issue_keeps fun u i => ?_
  dsimp only
  (repeat' split) <;> simp [Did.fixed]

theorem execRdft_keeps : Keeps s (execRdft t s) := issue_keeps fun _ _ => by simp [Did.fixed]

theorem execHalt_keeps : Keeps s (execHalt t s) := issue_keeps fun u i => by split <;> simp [Did.fixed]

end

/-! ### SYNC instructions (R105 to R108) -/

section

variable (t : Nat) (s : State)

theorem execSwait_keeps : Keeps s (execSwait t s) := issue_keeps fun u i => by
  dsimp only
  split <;> simp [Did.fixed]

theorem execSwaitDone_keeps : Keeps s (execSwaitDone t s) := waitOut_keeps (by
  repeat' split
  all_goals simp)

theorem execSsig_keeps : Keeps s (execSsig t s) := issue_keeps fun _ _ => by simp [Did.fixed]

theorem execSsend_keeps : Keeps s (execSsend t s) := issue_keeps fun u i => by
  dsimp only
  split <;> simp [Did.fixed]

theorem execSsendDeliver_keeps (i : Nat) : Keeps s (execSsendDeliver i s) := by
  unfold execSsendDeliver
  split
  · simp
  · split <;> simp

theorem execFtwait_keeps : Keeps s (execFtwait t s) := issue_keeps fun _ _ => ftWaitFor_fixed ..

theorem execFtwaitRel_keeps : Keeps s (execFtwaitRel t s) := issue_keeps fun u i => by
  dsimp only
  split
  · trivial
  · split
    · exact ftWaitFor_fixed ..
    · simp [Did.fixed]

theorem execFtWaitDone_keeps : Keeps s (execFtWaitDone t s) := waitOut_keeps (by split <;> simp)

theorem execFence_keeps : Keeps s (execFence t s) := issue_keeps fun u i => by
  dsimp only
  split <;> simp [Did.fixed]

theorem execFenceDone_keeps : Keeps s (execFenceDone t s) := waitOut_keeps (by split <;> simp)

theorem execEpdone_keeps : Keeps s (execEpdone t s) := issue_keeps fun _ _ => reportEpoch_fixed fun _ _ _ => rfl

theorem execEpfail_keeps : Keeps s (execEpfail t s) := issue_keeps fun _ _ => reportEpoch_fixed fun _ _ _ => failEpoch_fixed ..

end

/-! ### REDUCE instructions (R111 to R113) -/

section

variable (t : Nat) (s : State)

theorem execRacc_keeps : Keeps s (execRacc t s) := issueWith_keeps fun _ _ => takeEntry_fixed fun _ _ _ => raccCell_fixed

theorem execRcopy_keeps : Keeps s (execRcopy t s) := issue_keeps fun _ _ => takeEntry_fixed fun _ _ _ => rcopyCell_fixed

theorem execRrd_keeps : Keeps s (execRrd t s) := issue_keeps fun _ _ => by simp [Did.fixed]

theorem execRclr_keeps : Keeps s (execRclr t s) := issue_keeps fun u i => by
  dsimp only
  split <;> simp [Did.fixed]

end

/-! ### MOVE instructions (R114 to R116) -/

section

variable (t : Nat) (s : State)

theorem execMemrd_keeps : Keeps s (execMemrd t s) := by
  unfold execMemrd
  refine issue_keeps fun u i => ?_
  dsimp only
  (repeat' split) <;> simp [Did.fixed]

theorem execMemwr_keeps : Keeps s (execMemwr t s) := by
  unfold execMemwr
  refine issue_keeps fun u i => ?_
  dsimp only
  (repeat' split) <;> simp [Did.fixed]

theorem execTilecp_keeps : Keeps s (execTilecp t s) := by
  unfold execTilecp
  refine issue_keeps fun u i => ?_
  dsimp only
  (repeat' split) <;> simp [Did.fixed]

theorem execSend_keeps : Keeps s (execSend t s) := by
  unfold execSend
  refine issue_keeps fun u i => ?_
  dsimp only
  (repeat' split) <;> simp [Did.fixed]

theorem execMoveComplete_keeps (m : Nat) : Keeps s (execMoveComplete t m s) := waitOut_keeps (by split <;> simp)

end

/-! ### VECTOR instructions (R117) -/

section

variable (t : Nat) (s : State)

theorem execVld_keeps : Keeps s (execVld t s) := issue_keeps fun u i => by
  dsimp only
  split <;> simp [Did.fixed]

theorem execVst_keeps : Keeps s (execVst t s) := issue_keeps fun u i => by
  dsimp only
  split <;> simp [Did.fixed]

theorem execVcvt_keeps : Keeps s (execVcvt t s) := issue_keeps fun _ _ => by simp [Did.fixed]

theorem execVadd_keeps : Keeps s (execVadd t s) := issue_keeps fun _ _ => arithLanes_fixed ..

theorem execVsub_keeps : Keeps s (execVsub t s) := issue_keeps fun _ _ => arithLanes_fixed ..

theorem execVmul_keeps : Keeps s (execVmul t s) := issue_keeps fun _ _ => arithLanes_fixed ..

theorem execVfma_keeps : Keeps s (execVfma t s) := issue_keeps fun _ _ => arithLanes_fixed ..

theorem execVmax_keeps : Keeps s (execVmax t s) := issue_keeps fun _ _ => bitLanes_fixed ..

theorem execVmin_keeps : Keeps s (execVmin t s) := issue_keeps fun _ _ => bitLanes_fixed ..

theorem execVabs_keeps : Keeps s (execVabs t s) := issue_keeps fun _ _ => bitLanes_fixed ..

theorem execVrsqrt_keeps : Keeps s (execVrsqrt t s) := issue_keeps fun _ _ => arithLanes_fixed ..

theorem execVrcp_keeps : Keeps s (execVrcp t s) := issue_keeps fun _ _ => arithLanes_fixed ..

theorem execVsqrt_keeps : Keeps s (execVsqrt t s) := issue_keeps fun _ _ => arithLanes_fixed ..

theorem execVdiv_keeps : Keeps s (execVdiv t s) := issue_keeps fun _ _ => arithLanes_fixed ..

theorem execVsel_keeps : Keeps s (execVsel t s) := issue_keeps fun _ _ => bitLanes_fixed ..

theorem execVcmplt_keeps : Keeps s (execVcmplt t s) := issue_keeps fun _ _ => bitLanes_fixed ..

theorem execVsplat_keeps : Keeps s (execVsplat t s) := issue_keeps fun _ _ => bitLanes_fixed ..

theorem execVsum_keeps : Keeps s (execVsum t s) := issue_keeps fun _ _ => by simp [Did.fixed]

theorem execVmaxr_keeps : Keeps s (execVmaxr t s) := issue_keeps fun _ _ => by simp [Did.fixed]

end

/-! ### TENSOR instructions (R118) -/

section

variable (t : Nat) (s : State)

theorem execTmma_keeps : Keeps s (execTmma t s) := by
  unfold execTmma
  refine issue_keeps fun u i => ?_
  dsimp only
  (repeat' split) <;> simp [Did.fixed]

theorem execTmmaComplete_keeps : Keeps s (execTmmaComplete t s) := waitOut_keeps (by
  split
  · rfl
  · dsimp only
    split
    · simp
    · split
      · simp
      · next u hu => simp [sramRead_fixed hu])

theorem execTclr_keeps : Keeps s (execTclr t s) := issue_keeps fun _ _ => by simp [Did.fixed]

theorem execTrd_keeps : Keeps s (execTrd t s) := issue_keeps fun _ _ => bitLanes_fixed ..

theorem execTwr_keeps : Keeps s (execTwr t s) := issue_keeps fun _ _ => by simp [Did.fixed]

end

/-! ### The tile as the rim runs it (chapter 4) -/

section

variable (t : Nat) (s : State)

theorem execRxSlotFill_keeps (slot : Nat) : Keeps s (execRxSlotFill t slot s) := keeps_guard (.fault _) (tileOut_keeps (by simp))

theorem execLullDecision_keeps : Keeps s (execLullDecision t s) := tileOut_keeps (by
  split
  · split <;> simp
  · rfl)

theorem execLullEntryDone_keeps : Keeps s (execLullEntryDone t s) := tileOut_keeps (by split <;> simp)

theorem execLullDeepen_keeps : Keeps s (execLullDeepen t s) := tileOut_keeps (by
  split
  · split <;> simp
  · rfl)

theorem execPlannedWake_keeps : Keeps s (execPlannedWake t s) := tileOut_keeps (by split <;> simp)

theorem execWake_keeps (port : Half) : Keeps s (execWake port t s) := mgmtWriteK_keeps (by simp)

theorem execLullWakeDone_keeps : Keeps s (execLullWakeDone t s) := tileOut_keeps (by split <;> simp)

theorem execLullGateAction_keeps (h : Half) (entry : Nat) : Keeps s (execLullGateAction h entry s) :=
  schedOut_keeps fun _ _ => by simp

theorem execProgramLoad_keeps : Keeps s (execProgramLoad t s) := tileOut_keeps (by
  dsimp only
  split
  · rfl
  · split
    · simp [sramRead_getD_fixed]
    · simp)

theorem execTileSramFillDone_keeps : Keeps s (execTileSramFillDone t s) := tileOut_keeps (by split <;> simp)

end

/-! ### Fabric time and the schedule (chapter 3) -/

section

variable (h : Half) (line entry : Nat) (s : State)

theorem execFtBeat_keeps (word : Nat) (valid : Bool) (lowNs : Nat) : Keeps s (execFtBeat word valid lowNs s) := by simp [execFtBeat]

theorem execBeatStuck_keeps : Keeps s (execBeatStuck s) := by simp [execBeatStuck]

theorem execAcquireGap_keeps : Keeps s (execAcquireGap h s) := lockTimer_keeps (by simp)

theorem execCoasting_keeps : Keeps s (execCoasting h s) := lockTimer_keeps (by simp)

theorem execTimeLost_keeps : Keeps s (execTimeLost h s) := lockTimer_keeps (by simp)

theorem execScheduleCommit_keeps (mgmt : Half) (w : Nat) : Keeps s (execScheduleCommit mgmt w s) := by
  unfold execScheduleCommit
  dsimp only
  (repeat' split) <;> simp

theorem execScheduleMissed_keeps : Keeps s (execScheduleMissed h entry s) := needHalf_keeps (by simp)

theorem execTrigInEdge_keeps : Keeps s (execTrigInEdge line s) := by simp [execTrigInEdge]

theorem execTrigStuck_keeps : Keeps s (execTrigStuck line s) := by
  refine keeps_guard (.fault _) (keeps_guard (.next rfl) (.next (foldl_fixed _ (fun u h => ?_) _ s)))
  dsimp only
  split <;> simp

theorem execTrigStuckClear_keeps : Keeps s (execTrigStuckClear line s) := by simp [execTrigStuckClear]

theorem execBypassAction_keeps : Keeps s (execBypassAction h entry s) := schedOut_keeps fun _ _ => by simp

theorem execBypStatChange_keeps (lines : Nat) : Keeps s (execBypStatChange lines s) := by simp [execBypStatChange]

end

/-! ### Weathervane (chapter 10) -/

section

variable (sr : Nat) (s : State)

theorem execShadowCopy_keeps : Keeps s (execShadowCopy sr s) := by
  unfold execShadowCopy
  refine srOut_keeps ?_
  dsimp only
  (repeat' split) <;> simp

theorem execGroupTimeout_keeps (group : Nat) : Keeps s (execGroupTimeout sr group s) := srOut_keeps (by
  dsimp only
  split <;> simp)

theorem execWvMeasure_keeps (sid epoch : Nat) : Keeps s (execWvMeasure sid epoch s) := by
  unfold execWvMeasure
  split <;> simp

theorem execDenseAudit_keeps (i : Nat) : Keeps s (execDenseAudit i s) := by
  unfold execDenseAudit
  split <;> simp

end

/-! ### Trace (chapter 17) -/

section

variable (h : Half) (ch entry stream : Nat) (s : State)

theorem execReportWvAction_keeps : Keeps s (execReportWvAction h entry s) := schedOut_keeps fun _ _ => by simp

theorem execReportDrainAction_keeps : Keeps s (execReportDrainAction h entry s) := schedOut_keeps fun _ _ => by simp

theorem execGustFire_keeps : Keeps s (execGustFire h entry s) := schedOut_keeps fun _ _ => by simp

theorem execTraceDrainRequest_keeps : Keeps s (execTraceDrainRequest stream s) :=
  keeps_guard (.fault _) (needHalf_keeps (by split <;> simp))

theorem execDrainFlit_keeps : Keeps s (execDrainFlit stream s) :=
  keeps_guard (.fault _) (needHalf_keeps (keeps_guard (.next rfl) (by split <;> simp)))

theorem execFrameSeal_keeps : Keeps s (execFrameSeal ch s) := keeps_guard (.fault _) (needHalf_keeps (by split <;> simp))

theorem execFrameRingWrite_keeps : Keeps s (execFrameRingWrite ch s) := keeps_guard (.fault _) (needHalf_keeps (by split <;> simp))

theorem execFrameCollectorSend_keeps : Keeps s (execFrameCollectorSend ch s) :=
  keeps_guard (.fault _) (needHalf_keeps (by dsimp only; split <;> simp))

theorem execTraceKeyReport_keeps : Keeps s (execTraceKeyReport ch s) := keeps_guard (.fault _) (needHalf_keeps (by simp))

theorem execDiscard_keeps (port : Half) : Keeps s (execDiscard port ch s) := mgmtWriteK_keeps (by simp)

theorem execGustFreeze_keeps : Keeps s (execGustFreeze ch s) := keeps_guard (.fault _) (needHalf_keeps (by split <;> simp))

theorem execGustDrainEnd_keeps : Keeps s (execGustDrainEnd ch s) := keeps_guard (.fault _) (needHalf_keeps (by split <;> simp))

end

/-! ### Counters and sampling (chapter 18) -/

section

variable (h : Half) (s : State)

theorem execIntervalAction_keeps (entry : Nat) : Keeps s (execIntervalAction h entry s) := schedOut_keeps fun u e => by split <;> simp

theorem execCounterDrainDone_keeps (ch : Nat) : Keeps s (execCounterDrainDone ch s) :=
  keeps_guard (.fault _) (needHalf_keeps (by split <;> simp))

theorem execPcSample_keeps : Keeps s (execPcSample h s) := needHalf_keeps (by split <;> simp)

theorem execMittenCopy_keeps : Keeps s (execMittenCopy h s) := needHalf_keeps (by split <;> simp)

end

/-! ### Sessions (chapter 7) -/

section

variable (h port mgmt : Half) (sid parity w : Nat) (edge : Edge) (s : State)

theorem execDescriptorCommit_keeps : Keeps s (execDescriptorCommit mgmt w s) := by
  unfold execDescriptorCommit
  dsimp only
  (repeat' split) <;> simp

theorem execContributorTableCommit_keeps : Keeps s (execContributorTableCommit mgmt w s) := by
  unfold execContributorTableCommit
  dsimp only
  (repeat' split) <;> simp

theorem execEdgeKeyReport_keeps : Keeps s (execEdgeKeyReport sid edge s) := by simp [execEdgeKeyReport]

theorem execSesStart_keeps : Keeps s (execSesStart port h sid s) := mgmtWriteK_keeps (by simp)

theorem execSesStop_keeps : Keeps s (execSesStop port h sid s) := mgmtWriteK_keeps (by simp)

theorem execSesArmGo_keeps : Keeps s (execSesArmGo port h sid s) := mgmtWriteK_keeps (by simp)

theorem execEpochStartAction_keeps (entry : Nat) : Keeps s (execEpochStartAction h entry s) := schedOut_keeps fun _ _ => by simp

theorem execAccClearDone_keeps (part : Nat) : Keeps s (execAccClearDone sid parity part s) := by
  unfold execAccClearDone
  dsimp only
  (repeat' split) <;> simp

theorem execGrantBatchFlush_keeps : Keeps s (execGrantBatchFlush sid parity edge s) := by
  unfold execGrantBatchFlush
  dsimp only
  (repeat' split) <;> simp

theorem execEpochRetire_keeps : Keeps s (execEpochRetire sid parity s) := by simp [execEpochRetire]

end

/-! ### Partitions (chapter 14) -/

section

variable (port : Half) (pid : Nat) (s : State)

theorem execCreate_keeps : Keeps s (execCreate port pid s) := partCommand_keeps fun _ _ => by simp

theorem execPartCreateDone_keeps : Keeps s (execPartCreateDone pid s) := by simp [execPartCreateDone]

theorem execGrow_keeps : Keeps s (execGrow port pid s) := partCommand_keeps fun _ _ => by simp

theorem execShrink_keeps : Keeps s (execShrink port pid s) := partCommand_keeps fun _ _ => by simp

theorem execAssignTiles_keeps : Keeps s (execAssignTiles port pid s) := partCommand_keeps fun _ _ => by simp

theorem execReleaseTiles_keeps : Keeps s (execReleaseTiles port pid s) := partCommand_keeps fun _ _ => by simp

theorem execTeardown_keeps : Keeps s (execTeardown port pid s) := partCommand_keeps fun _ _ => by simp

theorem execScrubStepDone_keeps : Keeps s (execScrubStepDone pid s) := by
  unfold execScrubStepDone
  dsimp only
  (repeat' split) <;> simp

theorem execScrubCertificate_keeps : Keeps s (execScrubCertificate pid s) := by
  unfold execScrubCertificate
  dsimp only
  (repeat' split) <;> simp

theorem execServiceEvent_keeps : Keeps s (execServiceEvent pid s) := by
  unfold execServiceEvent
  dsimp only
  (repeat' split) <;> simp

end

/-! ### The root of trust (chapter 15) -/

section

variable (h : Half) (tag i pid : Nat) (sigOk : Bool) (g : GloveHdr) (s : State)

theorem execRtpBoot_keeps : Keeps s (execRtpBoot h s) := by
  unfold execRtpBoot
  refine needHalf_keeps ?_
  dsimp only
  (repeat' split) <;> simp

theorem execFirmwareImage_keeps (img : FwImage) : Keeps s (execFirmwareImage h img s) := rtpMessage_keeps (by simp)

theorem execFwActivate_keeps : Keeps s (execFwActivate h tag s) := rtpMessage_keeps (by simp)

theorem execFwSwitchRestart_keeps : Keeps s (execFwSwitchRestart h s) := needHalf_keeps (by simp)

theorem execTrialConfirm_keeps : Keeps s (execTrialConfirm h s) := needHalf_keeps (by simp)

theorem execTrialTimeout_keeps : Keeps s (execTrialTimeout h s) := needHalf_keeps (by simp)

theorem execFwCommit_keeps (svnBurn : Bool) : Keeps s (execFwCommit h tag svnBurn sigOk s) := rtpMessage_keeps (by simp)

theorem execFwDiscard_keeps : Keeps s (execFwDiscard h tag s) := rtpMessage_keeps (by simp)

theorem execAttest_keeps (scope nonce : Nat) : Keeps s (execAttest h tag scope nonce sigOk s) := rtpMessage_keeps (by simp)

theorem execAttestAnswer_keeps : Keeps s (execAttestAnswer i s) := by
  unfold execAttestAnswer
  split <;> simp

theorem execAttestTimeout_keeps : Keeps s (execAttestTimeout i s) := by
  unfold execAttestTimeout
  split <;> simp

theorem execLogRead_keeps (log : Half) (first : Nat) : Keeps s (execLogRead h tag log first s) := rtpMessage_keeps (by simp)

theorem execKex_keeps (sid : Nat) (edge : Edge) (kstep : KexStep) (chainOk : Bool) :
    Keeps s (execKex h tag sid edge kstep sigOk chainOk s) := rtpMessage_keeps (by simp)

theorem execKexTimeout_keeps : Keeps s (execKexTimeout i s) := by
  unfold execKexTimeout
  split <;> simp

theorem execGloveHeader_keeps : Keeps s (execGloveHeader h g s) := rtpMessage_keeps (by simp)

theorem execGloveOpen_keeps (gloveId : Nat) (endorsements : List Endorsement) (digestOk : Bool) :
    Keeps s (execGloveOpen h tag pid gloveId endorsements digestOk s) := rtpMessage_keeps (by split <;> simp)

theorem execGloveChunk_keeps (c : GloveChunk) : Keeps s (execGloveChunk h c s) := rtpMessage_keeps (by split <;> simp)

theorem execAdmitPrep_keeps : Keeps s (execAdmitPrep h tag pid g s) := rtpMessage_keeps (by simp)

theorem execAdmitReq_keeps (r : AdmitReq) : Keeps s (execAdmitReq h tag r s) := rtpMessage_keeps (by split <;> simp)

theorem execSecDebugLock_keeps (port : Half) (data : Word) : Keeps s (execSecDebugLock port data s) := mgmtWriteK_keeps (by simp)

theorem execTestAccess_keeps (i : Instrument) : Keeps s (execTestAccess i s) := by simp [execTestAccess]

theorem execEntropyFail_keeps : Keeps s (execEntropyFail s) := by simp [execEntropyFail]

end

/-! ### Page states (R40 to R46) -/

section

variable (port : Half) (page : Nat) (freeze : Bool) (s : State)

theorem execEnableSet_keeps : Keeps s (execEnableSet port page freeze s) := mgmtWrite_keeps (by simp)

theorem execEnableClear_keeps : Keeps s (execEnableClear port page freeze s) := mgmtWrite_keeps (by split <;> simp)

theorem execFreezeWrite_keeps : Keeps s (execFreezeWrite port page freeze s) := mgmtWrite_keeps (by simp)

theorem execPageCtrlAction_keeps (h : Half) (entry : Nat) : Keeps s (execPageCtrlAction h entry s) :=
  schedOut_keeps fun _ _ => by simp

theorem execStartComplete_keeps : Keeps s (execStartComplete page s) := pageOut_keeps fun _ _ => by simp

theorem execStartFail_keeps : Keeps s (execStartFail page s) := pageOut_keeps fun _ _ => by simp

theorem execStopComplete_keeps : Keeps s (execStopComplete page s) := pageOut_keeps fun _ _ => by simp

theorem execPageErrClear_keeps (bits hwSet : Word) : Keeps s (execPageErrClear port page bits hwSet s) := mgmtWrite_keeps (by simp)

end

/-! ### Cells and control messages (chapters 7 and 8) -/

section

variable (ft status reason : Nat) (viaRelay more : Bool) (c : CellIn) (m : CtrlIn) (ranges : List RankRange) (s : State)

theorem execArmReq_keeps : Keeps s (execArmReq m ft s) := ctrlIn_keeps fun _ => by simp

theorem execArm_keeps : Keeps s (execArm m ft s) := ctrlIn_keeps fun _ => by simp

theorem execArmAck_keeps : Keeps s (execArmAck m status s) := ctrlIn_keeps fun _ => by simp

theorem execCommit_keeps : Keeps s (execCommit m ft viaRelay s) := ctrlIn_keeps fun _ => by simp

theorem execDisarm_keeps : Keeps s (execDisarm m ft status viaRelay s) := ctrlIn_keeps fun _ => by simp

theorem execGrant_keeps (fromParent : Bool) (credits : List Credit) : Keeps s (execGrant m fromParent credits s) :=
  ctrlIn_keeps fun _ => by simp

theorem execNack_keeps (handle : NackRef) (cause : Nat) : Keeps s (execNack m handle cause s) := ctrlIn_keeps fun _ => by simp

theorem execDone_keeps (total narrow lag : Nat) : Keeps s (execDone m ft status reason ranges more total narrow lag s) :=
  ctrlIn_keeps fun _ => by simp

theorem execOutcome_keeps (code format advice : Nat) : Keeps s (execOutcome m ft code reason format advice ranges more s) :=
  ctrlIn_keeps fun _ => by simp

theorem execDataCell_keeps : Keeps s (execDataCell c s) := meetCell_keeps ..

theorem execResultCell_keeps : Keeps s (execResultCell c s) := meetCell_keeps ..

theorem execMalformedCell_keeps (p : Nat) (cell : RawCell) : Keeps s (execMalformedCell p cell s) :=
  keeps_guard (.next rfl) (portReceives_keeps fun u => by simp)

end

/-! ### Deadlines, marks and failures of epochs (chapter 8) -/

section

variable (sid parity cidx : Nat) (s : State)

theorem execCommitDeadline_keeps : Keeps s (execCommitDeadline sid parity s) := epochOut_keeps fun _ _ => by simp

theorem execGuardTime_keeps : Keeps s (execGuardTime sid parity s) := epochOut_keeps fun _ _ => by simp

theorem execExpectedArrival_keeps : Keeps s (execExpectedArrival sid parity cidx s) := epochOut_keeps fun x e => by split <;> simp

theorem execDeadline_keeps : Keeps s (execDeadline sid parity cidx s) := epochOut_keeps fun x e => by split <;> simp

theorem execWaitExpired_keeps : Keeps s (execWaitExpired sid parity cidx s) := epochOut_keeps fun x e => by split <;> simp

theorem execCtrlSecondCopy_keeps (i : Nat) : Keeps s (execCtrlSecondCopy i s) := by
  unfold execCtrlSecondCopy
  split <;> simp

theorem execDoneRepeat_keeps : Keeps s (execDoneRepeat sid parity s) := epochOut_keeps fun _ _ => by simp

theorem execOrphanTimeout_keeps : Keeps s (execOrphanTimeout sid parity s) := epochOut_keeps fun _ _ => by simp

theorem execSesMark_keeps (port h : Half) : Keeps s (execSesMark port h sid cidx s) := mgmtWriteK_keeps (by simp)

theorem execContribUe_keeps (place : UePlace) : Keeps s (execContribUe place s) := by
  cases place with
  | ingress p kind handle =>
    refine Keeps.of_eq (u := if portFitted s p then raiseK s .port p 17 else s) ?_ (by simp)
    exact keeps_guard (meetCell_keeps ..) (portReceives_keeps fun v => by simp)
  | slot lt slot =>
    unfold execContribUe
    dsimp only
    split <;> simp
  | sram t a ue => exact tileOut_keeps (by simp)
  | reducer sr => exact srOut_keeps (reducerFails_fixed ..)
  | frame ch => exact keeps_guard (.fault _) (needHalf_keeps (.next (frameFails_fixed ..)))
  | accumulators sid par p seg =>
    exact epochOut_keeps (f := fun _ _ => accumulatorsLost s sid par p seg) fun _ _ => accumulatorsLost_fixed ..

end

/-! ### Spares and wear (chapter 20) -/

section

variable (h port : Half) (s : State)

theorem execLaneError_keeps (p lane : Nat) (_correctable : Bool) : Keeps s (execLaneError p lane _correctable s) := by
  simp [execLaneError]

theorem execWearDayReset_keeps : Keeps s (execWearDayReset h s) := needHalf_keeps (by simp)

theorem execSramRowRepair_keeps (t bank row : Nat) : Keeps s (execSramRowRepair t bank row s) := by simp [execSramRowRepair]

theorem execRepairFuseWrite_keeps : Keeps s (execRepairFuseWrite h s) := needHalf_keeps (by simp)

theorem execTileSwap_keeps (discardOld : Bool) : Keeps s (execTileSwap port h discardOld s) := sprCmd_keeps fun _ => by simp

theorem execSwapWindow_keeps : Keeps s (execSwapWindow h s) := needHalf_keeps (by split <;> simp)

theorem execNoWindow_keeps : Keeps s (execNoWindow h s) := needHalf_keeps (by
  split
  · exact .next rfl
  · split <;> simp)

theorem execSwapCommit_keeps : Keeps s (execSwapCommit h s) := needHalf_keeps (by split <;> simp)

theorem execSrSwap_keeps : Keeps s (execSrSwap port h s) := sprCmd_keeps fun _ => by simp

theorem execFrameSwap_keeps : Keeps s (execFrameSwap port h s) := sprCmd_keeps fun _ => by simp

theorem execSrSwapCommit_keeps (sr : Nat) : Keeps s (execSrSwapCommit sr s) := by
  unfold execSrSwapCommit
  dsimp only
  (repeat' split) <;> simp

theorem execFrameBankSwap_keeps (ch : Nat) : Keeps s (execFrameBankSwap ch s) := by simp [execFrameBankSwap]

theorem execRtpLoad_keeps (load : Nat) : Keeps s (execRtpLoad h load s) := needHalf_keeps (by simp)

end

/-! ### The Calm (chapter 19) -/

section

variable (h port : Half) (s : State)

theorem execCalmAction_keeps (entry : Nat) : Keeps s (execCalmAction h entry s) := schedOut_keeps fun _ _ => by simp

theorem execCaptureEnd_keeps : Keeps s (execCaptureEnd h s) := needHalf_keeps (by simp)

theorem execMemQuiet_keeps : Keeps s (execMemQuiet h s) := needHalf_keeps (by simp)

theorem execDumpSeal_keeps : Keeps s (execDumpSeal h s) := needHalf_keeps (by simp)

theorem execCalmResumeCmd_keeps : Keeps s (execCalmResumeCmd port h s) := calmCmd_keeps ..

theorem execCalmAbandonCmd_keeps : Keeps s (execCalmAbandonCmd port h s) := calmCmd_keeps ..

theorem execCalmResume_keeps : Keeps s (execCalmResume h s) := needHalf_keeps (by split <;> simp)

theorem execCalmAbandon_keeps : Keeps s (execCalmAbandon h s) := needHalf_keeps (by split <;> simp)

theorem execWfTake_keeps : Keeps s (execWfTake port h s) := mgmtWriteK_keeps (by simp)

theorem execWfAssemble_keeps : Keeps s (execWfAssemble port h s) := mgmtWriteK_keeps (by simp)

theorem execHangReport_keeps : Keeps s (execHangReport h s) := needHalf_keeps (by simp)

end

/-! ### READY, the sideband and the clock (chapter 21) -/

section

variable (s : State)

theorem execReady_keeps (h : Half) : Keeps s (execReady h s) := needHalf_keeps (by simp)

theorem execPgSbRise_keeps (trigHigh : Nat) : Keeps s (execPgSbRise trigHigh s) := by simp [execPgSbRise]

theorem execClkFail_keeps (ppm : Nat) : Keeps s (execClkFail ppm s) := by simp [execClkFail]

theorem execBlkPfa_keeps (port : Half) (data : Word) : Keeps s (execBlkPfa port data s) := mgmtWriteK_keeps (by simp)

end

/-! ### The charge (R442 to R451) -/

section

variable (h port : Half) (s : State)

theorem execHeartbeatSend_keeps : Keeps s (execHeartbeatSend h s) := needBoth_keeps (by simp)

theorem execHeartbeatReceive_keeps (primary split rxOk : Bool) : Keeps s (execHeartbeatReceive h primary split rxOk s) :=
  needBoth_keeps (by simp)

theorem execHeartbeatLost_keeps : Keeps s (execHeartbeatLost h s) := needBoth_keeps (by simp)

theorem execMgmtCharge_keeps (data : Word) : Keeps s (execMgmtCharge port h data s) := chargeAccess_keeps (by simp)

theorem execChargeDecision_keeps (sigOk : Bool) : Keeps s (execChargeDecision h sigOk s) := needHalf_keeps (by simp)

theorem execJoiningDone_keeps : Keeps s (execJoiningDone h s) := needBoth_keeps (by simp)

theorem execChargeStatusRead_keeps : Keeps s (execChargeStatusRead port h s) := chargeAccess_keeps (by simp)

end

/-! ### Snapshots (R43) -/

section

variable (s : State)

theorem execTake_keeps (port : Half) (page : Nat) (view : Bool) : Keeps s (execTake port page view s) := mgmtWrite_keeps (by simp)

theorem execSnapshotAction_keeps (h : Half) (entry : Nat) : Keeps s (execSnapshotAction h entry s) :=
  schedOut_keeps fun _ _ => by simp

end

/-! ### FLUSH (R276) -/

section

variable (s : State)

theorem execFlush_keeps (port : Half) (p : Nat) : Keeps s (execFlush port p s) := mgmtWriteK_keeps (by simp)

end

/-! ### Windows (R48 to R50) -/

section

variable (port mgmt : Half) (w : Nat) (s : State)

theorem execWinOpen_keeps (dir : Bool) : Keeps s (execWinOpen port mgmt w dir s) := by
  unfold execWinOpen
  refine winWrite_keeps ?_
  dsimp only
  (repeat' split) <;> simp

theorem execWinClose_keeps (_dir : Bool) : Keeps s (execWinClose port mgmt w _dir s) := winWrite_keeps (by simp)

theorem execAbort_keeps : Keeps s (execAbort port mgmt w s) := winWrite_keeps (by simp)

theorem execWinDataWrite_keeps (data : Word) : Keeps s (execWinDataWrite port mgmt w data s) := winWrite_keeps (by
    dsimp only
    split <;> simp)

theorem execWinDataRead_keeps : Keeps s (execWinDataRead port mgmt w s) := keeps_guard (by simp) (winWrite_keeps (by
    dsimp only
    split
    · simp
    · split
      · simp
      · next d u h => simp [readTarget_fixed h]))

end

/-! ### Register writes that lead to commands, and reads (R14, R31 to R37) -/

section
variable (s : State) (port h : Half) (data : Word)

theorem writeHead_fixed (k : PageKind) (i off : Nat) : (writeHead s port k i off data).fixed = s.fixed := by
  unfold writeHead
  dsimp only
  split <;> simp

theorem plainWrite_keeps (k : PageKind) (i off : Nat) : Keeps s (plainWrite port k i off data s) :=
  mgmtWrite_keeps (by split <;> simp [writeHead_fixed])

theorem noCommand_keeps (k : PageKind) (i off : Nat) : Keeps s (noCommand port k i off data s) :=
  mgmtWrite_keeps (by split <;> simp)

theorem writeWindow_keeps (mgmt : Half) (w o : Nat) : Keeps s (writeWindow port mgmt w o data s) := by
  unfold writeWindow
  split
  · exact keeps_guard (execAbort_keeps ..) (keeps_guard (execWinOpen_keeps ..) (execWinClose_keeps ..))
  · exact execWinDataWrite_keeps ..
  · exact winWrite_keeps (by simp)

theorem writeSesCmd_keeps : Keeps s (writeSesCmd port h data s) := by
  unfold writeSesCmd
  dsimp only
  split
  · exact execSesStart_keeps ..
  · exact execSesStop_keeps ..
  · exact mgmtWriteK_keeps (by simp)

theorem writePartCmd_keeps : Keeps s (writePartCmd port data s) := by
  unfold writePartCmd
  dsimp only
  split
  · exact execCreate_keeps ..
  · exact execGrow_keeps ..
  · exact execShrink_keeps ..
  · exact execAssignTiles_keeps ..
  · exact execReleaseTiles_keeps ..
  · exact execTeardown_keeps ..
  · exact keeps_guard (mgmtWriteK_keeps (by simp)) (noCommand_keeps ..)

theorem writeSprCmd_keeps : Keeps s (writeSprCmd port h data s) := by
  unfold writeSprCmd
  split
  · exact execTileSwap_keeps ..
  · exact execSrSwap_keeps ..
  · exact execFrameSwap_keeps ..
  · exact noCommand_keeps ..

theorem writeWfCtrl_keeps : Keeps s (writeWfCtrl port h data s) := by
  unfold writeWfCtrl
  exact mgmtWriteK_keeps (by simp)

theorem writeLullCtrl_keeps (t : Nat) : Keeps s (writeLullCtrl port t data s) := by
  unfold writeLullCtrl
  exact mgmtWriteK_keeps (by simp)

theorem writeAt_keeps (k : PageKind) (i off : Nat) : Keeps s (writeAt port k i off data s) := by
  have plain : Keeps s (plainWrite port k i off data s) := plainWrite_keeps ..
  unfold writeAt
  dsimp only
  cases k with
  | blk => exact keeps_guard (execBlkPfa_keeps ..) plain
  | mgmt =>
    refine keeps_guard (execMgmtCharge_keeps ..) (keeps_guard ?_ plain)
    exact writeWindow_keeps s port data (halfOf i) ((off - 0x100) / 0x20) ((off - 0x100) % 0x20)
  | partCtrl => exact keeps_guard (writePartCmd_keeps ..) plain
  | sec => exact keeps_guard (execSecDebugLock_keeps ..) plain
  | ses =>
    exact keeps_guard (execSesArmGo_keeps ..) (keeps_guard (writeSesCmd_keeps ..) (keeps_guard (execSesMark_keeps ..) plain))
  | port => exact keeps_guard (execFlush_keeps ..) plain
  | chan => exact keeps_guard (execDiscard_keeps ..) plain
  | calm => exact keeps_guard (calmCmd_keeps ..) (keeps_guard (writeWfCtrl_keeps ..) plain)
  | spr => exact keeps_guard (writeSprCmd_keeps ..) plain
  | arbStack | arbPort | arbBridge | arbFunnel => exact keeps_guard (execArbFreeze_keeps ..) plain
  | tile => exact keeps_guard (writeLullCtrl_keeps ..) plain
  | _ => exact plain

theorem execRegisterWrite_keeps (addr : Nat) : Keeps s (execRegisterWrite port addr data s) := by
  refine keeps_guard (.fault _) ?_
  split
  · simp
  · exact keeps_guard (by simp) (writeAt_keeps ..)

theorem plainRead_keeps (addr : Nat) : Keeps s (plainRead port addr s) := by
  unfold plainRead
  split
  · exact keeps_guard (execChargeStatusRead_keeps ..) (execWinDataRead_keeps ..)
  · exact .next rfl

theorem execWord64LowerRead_keeps (addr : Nat) : Keeps s (execWord64LowerRead port addr s) :=
  keeps_guard (.fault _) (keeps_guard (plainRead_keeps ..) (by simp))

theorem execWord64UpperRead_keeps (addr : Nat) : Keeps s (execWord64UpperRead port addr s) := by
  refine keeps_guard (.fault _) (keeps_guard (plainRead_keeps ..) (keeps_guard (by simp) ?_))
  split <;> simp
end

/-- Every command but those that write memory keeps the build, the queue, the clock and memory. -/
theorem exec_keeps {c : Instr} (s : State) (hc : writesMemory c = false) : Keeps s (exec c s) := by
  unfold exec
  cases c with
  | registerWrite => exact execRegisterWrite_keeps ..
  | word64LowerRead => exact execWord64LowerRead_keeps ..
  | word64UpperRead => exact execWord64UpperRead_keeps ..
  | enableSet => exact execEnableSet_keeps ..
  | enableClear => exact execEnableClear_keeps ..
  | freezeWrite => exact execFreezeWrite_keeps ..
  | startComplete => exact execStartComplete_keeps ..
  | startFail => exact execStartFail_keeps ..
  | stopComplete => exact execStopComplete_keeps ..
  | pageErrClear => exact execPageErrClear_keeps ..
  | take => exact execTake_keeps ..
  | winOpen => exact execWinOpen_keeps ..
  | winClose _ _ _ dir => exact execWinClose_keeps (_dir := dir) ..
  | abort => exact execAbort_keeps ..
  | winDataWrite => exact execWinDataWrite_keeps ..
  | winDataRead => exact execWinDataRead_keeps ..
  | descriptorCommit => exact execDescriptorCommit_keeps ..
  | contributorTableCommit => exact execContributorTableCommit_keeps ..
  | slotTableCommit => exact execSlotTableCommit_keeps ..
  | scheduleCommit => exact execScheduleCommit_keeps ..
  | tileSramFillDone => exact execTileSramFillDone_keeps ..
  | ftBeat => exact execFtBeat_keeps ..
  | beatStuck => exact execBeatStuck_keeps ..
  | acquireGap => exact execAcquireGap_keeps ..
  | coasting => exact execCoasting_keeps ..
  | timeLost => exact execTimeLost_keeps ..
  | calmAction => exact execCalmAction_keeps ..
  | snapshotAction => exact execSnapshotAction_keeps ..
  | intervalAction => exact execIntervalAction_keeps ..
  | slotSwitchAction => exact execSlotSwitchAction_keeps ..
  | epochStartAction => exact execEpochStartAction_keeps ..
  | pageCtrlAction => exact execPageCtrlAction_keeps ..
  | lullGateAction => exact execLullGateAction_keeps ..
  | bypassAction => exact execBypassAction_keeps ..
  | reportWvAction => exact execReportWvAction_keeps ..
  | reportDrainAction => exact execReportDrainAction_keeps ..
  | gustFire => exact execGustFire_keeps ..
  | scheduleMissed => exact execScheduleMissed_keeps ..
  | trigInEdge => exact execTrigInEdge_keeps ..
  | trigStuck => exact execTrigStuck_keeps ..
  | trigStuckClear => exact execTrigStuckClear_keeps ..
  | bypStatChange => exact execBypStatChange_keeps ..
  | rxSlotFill => exact execRxSlotFill_keeps ..
  | lullDecision => exact execLullDecision_keeps ..
  | lullEntryDone => exact execLullEntryDone_keeps ..
  | lullDeepen => exact execLullDeepen_keeps ..
  | plannedWake => exact execPlannedWake_keeps ..
  | wake => exact execWake_keeps ..
  | lullWakeDone => exact execLullWakeDone_keeps ..
  | programLoad => exact execProgramLoad_keeps ..
  | nop => exact execNop_keeps ..
  | seti => exact execSeti_keeps ..
  | add => exact execAdd_keeps ..
  | sub => exact execSub_keeps ..
  | and => exact execAnd_keeps ..
  | or => exact execOr_keeps ..
  | xor => exact execXor_keeps ..
  | shl => exact execShl_keeps ..
  | shr => exact execShr_keeps ..
  | cmp => exact execCmp_keeps ..
  | jmp => exact execJmp_keeps ..
  | loop => exact execLoop_keeps ..
  | lds => exact execLds_keeps ..
  | sts => exact execSts_keeps ..
  | epinfo => exact execEpinfo_keeps ..
  | rdft => exact execRdft_keeps ..
  | halt => exact execHalt_keeps ..
  | swait => exact execSwait_keeps ..
  | swaitDone => exact execSwaitDone_keeps ..
  | ssig => exact execSsig_keeps ..
  | ssend => exact execSsend_keeps ..
  | ssendDeliver => exact execSsendDeliver_keeps ..
  | ftwait => exact execFtwait_keeps ..
  | ftwaitRel => exact execFtwaitRel_keeps ..
  | ftWaitDone => exact execFtWaitDone_keeps ..
  | fence => exact execFence_keeps ..
  | fenceDone => exact execFenceDone_keeps ..
  | epdone => exact execEpdone_keeps ..
  | epfail => exact execEpfail_keeps ..
  | racc => exact execRacc_keeps ..
  | rcopy => exact execRcopy_keeps ..
  | rrd => exact execRrd_keeps ..
  | rclr => exact execRclr_keeps ..
  | memrd => exact execMemrd_keeps ..
  | memwr => exact execMemwr_keeps ..
  | tilecp => exact execTilecp_keeps ..
  | send => exact execSend_keeps ..
  | moveComplete => exact execMoveComplete_keeps ..
  | vld => exact execVld_keeps ..
  | vst => exact execVst_keeps ..
  | vadd => exact execVadd_keeps ..
  | vsub => exact execVsub_keeps ..
  | vmul => exact execVmul_keeps ..
  | vfma => exact execVfma_keeps ..
  | vmax => exact execVmax_keeps ..
  | vmin => exact execVmin_keeps ..
  | vabs => exact execVabs_keeps ..
  | vrsqrt => exact execVrsqrt_keeps ..
  | vrcp => exact execVrcp_keeps ..
  | vsqrt => exact execVsqrt_keeps ..
  | vdiv => exact execVdiv_keeps ..
  | vsel => exact execVsel_keeps ..
  | vcmplt => exact execVcmplt_keeps ..
  | vsplat => exact execVsplat_keeps ..
  | vcvt => exact execVcvt_keeps ..
  | vsum => exact execVsum_keeps ..
  | vmaxr => exact execVmaxr_keeps ..
  | tmma => exact execTmma_keeps ..
  | tmmaComplete => exact execTmmaComplete_keeps ..
  | tclr => exact execTclr_keeps ..
  | trd => exact execTrd_keeps ..
  | twr => exact execTwr_keeps ..
  | sesStart => exact execSesStart_keeps ..
  | sesStop => exact execSesStop_keeps ..
  | edgeKeyReport => exact execEdgeKeyReport_keeps ..
  | sesArmGo => exact execSesArmGo_keeps ..
  | armReq => exact execArmReq_keeps ..
  | arm => exact execArm_keeps ..
  | armAck => exact execArmAck_keeps ..
  | commit => exact execCommit_keeps ..
  | disarm => exact execDisarm_keeps ..
  | grant => exact execGrant_keeps ..
  | nack => exact execNack_keeps ..
  | done => exact execDone_keeps ..
  | outcome => exact execOutcome_keeps ..
  | dataCell => exact execDataCell_keeps ..
  | resultCell => exact execResultCell_keeps ..
  | accClearDone => exact execAccClearDone_keeps ..
  | grantBatchFlush => exact execGrantBatchFlush_keeps ..
  | commitDeadline => exact execCommitDeadline_keeps ..
  | guardTime => exact execGuardTime_keeps ..
  | expectedArrival => exact execExpectedArrival_keeps ..
  | deadline => exact execDeadline_keeps ..
  | waitExpired => exact execWaitExpired_keeps ..
  | epochRetire => exact execEpochRetire_keeps ..
  | ctrlSecondCopy => exact execCtrlSecondCopy_keeps ..
  | doneRepeat => exact execDoneRepeat_keeps ..
  | orphanTimeout => exact execOrphanTimeout_keeps ..
  | sesMark => exact execSesMark_keeps ..
  | contribUe => exact execContribUe_keeps ..
  | shadowCopy => exact execShadowCopy_keeps ..
  | groupTimeout => exact execGroupTimeout_keeps ..
  | wvMeasure => exact execWvMeasure_keeps ..
  | denseAudit => exact execDenseAudit_keeps ..
  | arbGrant => cases hc
  | flitRoute => exact execFlitRoute_keeps ..
  | starve => exact execStarve_keeps ..
  | arbFreeze => exact execArbFreeze_keeps ..
  | xtCred => exact execXtCred_keeps ..
  | slotTableSwitch => exact execSlotTableSwitch_keeps ..
  | flush => exact execFlush_keeps ..
  | laneError => exact execLaneError_keeps ..
  | lineRead => exact execLineRead_keeps ..
  | zero => exact execZero_keeps ..
  | reepoch => exact execReepoch_keeps ..
  | migrate => exact execMigrate_keeps ..
  | rowRepair => exact execRowRepair_keeps ..
  | laneErase => exact execLaneErase_keeps ..
  | chRetire => exact execChRetire_keeps ..
  | patrol => exact execPatrol_keeps ..
  | patrolLine => exact execPatrolLine_keeps ..
  | feCommandDone => cases hc
  | create => exact execCreate_keeps ..
  | partCreateDone => exact execPartCreateDone_keeps ..
  | grow => exact execGrow_keeps ..
  | shrink => exact execShrink_keeps ..
  | assignTiles => exact execAssignTiles_keeps ..
  | releaseTiles => exact execReleaseTiles_keeps ..
  | teardown => exact execTeardown_keeps ..
  | scrubStepDone => exact execScrubStepDone_keeps ..
  | scrubCertificate => exact execScrubCertificate_keeps ..
  | serviceEvent => exact execServiceEvent_keeps ..
  | rtpBoot => exact execRtpBoot_keeps ..
  | firmwareImage => exact execFirmwareImage_keeps ..
  | gloveHeader => exact execGloveHeader_keeps ..
  | gloveChunk => exact execGloveChunk_keeps ..
  | attest => exact execAttest_keeps ..
  | attestAnswer => exact execAttestAnswer_keeps ..
  | attestTimeout => exact execAttestTimeout_keeps ..
  | fwActivate => exact execFwActivate_keeps ..
  | fwSwitchRestart => exact execFwSwitchRestart_keeps ..
  | trialConfirm => exact execTrialConfirm_keeps ..
  | trialTimeout => exact execTrialTimeout_keeps ..
  | fwCommit => exact execFwCommit_keeps ..
  | fwDiscard => exact execFwDiscard_keeps ..
  | kex => exact execKex_keeps ..
  | kexTimeout => exact execKexTimeout_keeps ..
  | gloveOpen => exact execGloveOpen_keeps ..
  | admitPrep => exact execAdmitPrep_keeps ..
  | admitReq => exact execAdmitReq_keeps ..
  | logRead => exact execLogRead_keeps ..
  | secDebugLock => exact execSecDebugLock_keeps ..
  | testAccess => exact execTestAccess_keeps ..
  | alwStb => exact execAlwStb_keeps ..
  | alwAck => exact execAlwAck_keeps ..
  | alwLost => exact execAlwLost_keeps ..
  | budgetRecompute => exact execBudgetRecompute_keeps ..
  | thermalReading => exact execThermalReading_keeps ..
  | powerReading => exact execPowerReading_keeps ..
  | railFall => cases hc
  | pgSbRise => exact execPgSbRise_keeps ..
  | rstBlkN => cases hc
  | rstHalfN => cases hc
  | ready => exact execReady_keeps ..
  | traceDrainRequest => exact execTraceDrainRequest_keeps ..
  | drainFlit => exact execDrainFlit_keeps ..
  | frameSeal => exact execFrameSeal_keeps ..
  | frameRingWrite => exact execFrameRingWrite_keeps ..
  | frameCollectorSend => exact execFrameCollectorSend_keeps ..
  | traceKeyReport => exact execTraceKeyReport_keeps ..
  | discard => exact execDiscard_keeps ..
  | gustFreeze => exact execGustFreeze_keeps ..
  | gustDrainEnd => exact execGustDrainEnd_keeps ..
  | counterDrainDone => exact execCounterDrainDone_keeps ..
  | pcSample => exact execPcSample_keeps ..
  | mittenCopy => exact execMittenCopy_keeps ..
  | captureEnd => exact execCaptureEnd_keeps ..
  | memQuiet => exact execMemQuiet_keeps ..
  | dumpSeal => exact execDumpSeal_keeps ..
  | calmResumeCmd => exact execCalmResumeCmd_keeps ..
  | calmAbandonCmd => exact execCalmAbandonCmd_keeps ..
  | calmResume => exact execCalmResume_keeps ..
  | calmAbandon => exact execCalmAbandon_keeps ..
  | wfTake => exact execWfTake_keeps ..
  | wfAssemble => exact execWfAssemble_keeps ..
  | hangReport => exact execHangReport_keeps ..
  | wearDayReset => exact execWearDayReset_keeps ..
  | sramRowRepair => exact execSramRowRepair_keeps ..
  | tileSwap => exact execTileSwap_keeps ..
  | srSwap => exact execSrSwap_keeps ..
  | frameSwap => exact execFrameSwap_keeps ..
  | swapWindow => exact execSwapWindow_keeps ..
  | noWindow => exact execNoWindow_keeps ..
  | swapCommit => exact execSwapCommit_keeps ..
  | srSwapCommit => exact execSrSwapCommit_keeps ..
  | frameBankSwap => exact execFrameBankSwap_keeps ..
  | repairFuseWrite => exact execRepairFuseWrite_keeps ..
  | heartbeatSend => exact execHeartbeatSend_keeps ..
  | heartbeatReceive => exact execHeartbeatReceive_keeps ..
  | heartbeatLost => exact execHeartbeatLost_keeps ..
  | mgmtCharge => exact execMgmtCharge_keeps ..
  | chargeDecision => exact execChargeDecision_keeps ..
  | chargeDecisionReceive => cases hc
  | joinTimeout => cases hc
  | joiningDone => exact execJoiningDone_keeps ..
  | chargeStatusRead => exact execChargeStatusRead_keeps ..
  | rtpLoad => exact execRtpLoad_keeps ..
  | clkFail => exact execClkFail_keeps ..
  | blkPfa => exact execBlkPfa_keeps ..
  | malformedCell => exact execMalformedCell_keeps ..
  | alwStbHeld => exact execAlwStbHeld_keeps ..
  | entropyFail => exact execEntropyFail_keeps ..

/-! ### Commands that write memory -/

/-- What is left of `State.fixed` without memory: the build, the queue and the clock. -/
def noMem (q : BlockCfg × List Instr × Nat × Tbl Byte) : BlockCfg × List Instr × Nat := (q.1, q.2.1, q.2.2.1)

/-- The same with the clock at 0, as a reset of the block leaves it. -/
def clockCleared (q : BlockCfg × List Instr × Nat) : BlockCfg × List Instr × Nat := (q.1, q.2.1, 0)

/-- Build and queue are kept, and the clock is kept or stands at 0. -/
def MayRestart (s t : State) : Prop := noMem t.fixed = noMem s.fixed ∨ noMem t.fixed = clockCleared (noMem s.fixed)

theorem MayRestart.of_eq {s u t : State} (h : MayRestart u t) (hu : noMem u.fixed = noMem s.fixed) : MayRestart s t := by
  unfold MayRestart at h
  rwa [hu] at h

theorem needHalf_next {s t : State} {h : Half} {r : Out} (ht : needHalf s h r = .next t) : r = .next t := by
  unfold needHalf at ht
  split at ht
  · exact ht
  · cases ht

theorem needBoth_next {s t : State} {r : Out} (ht : needBoth s r = .next t) : r = .next t := by
  unfold needBoth at ht
  split at ht
  · exact ht
  · cases ht

theorem noMem_eq {t : State} {q : BlockCfg × List Instr × Nat} (h : noMem t.fixed = q) :
    t.cfg = q.1 ∧ t.pending = q.2.1 ∧ t.cyc = q.2.2 := by
  subst h
  exact ⟨rfl, rfl, rfl⟩

section
variable (s : State)

@[simp] theorem writeLines_noMem (prn off : Nat) (l : List Byte) : noMem (writeLines s prn off l).fixed = noMem s.fixed := rfl

@[simp] theorem copyLines_noMem (src dst off len : Nat) : noMem (copyLines s src dst off len).fixed = noMem s.fixed := rfl

@[simp] theorem clearRegion_noMem (prn : Nat) : noMem (clearRegion s prn).fixed = noMem s.fixed := rfl

@[simp] theorem loseStack_noMem (k : Nat) : noMem (loseStack s k).fixed = noMem s.fixed := rfl

@[simp] theorem writeGranted_noMem (a : MemAsk) (data : List Byte) :
    noMem (writeGranted s a data).fixed = noMem s.fixed := by
  unfold writeGranted
  dsimp only
  split
  · split
    · rfl
    · split <;> rfl
  · split <;> rfl

@[simp] theorem accessGranted_noMem (src lst pid : Nat) (a : MemAsk) (data : List Byte) :
    noMem (accessGranted s src lst pid a data).fixed = noMem s.fixed := by
  unfold accessGranted
  dsimp only
  split
  · split <;> simp
  · simp

@[simp] theorem flitMoves_noMem (i : Nat) (r : Req) : noMem (flitMoves s i r).fixed = noMem s.fixed := by
  unfold flitMoves
  split
  · simp
  · split
    · dsimp only
      split <;> simp
    · rfl
  · rfl
  · rfl

@[simp] theorem grantFlit_noMem (k : PageKind) (i t : Nat) (h : Half) (n : Nat) (r : Req) :
    noMem (grantFlit s k i t h n r).fixed = noMem s.fixed := by
  simp [grantFlit]

@[simp] theorem arbitrate_noMem (k : PageKind) (i t : Nat) : noMem (arbitrate s k i t).fixed = noMem s.fixed := by
  unfold arbitrate
  dsimp only
  split
  · rfl
  · split <;> simp

@[simp] theorem zeroDone_noMem (prn : Nat) : noMem (zeroDone s prn).fixed = noMem s.fixed := by
  unfold zeroDone
  dsimp only
  split <;> simp

theorem execArbGrant_noMem {page target : Nat} {t : State} (h : execArbGrant page target s = .next t) :
    noMem t.fixed = noMem s.fixed := by
  unfold execArbGrant at h
  split at h
  · cases h
  · split at h
    · cases h
    · split at h <;> cases h
      simp

theorem execFeCommandDone_noMem {h : Half} {ueLine : Option Nat} {t : State} (ht : execFeCommandDone h ueLine s = .next t) :
    noMem t.fixed = noMem s.fixed := by
  cases needHalf_next ht
  dsimp only
  split
  · rfl
  · split
    · rfl
    · simp
    · split <;> simp
    · split
      · rfl
      · split
        · simp
        · split <;> simp

end

/-! ### Resets -/

section
variable (s : State)

theorem blockReset_noMem (cause : Nat) : noMem (blockReset s cause).fixed = clockCleared (noMem s.fixed) :=
  congrArg noMem ((swapLost_fixed ..).trans (swapLost_fixed ..))

theorem halfReset_fixed (h : Half) (cause : Nat) : (halfReset s h cause).fixed = s.fixed := by
  simp [halfReset, resetUnits, resetWatch]

theorem loseRecords_fixed : (loseRecords s).fixed = s.fixed := by simp [loseRecords]

theorem resetHalfOf_mayRestart (h : Half) (cause : Nat) : MayRestart s (resetHalfOf s h cause) := by
  unfold resetHalfOf
  split
  · exact .inr (blockReset_noMem ..)
  · exact .inl (congrArg noMem (halfReset_fixed ..))

theorem railReset_mayRestart (h : Half) : MayRestart s (railReset s h) :=
  resetHalfOf_mayRestart { s with railFell := s.railFell.put h true } h resetRail

variable {s} {t : State}

theorem execRailFall_mayRestart {rail : Rail} {h : Half} (ht : execRailFall rail h s = .next t) : MayRestart s t := by
  cases rail with
  | sideband =>
    cases ht
    exact .inl rfl
  | aon =>
    cases ht
    exact .inr ((congrArg noMem (loseRecords_fixed _)).trans (blockReset_noMem ..))
  | sram | core =>
    cases needHalf_next ht
    exact railReset_mayRestart ..
  | hbm k =>
    unfold execRailFall at ht
    dsimp only at ht
    split at ht
    · cases ht
    · cases needHalf_next ht
      exact (railReset_mayRestart ..).of_eq (loseStack_noMem s k)

theorem execRstHalfN_mayRestart {h : Half} (ht : execRstHalfN h s = .next t) : MayRestart s t := by
  cases needHalf_next ht
  exact resetHalfOf_mayRestart ..

theorem execJoinTimeout_mayRestart {h : Half} (ht : execJoinTimeout h s = .next t) : MayRestart s t := by
  cases needBoth_next ht
  dsimp only
  split
  · exact .inl rfl
  · split
    · exact resetHalfOf_mayRestart ..
    · exact .inl rfl

theorem execChargeDecisionReceive_mayRestart {h : Half} (ht : execChargeDecisionReceive h s = .next t) : MayRestart s t := by
  cases needBoth_next ht
  dsimp only
  split
  · exact .inl rfl
  · split
    · exact .inl rfl
    · split
      · exact .inl (by simp)
      · split
        · exact (resetHalfOf_mayRestart ..).of_eq (by simp)
        · exact .inl (by simp)

end

/-! ### O3 -/

/-- What a command keeps of the build, the queue and the clock: all of them, or, for a reset of the block, all but the clock. -/
theorem exec_noMem {c : Instr} {s t : State} (h : exec c s = .next t) :
    noMem t.fixed = noMem s.fixed ∨ (resetsBlock c = true ∧ noMem t.fixed = clockCleared (noMem s.fixed)) := by
  cases hc : writesMemory c with
  | false => exact .inl (congrArg noMem (h ▸ exec_keeps s hc).of_next)
  | true =>
    unfold writesMemory at hc
    split at hc
    · exact .inl (execArbGrant_noMem s h)
    · exact .inl (execFeCommandDone_noMem s h)
    · exact (execRailFall_mayRestart h).imp_right (⟨rfl, ·⟩)
    · cases h
      exact .inr ⟨rfl, blockReset_noMem ..⟩
    · exact (execRstHalfN_mayRestart h).imp_right (⟨rfl, ·⟩)
    · exact (execJoinTimeout_mayRestart h).imp_right (⟨rfl, ·⟩)
    · exact (execChargeDecisionReceive_mayRestart h).imp_right (⟨rfl, ·⟩)
    · cases hc

/-- Settles O3: by cases of the command, one that writes no memory keeps build, queue and clock together, and one that writes memory keeps
them by its own lemma, a reset of the block with the clock at 0. -/
theorem commandsKeepQueueFusesAndClock : Obligations.CommandsKeepQueueFusesAndClock := by
  unfold Obligations.CommandsKeepQueueFusesAndClock
  intro c s t h
  rcases exec_noMem h with hk | ⟨hr, hk⟩ <;> obtain ⟨hcfg, hpending, hcyc⟩ := noMem_eq hk
  · exact ⟨hpending, hcfg, .inl hcyc⟩
  · exact ⟨hpending, hcfg, .inr ⟨hr, hcyc⟩⟩

end Sys2Proof.Machine
end
